-- ==== Sys2Proof/Cause.lean ====
section
/-! DEFINITION. The 96 causes of R329 (spec/17_traps.md), in code order, with their dispositions (R312). -/

namespace Sys2Proof

/-- A cause of R329; the constructors stand in the order of their codes. -/
inductive Cause where
  | illegalOpcode
  | reservedField
  | reservedRounding
  | privilegedOp
  | highContextIllegal
  | blockingInHandler
  | emptyRegister
  | ebreak
  | ecallUser
  | ecallSupervisor
  | misalignedLoad
  | misalignedStore
  | misalignedFetch
  | repeatBodyIllegal
  | repeatNested
  | productionBound
  | fetchPageFault
  | loadPageFault
  | storePageFault
  | groupDenied
  | loadPermission
  | storePermission
  | fetchPermission
  | noncanonical
  | formatReserved
  | blockMismatch
  | scratchRange
  | privateRange
  | apertureViolation
  | remoteDenied
  | atomicMisaligned
  | memoryPoison
  | streamUnconfigured
  | streamBindConflict
  | streamExhausted
  | streamOverfull
  | streamIndexRange
  | streamAddressRange
  | streamPageFault
  | streamFormat
  | repeatBranch
  | vectorFormat
  | lutUnloaded
  | scopeInvalid
  | accRange
  | bondRange
  | highRegisterRange
  | constantUnloaded
  | handlerUnregistered
  | handlerTableRange
  | messageTargetInvalid
  | messageTooLong
  | serviceRange
  | barrierDoubleArrival
  | barrierUninitialised
  | joinUnderflow
  | queueCorrupt
  | spawnDenied
  | launchTimeout
  | launchCancelled
  | groupAllotment
  | affinityAbsent
  | batchOverflow
  | stageOverrun
  | ringUnallotted
  | ringSlotSize
  | ringState
  | matrixShape
  | matrixFormat
  | sparseMetadataMalformed
  | sparsePatternUnsupported
  | boundaryOverflow
  | chainTableInvalid
  | chainExtentMismatch
  | copyRange
  | copyConversion
  | copyRounding
  | subscriptionInvalid
  | engineFailed
  | accumulatorConflict
  | invokeDenied
  | invokeArguments
  | fabricUnreachable
  | crossDieTimeout
  | dieOffline
  | coreQuarantined
  | uncorrectableRegister
  | uncorrectableScratch
  | uncorrectableAccumulator
  | watchdog
  | debugBreakpoint
  | debugWatchpoint
  | debugStep
  | debugHaltRequest
  | preempted
  | supervisorFaultNested
deriving DecidableEq, Repr, Inhabited

/-- The dispositions of R312; none is that of PREEMPTED, which only marks frames (R330). -/
inductive Disposition where
  | park
  | handler
  | kill
  | debug
  | none
deriving DecidableEq, Repr

/-- All causes in code order. -/
def Cause.all : List Cause :=
  [.illegalOpcode, .reservedField, .reservedRounding, .privilegedOp, .highContextIllegal, .blockingInHandler, .emptyRegister, .ebreak,
   .ecallUser, .ecallSupervisor, .misalignedLoad, .misalignedStore, .misalignedFetch, .repeatBodyIllegal, .repeatNested, .productionBound,
   .fetchPageFault, .loadPageFault, .storePageFault, .groupDenied, .loadPermission, .storePermission, .fetchPermission, .noncanonical,
   .formatReserved, .blockMismatch, .scratchRange, .privateRange, .apertureViolation, .remoteDenied, .atomicMisaligned, .memoryPoison,
   .streamUnconfigured, .streamBindConflict, .streamExhausted, .streamOverfull, .streamIndexRange, .streamAddressRange, .streamPageFault, .streamFormat,
   .repeatBranch, .vectorFormat, .lutUnloaded, .scopeInvalid, .accRange, .bondRange, .highRegisterRange, .constantUnloaded,
   .handlerUnregistered, .handlerTableRange, .messageTargetInvalid, .messageTooLong, .serviceRange, .barrierDoubleArrival, .barrierUninitialised, .joinUnderflow,
   .queueCorrupt, .spawnDenied, .launchTimeout, .launchCancelled, .groupAllotment, .affinityAbsent, .batchOverflow, .stageOverrun,
   .ringUnallotted, .ringSlotSize, .ringState, .matrixShape, .matrixFormat, .sparseMetadataMalformed, .sparsePatternUnsupported, .boundaryOverflow,
   .chainTableInvalid, .chainExtentMismatch, .copyRange, .copyConversion, .copyRounding, .subscriptionInvalid, .engineFailed, .accumulatorConflict,
   .invokeDenied, .invokeArguments, .fabricUnreachable, .crossDieTimeout, .dieOffline, .coreQuarantined, .uncorrectableRegister, .uncorrectableScratch,
   .uncorrectableAccumulator, .watchdog, .debugBreakpoint, .debugWatchpoint, .debugStep, .debugHaltRequest, .preempted, .supervisorFaultNested]

/-- The code of a cause (R329). -/
def Cause.code (c : Cause) : Nat := Cause.ctorIdx c

/-- The cause of a code; none for 96 and above, which never occur (R75). -/
def Cause.ofCode (n : Nat) : Option Cause := Cause.all[n]?

/-- The disposition column of R329. HANDLER_UNREGISTERED is H, and K only where a placement raises it (R282). -/
def Cause.disposition : Cause → Disposition
  | .fetchPageFault => .park
  | .loadPageFault => .park
  | .storePageFault => .park
  | .streamPageFault => .park
  | .highContextIllegal => .kill
  | .ecallSupervisor => .kill
  | .highRegisterRange => .kill
  | .launchTimeout => .kill
  | .launchCancelled => .kill
  | .engineFailed => .kill
  | .coreQuarantined => .kill
  | .uncorrectableRegister => .kill
  | .uncorrectableScratch => .kill
  | .uncorrectableAccumulator => .kill
  | .watchdog => .kill
  | .supervisorFaultNested => .kill
  | .ebreak => .debug
  | .debugBreakpoint => .debug
  | .debugWatchpoint => .debug
  | .debugStep => .debug
  | .debugHaltRequest => .debug
  | .preempted => .none
  | _ => .handler

end Sys2Proof
end

