-- ==== Sys2Proof/Syntax.lean ====
section
/-! DEFINITION. The syntax of the machine: one constructor for each row of spec/opcode_table.json, in its order.
The first 263 are instruction words (R55, R38 to R40); their operands are the encoding's fields, named as spec/02 names them.
The last 110 are acts of the machine's other agents (spec/95_what_each_step_holds.md); their operands say which agent, place or
in-flight operation the act is of: `k` a core key, `h` the H context, `cl` a cluster key, `id` an in-flight operation, `p` a partition,
`v` a virtual die, `sk` a socket, `g` a group, `l` a launch, `qn` a host work queue. -/

namespace Sys2Proof

/-- One row of spec/opcode_table.json each; the docstring of a constructor is the rule and the table's summary. -/
inductive Instr where
  /-- R55. Loads an upper immediate into an x register, as in RV64I. -/
  | lui (imm20 : BitVec 20) (rd : BitVec 5)
  /-- R55. Adds an upper immediate to the PC and writes the sum to an x register. -/
  | auipc (imm20 : BitVec 20) (rd : BitVec 5)
  /-- R59. Jumps to PC plus offset and links; a target with bit 1 set raises MISALIGNED_FETCH before any effect. -/
  | jal (imm20 : BitVec 20) (rd : BitVec 5)
  /-- R59. Jumps to the register plus offset, with bit 0 and bits 63:56 cleared, and links. -/
  | jalr (imm12 : BitVec 12) (rs1 : BitVec 5) (rd : BitVec 5)
  /-- R59. Branches when two x registers are equal; only a taken branch checks its target. -/
  | beq (imm12 : BitVec 12) (rs2 : BitVec 5) (rs1 : BitVec 5)
  /-- R59. Branches when two x registers differ. -/
  | bne (imm12 : BitVec 12) (rs2 : BitVec 5) (rs1 : BitVec 5)
  /-- R59. Branches on signed less-than. -/
  | blt (imm12 : BitVec 12) (rs2 : BitVec 5) (rs1 : BitVec 5)
  /-- R59. Branches on signed greater-or-equal. -/
  | bge (imm12 : BitVec 12) (rs2 : BitVec 5) (rs1 : BitVec 5)
  /-- R59. Branches on unsigned less-than. -/
  | bltu (imm12 : BitVec 12) (rs2 : BitVec 5) (rs1 : BitVec 5)
  /-- R59. Branches on unsigned greater-or-equal. -/
  | bgeu (imm12 : BitVec 12) (rs2 : BitVec 5) (rs1 : BitVec 5)
  /-- R62. Raw 1-byte sign-extending load after the address checks of R61. -/
  | lb (imm12 : BitVec 12) (rs1 : BitVec 5) (rd : BitVec 5)
  /-- R62. Raw 2-byte sign-extending load. -/
  | lh (imm12 : BitVec 12) (rs1 : BitVec 5) (rd : BitVec 5)
  /-- R62. Raw 4-byte sign-extending load. -/
  | lw (imm12 : BitVec 12) (rs1 : BitVec 5) (rd : BitVec 5)
  /-- R62. Raw 8-byte load; a global load marks its destination empty until the value lands. -/
  | ld (imm12 : BitVec 12) (rs1 : BitVec 5) (rd : BitVec 5)
  /-- R62. Raw 1-byte zero-extending load. -/
  | lbu (imm12 : BitVec 12) (rs1 : BitVec 5) (rd : BitVec 5)
  /-- R62. Raw 2-byte zero-extending load. -/
  | lhu (imm12 : BitVec 12) (rs1 : BitVec 5) (rd : BitVec 5)
  /-- R62. Raw 4-byte zero-extending load. -/
  | lwu (imm12 : BitVec 12) (rs1 : BitVec 5) (rd : BitVec 5)
  /-- R62. Raw 1-byte store, written through to the home and into the own L1 copy. -/
  | sb (imm12 : BitVec 12) (rs2 : BitVec 5) (rs1 : BitVec 5)
  /-- R62. Raw 2-byte store. -/
  | sh (imm12 : BitVec 12) (rs2 : BitVec 5) (rs1 : BitVec 5)
  /-- R62. Raw 4-byte store. -/
  | sw (imm12 : BitVec 12) (rs2 : BitVec 5) (rs1 : BitVec 5)
  /-- R62. Raw 8-byte store. -/
  | sd (imm12 : BitVec 12) (rs2 : BitVec 5) (rs1 : BitVec 5)
  /-- R56. Adds an immediate, wrapping at 64 bits. -/
  | addi (imm12 : BitVec 12) (rs1 : BitVec 5) (rd : BitVec 5)
  /-- R55. Sets 1 when the register is less than the immediate, signed. -/
  | slti (imm12 : BitVec 12) (rs1 : BitVec 5) (rd : BitVec 5)
  /-- R55. Sets 1 when the register is less than the immediate, unsigned. -/
  | sltiu (imm12 : BitVec 12) (rs1 : BitVec 5) (rd : BitVec 5)
  /-- R55. Exclusive-or with an immediate. -/
  | xori (imm12 : BitVec 12) (rs1 : BitVec 5) (rd : BitVec 5)
  /-- R55. Or with an immediate. -/
  | ori (imm12 : BitVec 12) (rs1 : BitVec 5) (rd : BitVec 5)
  /-- R55. And with an immediate. -/
  | andi (imm12 : BitVec 12) (rs1 : BitVec 5) (rd : BitVec 5)
  /-- R55. Logical left shift by an immediate. -/
  | slli (sh6 : BitVec 6) (rs1 : BitVec 5) (rd : BitVec 5)
  /-- R55. Logical right shift by an immediate. -/
  | srli (sh6 : BitVec 6) (rs1 : BitVec 5) (rd : BitVec 5)
  /-- R55. Arithmetic right shift by an immediate. -/
  | srai (sh6 : BitVec 6) (rs1 : BitVec 5) (rd : BitVec 5)
  /-- R56. 32-bit add of an immediate, sign-extended to 64 bits. -/
  | addiw (imm12 : BitVec 12) (rs1 : BitVec 5) (rd : BitVec 5)
  /-- R55. 32-bit left shift by an immediate, sign-extended. -/
  | slliw (sh5 : BitVec 5) (rs1 : BitVec 5) (rd : BitVec 5)
  /-- R55. 32-bit logical right shift by an immediate, sign-extended. -/
  | srliw (sh5 : BitVec 5) (rs1 : BitVec 5) (rd : BitVec 5)
  /-- R55. 32-bit arithmetic right shift by an immediate, sign-extended. -/
  | sraiw (sh5 : BitVec 5) (rs1 : BitVec 5) (rd : BitVec 5)
  /-- R56. Adds two registers, wrapping at 64 bits. -/
  | add (rs2 : BitVec 5) (rs1 : BitVec 5) (rd : BitVec 5)
  /-- R55. Logical left shift by a register. -/
  | sll (rs2 : BitVec 5) (rs1 : BitVec 5) (rd : BitVec 5)
  /-- R55. Signed set-less-than. -/
  | slt (rs2 : BitVec 5) (rs1 : BitVec 5) (rd : BitVec 5)
  /-- R55. Unsigned set-less-than. -/
  | sltu (rs2 : BitVec 5) (rs1 : BitVec 5) (rd : BitVec 5)
  /-- R55. Bitwise exclusive-or. -/
  | xor (rs2 : BitVec 5) (rs1 : BitVec 5) (rd : BitVec 5)
  /-- R55. Logical right shift by a register. -/
  | srl (rs2 : BitVec 5) (rs1 : BitVec 5) (rd : BitVec 5)
  /-- R55. Bitwise or. -/
  | or (rs2 : BitVec 5) (rs1 : BitVec 5) (rd : BitVec 5)
  /-- R55. Bitwise and. -/
  | and (rs2 : BitVec 5) (rs1 : BitVec 5) (rd : BitVec 5)
  /-- R56. Subtracts two registers, wrapping at 64 bits. -/
  | sub (rs2 : BitVec 5) (rs1 : BitVec 5) (rd : BitVec 5)
  /-- R55. Arithmetic right shift by a register. -/
  | sra (rs2 : BitVec 5) (rs1 : BitVec 5) (rd : BitVec 5)
  /-- R56. Low 64 bits of the product; the integer pipe waits out its latency. -/
  | mul (rs2 : BitVec 5) (rs1 : BitVec 5) (rd : BitVec 5)
  /-- R56. High 64 bits of the signed product. -/
  | mulh (rs2 : BitVec 5) (rs1 : BitVec 5) (rd : BitVec 5)
  /-- R56. High 64 bits of the signed-by-unsigned product. -/
  | mulhsu (rs2 : BitVec 5) (rs1 : BitVec 5) (rd : BitVec 5)
  /-- R56. High 64 bits of the unsigned product. -/
  | mulhu (rs2 : BitVec 5) (rs1 : BitVec 5) (rd : BitVec 5)
  /-- R56. Signed division that never traps; division by zero gives all ones. -/
  | div (rs2 : BitVec 5) (rs1 : BitVec 5) (rd : BitVec 5)
  /-- R56. Unsigned division that never traps. -/
  | divu (rs2 : BitVec 5) (rs1 : BitVec 5) (rd : BitVec 5)
  /-- R56. Signed remainder that never traps. -/
  | rem (rs2 : BitVec 5) (rs1 : BitVec 5) (rd : BitVec 5)
  /-- R56. Unsigned remainder that never traps. -/
  | remu (rs2 : BitVec 5) (rs1 : BitVec 5) (rd : BitVec 5)
  /-- R56. 32-bit add, sign-extended. -/
  | addw (rs2 : BitVec 5) (rs1 : BitVec 5) (rd : BitVec 5)
  /-- R55. 32-bit left shift, sign-extended. -/
  | sllw (rs2 : BitVec 5) (rs1 : BitVec 5) (rd : BitVec 5)
  /-- R55. 32-bit logical right shift, sign-extended. -/
  | srlw (rs2 : BitVec 5) (rs1 : BitVec 5) (rd : BitVec 5)
  /-- R56. 32-bit subtract, sign-extended. -/
  | subw (rs2 : BitVec 5) (rs1 : BitVec 5) (rd : BitVec 5)
  /-- R55. 32-bit arithmetic right shift, sign-extended. -/
  | sraw (rs2 : BitVec 5) (rs1 : BitVec 5) (rd : BitVec 5)
  /-- R56. 32-bit multiply, sign-extended. -/
  | mulw (rs2 : BitVec 5) (rs1 : BitVec 5) (rd : BitVec 5)
  /-- R56. 32-bit signed division that never traps. -/
  | divw (rs2 : BitVec 5) (rs1 : BitVec 5) (rd : BitVec 5)
  /-- R56. 32-bit unsigned division that never traps. -/
  | divuw (rs2 : BitVec 5) (rs1 : BitVec 5) (rd : BitVec 5)
  /-- R56. 32-bit signed remainder that never traps. -/
  | remw (rs2 : BitVec 5) (rs1 : BitVec 5) (rd : BitVec 5)
  /-- R56. 32-bit unsigned remainder that never traps. -/
  | remuw (rs2 : BitVec 5) (rs1 : BitVec 5) (rd : BitVec 5)
  /-- R57. Acts exactly as ORD.FULL with domain scope, whatever its fields hold. -/
  | fence (imm12 : BitVec 12) (rs1 : BitVec 5) (rd : BitVec 5)
  /-- R58. Raises ECALL_USER or ECALL_SUPERVISOR, with the PC of the instruction itself. -/
  | ecall
  /-- R58. Raises EBREAK, with the PC of the instruction itself. -/
  | ebreak
  /-- R73. Reads a CSR into rd and writes the whole register from rs1. -/
  | csrrw (csr : BitVec 12) (rs1 : BitVec 5) (rd : BitVec 5)
  /-- R73. Reads a CSR and sets the bits that rs1 sets; no write when rs1 is x0. -/
  | csrrs (csr : BitVec 12) (rs1 : BitVec 5) (rd : BitVec 5)
  /-- R73. Reads a CSR and clears the bits that rs1 sets. -/
  | csrrc (csr : BitVec 12) (rs1 : BitVec 5) (rd : BitVec 5)
  /-- R73. Reads a CSR and writes it from an immediate. -/
  | csrrwi (csr : BitVec 12) (zimm : BitVec 5) (rd : BitVec 5)
  /-- R73. Reads a CSR and sets the immediate's bits. -/
  | csrrsi (csr : BitVec 12) (zimm : BitVec 5) (rd : BitVec 5)
  /-- R73. Reads a CSR and clears the immediate's bits. -/
  | csrrci (csr : BitVec 12) (zimm : BitVec 5) (rd : BitVec 5)
  /-- R181. 32-bit atomic add performed by an atomic engine; the old value is sign-extended into rd. -/
  | amoaddW (aq : BitVec 1) (rl : BitVec 1) (rs2 : BitVec 5) (rs1 : BitVec 5) (rd : BitVec 5)
  /-- R181. 64-bit atomic add performed by an atomic engine. -/
  | amoaddD (aq : BitVec 1) (rl : BitVec 1) (rs2 : BitVec 5) (rs1 : BitVec 5) (rd : BitVec 5)
  /-- R181. 32-bit atomic swap. -/
  | amoswapW (aq : BitVec 1) (rl : BitVec 1) (rs2 : BitVec 5) (rs1 : BitVec 5) (rd : BitVec 5)
  /-- R181. 64-bit atomic swap. -/
  | amoswapD (aq : BitVec 1) (rl : BitVec 1) (rs2 : BitVec 5) (rs1 : BitVec 5) (rd : BitVec 5)
  /-- R181. 32-bit atomic exclusive-or. -/
  | amoxorW (aq : BitVec 1) (rl : BitVec 1) (rs2 : BitVec 5) (rs1 : BitVec 5) (rd : BitVec 5)
  /-- R181. 64-bit atomic exclusive-or. -/
  | amoxorD (aq : BitVec 1) (rl : BitVec 1) (rs2 : BitVec 5) (rs1 : BitVec 5) (rd : BitVec 5)
  /-- R181. 32-bit atomic or. -/
  | amoorW (aq : BitVec 1) (rl : BitVec 1) (rs2 : BitVec 5) (rs1 : BitVec 5) (rd : BitVec 5)
  /-- R181. 64-bit atomic or. -/
  | amoorD (aq : BitVec 1) (rl : BitVec 1) (rs2 : BitVec 5) (rs1 : BitVec 5) (rd : BitVec 5)
  /-- R181. 32-bit atomic and. -/
  | amoandW (aq : BitVec 1) (rl : BitVec 1) (rs2 : BitVec 5) (rs1 : BitVec 5) (rd : BitVec 5)
  /-- R181. 64-bit atomic and. -/
  | amoandD (aq : BitVec 1) (rl : BitVec 1) (rs2 : BitVec 5) (rs1 : BitVec 5) (rd : BitVec 5)
  /-- R181. 32-bit atomic signed minimum. -/
  | amominW (aq : BitVec 1) (rl : BitVec 1) (rs2 : BitVec 5) (rs1 : BitVec 5) (rd : BitVec 5)
  /-- R181. 64-bit atomic signed minimum. -/
  | amominD (aq : BitVec 1) (rl : BitVec 1) (rs2 : BitVec 5) (rs1 : BitVec 5) (rd : BitVec 5)
  /-- R181. 32-bit atomic signed maximum. -/
  | amomaxW (aq : BitVec 1) (rl : BitVec 1) (rs2 : BitVec 5) (rs1 : BitVec 5) (rd : BitVec 5)
  /-- R181. 64-bit atomic signed maximum. -/
  | amomaxD (aq : BitVec 1) (rl : BitVec 1) (rs2 : BitVec 5) (rs1 : BitVec 5) (rd : BitVec 5)
  /-- R181. 32-bit atomic unsigned minimum. -/
  | amominuW (aq : BitVec 1) (rl : BitVec 1) (rs2 : BitVec 5) (rs1 : BitVec 5) (rd : BitVec 5)
  /-- R181. 64-bit atomic unsigned minimum. -/
  | amominuD (aq : BitVec 1) (rl : BitVec 1) (rs2 : BitVec 5) (rs1 : BitVec 5) (rd : BitVec 5)
  /-- R181. 32-bit atomic unsigned maximum. -/
  | amomaxuW (aq : BitVec 1) (rl : BitVec 1) (rs2 : BitVec 5) (rs1 : BitVec 5) (rd : BitVec 5)
  /-- R181. 64-bit atomic unsigned maximum. -/
  | amomaxuD (aq : BitVec 1) (rl : BitVec 1) (rs2 : BitVec 5) (rs1 : BitVec 5) (rd : BitVec 5)
  /-- R65. Decoding load: the pointer tag selects the bytes moved and the conversion into FP32. -/
  | flw (imm12 : BitVec 12) (rs1 : BitVec 5) (rd : BitVec 5)
  /-- R65. Decoding store: converts FP32 by RNE into the pointer's format. -/
  | fsw (imm12 : BitVec 12) (rs2 : BitVec 5) (rs1 : BitVec 5)
  /-- R64. Fused FP32 multiply-add that sets fflags and never traps. -/
  | fmaddS (rs3 : BitVec 5) (rs2 : BitVec 5) (rs1 : BitVec 5) (rm : BitVec 3) (rd : BitVec 5)
  /-- R64. Fused FP32 multiply-subtract. -/
  | fmsubS (rs3 : BitVec 5) (rs2 : BitVec 5) (rs1 : BitVec 5) (rm : BitVec 3) (rd : BitVec 5)
  /-- R64. Fused negated FP32 multiply-subtract. -/
  | fnmsubS (rs3 : BitVec 5) (rs2 : BitVec 5) (rs1 : BitVec 5) (rm : BitVec 3) (rd : BitVec 5)
  /-- R64. Fused negated FP32 multiply-add. -/
  | fnmaddS (rs3 : BitVec 5) (rs2 : BitVec 5) (rs1 : BitVec 5) (rm : BitVec 3) (rd : BitVec 5)
  /-- R64. FP32 add. -/
  | faddS (rs2 : BitVec 5) (rs1 : BitVec 5) (rm : BitVec 3) (rd : BitVec 5)
  /-- R64. FP32 subtract. -/
  | fsubS (rs2 : BitVec 5) (rs1 : BitVec 5) (rm : BitVec 3) (rd : BitVec 5)
  /-- R64. FP32 multiply. -/
  | fmulS (rs2 : BitVec 5) (rs1 : BitVec 5) (rm : BitVec 3) (rd : BitVec 5)
  /-- R64. FP32 divide; marks its destination empty until the value lands. -/
  | fdivS (rs2 : BitVec 5) (rs1 : BitVec 5) (rm : BitVec 3) (rd : BitVec 5)
  /-- R64. FP32 square root; marks its destination empty until the value lands. -/
  | fsqrtS (rs1 : BitVec 5) (rm : BitVec 3) (rd : BitVec 5)
  /-- R64. FP32 sign injection. -/
  | fsgnjS (rs2 : BitVec 5) (rs1 : BitVec 5) (rd : BitVec 5)
  /-- R64. FP32 negated sign injection. -/
  | fsgnjnS (rs2 : BitVec 5) (rs1 : BitVec 5) (rd : BitVec 5)
  /-- R64. FP32 exclusive-or sign injection. -/
  | fsgnjxS (rs2 : BitVec 5) (rs1 : BitVec 5) (rd : BitVec 5)
  /-- R64. FP32 minimum; when exactly one operand is NaN it returns the other. -/
  | fminS (rs2 : BitVec 5) (rs1 : BitVec 5) (rd : BitVec 5)
  /-- R64. FP32 maximum. -/
  | fmaxS (rs2 : BitVec 5) (rs1 : BitVec 5) (rd : BitVec 5)
  /-- R64. FP32 less-or-equal comparison into an x register. -/
  | fleS (rs2 : BitVec 5) (rs1 : BitVec 5) (rd : BitVec 5)
  /-- R64. FP32 less-than comparison. -/
  | fltS (rs2 : BitVec 5) (rs1 : BitVec 5) (rd : BitVec 5)
  /-- R64. FP32 equality comparison. -/
  | feqS (rs2 : BitVec 5) (rs1 : BitVec 5) (rd : BitVec 5)
  /-- R64. FP32 to signed 32-bit integer, saturating; NaN gives the largest positive value. -/
  | fcvtWS (rs1 : BitVec 5) (rm : BitVec 3) (rd : BitVec 5)
  /-- R64. FP32 to unsigned 32-bit integer, saturating. -/
  | fcvtWuS (rs1 : BitVec 5) (rm : BitVec 3) (rd : BitVec 5)
  /-- R64. FP32 to signed 64-bit integer, saturating. -/
  | fcvtLS (rs1 : BitVec 5) (rm : BitVec 3) (rd : BitVec 5)
  /-- R64. FP32 to unsigned 64-bit integer, saturating. -/
  | fcvtLuS (rs1 : BitVec 5) (rm : BitVec 3) (rd : BitVec 5)
  /-- R64. Signed 32-bit integer to FP32. -/
  | fcvtSW (rs1 : BitVec 5) (rm : BitVec 3) (rd : BitVec 5)
  /-- R64. Unsigned 32-bit integer to FP32. -/
  | fcvtSWu (rs1 : BitVec 5) (rm : BitVec 3) (rd : BitVec 5)
  /-- R64. Signed 64-bit integer to FP32. -/
  | fcvtSL (rs1 : BitVec 5) (rm : BitVec 3) (rd : BitVec 5)
  /-- R64. Unsigned 64-bit integer to FP32. -/
  | fcvtSLu (rs1 : BitVec 5) (rm : BitVec 3) (rd : BitVec 5)
  /-- R64. Moves the low word of an f register into x, sign-extended. -/
  | fmvXW (rs1 : BitVec 5) (rd : BitVec 5)
  /-- R64. Classifies an FP32 value into an x register. -/
  | fclassS (rs1 : BitVec 5) (rd : BitVec 5)
  /-- R64. Moves the low word of x into an f register, upper bits zero. -/
  | fmvWX (rs1 : BitVec 5) (rd : BitVec 5)
  /-- R123. Writes configuration field N of a stream port; a write to field 0 sets cfg. -/
  | scfgw (imm7 : BitVec 7) (a : BitVec 5) (d : BitVec 5)
  /-- R123. Reads configuration field N of a stream port, or its consumer position while bound. -/
  | scfgr (imm7 : BitVec 7) (a : BitVec 5) (d : BitVec 5)
  /-- R116. Binds an f or v register to a configured stream port for reading or writing; a read port starts prefetching. -/
  | sbind (b : BitVec 5) (a : BitVec 5) (d : BitVec 5)
  /-- R123. Waits for a write port's pushes, discards prefetches, saves the consumer position and unbinds the port. -/
  | sfree (a : BitVec 5)
  /-- R123. Returns a stream port's status word without popping. -/
  | sstat (a : BitVec 5) (d : BitVec 5)
  /-- R123. Waits until every earlier push of the port has been performed. -/
  | sdrain (a : BitVec 5)
  /-- R126. Classifies an L-word body and hands it to the sequencer to repeat X[a] times. -/
  | rpt (eb1 : BitVec 1) (a : BitVec 5) (d : BitVec 5)
  /-- R126. Repeats an L-word body a count of 1 to 4,096 given by an immediate. -/
  | rpti (imm7 : BitVec 7) (a : BitVec 5) (d : BitVec 5)
  /-- R171. Sends a message to the core a target word names, as a release, or returns a status code. -/
  | send (imm7 : BitVec 7) (a : BitVec 5) (d : BitVec 5)
  /-- R171. Blocking SEND that waits for an egress slot. -/
  | sendw (imm7 : BitVec 7) (a : BitVec 5) (d : BitVec 5)
  /-- R171. Sends a seven-argument low-priority message to the owner of a scratch address. -/
  | senda (imm7 : BitVec 7) (a : BitVec 5) (d : BitVec 5)
  /-- R171. Blocking SENDA. -/
  | sendaw (imm7 : BitVec 7) (a : BitVec 5) (d : BitVec 5)
  /-- R172. Dequeues one matching message or completion as an acquire, or returns 0 when none matches. -/
  | recv (eb1 : BitVec 1) (a : BitVec 5) (d : BitVec 5)
  /-- R172. Blocking RECV that waits until a matching entry is placed. -/
  | recvw (eb1 : BitVec 1) (a : BitVec 5) (d : BitVec 5)
  /-- R173. Counts the mailbox entries that a filter matches, without dequeuing. -/
  | mcount (eb1 : BitVec 1) (a : BitVec 5) (d : BitVec 5)
  /-- R168. Ends the firing after waiting for pushes and sends, and clears the armed bit. -/
  | endF
  /-- R168. Ends the firing like END but sets the armed bit. -/
  | rearm
  /-- R175. Reads 8 scratch bytes through a service request to their owner; the destination is empty until the reply lands. -/
  | get (imm7 : BitVec 7) (a : BitVec 5) (d : BitVec 5)
  /-- R175. Writes 8 bytes at the owner of a scratch address through a service request. -/
  | put (imm7 : BitVec 7) (a : BitVec 5) (d : BitVec 5)
  /-- R175. Indivisible add at the owner of a scratch address, in the tag's format. -/
  | sadd (imm7 : BitVec 7) (a : BitVec 5) (d : BitVec 5)
  /-- R148. Waits for earlier reads, invalidates the L1 and discards stream prefetches, as an acquire in a scope. -/
  | ordAcq (eb1 : BitVec 1) (a : BitVec 5)
  /-- R148. Waits until earlier writes are performed for the scope, as a release. -/
  | ordRel (eb1 : BitVec 1) (a : BitVec 5)
  /-- R148. Release then acquire in a scope, totally ordered with the partition's other ORD.FULL. -/
  | ordFull (eb1 : BitVec 1) (a : BitVec 5)
  /-- R149. 8-byte raw load followed by an acquire in the scope X[b]. -/
  | ldAcq (eb2 : BitVec 1) (eb1 : BitVec 1) (b : BitVec 5) (a : BitVec 5) (d : BitVec 5)
  /-- R149. Release in the scope X[b] followed by an 8-byte raw store. -/
  | sdRel (eb2 : BitVec 1) (eb1 : BitVec 1) (b : BitVec 5) (a : BitVec 5) (d : BitVec 5)
  /-- R152. Atomically initialises a barrier object with an arrival count. -/
  | binit (eb2 : BitVec 1) (eb1 : BitVec 1) (b : BitVec 5) (a : BitVec 5)
  /-- R152. Releases, then arrives at a barrier, flipping its generation at the last arrival. -/
  | barr (eb1 : BitVec 1) (a : BitVec 5) (d : BitVec 5)
  /-- R152. Blocks until the barrier's generation leaves the given one, then acquires in the package. -/
  | bwait (eb2 : BitVec 1) (eb1 : BitVec 1) (b : BitVec 5) (a : BitVec 5)
  /-- R152. Tests whether a barrier generation has moved, acquiring when it has. -/
  | btest (eb2 : BitVec 1) (eb1 : BitVec 1) (b : BitVec 5) (a : BitVec 5) (d : BitVec 5)
  /-- R155. Releases and sets a join counter's count. -/
  | jinit (eb2 : BitVec 1) (eb1 : BitVec 1) (b : BitVec 5) (a : BitVec 5)
  /-- R155. Arrives at a join counter; the arrival that reaches zero acquires and sends the continuation. -/
  | jarr (eb1 : BitVec 1) (a : BitVec 5) (d : BitVec 5)
  /-- R184. 64-bit atomic compare-and-swap returning the old value. -/
  | acas (eb2 : BitVec 1) (eb1 : BitVec 1) (b : BitVec 5) (a : BitVec 5) (d : BitVec 5)
  /-- R185. Atomic fp32 or bf16 add, rounded RNE, returning the old element. -/
  | afadd (eb2 : BitVec 1) (eb1 : BitVec 1) (b : BitVec 5) (a : BitVec 5) (d : BitVec 5)
  /-- R185. Atomic float maximum by the VMAX rules. -/
  | afmax (eb2 : BitVec 1) (eb1 : BitVec 1) (b : BitVec 5) (a : BitVec 5) (d : BitVec 5)
  /-- R185. Atomic float minimum by the VMIN rules. -/
  | afmin (eb2 : BitVec 1) (eb1 : BitVec 1) (b : BitVec 5) (a : BitVec 5) (d : BitVec 5)
  /-- R186. Takes a bounded ticket from an 8-byte counter, or returns all ones. -/
  | atkt (eb2 : BitVec 1) (eb1 : BitVec 1) (b : BitVec 5) (a : BitVec 5) (d : BitVec 5)
  /-- R189. Takes a ticket and writes one row into a ticket queue, or returns all ones when full. -/
  | qpush (eb2 : BitVec 1) (eb1 : BitVec 1) (b : BitVec 5) (a : BitVec 5) (d : BitVec 5)
  /-- R189. Blocking QPUSH that waits for a pop when the queue is full. -/
  | qpushw (eb2 : BitVec 1) (eb1 : BitVec 1) (b : BitVec 5) (a : BitVec 5) (d : BitVec 5)
  /-- R190. Takes the oldest published row index of a ticket queue, or all ones when empty. -/
  | qpop (eb1 : BitVec 1) (a : BitVec 5) (d : BitVec 5)
  /-- R190. Blocking QPOP that waits for a publication. -/
  | qpopw (eb1 : BitVec 1) (a : BitVec 5) (d : BitVec 5)
  /-- R188. Initialises a ticket queue header with a limit and the row base. -/
  | qinit (eb2 : BitVec 1) (eb1 : BitVec 1) (b : BitVec 5) (a : BitVec 5)
  /-- R288. Reads and accepts a launch record in the issuer's job as a domain release, or returns a status. -/
  | spawn (eb2 : BitVec 1) (eb1 : BitVec 1) (b : BitVec 5) (a : BitVec 5) (d : BitVec 5)
  /-- R288. Blocking SPAWN that waits for ready-queue room. -/
  | spawnw (eb2 : BitVec 1) (eb1 : BitVec 1) (b : BitVec 5) (a : BitVec 5) (d : BitVec 5)
  /-- R289. Cancels the launch, graph, phase or job counter with the given id, killing its firings. -/
  | cancel (imm7 : BitVec 7) (a : BitVec 5)
  /-- R290. Returns the status word of a completion counter. -/
  | wstat (imm7 : BitVec 7) (a : BitVec 5) (d : BitVec 5)
  /-- R291. Releases in the package and writes a graph condition word. -/
  | gcond (eb2 : BitVec 1) (eb1 : BitVec 1) (b : BitVec 5) (a : BitVec 5)
  /-- R306. Sends a remote invocation to a package, taking an invocation record and a completion slot. -/
  | invk (imm7 : BitVec 7) (a : BitVec 5) (d : BitVec 5)
  /-- R306. Blocking INVK that waits for a record and then for the reply, returning its code. -/
  | invkw (imm7 : BitVec 7) (a : BitVec 5) (d : BitVec 5)
  /-- R308. Reports the state of the invocation record holding a tag. -/
  | rstatInvoke (eb1 : BitVec 1) (a : BitVec 5) (d : BitVec 5)
  /-- R361. Reads the reference timer. -/
  | rdref (d : BitVec 5)
  /-- R361. Reads the virtual die cycle counter. -/
  | rddcyc (d : BitVec 5)
  /-- R362. Reads the die's frequency multiplier and newest step-log entry number. -/
  | rdratio (d : BitVec 5)
  /-- R321. Ends a fault handler firing and restores the edited image to resume the faulted firing. -/
  | tret
  /-- R342. Releases, then sends a TLB, walk-cache and L1 invalidation of the given extent. -/
  | tlbinv (eb2 : BitVec 1) (eb1 : BitVec 1) (b : BitVec 5) (a : BitVec 5)
  /-- R343. Waits until earlier invalidations and CSR writes have taken effect everywhere. -/
  | tlbsync
  /-- R344. Releases, writes a handler table entry and invalidates cached copies of it. -/
  | htabw (eb2 : BitVec 1) (eb1 : BitVec 1) (b : BitVec 5) (a : BitVec 5)
  /-- R346. Writes a word of an aperture; a word-0 write validates and installs it and invalidates the ranges. -/
  | aperw (imm7 : BitVec 7) (a : BitVec 5)
  /-- R328. Stops issue until a new queue entry, an H arrival or 4,096 die cycles. -/
  | wfm
  /-- R328. Raises DEBUG_HALT_REQUEST on the group when a debugger is attached. -/
  | dhalt
  /-- R72. Adds a register to a fat pointer modulo 2^56, keeping the tag. -/
  | padd (k8 : BitVec 8) (eb1 : BitVec 1) (a : BitVec 5) (d : BitVec 5)
  /-- R72. Adds a signed byte offset to a fat pointer, keeping the tag. -/
  | paddi (k8 : BitVec 8) (eb1 : BitVec 1) (a : BitVec 5) (d : BitVec 5)
  /-- R72. Sets the format code and block-length log of a fat pointer. -/
  | psetf (k8 : BitVec 8) (eb1 : BitVec 1) (a : BitVec 5) (d : BitVec 5)
  /-- R72. Returns the tag byte of a fat pointer. -/
  | pgetf (eb1 : BitVec 1) (a : BitVec 5) (d : BitVec 5)
  /-- R72. Loads a kitty word into an x register, raising CONSTANT_UNLOADED beyond the loaded block. -/
  | kld (k8 : BitVec 8) (d : BitVec 5)
  /-- R72. Loads a kitty word, all 64 bits, into an f register. -/
  | kldf (k8 : BitVec 8) (d : BitVec 5)
  /-- R99. Lane-wise add under a predicate. -/
  | vadd (pred : BitVec 3) (eb2 : BitVec 1) (eb1 : BitVec 1) (vb : BitVec 4) (va : BitVec 4) (fmt : BitVec 3) (vd : BitVec 4)
  /-- R99. Lane-wise subtract. -/
  | vsub (pred : BitVec 3) (eb2 : BitVec 1) (eb1 : BitVec 1) (vb : BitVec 4) (va : BitVec 4) (fmt : BitVec 3) (vd : BitVec 4)
  /-- R99. Lane-wise multiply. -/
  | vmul (pred : BitVec 3) (eb2 : BitVec 1) (eb1 : BitVec 1) (vb : BitVec 4) (va : BitVec 4) (fmt : BitVec 3) (vd : BitVec 4)
  /-- R99. Fused d + a·b per lane, reading vd. -/
  | vfma (pred : BitVec 3) (eb2 : BitVec 1) (eb1 : BitVec 1) (vb : BitVec 4) (va : BitVec 4) (fmt : BitVec 3) (vd : BitVec 4)
  /-- R99. Fused a·b − d per lane. -/
  | vfms (pred : BitVec 3) (eb2 : BitVec 1) (eb1 : BitVec 1) (vb : BitVec 4) (va : BitVec 4) (fmt : BitVec 3) (vd : BitVec 4)
  /-- R99. Fused d − a·b per lane. -/
  | vfnma (pred : BitVec 3) (eb2 : BitVec 1) (eb1 : BitVec 1) (vb : BitVec 4) (va : BitVec 4) (fmt : BitVec 3) (vd : BitVec 4)
  /-- R100. Lane-wise minimum. -/
  | vmin (pred : BitVec 3) (eb2 : BitVec 1) (eb1 : BitVec 1) (vb : BitVec 4) (va : BitVec 4) (fmt : BitVec 3) (vd : BitVec 4)
  /-- R100. Lane-wise maximum. -/
  | vmax (pred : BitVec 3) (eb2 : BitVec 1) (eb1 : BitVec 1) (vb : BitVec 4) (va : BitVec 4) (fmt : BitVec 3) (vd : BitVec 4)
  /-- R99. Lane-wise absolute value. -/
  | vabs (pred : BitVec 3) (eb2 : BitVec 1) (eb1 : BitVec 1) (vb : BitVec 4) (va : BitVec 4) (fmt : BitVec 3) (vd : BitVec 4)
  /-- R99. Lane-wise negation. -/
  | vneg (pred : BitVec 3) (eb2 : BitVec 1) (eb1 : BitVec 1) (vb : BitVec 4) (va : BitVec 4) (fmt : BitVec 3) (vd : BitVec 4)
  /-- R100. Correctly rounded float division; vd is empty until the result lands. -/
  | vdiv (pred : BitVec 3) (eb2 : BitVec 1) (eb1 : BitVec 1) (vb : BitVec 4) (va : BitVec 4) (fmt : BitVec 3) (vd : BitVec 4)
  /-- R100. Correctly rounded float square root. -/
  | vsqrt (pred : BitVec 3) (eb2 : BitVec 1) (eb1 : BitVec 1) (vb : BitVec 4) (va : BitVec 4) (fmt : BitVec 3) (vd : BitVec 4)
  /-- R100. Correctly rounded float reciprocal. -/
  | vrcp (pred : BitVec 3) (eb2 : BitVec 1) (eb1 : BitVec 1) (vb : BitVec 4) (va : BitVec 4) (fmt : BitVec 3) (vd : BitVec 4)
  /-- R103. 2^a per lane by the VEXP2 algorithm. -/
  | vexp2 (pred : BitVec 3) (eb2 : BitVec 1) (eb1 : BitVec 1) (vb : BitVec 4) (va : BitVec 4) (fmt : BitVec 3) (vd : BitVec 4)
  /-- R102. Lane-wise equality into a predicate register. -/
  | vceq (pred : BitVec 3) (eb2 : BitVec 1) (eb1 : BitVec 1) (vb : BitVec 4) (va : BitVec 4) (fmt : BitVec 3) (vd : BitVec 4)
  /-- R102. Lane-wise less-than into a predicate register. -/
  | vclt (pred : BitVec 3) (eb2 : BitVec 1) (eb1 : BitVec 1) (vb : BitVec 4) (va : BitVec 4) (fmt : BitVec 3) (vd : BitVec 4)
  /-- R102. Lane-wise less-or-equal into a predicate register. -/
  | vcle (pred : BitVec 3) (eb2 : BitVec 1) (eb1 : BitVec 1) (vb : BitVec 4) (va : BitVec 4) (fmt : BitVec 3) (vd : BitVec 4)
  /-- R99. Lane-wise bitwise and. -/
  | vand (pred : BitVec 3) (eb2 : BitVec 1) (eb1 : BitVec 1) (vb : BitVec 4) (va : BitVec 4) (fmt : BitVec 3) (vd : BitVec 4)
  /-- R99. Lane-wise bitwise or. -/
  | vor (pred : BitVec 3) (eb2 : BitVec 1) (eb1 : BitVec 1) (vb : BitVec 4) (va : BitVec 4) (fmt : BitVec 3) (vd : BitVec 4)
  /-- R99. Lane-wise bitwise exclusive-or. -/
  | vxor (pred : BitVec 3) (eb2 : BitVec 1) (eb1 : BitVec 1) (vb : BitVec 4) (va : BitVec 4) (fmt : BitVec 3) (vd : BitVec 4)
  /-- R99. Lane-wise left shift. -/
  | vshl (pred : BitVec 3) (eb2 : BitVec 1) (eb1 : BitVec 1) (vb : BitVec 4) (va : BitVec 4) (fmt : BitVec 3) (vd : BitVec 4)
  /-- R99. Lane-wise logical right shift. -/
  | vshr (pred : BitVec 3) (eb2 : BitVec 1) (eb1 : BitVec 1) (vb : BitVec 4) (va : BitVec 4) (fmt : BitVec 3) (vd : BitVec 4)
  /-- R99. Lane-wise arithmetic right shift. -/
  | vsra (pred : BitVec 3) (eb2 : BitVec 1) (eb1 : BitVec 1) (vb : BitVec 4) (va : BitVec 4) (fmt : BitVec 3) (vd : BitVec 4)
  /-- R99. Selects a or b per lane by a predicate, writing every lane. -/
  | vsel (pred : BitVec 3) (eb2 : BitVec 1) (eb1 : BitVec 1) (vb : BitVec 4) (va : BitVec 4) (fmt : BitVec 3) (vd : BitVec 4)
  /-- R99. Permutes lanes of va by indices in vb. -/
  | vperm (pred : BitVec 3) (eb2 : BitVec 1) (eb1 : BitVec 1) (vb : BitVec 4) (va : BitVec 4) (fmt : BitVec 3) (vd : BitVec 4)
  /-- R99. Copies a scalar into every lane. -/
  | vsplat (pred : BitVec 3) (eb2 : BitVec 1) (eb1 : BitVec 1) (vb : BitVec 4) (va : BitVec 4) (fmt : BitVec 3) (vd : BitVec 4)
  /-- R101. Extracts one lane into an x or f register. -/
  | vextr (pred : BitVec 3) (eb2 : BitVec 1) (eb1 : BitVec 1) (vb : BitVec 4) (va : BitVec 4) (fmt : BitVec 3) (vd : BitVec 4)
  /-- R99. Inserts a scalar into one lane of vd. -/
  | vins (pred : BitVec 3) (eb2 : BitVec 1) (eb1 : BitVec 1) (vb : BitVec 4) (va : BitVec 4) (fmt : BitVec 3) (vd : BitVec 4)
  /-- R104. Pairwise tree sum of the lanes into lane 0. -/
  | vrsum (pred : BitVec 3) (eb2 : BitVec 1) (eb1 : BitVec 1) (vb : BitVec 4) (va : BitVec 4) (fmt : BitVec 3) (vd : BitVec 4)
  /-- R104. Pairwise tree maximum of the lanes into lane 0. -/
  | vrmax (pred : BitVec 3) (eb2 : BitVec 1) (eb1 : BitVec 1) (vb : BitVec 4) (va : BitVec 4) (fmt : BitVec 3) (vd : BitVec 4)
  /-- R99. Copies lanes unchanged. -/
  | vmov (pred : BitVec 3) (eb2 : BitVec 1) (eb1 : BitVec 1) (vb : BitVec 4) (va : BitVec 4) (fmt : BitVec 3) (vd : BitVec 4)
  /-- R102. Writes each float lane's class code. -/
  | vclass (pred : BitVec 3) (eb2 : BitVec 1) (eb1 : BitVec 1) (vb : BitVec 4) (va : BitVec 4) (fmt : BitVec 3) (vd : BitVec 4)
  /-- R107. Loads 32 aligned bytes into a v register. -/
  | vld (imm7 : BitVec 7) (a : BitVec 5) (d : BitVec 5)
  /-- R107. Stores a v register to 32 aligned bytes. -/
  | vst (imm7 : BitVec 7) (a : BitVec 5) (d : BitVec 5)
  /-- R108. Strided vector load. -/
  | vlds (eb2 : BitVec 1) (eb1 : BitVec 1) (b : BitVec 5) (a : BitVec 5) (d : BitVec 5)
  /-- R108. Strided vector store in ascending lane order. -/
  | vsts (eb2 : BitVec 1) (eb1 : BitVec 1) (b : BitVec 5) (a : BitVec 5) (d : BitVec 5)
  /-- R110. Gathers lanes from scratch owners through service requests. -/
  | vgath (eb2 : BitVec 1) (eb1 : BitVec 1) (b : BitVec 5) (a : BitVec 5) (d : BitVec 5)
  /-- R110. Scatters lanes to scratch owners through service requests. -/
  | vscat (eb2 : BitVec 1) (eb1 : BitVec 1) (b : BitVec 5) (a : BitVec 5) (d : BitVec 5)
  /-- R110. Scatter-adds lanes indivisibly at scratch owners. -/
  | vsadd (eb2 : BitVec 1) (eb1 : BitVec 1) (b : BitVec 5) (a : BitVec 5) (d : BitVec 5)
  /-- R112. Reads 8 accumulator elements into a v register through the engine order. -/
  | vaccr (eb1 : BitVec 1) (b : BitVec 5) (a : BitVec 5) (d : BitVec 5)
  /-- R112. Writes 8 accumulator elements from a v register through the engine order. -/
  | vaccw (eb1 : BitVec 1) (b : BitVec 5) (a : BitVec 5) (d : BitVec 5)
  /-- R109. Loads 4 raw bytes into a predicate register, stalling until they arrive. -/
  | vldp (imm7 : BitVec 7) (a : BitVec 5) (d : BitVec 5)
  /-- R91. Converts the low elements of a v register by a conversion pair and rounding mode. -/
  | cvt (rnd : BitVec 3) (a : BitVec 5) (b : BitVec 5) (d : BitVec 5)
  /-- R91. Converts packed elements in an f register, setting fflags. -/
  | fcvtz (rnd : BitVec 3) (a : BitVec 5) (b : BitVec 5) (d : BitVec 5)
  /-- R92. Packs 32 float values into one BFP block and returns its exponents. -/
  | packb (rnd : BitVec 3) (a : BitVec 5) (b : BitVec 5) (d : BitVec 5)
  /-- R93. Expands one BFP block into 32 float elements. -/
  | unpkb (a : BitVec 5) (b : BitVec 5)
  /-- R94. Loads the 16-entry LUT4 table and marks it loaded. -/
  | lutw (a : BitVec 5)
  /-- R95. Expands 32 LUT4 codes into i8 lanes through the table. -/
  | lutx (a : BitVec 5) (d : BitVec 5)
  /-- R96. Subtracts block zero points from 16 OB8 codes into i16 lanes. -/
  | zpsub (a : BitVec 5) (b : BitVec 5) (d : BitVec 5)
  /-- R231. Issues one dense matrix step on two rings into an accumulator. -/
  | mxa (n : BitVec 1) (p : BitVec 4) (q : BitVec 4)
  /-- R232. Claims an accumulator, sets its issue mode and queues a clear. -/
  | mxz (a : BitVec 5) (d : BitVec 5)
  /-- R233. Queues a converting write of the whole accumulator into scratch. -/
  | mxrd (rnd : BitVec 3) (a : BitVec 5) (d : BitVec 5)
  /-- R234. Queues a load of the whole accumulator from scratch. -/
  | mxwr (a : BitVec 5) (d : BitVec 5)
  /-- R235. Returns a snapshot of an accumulator's state. -/
  | mxstat (a : BitVec 5) (d : BitVec 5)
  /-- R237. Places a sync marker and blocks until its completion, dequeuing walk completions first. -/
  | mxsync (a : BitVec 5)
  /-- R236. Returns 1 when all of the core's commands on the accumulator have retired. -/
  | mxtest (a : BitVec 5) (d : BitVec 5)
  /-- R248. Captures metadata and issues one vector-wise sparse step. -/
  | mxas (pat : BitVec 3) (n : BitVec 1) (p : BitVec 4) (q : BitVec 4) (d : BitVec 5)
  /-- R251. Prunes a dense weight tile into compressed values and masks. -/
  | mxcmp (pat : BitVec 3) (a : BitVec 5) (b : BitVec 5) (d : BitVec 5)
  /-- R253. Returns the index of the first malformed mask, or all ones. -/
  | mxmchk (pat : BitVec 3) (a : BitVec 5) (b : BitVec 5) (d : BitVec 5)
  /-- R262. Sets a bond-extent register to 1 to 256. -/
  | bset (a : BitVec 5) (d : BitVec 5)
  /-- R262. Reads a bond-extent register. -/
  | bget (a : BitVec 5) (d : BitVec 5)
  /-- R263. Waits for chain steps, then configures the chain state and boundary buffer. -/
  | tbnd (a : BitVec 5) (b : BitVec 5)
  /-- R264. Issues one chain contraction step with a link. -/
  | tcon (rnd : BitVec 3) (a : BitVec 5) (b : BitVec 5)
  /-- R266. Issues a contraction-order table of up to 64 steps as one command. -/
  | twalk (a : BitVec 5) (b : BitVec 5)
  /-- R269. Returns the retired chain state. -/
  | tstat (d : BitVec 5)
  /-- R199. Checks and hands a converting copy to the dealer, joining the current batch. -/
  | copy (rnd : BitVec 3) (a : BitVec 5) (b : BitVec 5) (d : BitVec 5)
  /-- R201. Hands a clipped 2-D tile copy to the dealer. -/
  | ctile (rnd : BitVec 3) (a : BitVec 5) (b : BitVec 5) (d : BitVec 5)
  /-- R202. Closes the current batch and returns its number. -/
  | sealB (d : BitVec 5)
  /-- R203. Dequeues batch completions until at most n batches are outstanding. -/
  | waitb (a : BitVec 5)
  /-- R203. One non-waiting pass of WAITB, returning the outstanding count. -/
  | testb (a : BitVec 5) (d : BitVec 5)
  /-- R204. Advances the stage counter and seals the matching schedule entries into a batch. -/
  | cstage (d : BitVec 5)
  /-- R210. Configures a ring in the allotment with every slot free. -/
  | rcfg (eb2 : BitVec 1) (eb1 : BitVec 1) (b : BitVec 5) (a : BitVec 5) (d : BitVec 5)
  /-- R211. Makes a ring unconfigured. -/
  | rfree (d : BitVec 5)
  /-- R212. Releases the held reading slot and takes the next full one. -/
  | rpop (a : BitVec 5) (d : BitVec 5)
  /-- R212. Publishes the held filling slot and takes the next free one. -/
  | rpush (d : BitVec 5)
  /-- R213. Returns a ring's state. -/
  | rstatRing (a : BitVec 5) (d : BitVec 5)
  /-- R214. Starts a spring subscription filling a ring from a tensor. -/
  | subs (eb2 : BitVec 1) (eb1 : BitVec 1) (b : BitVec 5) (a : BitVec 5) (d : BitVec 5)
  /-- R215. Ends a subscription after held slots fill, placing its completion. -/
  | unsubs (d : BitVec 5)
  /-- R214. Starts an outlet drain of a ring into a tensor. -/
  | drain (eb1 : BitVec 1) (a : BitVec 5) (d : BitVec 5)
  /-- R44. A pending producer's value lands in its register and marks it full. -/
  | registerLanding (k : Nat) (h : Bool) (reg : Nat)
  /-- R128. The sequencer issues the next repeat-body instance from the buffer. -/
  | repeatInstanceIssue (k : Nat)
  /-- R121. A read port fetches an item ahead of its consumer, recording any failure on the slot. -/
  | streamPrefetch (k : Nat) (port : Nat)
  /-- R119. A pushed stream item is written to memory. -/
  | streamPushPerformed (k : Nat) (port : Nat)
  /-- R162. A message reaches its target unit and is validated, then placed or refused with an error reply. -/
  | messageValidation (id : Nat)
  /-- R163. A message waiting at the router is placed when a queue slot frees. -/
  | messagePlacement (id : Nat)
  /-- R162. An error reply reaches the sender and its cause joins the pending list. -/
  | errorReplyArrival (id : Nat)
  /-- R313. The oldest pending imprecise cause is raised at the next instruction boundary. -/
  | impreciseCauseRaise (k : Nat) (h : Bool)
  /-- R165. A core picks its next work by priority and starts a firing with its initial state. -/
  | firingStart (k : Nat)
  /-- R167. A high-priority message suspends the L firing at its next boundary and starts an H firing. -/
  | hFiringStart (k : Nat)
  /-- R170. An owner's message unit or engine performs a hardware service request and replies. -/
  | serviceRequest (id : Nat)
  /-- R110. A service reply lands at the requester, filling a gather or GET destination. -/
  | serviceReplyArrival (id : Nat)
  /-- R170. An atomic engine wakes a registered QPUSHW, QPOPW or BWAIT, which repeats its request. -/
  | engineWake (k : Nat) (h : Bool)
  /-- R178. The atomic engine performs one arbitrated operation in a die cycle. -/
  | atomicEngineServe (cl : Nat)
  /-- R179. A home grants a line lease, or performs the atomic itself, and the CAM performs the operation. -/
  | leaseGrant (cl : Nat) (line : Nat) (grant : Bool)
  /-- R179. A full CAM writes back its least recently used line, complete on the home's acknowledgement. -/
  | leaseEviction (cl : Nat)
  /-- R179. A foreign access makes the home recall a lease; the engine writes the line back. -/
  | leaseRecall (line : Nat)
  /-- R189. A queue row write is performed and pub advances in ticket order. -/
  | queueRowPerformed (id : Nat)
  /-- R152. A barrier release reaches a waiting core, which then acquires. -/
  | barrierWake (k : Nat) (h : Bool)
  /-- R192. The dealer accepts a waiting COPY or CTILE once it can meet every bound. -/
  | commandAcceptance (cl : Nat)
  /-- R193. The dealer finishes or fails a copy and places its completion. -/
  | copyCompletion (cl : Nat) (id : Nat) (err : Nat)
  /-- R202. A batch's completion is placed once its commands and earlier batches are done. -/
  | batchCompletion (k : Nat)
  /-- R205. A scoreboard entry retires, releasing conflicting commands and stalled accesses. -/
  | scoreboardRetire (cl : Nat) (id : Nat)
  /-- R215. The spring fills a free ring slot with the next tile and marks it full. -/
  | springTile (cl : Nat) (rg : Nat)
  /-- R216. The outlet writes a full slot to its tile and frees the slot on acknowledgement. -/
  | outletTile (cl : Nat) (rg : Nat)
  /-- R228. An engine command reaches the engine 4 die cycles after issue and takes its order. -/
  | engineCommandArrival (cl : Nat)
  /-- R229. A step starts on the array once it has arrived, its slots are full and the array is free. -/
  | matrixStepStart (cl : Nat)
  /-- R231. A step passes the residue check, applies its results and frees its slots. -/
  | matrixStepRetire (cl : Nat) (err : Nat)
  /-- R238. The engine's built-in self-test ends; a failure retires the cluster. -/
  | engineSelfTest (cl : Nat) (ok : Bool)
  /-- R232. The engine clears the accumulator and sets its mode. -/
  | mxzPerformed (cl : Nat) (acc : Nat)
  /-- R233. The engine converts and writes the accumulator into scratch. -/
  | mxrdPerformed (cl : Nat) (acc : Nat) (err : Nat)
  /-- R234. The engine loads the accumulator from scratch; `acc` from 2 up: the source holds an uncorrectable error (R239). -/
  | mxwrPerformed (cl : Nat) (acc : Nat)
  /-- R113. The engine performs a VACCR or VACCW on an accumulator row. -/
  | vaccPerformed (cl : Nat) (acc : Nat) (err : Nat)
  /-- R237. A sync marker completes and its completion is placed. -/
  | syncMarkerComplete (cl : Nat) (id : Nat)
  /-- R252. MXCMP writes values then masks and retires. -/
  | mxcmpRetire (cl : Nat)
  /-- R271. A chain step starts; for a walk step the size and link translation are checked first. -/
  | chainStepStart (cl : Nat)
  /-- R258. A chain step writes its output half, advances the retired state and retires. -/
  | chainStepRetire (cl : Nat) (err : Nat)
  /-- R339. The die walker completes a walk and fills the TLB, or reports a fault. -/
  | tlbWalk (cl : Nat) (job : Nat) (va : BitVec 64)
  /-- R342. An invalidation reaches a target cluster and removes entries and L1 lines. -/
  | tlbInvalidationApply (id : Nat)
  /-- R340. A partition CSR write takes effect in every cluster. -/
  | csrPropagation (p : Nat)
  /-- R279. The dispatcher takes a queue entry by level and weight and accepts or drops it. -/
  | workQueueAcceptance
  /-- R280. The dispatcher hands a group to a die ready queue. -/
  | readyQueueHandover (g : Nat)
  /-- R281. An idle die asks each neighbour for a group. -/
  | stealRequest (p : Nat) (v : Nat)
  /-- R281. A victim gives its oldest stealable group or answers none. -/
  | stealAnswer (p : Nat) (v : Nat) (thief : Nat)
  /-- R282. The die scheduler places a fitting group on a cluster, fills kitties and arms the cores. -/
  | groupPlacement (p : Nat) (v : Nat)
  /-- R282. A group unplaced for 100 µs while younger ones were placed blocks its queue. -/
  | groupBlocksQueue (g : Nat)
  /-- R283. A high-priority group unfitted for 20 µs selects a low-priority victim to pre-empt. -/
  | preemptionTrigger (g : Nat)
  /-- R324. A group stops at boundaries and its image is saved to its group slot. -/
  | groupPreemption (g : Nat)
  /-- R324. A pre-empted group is restored onto its resources and its records replayed. -/
  | groupResume (g : Nat)
  /-- R285. A cluster counts a group complete and reports up the counter tree. -/
  | groupCompletion (g : Nat)
  /-- R286. A launch's time limit passes: unplaced groups dropped, firings killed, tmo set. -/
  | launchTimeout (l : Nat)
  /-- R323. A group is killed: firings end, commands discarded, resources freed and counted. -/
  | groupKill (g : Nat) (c : Cause) (tv : BitVec 64)
  /-- R292. A host graph-load entry copies a node image into the walker store. -/
  | graphLoad (qn : Nat) (w0 : BitVec 64) (w1 : BitVec 64)
  /-- R292. A host graph-run entry starts a loaded graph at its entry node. -/
  | graphRun (qn : Nat) (w0 : BitVec 64) (w4 : BitVec 64) (w5 : BitVec 64)
  /-- R292. A host graph-unload entry removes a graph. -/
  | graphUnload (qn : Nat) (w0 : BitVec 64)
  /-- R293. The walker starts a node: launch, condition, while, join or end. -/
  | graphNodeStart (p : Nat) (job : Nat) (gid : Nat) (node : Nat)
  /-- R319. An H-disposition cause saves the firing image and starts the group fault handler. -/
  | faultDelivery (k : Nat)
  /-- R322. A P-disposition cause saves the firing to a slot and notifies the driver. -/
  | park (k : Nat)
  /-- R322. A ready parked firing is restored on a free core of its group. -/
  | parkedFiringResume (k : Nat) (src : Nat) (slot : Nat)
  /-- R319. A completion for a saved firing is written into its image's completion area. -/
  | completionIntoFrame (id : Nat)
  /-- R327. An uncorrectable core error quarantines the core, with a re-run or kills. -/
  | quarantine (k : Nat) (site : Nat) (reg : Nat) (second : Bool)
  /-- R330. A bounded wait lasting 1 ms raises WATCHDOG and is logged. -/
  | watchdogExpiry (k : Nat) (h : Bool)
  /-- R328. WFM completes after 4,096 die cycles without an entry. -/
  | wfmTimeout (k : Nat) (h : Bool)
  /-- R365. A cross-die request's deadline passes without a reply: CROSS_DIE_TIMEOUT. -/
  | crossDieDeadline (id : Nat)
  /-- R352. Firmware announces and moves a virtual die's context to another socket. -/
  | virtualDieRemap (p : Nat) (v : Nat) (sk : Nat)
  /-- R354. Firmware finds an uncorrectable die fault and starts taking the die offline. -/
  | dieFaultOffline (sk : Nat)
  /-- R356. A die passes self-test, takes back its home state and is admitted. -/
  | dieOnline (sk : Nat)
  /-- R357. 1 µs after announcement the die clock stops at the stop tick. -/
  | frequencyStepStop (sk : Nat)
  /-- R357. 1,600 ticks after the stop tick the clock restarts at the new frequency and the step log is written. -/
  | frequencyStepRestart (sk : Nat)
  /-- R297. A fabric packet arrives; duplicates are dropped and every copy acknowledged. -/
  | fabricPacketArrival (pkt : List (BitVec 64))
  /-- R301. The receiving I/O die checks an invocation and accepts it as a launch or refuses it, replying. -/
  | invocationArrival (id : Nat)
  /-- R299. A remote access is checked against lin and performed at the home. -/
  | remoteAccessArrival (id : Nat)
  /-- R297. A fabric acknowledgement arrives and the first one is taken as final. -/
  | acknowledgementArrival (id : Nat) (code : Nat) (data : List (BitVec 8))
  /-- R307. An invocation reply is placed in its reserved completion slot. -/
  | invocationReplyArrival (id : Nat)
  /-- R306. No reply within 30 µs: the issuing package places reply 0x13. -/
  | invocationReplyTimeout (id : Nat)
  /-- R298. An unacknowledged packet is resent on the next working path after 4 µs. -/
  | fabricResend (id : Nat)
  /-- R298. A packet unacknowledged for 15 µs is given up and its failure raised. -/
  | fabricGiveUp (id : Nat)
  /-- R298. A link fails its retries or loses lock and is removed from every path. -/
  | linkFailure (link : Nat)
  /-- R295. A domain table change reaches the I/O die's copy. -/
  | domainTableUpdate (p : Nat)
  /-- R377. A host CXL.mem read or write is performed at its home slice. -/
  | hostCxlMemAccess (write : Bool) (pa : Nat) (data : List (BitVec 8))
  /-- R376. A qprod write publishes queue entries, or records an overrun and disables the queue. -/
  | doorbellWrite (qn : Nat) (v : BitVec 64)
  /-- R376. A queue configuration write; while enabled only level and weight change. -/
  | qcfgWrite (qn : Nat) (v : BitVec 64)
  /-- R376. Writing 1 to qerr.err clears the recorded error. -/
  | qerrClear (qn : Nat) (v : BitVec 64)
  /-- R378. A write of icfg0 sets the invocation configuration and reloads the domain table copy. -/
  | icfg0Write (p : Nat) (v : BitVec 64)
  /-- R378. Sets the notice queue consumer index; bit 63 clears overflow. -/
  | ntqconsWrite (p : Nat) (v : BitVec 64)
  /-- R347. pcmd 1: everything of the job waiting for the page on the cluster becomes ready. -/
  | pageReady (p : Nat)
  /-- R349. pcmd 2: grows a resident group's scratch allotment and rewrites k12, or refuses. -/
  | growAllotment (p : Nat)
  /-- R357. pcmd 3: a frequency step is announced to the package. -/
  | frequencyStep (p : Nat)
  /-- R354. pcmd 4: a die is evacuated, its groups moved and its home state handed over. -/
  | dieOffline (p : Nat)
  /-- R326. pcmd 5: halts the partition and exchanges it with the shadow through the reservoir. -/
  | partitionSwitch (p : Nat)
  /-- R382. A device-page request builds and signs an attestation report for a nonce. -/
  | attestationReport
  /-- R384. Sets the package power cap that firmware enforces by frequency steps. -/
  | powerCapWrite (v : BitVec 64)
  /-- R375. A host write of 8 bytes to a BAR0 register, or of 4 bytes at `off` - 2^32, stores the value. -/
  | registerWrite (off : Nat) (v : BitVec 64)
  /-- R369. Setting att attaches the page to the group dtgt names. -/
  | debugAttach (page : Nat)
  /-- R369. Clearing att resumes a halted group and detaches it. -/
  | debugDetach (page : Nat)
  /-- R372. dctl.halt raises DEBUG_HALT_REQUEST and the group halts with images saved. -/
  | debugHalt (page : Nat)
  /-- R372. dctl.run restores each image as TRET does and resumes the group. -/
  | debugRun (page : Nat)
  /-- R373. dctl.step releases one rank for one instruction, then it halts with DEBUG_STEP. -/
  | singleStep (page : Nat)
  /-- R373. A stepped wait lasting 1 ms is abandoned and stmo set. -/
  | stepAbandon (page : Nat)
  /-- R380. Power-good starts boot: identity, signed firmware, self-test, training. -/
  | powerOnBoot (okA : Bool) (okB : Bool) (ident : Bool) (bad : List Nat)
  /-- R384. The package enters standby when nothing is resident, queued or pre-empted. -/
  | standbyEntry
  /-- R384. The package leaves standby and the compute dies run self-test. -/
  | standbyExit
  /-- R385. The standby I/O die becomes active after the active one fails. -/
  | ioDieFailover
  /-- R385. The base die scrubs its stack daily and marks uncorrectable lines poisoned. -/
  | hbmScrub (stack : Nat) (lines : List Nat)
  /-- R30. A fetched word that is misaligned, faults at fetch, has an illegal shape or opcode, or names a reserved cell or op number raises its cause instead of executing. -/
  | instructionWordFault (c : Cause) (tv : BitVec 64)
  /-- R141. A store write-through, AMO write or remote scratch store is performed and acknowledged at its home slice, leasing CAM or scratch bank, ending the release waits that depend on it. -/
  | homeWriteAcknowledgement (k : Nat) (id : Nat)
  /-- R20. Firmware creates a partition: it numbers its virtual dies, zeroes the die cycle counters, notice queue indices and zgrpmap sel, and writes step-log entry 0. -/
  | partitionCreation (p : Nat) (quads : List Nat)
  /-- R357. Firmware power management, or the end of the 20 µs deferral of an earlier request, announces a frequency step of a die. -/
  | firmwareFrequencyStep (sk : Nat) (mult : Nat)
  /-- R384. Loss of power takes the package to the Off state, keeping nothing. -/
  | powerOff
  /-- R380. In recovery mode the device page accepts a firmware image and writes it to the flash. -/
  | firmwareImageUpdate (image : List (BitVec 8))
deriving DecidableEq, Repr

end Sys2Proof
end

