-- ==== Sys2Proof/WellFormed.lean ====
section
/-! DEFINITION. The checks of a decoded word's own fields: register classes and reserved values (R34, and the tables that
reserve a value), the sparse pattern code (R40) and the rounding codes (R36, R64). An instruction that passes them is well formed. -/

namespace Sys2Proof

/-- R50, R73: the CSR addresses that name a register. -/
def csrNamed (c : Nat) : Bool :=
  [0x001, 0x002, 0x003, 0xC00, 0xC01, 0xC02, 0x8C0, 0x8C1, 0xCC0, 0xCC1, 0xCC2].contains c
    || (0x5C0 ≤ c && c ≤ 0x5C3) || (0x5D0 ≤ c && c ≤ 0x5DF)

/-- R50: the CSR addresses the table marks reserved. -/
def csrReserved (c : Nat) : Bool :=
  (0x8C2 ≤ c && c ≤ 0x8FF) || (0xCC3 ≤ c && c ≤ 0xCFF) || (0x5C4 ≤ c && c ≤ 0x5CF) || (0x5E0 ≤ c && c ≤ 0x5FF)

/-- R40: pattern codes 0b110 and 0b111 are not supported. -/
def Instr.patternOk : Instr → Bool
  | .mxas pat _ _ _ _ | .mxcmp pat _ _ _ | .mxmchk pat _ _ _ => pat.toNat < 6
  | _ => true

/-- R36, R64: the rounding codes that each instruction accepts. -/
def Instr.roundingOk : Instr → Bool
  | .cvt rnd _ _ _ | .fcvtz rnd _ _ _ | .packb rnd _ _ _ | .tcon rnd _ _ | .mxrd rnd _ _ => rnd.toNat ≤ 4
  | .copy rnd _ _ _ | .ctile rnd _ _ _ => [0, 1, 4, 5].contains rnd.toNat
  | .fmaddS _ _ _ rm _ | .fmsubS _ _ _ rm _ | .fnmsubS _ _ _ rm _ | .fnmaddS _ _ _ rm _ => rm.toNat ≤ 3 || rm.toNat = 7
  | .faddS _ _ rm _ | .fsubS _ _ rm _ | .fmulS _ _ rm _ | .fdivS _ _ rm _ => rm.toNat ≤ 3 || rm.toNat = 7
  | .fsqrtS _ rm _ | .fcvtWS _ rm _ | .fcvtWuS _ rm _ | .fcvtLS _ rm _ | .fcvtLuS _ rm _ | .fcvtSW _ rm _ | .fcvtSWu _ rm _ | .fcvtSL _ rm _ | .fcvtSLu _ rm _ => rm.toNat ≤ 3 || rm.toNat = 7
  | _ => true

/-- R34 and the rules that reserve field values: the reserved values of the fields an instruction uses. -/
def Instr.fieldsOk : Instr → Bool
  | .csrrw c _ _ | .csrrs c _ _ | .csrrc c _ _ | .csrrwi c _ _ | .csrrsi c _ _ | .csrrci c _ _ => !csrReserved c.toNat
  | .scfgw n _ d => n.toNat < 8 && d.toNat < 4
  | .scfgr n a _ => n.toNat < 8 && a.toNat < 4
  | .sbind b a d => b.toNat < 4 && a.toNat < 4 && (b.toNat < 2 || d.toNat < 16)
  | .sfree a | .sdrain a => a.toNat < 4
  | .sstat a _ => a.toNat < 4
  | .cancel n _ => n.toNat < 4
  | .wstat n _ _ => n.toNat < 4
  | .aperw n _ => n.toNat < 64
  | .padd k _ _ _ => k.toNat < 32
  | .psetf k _ _ _ => k.toNat % 32 ≤ 0x0C
  | .vabs _ eb2 _ vb _ _ _ | .vneg _ eb2 _ vb _ _ _ | .vsqrt _ eb2 _ vb _ _ _ | .vrcp _ eb2 _ vb _ _ _ | .vexp2 _ eb2 _ vb _ _ _ | .vsplat _ eb2 _ vb _ _ _ | .vrsum _ eb2 _ vb _ _ _ | .vrmax _ eb2 _ vb _ _ _ | .vmov _ eb2 _ vb _ _ _ | .vclass _ eb2 _ vb _ _ _ => vb.toNat = 0 && eb2.toNat = 0
  | .vceq _ _ _ _ _ _ vd | .vclt _ _ _ _ _ _ vd | .vcle _ _ _ _ _ _ vd => 0 < vd.toNat && vd.toNat < 8
  | .vextr pred _ _ _ _ _ _ | .vins pred _ _ _ _ _ _ => pred.toNat = 0
  | .vld _ _ d | .vst _ _ d => d.toNat < 16
  | .vldp _ _ d => 0 < d.toNat && d.toNat < 8
  | .vlds _ _ _ _ d | .vsts _ _ _ _ d => d.toNat < 16
  | .vgath _ _ b _ d | .vscat _ _ b _ d | .vsadd _ _ b _ d => b.toNat < 16 && d.toNat < 16
  | .vaccr _ b _ d | .vaccw _ b _ d => b.toNat < 2 && d.toNat < 16
  | .cvt _ a _ d => a.toNat < 16 && d.toNat < 16
  | .lutx a d => a.toNat < 16 && d.toNat < 16
  | .zpsub a _ d => a.toNat < 16 && d.toNat < 16
  | .mxz a d => a.toNat < 2 && d.toNat < 2
  | .mxrd _ a _ | .mxstat a _ | .mxtest a _ => a.toNat < 2
  | .mxsync a => a.toNat < 2
  | .mxwr _ d => d.toNat < 2
  | .bset _ d => d.toNat < 16
  | .bget a _ => a.toNat < 16
  | .rcfg _ _ _ _ d | .subs _ _ _ _ d | .drain _ _ d => d.toNat < 16
  | .rfree d | .rpush d | .unsubs d => d.toNat < 16
  | .rpop a _ | .rstatRing a _ => a.toNat < 16
  | _ => true

/-- R73: a CSR address outside every named and reserved range is no instruction. -/
def Instr.opcodeOk : Instr → Bool
  | .csrrw c _ _ | .csrrs c _ _ | .csrrc c _ _ | .csrrwi c _ _ | .csrrsi c _ _ | .csrrci c _ _ =>
    csrNamed c.toNat || csrReserved c.toNat
  | _ => true

/-- Steps 1 to 4 of R42 on a decoded instruction: the first cause its fields raise, or none. -/
def Instr.check (i : Instr) : Option Cause :=
  if !i.opcodeOk then some .illegalOpcode
  else if !i.patternOk then some .sparsePatternUnsupported
  else if !i.fieldsOk then some .reservedField
  else if !i.roundingOk then some .reservedRounding
  else none

/-- An instruction whose fields break no rule. -/
def Instr.wellFormed (i : Instr) : Bool := i.check.isNone

end Sys2Proof
end

