-- ==== Sys2Proof/Decode.lean ====
section
/-! DEFINITION. Instruction words: the decoder (total, rejecting by cause, in the order of R42 steps 1 to 4) and the encoder,
both from the formats of R32 and the maps of R38 to R40, and of R55 for the standard forms. -/

namespace Sys2Proof

/-- The field of `n` bits of a word whose lowest bit is `lo` (R1). -/
def fld (w : BitVec 32) (lo n : Nat) : BitVec n := w.extractLsb' lo n

/-- Major opcode custom-0 (R31). -/
def custom0 : BitVec 7 := 0b0001011
/-- Major opcode custom-1 (R31). -/
def custom1 : BitVec 7 := 0b0101011
/-- Major opcode custom-2 (R31). -/
def custom2 : BitVec 7 := 0b1011011

/-- Format ZR (R32). -/
def encZR (major : BitVec 7) (f3 : BitVec 3) (op5 : BitVec 5) (eb2 eb1 : BitVec 1) (b a d : BitVec 5) : BitVec 32 :=
  op5 ++ eb2 ++ eb1 ++ b ++ a ++ f3 ++ d ++ major
/-- Format ZI (R32). -/
def encZI (major : BitVec 7) (f3 : BitVec 3) (op5 : BitVec 5) (imm7 : BitVec 7) (a d : BitVec 5) : BitVec 32 :=
  op5 ++ imm7 ++ a ++ f3 ++ d ++ major
/-- Format ZK (R32), custom-0. -/
def encZK (f3 : BitVec 3) (k8 : BitVec 8) (op3 : BitVec 3) (eb1 : BitVec 1) (a d : BitVec 5) : BitVec 32 :=
  k8 ++ op3 ++ eb1 ++ a ++ f3 ++ d ++ custom0
/-- Format ZV (R32), custom-1. -/
def encZV (op5 : BitVec 5) (pred : BitVec 3) (eb2 eb1 : BitVec 1) (vb va : BitVec 4) (fmt : BitVec 3) (vd : BitVec 4) : BitVec 32 :=
  op5 ++ pred ++ eb2 ++ eb1 ++ vb ++ va ++ fmt ++ vd ++ custom1
/-- Format ZM (R32), custom-2. -/
def encZM (f3 : BitVec 3) (op4 : BitVec 4) (rnd : BitVec 3) (a b d : BitVec 5) : BitVec 32 :=
  op4 ++ rnd ++ a ++ b ++ f3 ++ d ++ custom2
/-- The R format of the standard forms (R55). -/
def encR (opc : BitVec 7) (f3 : BitVec 3) (f7 : BitVec 7) (rs2 rs1 rd : BitVec 5) : BitVec 32 :=
  f7 ++ rs2 ++ rs1 ++ f3 ++ rd ++ opc
/-- The RV64 shift-immediate format: a 6-bit amount (R55). -/
def encR6 (opc : BitVec 7) (f3 : BitVec 3) (f6 : BitVec 6) (sh : BitVec 6) (rs1 rd : BitVec 5) : BitVec 32 :=
  f6 ++ sh ++ rs1 ++ f3 ++ rd ++ opc
/-- The R4 format of the fused multiply-adds, with fmt = 00 (R55). -/
def encR4 (opc : BitVec 7) (rs3 rs2 rs1 : BitVec 5) (rm : BitVec 3) (rd : BitVec 5) : BitVec 32 :=
  rs3 ++ (0 : BitVec 2) ++ rs2 ++ rs1 ++ rm ++ rd ++ opc
/-- The AMO format (R55). -/
def encAmo (f3 : BitVec 3) (f5 : BitVec 5) (aq rl : BitVec 1) (rs2 rs1 rd : BitVec 5) : BitVec 32 :=
  f5 ++ aq ++ rl ++ rs2 ++ rs1 ++ f3 ++ rd ++ (0b0101111 : BitVec 7)
/-- The I format (R55). -/
def encI (opc : BitVec 7) (f3 : BitVec 3) (imm : BitVec 12) (rs1 rd : BitVec 5) : BitVec 32 :=
  imm ++ rs1 ++ f3 ++ rd ++ opc
/-- The S format (R55). -/
def encS (opc : BitVec 7) (f3 : BitVec 3) (imm : BitVec 12) (rs2 rs1 : BitVec 5) : BitVec 32 :=
  imm.extractLsb' 5 7 ++ rs2 ++ rs1 ++ f3 ++ imm.extractLsb' 0 5 ++ opc
/-- The B format (R55); `imm` holds offset bits 12 to 1. -/
def encB (opc : BitVec 7) (f3 : BitVec 3) (imm : BitVec 12) (rs2 rs1 : BitVec 5) : BitVec 32 :=
  imm.extractLsb' 11 1 ++ imm.extractLsb' 4 6 ++ rs2 ++ rs1 ++ f3 ++ imm.extractLsb' 0 4 ++ imm.extractLsb' 10 1 ++ opc
/-- The U format (R55). -/
def encU (opc : BitVec 7) (imm : BitVec 20) (rd : BitVec 5) : BitVec 32 := imm ++ rd ++ opc
/-- The J format (R55); `imm` holds offset bits 20 to 1. -/
def encJ (opc : BitVec 7) (imm : BitVec 20) (rd : BitVec 5) : BitVec 32 :=
  imm.extractLsb' 19 1 ++ imm.extractLsb' 0 10 ++ imm.extractLsb' 10 1 ++ imm.extractLsb' 11 8 ++ rd ++ opc

/-- The immediate of the S format. -/
def immS (w : BitVec 32) : BitVec 12 := fld w 25 7 ++ fld w 7 5
/-- Offset bits 12 to 1 of the B format. -/
def immB (w : BitVec 32) : BitVec 12 := fld w 31 1 ++ fld w 7 1 ++ fld w 25 6 ++ fld w 8 4
/-- Offset bits 20 to 1 of the J format. -/
def immJ (w : BitVec 32) : BitVec 20 := fld w 31 1 ++ fld w 12 8 ++ fld w 20 1 ++ fld w 21 10

/-- True of the rows that are instruction words, false of the events. -/
def Instr.isWord : Instr → Bool
  | .registerLanding _ _ _ => false
  | .repeatInstanceIssue _ => false
  | .streamPrefetch _ _ => false
  | .streamPushPerformed _ _ => false
  | .messageValidation _ => false
  | .messagePlacement _ => false
  | .errorReplyArrival _ => false
  | .impreciseCauseRaise _ _ => false
  | .firingStart _ => false
  | .hFiringStart _ => false
  | .serviceRequest _ => false
  | .serviceReplyArrival _ => false
  | .engineWake _ _ => false
  | .atomicEngineServe _ => false
  | .leaseGrant _ _ _ => false
  | .leaseEviction _ => false
  | .leaseRecall _ => false
  | .queueRowPerformed _ => false
  | .barrierWake _ _ => false
  | .commandAcceptance _ => false
  | .copyCompletion _ _ _ => false
  | .batchCompletion _ => false
  | .scoreboardRetire _ _ => false
  | .springTile _ _ => false
  | .outletTile _ _ => false
  | .engineCommandArrival _ => false
  | .matrixStepStart _ => false
  | .matrixStepRetire _ _ => false
  | .engineSelfTest _ _ => false
  | .mxzPerformed _ _ => false
  | .mxrdPerformed _ _ _ => false
  | .mxwrPerformed _ _ => false
  | .vaccPerformed _ _ _ => false
  | .syncMarkerComplete _ _ => false
  | .mxcmpRetire _ => false
  | .chainStepStart _ => false
  | .chainStepRetire _ _ => false
  | .tlbWalk _ _ _ => false
  | .tlbInvalidationApply _ => false
  | .csrPropagation _ => false
  | .workQueueAcceptance => false
  | .readyQueueHandover _ => false
  | .stealRequest _ _ => false
  | .stealAnswer _ _ _ => false
  | .groupPlacement _ _ => false
  | .groupBlocksQueue _ => false
  | .preemptionTrigger _ => false
  | .groupPreemption _ => false
  | .groupResume _ => false
  | .groupCompletion _ => false
  | .launchTimeout _ => false
  | .groupKill _ _ _ => false
  | .graphLoad _ _ _ => false
  | .graphRun _ _ _ _ => false
  | .graphUnload _ _ => false
  | .graphNodeStart _ _ _ _ => false
  | .faultDelivery _ => false
  | .park _ => false
  | .parkedFiringResume _ _ _ => false
  | .completionIntoFrame _ => false
  | .quarantine _ _ _ _ => false
  | .watchdogExpiry _ _ => false
  | .wfmTimeout _ _ => false
  | .crossDieDeadline _ => false
  | .virtualDieRemap _ _ _ => false
  | .dieFaultOffline _ => false
  | .dieOnline _ => false
  | .frequencyStepStop _ => false
  | .frequencyStepRestart _ => false
  | .fabricPacketArrival _ => false
  | .invocationArrival _ => false
  | .remoteAccessArrival _ => false
  | .acknowledgementArrival _ _ _ => false
  | .invocationReplyArrival _ => false
  | .invocationReplyTimeout _ => false
  | .fabricResend _ => false
  | .fabricGiveUp _ => false
  | .linkFailure _ => false
  | .domainTableUpdate _ => false
  | .hostCxlMemAccess _ _ _ => false
  | .doorbellWrite _ _ => false
  | .qcfgWrite _ _ => false
  | .qerrClear _ _ => false
  | .icfg0Write _ _ => false
  | .ntqconsWrite _ _ => false
  | .pageReady _ => false
  | .growAllotment _ => false
  | .frequencyStep _ => false
  | .dieOffline _ => false
  | .partitionSwitch _ => false
  | .attestationReport => false
  | .powerCapWrite _ => false
  | .registerWrite _ _ => false
  | .debugAttach _ => false
  | .debugDetach _ => false
  | .debugHalt _ => false
  | .debugRun _ => false
  | .singleStep _ => false
  | .stepAbandon _ => false
  | .powerOnBoot _ _ _ _ => false
  | .standbyEntry => false
  | .standbyExit => false
  | .ioDieFailover => false
  | .hbmScrub _ _ => false
  | .instructionWordFault _ _ => false
  | .homeWriteAcknowledgement _ _ => false
  | .partitionCreation _ _ => false
  | .firmwareFrequencyStep _ _ => false
  | .powerOff => false
  | .firmwareImageUpdate _ => false
  | _ => true

/-- The word of an instruction (R32, R38 to R40, R55); 0 for an event, which has none. -/
def encode : Instr → BitVec 32
  | .lui imm20 rd => encU 0b0110111 imm20 rd
  | .auipc imm20 rd => encU 0b0010111 imm20 rd
  | .jal imm20 rd => encJ 0b1101111 imm20 rd
  | .jalr imm12 rs1 rd => encI 0b1100111 0 imm12 rs1 rd
  | .beq imm12 rs2 rs1 => encB 0b1100011 0 imm12 rs2 rs1
  | .bne imm12 rs2 rs1 => encB 0b1100011 1 imm12 rs2 rs1
  | .blt imm12 rs2 rs1 => encB 0b1100011 4 imm12 rs2 rs1
  | .bge imm12 rs2 rs1 => encB 0b1100011 5 imm12 rs2 rs1
  | .bltu imm12 rs2 rs1 => encB 0b1100011 6 imm12 rs2 rs1
  | .bgeu imm12 rs2 rs1 => encB 0b1100011 7 imm12 rs2 rs1
  | .lb imm12 rs1 rd => encI 0b0000011 0 imm12 rs1 rd
  | .lh imm12 rs1 rd => encI 0b0000011 1 imm12 rs1 rd
  | .lw imm12 rs1 rd => encI 0b0000011 2 imm12 rs1 rd
  | .ld imm12 rs1 rd => encI 0b0000011 3 imm12 rs1 rd
  | .lbu imm12 rs1 rd => encI 0b0000011 4 imm12 rs1 rd
  | .lhu imm12 rs1 rd => encI 0b0000011 5 imm12 rs1 rd
  | .lwu imm12 rs1 rd => encI 0b0000011 6 imm12 rs1 rd
  | .sb imm12 rs2 rs1 => encS 0b0100011 0 imm12 rs2 rs1
  | .sh imm12 rs2 rs1 => encS 0b0100011 1 imm12 rs2 rs1
  | .sw imm12 rs2 rs1 => encS 0b0100011 2 imm12 rs2 rs1
  | .sd imm12 rs2 rs1 => encS 0b0100011 3 imm12 rs2 rs1
  | .addi imm12 rs1 rd => encI 0b0010011 0 imm12 rs1 rd
  | .slti imm12 rs1 rd => encI 0b0010011 2 imm12 rs1 rd
  | .sltiu imm12 rs1 rd => encI 0b0010011 3 imm12 rs1 rd
  | .xori imm12 rs1 rd => encI 0b0010011 4 imm12 rs1 rd
  | .ori imm12 rs1 rd => encI 0b0010011 6 imm12 rs1 rd
  | .andi imm12 rs1 rd => encI 0b0010011 7 imm12 rs1 rd
  | .slli sh6 rs1 rd => encR6 0b0010011 1 0 sh6 rs1 rd
  | .srli sh6 rs1 rd => encR6 0b0010011 5 0 sh6 rs1 rd
  | .srai sh6 rs1 rd => encR6 0b0010011 5 16 sh6 rs1 rd
  | .addiw imm12 rs1 rd => encI 0b0011011 0 imm12 rs1 rd
  | .slliw sh5 rs1 rd => encR 0b0011011 1 0 sh5 rs1 rd
  | .srliw sh5 rs1 rd => encR 0b0011011 5 0 sh5 rs1 rd
  | .sraiw sh5 rs1 rd => encR 0b0011011 5 32 sh5 rs1 rd
  | .add rs2 rs1 rd => encR 0b0110011 0 0 rs2 rs1 rd
  | .sll rs2 rs1 rd => encR 0b0110011 1 0 rs2 rs1 rd
  | .slt rs2 rs1 rd => encR 0b0110011 2 0 rs2 rs1 rd
  | .sltu rs2 rs1 rd => encR 0b0110011 3 0 rs2 rs1 rd
  | .xor rs2 rs1 rd => encR 0b0110011 4 0 rs2 rs1 rd
  | .srl rs2 rs1 rd => encR 0b0110011 5 0 rs2 rs1 rd
  | .or rs2 rs1 rd => encR 0b0110011 6 0 rs2 rs1 rd
  | .and rs2 rs1 rd => encR 0b0110011 7 0 rs2 rs1 rd
  | .sub rs2 rs1 rd => encR 0b0110011 0 32 rs2 rs1 rd
  | .sra rs2 rs1 rd => encR 0b0110011 5 32 rs2 rs1 rd
  | .mul rs2 rs1 rd => encR 0b0110011 0 1 rs2 rs1 rd
  | .mulh rs2 rs1 rd => encR 0b0110011 1 1 rs2 rs1 rd
  | .mulhsu rs2 rs1 rd => encR 0b0110011 2 1 rs2 rs1 rd
  | .mulhu rs2 rs1 rd => encR 0b0110011 3 1 rs2 rs1 rd
  | .div rs2 rs1 rd => encR 0b0110011 4 1 rs2 rs1 rd
  | .divu rs2 rs1 rd => encR 0b0110011 5 1 rs2 rs1 rd
  | .rem rs2 rs1 rd => encR 0b0110011 6 1 rs2 rs1 rd
  | .remu rs2 rs1 rd => encR 0b0110011 7 1 rs2 rs1 rd
  | .addw rs2 rs1 rd => encR 0b0111011 0 0 rs2 rs1 rd
  | .sllw rs2 rs1 rd => encR 0b0111011 1 0 rs2 rs1 rd
  | .srlw rs2 rs1 rd => encR 0b0111011 5 0 rs2 rs1 rd
  | .subw rs2 rs1 rd => encR 0b0111011 0 32 rs2 rs1 rd
  | .sraw rs2 rs1 rd => encR 0b0111011 5 32 rs2 rs1 rd
  | .mulw rs2 rs1 rd => encR 0b0111011 0 1 rs2 rs1 rd
  | .divw rs2 rs1 rd => encR 0b0111011 4 1 rs2 rs1 rd
  | .divuw rs2 rs1 rd => encR 0b0111011 5 1 rs2 rs1 rd
  | .remw rs2 rs1 rd => encR 0b0111011 6 1 rs2 rs1 rd
  | .remuw rs2 rs1 rd => encR 0b0111011 7 1 rs2 rs1 rd
  | .fence imm12 rs1 rd => encI 0b0001111 0 imm12 rs1 rd
  | .ecall => 0x00000073
  | .ebreak => 0x00100073
  | .csrrw csr rs1 rd => encI 0b1110011 1 csr rs1 rd
  | .csrrs csr rs1 rd => encI 0b1110011 2 csr rs1 rd
  | .csrrc csr rs1 rd => encI 0b1110011 3 csr rs1 rd
  | .csrrwi csr zimm rd => encI 0b1110011 5 csr zimm rd
  | .csrrsi csr zimm rd => encI 0b1110011 6 csr zimm rd
  | .csrrci csr zimm rd => encI 0b1110011 7 csr zimm rd
  | .amoaddW aq rl rs2 rs1 rd => encAmo 2 0 aq rl rs2 rs1 rd
  | .amoaddD aq rl rs2 rs1 rd => encAmo 3 0 aq rl rs2 rs1 rd
  | .amoswapW aq rl rs2 rs1 rd => encAmo 2 1 aq rl rs2 rs1 rd
  | .amoswapD aq rl rs2 rs1 rd => encAmo 3 1 aq rl rs2 rs1 rd
  | .amoxorW aq rl rs2 rs1 rd => encAmo 2 4 aq rl rs2 rs1 rd
  | .amoxorD aq rl rs2 rs1 rd => encAmo 3 4 aq rl rs2 rs1 rd
  | .amoorW aq rl rs2 rs1 rd => encAmo 2 8 aq rl rs2 rs1 rd
  | .amoorD aq rl rs2 rs1 rd => encAmo 3 8 aq rl rs2 rs1 rd
  | .amoandW aq rl rs2 rs1 rd => encAmo 2 12 aq rl rs2 rs1 rd
  | .amoandD aq rl rs2 rs1 rd => encAmo 3 12 aq rl rs2 rs1 rd
  | .amominW aq rl rs2 rs1 rd => encAmo 2 16 aq rl rs2 rs1 rd
  | .amominD aq rl rs2 rs1 rd => encAmo 3 16 aq rl rs2 rs1 rd
  | .amomaxW aq rl rs2 rs1 rd => encAmo 2 20 aq rl rs2 rs1 rd
  | .amomaxD aq rl rs2 rs1 rd => encAmo 3 20 aq rl rs2 rs1 rd
  | .amominuW aq rl rs2 rs1 rd => encAmo 2 24 aq rl rs2 rs1 rd
  | .amominuD aq rl rs2 rs1 rd => encAmo 3 24 aq rl rs2 rs1 rd
  | .amomaxuW aq rl rs2 rs1 rd => encAmo 2 28 aq rl rs2 rs1 rd
  | .amomaxuD aq rl rs2 rs1 rd => encAmo 3 28 aq rl rs2 rs1 rd
  | .flw imm12 rs1 rd => encI 0b0000111 2 imm12 rs1 rd
  | .fsw imm12 rs2 rs1 => encS 0b0100111 2 imm12 rs2 rs1
  | .fmaddS rs3 rs2 rs1 rm rd => encR4 0b1000011 rs3 rs2 rs1 rm rd
  | .fmsubS rs3 rs2 rs1 rm rd => encR4 0b1000111 rs3 rs2 rs1 rm rd
  | .fnmsubS rs3 rs2 rs1 rm rd => encR4 0b1001011 rs3 rs2 rs1 rm rd
  | .fnmaddS rs3 rs2 rs1 rm rd => encR4 0b1001111 rs3 rs2 rs1 rm rd
  | .faddS rs2 rs1 rm rd => encR 0b1010011 rm 0 rs2 rs1 rd
  | .fsubS rs2 rs1 rm rd => encR 0b1010011 rm 4 rs2 rs1 rd
  | .fmulS rs2 rs1 rm rd => encR 0b1010011 rm 8 rs2 rs1 rd
  | .fdivS rs2 rs1 rm rd => encR 0b1010011 rm 12 rs2 rs1 rd
  | .fsqrtS rs1 rm rd => encR 0b1010011 rm 44 0 rs1 rd
  | .fsgnjS rs2 rs1 rd => encR 0b1010011 0 16 rs2 rs1 rd
  | .fsgnjnS rs2 rs1 rd => encR 0b1010011 1 16 rs2 rs1 rd
  | .fsgnjxS rs2 rs1 rd => encR 0b1010011 2 16 rs2 rs1 rd
  | .fminS rs2 rs1 rd => encR 0b1010011 0 20 rs2 rs1 rd
  | .fmaxS rs2 rs1 rd => encR 0b1010011 1 20 rs2 rs1 rd
  | .fleS rs2 rs1 rd => encR 0b1010011 0 80 rs2 rs1 rd
  | .fltS rs2 rs1 rd => encR 0b1010011 1 80 rs2 rs1 rd
  | .feqS rs2 rs1 rd => encR 0b1010011 2 80 rs2 rs1 rd
  | .fcvtWS rs1 rm rd => encR 0b1010011 rm 96 0 rs1 rd
  | .fcvtWuS rs1 rm rd => encR 0b1010011 rm 96 1 rs1 rd
  | .fcvtLS rs1 rm rd => encR 0b1010011 rm 96 2 rs1 rd
  | .fcvtLuS rs1 rm rd => encR 0b1010011 rm 96 3 rs1 rd
  | .fcvtSW rs1 rm rd => encR 0b1010011 rm 104 0 rs1 rd
  | .fcvtSWu rs1 rm rd => encR 0b1010011 rm 104 1 rs1 rd
  | .fcvtSL rs1 rm rd => encR 0b1010011 rm 104 2 rs1 rd
  | .fcvtSLu rs1 rm rd => encR 0b1010011 rm 104 3 rs1 rd
  | .fmvXW rs1 rd => encR 0b1010011 0 112 0 rs1 rd
  | .fclassS rs1 rd => encR 0b1010011 1 112 0 rs1 rd
  | .fmvWX rs1 rd => encR 0b1010011 0 120 0 rs1 rd
  | .scfgw imm7 a d => encZI custom0 0 0 imm7 a d
  | .scfgr imm7 a d => encZI custom0 0 1 imm7 a d
  | .sbind b a d => encZR custom0 0 2 0 0 b a d
  | .sfree a => encZR custom0 0 3 0 0 0 a 0
  | .sstat a d => encZR custom0 0 4 0 0 0 a d
  | .sdrain a => encZR custom0 0 5 0 0 0 a 0
  | .rpt eb1 a d => encZR custom0 0 6 0 eb1 0 a d
  | .rpti imm7 a d => encZI custom0 0 7 imm7 a d
  | .send imm7 a d => encZI custom0 1 0 imm7 a d
  | .sendw imm7 a d => encZI custom0 1 1 imm7 a d
  | .senda imm7 a d => encZI custom0 1 2 imm7 a d
  | .sendaw imm7 a d => encZI custom0 1 3 imm7 a d
  | .recv eb1 a d => encZR custom0 1 4 0 eb1 0 a d
  | .recvw eb1 a d => encZR custom0 1 5 0 eb1 0 a d
  | .mcount eb1 a d => encZR custom0 1 6 0 eb1 0 a d
  | .endF => encZR custom0 1 7 0 0 0 0 0
  | .rearm => encZR custom0 1 8 0 0 0 0 0
  | .get imm7 a d => encZI custom0 1 9 imm7 a d
  | .put imm7 a d => encZI custom0 1 10 imm7 a d
  | .sadd imm7 a d => encZI custom0 1 11 imm7 a d
  | .ordAcq eb1 a => encZR custom0 2 0 0 eb1 0 a 0
  | .ordRel eb1 a => encZR custom0 2 1 0 eb1 0 a 0
  | .ordFull eb1 a => encZR custom0 2 2 0 eb1 0 a 0
  | .ldAcq eb2 eb1 b a d => encZR custom0 2 3 eb2 eb1 b a d
  | .sdRel eb2 eb1 b a d => encZR custom0 2 4 eb2 eb1 b a d
  | .binit eb2 eb1 b a => encZR custom0 2 5 eb2 eb1 b a 0
  | .barr eb1 a d => encZR custom0 2 6 0 eb1 0 a d
  | .bwait eb2 eb1 b a => encZR custom0 2 7 eb2 eb1 b a 0
  | .btest eb2 eb1 b a d => encZR custom0 2 8 eb2 eb1 b a d
  | .jinit eb2 eb1 b a => encZR custom0 2 9 eb2 eb1 b a 0
  | .jarr eb1 a d => encZR custom0 2 10 0 eb1 0 a d
  | .acas eb2 eb1 b a d => encZR custom0 3 0 eb2 eb1 b a d
  | .afadd eb2 eb1 b a d => encZR custom0 3 1 eb2 eb1 b a d
  | .afmax eb2 eb1 b a d => encZR custom0 3 2 eb2 eb1 b a d
  | .afmin eb2 eb1 b a d => encZR custom0 3 3 eb2 eb1 b a d
  | .atkt eb2 eb1 b a d => encZR custom0 3 4 eb2 eb1 b a d
  | .qpush eb2 eb1 b a d => encZR custom0 3 5 eb2 eb1 b a d
  | .qpushw eb2 eb1 b a d => encZR custom0 3 6 eb2 eb1 b a d
  | .qpop eb1 a d => encZR custom0 3 7 0 eb1 0 a d
  | .qpopw eb1 a d => encZR custom0 3 8 0 eb1 0 a d
  | .qinit eb2 eb1 b a => encZR custom0 3 9 eb2 eb1 b a 0
  | .spawn eb2 eb1 b a d => encZR custom0 4 0 eb2 eb1 b a d
  | .spawnw eb2 eb1 b a d => encZR custom0 4 1 eb2 eb1 b a d
  | .cancel imm7 a => encZI custom0 4 2 imm7 a 0
  | .wstat imm7 a d => encZI custom0 4 3 imm7 a d
  | .gcond eb2 eb1 b a => encZR custom0 4 4 eb2 eb1 b a 0
  | .invk imm7 a d => encZI custom0 5 0 imm7 a d
  | .invkw imm7 a d => encZI custom0 5 1 imm7 a d
  | .rstatInvoke eb1 a d => encZR custom0 5 2 0 eb1 0 a d
  | .rdref d => encZR custom0 5 3 0 0 0 0 d
  | .rddcyc d => encZR custom0 5 4 0 0 0 0 d
  | .rdratio d => encZR custom0 5 5 0 0 0 0 d
  | .tret => encZR custom0 6 0 0 0 0 0 0
  | .tlbinv eb2 eb1 b a => encZR custom0 6 1 eb2 eb1 b a 0
  | .tlbsync => encZR custom0 6 2 0 0 0 0 0
  | .htabw eb2 eb1 b a => encZR custom0 6 3 eb2 eb1 b a 0
  | .aperw imm7 a => encZI custom0 6 4 imm7 a 0
  | .wfm => encZR custom0 6 5 0 0 0 0 0
  | .dhalt => encZR custom0 6 6 0 0 0 0 0
  | .padd k8 eb1 a d => encZK 7 k8 0 eb1 a d
  | .paddi k8 eb1 a d => encZK 7 k8 1 eb1 a d
  | .psetf k8 eb1 a d => encZK 7 k8 2 eb1 a d
  | .pgetf eb1 a d => encZK 7 0 3 eb1 a d
  | .kld k8 d => encZK 7 k8 4 0 0 d
  | .kldf k8 d => encZK 7 k8 5 0 0 d
  | .vadd pred eb2 eb1 vb va fmt vd => encZV 0 pred eb2 eb1 vb va fmt vd
  | .vsub pred eb2 eb1 vb va fmt vd => encZV 1 pred eb2 eb1 vb va fmt vd
  | .vmul pred eb2 eb1 vb va fmt vd => encZV 2 pred eb2 eb1 vb va fmt vd
  | .vfma pred eb2 eb1 vb va fmt vd => encZV 3 pred eb2 eb1 vb va fmt vd
  | .vfms pred eb2 eb1 vb va fmt vd => encZV 4 pred eb2 eb1 vb va fmt vd
  | .vfnma pred eb2 eb1 vb va fmt vd => encZV 5 pred eb2 eb1 vb va fmt vd
  | .vmin pred eb2 eb1 vb va fmt vd => encZV 6 pred eb2 eb1 vb va fmt vd
  | .vmax pred eb2 eb1 vb va fmt vd => encZV 7 pred eb2 eb1 vb va fmt vd
  | .vabs pred eb2 eb1 vb va fmt vd => encZV 8 pred eb2 eb1 vb va fmt vd
  | .vneg pred eb2 eb1 vb va fmt vd => encZV 9 pred eb2 eb1 vb va fmt vd
  | .vdiv pred eb2 eb1 vb va fmt vd => encZV 10 pred eb2 eb1 vb va fmt vd
  | .vsqrt pred eb2 eb1 vb va fmt vd => encZV 11 pred eb2 eb1 vb va fmt vd
  | .vrcp pred eb2 eb1 vb va fmt vd => encZV 12 pred eb2 eb1 vb va fmt vd
  | .vexp2 pred eb2 eb1 vb va fmt vd => encZV 13 pred eb2 eb1 vb va fmt vd
  | .vceq pred eb2 eb1 vb va fmt vd => encZV 14 pred eb2 eb1 vb va fmt vd
  | .vclt pred eb2 eb1 vb va fmt vd => encZV 15 pred eb2 eb1 vb va fmt vd
  | .vcle pred eb2 eb1 vb va fmt vd => encZV 16 pred eb2 eb1 vb va fmt vd
  | .vand pred eb2 eb1 vb va fmt vd => encZV 17 pred eb2 eb1 vb va fmt vd
  | .vor pred eb2 eb1 vb va fmt vd => encZV 18 pred eb2 eb1 vb va fmt vd
  | .vxor pred eb2 eb1 vb va fmt vd => encZV 19 pred eb2 eb1 vb va fmt vd
  | .vshl pred eb2 eb1 vb va fmt vd => encZV 20 pred eb2 eb1 vb va fmt vd
  | .vshr pred eb2 eb1 vb va fmt vd => encZV 21 pred eb2 eb1 vb va fmt vd
  | .vsra pred eb2 eb1 vb va fmt vd => encZV 22 pred eb2 eb1 vb va fmt vd
  | .vsel pred eb2 eb1 vb va fmt vd => encZV 23 pred eb2 eb1 vb va fmt vd
  | .vperm pred eb2 eb1 vb va fmt vd => encZV 24 pred eb2 eb1 vb va fmt vd
  | .vsplat pred eb2 eb1 vb va fmt vd => encZV 25 pred eb2 eb1 vb va fmt vd
  | .vextr pred eb2 eb1 vb va fmt vd => encZV 26 pred eb2 eb1 vb va fmt vd
  | .vins pred eb2 eb1 vb va fmt vd => encZV 27 pred eb2 eb1 vb va fmt vd
  | .vrsum pred eb2 eb1 vb va fmt vd => encZV 28 pred eb2 eb1 vb va fmt vd
  | .vrmax pred eb2 eb1 vb va fmt vd => encZV 29 pred eb2 eb1 vb va fmt vd
  | .vmov pred eb2 eb1 vb va fmt vd => encZV 30 pred eb2 eb1 vb va fmt vd
  | .vclass pred eb2 eb1 vb va fmt vd => encZV 31 pred eb2 eb1 vb va fmt vd
  | .vld imm7 a d => encZI custom2 0 0 imm7 a d
  | .vst imm7 a d => encZI custom2 0 1 imm7 a d
  | .vlds eb2 eb1 b a d => encZR custom2 0 2 eb2 eb1 b a d
  | .vsts eb2 eb1 b a d => encZR custom2 0 3 eb2 eb1 b a d
  | .vgath eb2 eb1 b a d => encZR custom2 0 4 eb2 eb1 b a d
  | .vscat eb2 eb1 b a d => encZR custom2 0 5 eb2 eb1 b a d
  | .vsadd eb2 eb1 b a d => encZR custom2 0 6 eb2 eb1 b a d
  | .vaccr eb1 b a d => encZR custom2 0 7 0 eb1 b a d
  | .vaccw eb1 b a d => encZR custom2 0 8 0 eb1 b a d
  | .vldp imm7 a d => encZI custom2 0 9 imm7 a d
  | .cvt rnd a b d => encZM 1 0 rnd a b d
  | .fcvtz rnd a b d => encZM 1 1 rnd a b d
  | .packb rnd a b d => encZM 1 2 rnd a b d
  | .unpkb a b => encZM 1 3 0 a b 0
  | .lutw a => encZM 1 4 0 a 0 0
  | .lutx a d => encZM 1 5 0 a 0 d
  | .zpsub a b d => encZM 1 6 0 a b d
  | .mxa n p q => encZM 2 0 0 (n ++ p) ((0 : BitVec 1) ++ q) 0
  | .mxz a d => encZM 2 1 0 a 0 d
  | .mxrd rnd a d => encZM 2 2 rnd a 0 d
  | .mxwr a d => encZM 2 3 0 a 0 d
  | .mxstat a d => encZM 2 4 0 a 0 d
  | .mxsync a => encZM 2 5 0 a 0 0
  | .mxtest a d => encZM 2 6 0 a 0 d
  | .mxas pat n p q d => encZM 3 0 pat (n ++ p) ((0 : BitVec 1) ++ q) d
  | .mxcmp pat a b d => encZM 3 1 pat a b d
  | .mxmchk pat a b d => encZM 3 2 pat a b d
  | .bset a d => encZM 4 0 0 a 0 d
  | .bget a d => encZM 4 1 0 a 0 d
  | .tbnd a b => encZM 4 2 0 a b 0
  | .tcon rnd a b => encZM 4 3 rnd a b 0
  | .twalk a b => encZM 4 4 0 a b 0
  | .tstat d => encZM 4 5 0 0 0 d
  | .copy rnd a b d => encZM 5 0 rnd a b d
  | .ctile rnd a b d => encZM 5 1 rnd a b d
  | .sealB d => encZM 5 2 0 0 0 d
  | .waitb a => encZM 5 3 0 a 0 0
  | .testb a d => encZM 5 4 0 a 0 d
  | .cstage d => encZM 5 5 0 0 0 d
  | .rcfg eb2 eb1 b a d => encZR custom2 6 0 eb2 eb1 b a d
  | .rfree d => encZR custom2 6 1 0 0 0 0 d
  | .rpop a d => encZR custom2 6 2 0 0 0 a d
  | .rpush d => encZR custom2 6 3 0 0 0 0 d
  | .rstatRing a d => encZR custom2 6 4 0 0 0 a d
  | .subs eb2 eb1 b a d => encZR custom2 6 5 eb2 eb1 b a d
  | .unsubs d => encZR custom2 6 6 0 0 0 0 d
  | .drain eb1 a d => encZR custom2 6 7 0 eb1 0 a d
  | _ => 0

/-- A cell whose op numbers end here: an unassigned op raises RESERVED_FIELD (R33). -/
def reservedOp : Except Cause Instr := .error .reservedField
/-- No instruction (R30, R31, R55). -/
def illegal : Except Cause Instr := .error .illegalOpcode

/-- custom-0, f3 = 0: the op5 family (R33, R38). -/
def decCustom0F0 (w : BitVec 32) : Except Cause Instr :=
  match (fld w 27 5).toNat with
  | 0 => .ok (.scfgw (fld w 20 7) (fld w 15 5) (fld w 7 5))
  | 1 => .ok (.scfgr (fld w 20 7) (fld w 15 5) (fld w 7 5))
  | 2 => .ok (.sbind (fld w 20 5) (fld w 15 5) (fld w 7 5))
  | 3 => .ok (.sfree (fld w 15 5))
  | 4 => .ok (.sstat (fld w 15 5) (fld w 7 5))
  | 5 => .ok (.sdrain (fld w 15 5))
  | 6 => .ok (.rpt (fld w 25 1) (fld w 15 5) (fld w 7 5))
  | 7 => .ok (.rpti (fld w 20 7) (fld w 15 5) (fld w 7 5))
  | _ => reservedOp

/-- custom-0, f3 = 1: the op5 family (R33, R38). -/
def decCustom0F1 (w : BitVec 32) : Except Cause Instr :=
  match (fld w 27 5).toNat with
  | 0 => .ok (.send (fld w 20 7) (fld w 15 5) (fld w 7 5))
  | 1 => .ok (.sendw (fld w 20 7) (fld w 15 5) (fld w 7 5))
  | 2 => .ok (.senda (fld w 20 7) (fld w 15 5) (fld w 7 5))
  | 3 => .ok (.sendaw (fld w 20 7) (fld w 15 5) (fld w 7 5))
  | 4 => .ok (.recv (fld w 25 1) (fld w 15 5) (fld w 7 5))
  | 5 => .ok (.recvw (fld w 25 1) (fld w 15 5) (fld w 7 5))
  | 6 => .ok (.mcount (fld w 25 1) (fld w 15 5) (fld w 7 5))
  | 7 => .ok (.endF)
  | 8 => .ok (.rearm)
  | 9 => .ok (.get (fld w 20 7) (fld w 15 5) (fld w 7 5))
  | 10 => .ok (.put (fld w 20 7) (fld w 15 5) (fld w 7 5))
  | 11 => .ok (.sadd (fld w 20 7) (fld w 15 5) (fld w 7 5))
  | _ => reservedOp

/-- custom-0, f3 = 2: the op5 family (R33, R38). -/
def decCustom0F2 (w : BitVec 32) : Except Cause Instr :=
  match (fld w 27 5).toNat with
  | 0 => .ok (.ordAcq (fld w 25 1) (fld w 15 5))
  | 1 => .ok (.ordRel (fld w 25 1) (fld w 15 5))
  | 2 => .ok (.ordFull (fld w 25 1) (fld w 15 5))
  | 3 => .ok (.ldAcq (fld w 26 1) (fld w 25 1) (fld w 20 5) (fld w 15 5) (fld w 7 5))
  | 4 => .ok (.sdRel (fld w 26 1) (fld w 25 1) (fld w 20 5) (fld w 15 5) (fld w 7 5))
  | 5 => .ok (.binit (fld w 26 1) (fld w 25 1) (fld w 20 5) (fld w 15 5))
  | 6 => .ok (.barr (fld w 25 1) (fld w 15 5) (fld w 7 5))
  | 7 => .ok (.bwait (fld w 26 1) (fld w 25 1) (fld w 20 5) (fld w 15 5))
  | 8 => .ok (.btest (fld w 26 1) (fld w 25 1) (fld w 20 5) (fld w 15 5) (fld w 7 5))
  | 9 => .ok (.jinit (fld w 26 1) (fld w 25 1) (fld w 20 5) (fld w 15 5))
  | 10 => .ok (.jarr (fld w 25 1) (fld w 15 5) (fld w 7 5))
  | _ => reservedOp

/-- custom-0, f3 = 3: the op5 family (R33, R38). -/
def decCustom0F3 (w : BitVec 32) : Except Cause Instr :=
  match (fld w 27 5).toNat with
  | 0 => .ok (.acas (fld w 26 1) (fld w 25 1) (fld w 20 5) (fld w 15 5) (fld w 7 5))
  | 1 => .ok (.afadd (fld w 26 1) (fld w 25 1) (fld w 20 5) (fld w 15 5) (fld w 7 5))
  | 2 => .ok (.afmax (fld w 26 1) (fld w 25 1) (fld w 20 5) (fld w 15 5) (fld w 7 5))
  | 3 => .ok (.afmin (fld w 26 1) (fld w 25 1) (fld w 20 5) (fld w 15 5) (fld w 7 5))
  | 4 => .ok (.atkt (fld w 26 1) (fld w 25 1) (fld w 20 5) (fld w 15 5) (fld w 7 5))
  | 5 => .ok (.qpush (fld w 26 1) (fld w 25 1) (fld w 20 5) (fld w 15 5) (fld w 7 5))
  | 6 => .ok (.qpushw (fld w 26 1) (fld w 25 1) (fld w 20 5) (fld w 15 5) (fld w 7 5))
  | 7 => .ok (.qpop (fld w 25 1) (fld w 15 5) (fld w 7 5))
  | 8 => .ok (.qpopw (fld w 25 1) (fld w 15 5) (fld w 7 5))
  | 9 => .ok (.qinit (fld w 26 1) (fld w 25 1) (fld w 20 5) (fld w 15 5))
  | _ => reservedOp

/-- custom-0, f3 = 4: the op5 family (R33, R38). -/
def decCustom0F4 (w : BitVec 32) : Except Cause Instr :=
  match (fld w 27 5).toNat with
  | 0 => .ok (.spawn (fld w 26 1) (fld w 25 1) (fld w 20 5) (fld w 15 5) (fld w 7 5))
  | 1 => .ok (.spawnw (fld w 26 1) (fld w 25 1) (fld w 20 5) (fld w 15 5) (fld w 7 5))
  | 2 => .ok (.cancel (fld w 20 7) (fld w 15 5))
  | 3 => .ok (.wstat (fld w 20 7) (fld w 15 5) (fld w 7 5))
  | 4 => .ok (.gcond (fld w 26 1) (fld w 25 1) (fld w 20 5) (fld w 15 5))
  | _ => reservedOp

/-- custom-0, f3 = 5: the op5 family (R33, R38). -/
def decCustom0F5 (w : BitVec 32) : Except Cause Instr :=
  match (fld w 27 5).toNat with
  | 0 => .ok (.invk (fld w 20 7) (fld w 15 5) (fld w 7 5))
  | 1 => .ok (.invkw (fld w 20 7) (fld w 15 5) (fld w 7 5))
  | 2 => .ok (.rstatInvoke (fld w 25 1) (fld w 15 5) (fld w 7 5))
  | 3 => .ok (.rdref (fld w 7 5))
  | 4 => .ok (.rddcyc (fld w 7 5))
  | 5 => .ok (.rdratio (fld w 7 5))
  | _ => reservedOp

/-- custom-0, f3 = 6: the op5 family (R33, R38). -/
def decCustom0F6 (w : BitVec 32) : Except Cause Instr :=
  match (fld w 27 5).toNat with
  | 0 => .ok (.tret)
  | 1 => .ok (.tlbinv (fld w 26 1) (fld w 25 1) (fld w 20 5) (fld w 15 5))
  | 2 => .ok (.tlbsync)
  | 3 => .ok (.htabw (fld w 26 1) (fld w 25 1) (fld w 20 5) (fld w 15 5))
  | 4 => .ok (.aperw (fld w 20 7) (fld w 15 5))
  | 5 => .ok (.wfm)
  | 6 => .ok (.dhalt)
  | _ => reservedOp

/-- custom-0, f3 = 7: the op3 family (R33, R38). -/
def decCustom0F7 (w : BitVec 32) : Except Cause Instr :=
  match (fld w 21 3).toNat with
  | 0 => .ok (.padd (fld w 24 8) (fld w 20 1) (fld w 15 5) (fld w 7 5))
  | 1 => .ok (.paddi (fld w 24 8) (fld w 20 1) (fld w 15 5) (fld w 7 5))
  | 2 => .ok (.psetf (fld w 24 8) (fld w 20 1) (fld w 15 5) (fld w 7 5))
  | 3 => .ok (.pgetf (fld w 20 1) (fld w 15 5) (fld w 7 5))
  | 4 => .ok (.kld (fld w 24 8) (fld w 7 5))
  | 5 => .ok (.kldf (fld w 24 8) (fld w 7 5))
  | _ => reservedOp

/-- custom-2, f3 = 0: the op5 family (R33, R40). -/
def decCustom2F0 (w : BitVec 32) : Except Cause Instr :=
  match (fld w 27 5).toNat with
  | 0 => .ok (.vld (fld w 20 7) (fld w 15 5) (fld w 7 5))
  | 1 => .ok (.vst (fld w 20 7) (fld w 15 5) (fld w 7 5))
  | 2 => .ok (.vlds (fld w 26 1) (fld w 25 1) (fld w 20 5) (fld w 15 5) (fld w 7 5))
  | 3 => .ok (.vsts (fld w 26 1) (fld w 25 1) (fld w 20 5) (fld w 15 5) (fld w 7 5))
  | 4 => .ok (.vgath (fld w 26 1) (fld w 25 1) (fld w 20 5) (fld w 15 5) (fld w 7 5))
  | 5 => .ok (.vscat (fld w 26 1) (fld w 25 1) (fld w 20 5) (fld w 15 5) (fld w 7 5))
  | 6 => .ok (.vsadd (fld w 26 1) (fld w 25 1) (fld w 20 5) (fld w 15 5) (fld w 7 5))
  | 7 => .ok (.vaccr (fld w 25 1) (fld w 20 5) (fld w 15 5) (fld w 7 5))
  | 8 => .ok (.vaccw (fld w 25 1) (fld w 20 5) (fld w 15 5) (fld w 7 5))
  | 9 => .ok (.vldp (fld w 20 7) (fld w 15 5) (fld w 7 5))
  | _ => reservedOp

/-- custom-2, f3 = 1: the op4 family (R33, R40). -/
def decCustom2F1 (w : BitVec 32) : Except Cause Instr :=
  match (fld w 28 4).toNat with
  | 0 => .ok (.cvt (fld w 25 3) (fld w 20 5) (fld w 15 5) (fld w 7 5))
  | 1 => .ok (.fcvtz (fld w 25 3) (fld w 20 5) (fld w 15 5) (fld w 7 5))
  | 2 => .ok (.packb (fld w 25 3) (fld w 20 5) (fld w 15 5) (fld w 7 5))
  | 3 => .ok (.unpkb (fld w 20 5) (fld w 15 5))
  | 4 => .ok (.lutw (fld w 20 5))
  | 5 => .ok (.lutx (fld w 20 5) (fld w 7 5))
  | 6 => .ok (.zpsub (fld w 20 5) (fld w 15 5) (fld w 7 5))
  | _ => reservedOp

/-- custom-2, f3 = 2: the op4 family (R33, R40). -/
def decCustom2F2 (w : BitVec 32) : Except Cause Instr :=
  match (fld w 28 4).toNat with
  | 0 => .ok (.mxa (fld w 24 1) (fld w 20 4) (fld w 15 4))
  | 1 => .ok (.mxz (fld w 20 5) (fld w 7 5))
  | 2 => .ok (.mxrd (fld w 25 3) (fld w 20 5) (fld w 7 5))
  | 3 => .ok (.mxwr (fld w 20 5) (fld w 7 5))
  | 4 => .ok (.mxstat (fld w 20 5) (fld w 7 5))
  | 5 => .ok (.mxsync (fld w 20 5))
  | 6 => .ok (.mxtest (fld w 20 5) (fld w 7 5))
  | _ => reservedOp

/-- custom-2, f3 = 3: the op4 family (R33, R40). -/
noncomputable def decCustom2F3 (w : BitVec 32) : Except Cause Instr :=
  match (fld w 28 4).toNat with
  | 0 => .ok (.mxas (fld w 25 3) (fld w 24 1) (fld w 20 4) (fld w 15 4) (fld w 7 5))
  | 1 => .ok (.mxcmp (fld w 25 3) (fld w 20 5) (fld w 15 5) (fld w 7 5))
  | 2 => .ok (.mxmchk (fld w 25 3) (fld w 20 5) (fld w 15 5) (fld w 7 5))
  | _ => reservedOp

/-- custom-2, f3 = 4: the op4 family (R33, R40). -/
noncomputable def decCustom2F4 (w : BitVec 32) : Except Cause Instr :=
  match (fld w 28 4).toNat with
  | 0 => .ok (.bset (fld w 20 5) (fld w 7 5))
  | 1 => .ok (.bget (fld w 20 5) (fld w 7 5))
  | 2 => .ok (.tbnd (fld w 20 5) (fld w 15 5))
  | 3 => .ok (.tcon (fld w 25 3) (fld w 20 5) (fld w 15 5))
  | 4 => .ok (.twalk (fld w 20 5) (fld w 15 5))
  | 5 => .ok (.tstat (fld w 7 5))
  | _ => reservedOp

/-- custom-2, f3 = 5: the op4 family (R33, R40). -/
noncomputable def decCustom2F5 (w : BitVec 32) : Except Cause Instr :=
  match (fld w 28 4).toNat with
  | 0 => .ok (.copy (fld w 25 3) (fld w 20 5) (fld w 15 5) (fld w 7 5))
  | 1 => .ok (.ctile (fld w 25 3) (fld w 20 5) (fld w 15 5) (fld w 7 5))
  | 2 => .ok (.sealB (fld w 7 5))
  | 3 => .ok (.waitb (fld w 20 5))
  | 4 => .ok (.testb (fld w 20 5) (fld w 7 5))
  | 5 => .ok (.cstage (fld w 7 5))
  | _ => reservedOp

/-- custom-2, f3 = 6: the op5 family (R33, R40). -/
noncomputable def decCustom2F6 (w : BitVec 32) : Except Cause Instr :=
  match (fld w 27 5).toNat with
  | 0 => .ok (.rcfg (fld w 26 1) (fld w 25 1) (fld w 20 5) (fld w 15 5) (fld w 7 5))
  | 1 => .ok (.rfree (fld w 7 5))
  | 2 => .ok (.rpop (fld w 15 5) (fld w 7 5))
  | 3 => .ok (.rpush (fld w 7 5))
  | 4 => .ok (.rstatRing (fld w 15 5) (fld w 7 5))
  | 5 => .ok (.subs (fld w 26 1) (fld w 25 1) (fld w 20 5) (fld w 15 5) (fld w 7 5))
  | 6 => .ok (.unsubs (fld w 7 5))
  | 7 => .ok (.drain (fld w 25 1) (fld w 15 5) (fld w 7 5))
  | _ => reservedOp

/-- custom-1: the ZV family, every op number assigned (R39). -/
def decCustom1 (w : BitVec 32) : Except Cause Instr :=
  match (fld w 27 5).toNat with
  | 0 => .ok (.vadd (fld w 24 3) (fld w 23 1) (fld w 22 1) (fld w 18 4) (fld w 14 4) (fld w 11 3) (fld w 7 4))
  | 1 => .ok (.vsub (fld w 24 3) (fld w 23 1) (fld w 22 1) (fld w 18 4) (fld w 14 4) (fld w 11 3) (fld w 7 4))
  | 2 => .ok (.vmul (fld w 24 3) (fld w 23 1) (fld w 22 1) (fld w 18 4) (fld w 14 4) (fld w 11 3) (fld w 7 4))
  | 3 => .ok (.vfma (fld w 24 3) (fld w 23 1) (fld w 22 1) (fld w 18 4) (fld w 14 4) (fld w 11 3) (fld w 7 4))
  | 4 => .ok (.vfms (fld w 24 3) (fld w 23 1) (fld w 22 1) (fld w 18 4) (fld w 14 4) (fld w 11 3) (fld w 7 4))
  | 5 => .ok (.vfnma (fld w 24 3) (fld w 23 1) (fld w 22 1) (fld w 18 4) (fld w 14 4) (fld w 11 3) (fld w 7 4))
  | 6 => .ok (.vmin (fld w 24 3) (fld w 23 1) (fld w 22 1) (fld w 18 4) (fld w 14 4) (fld w 11 3) (fld w 7 4))
  | 7 => .ok (.vmax (fld w 24 3) (fld w 23 1) (fld w 22 1) (fld w 18 4) (fld w 14 4) (fld w 11 3) (fld w 7 4))
  | 8 => .ok (.vabs (fld w 24 3) (fld w 23 1) (fld w 22 1) (fld w 18 4) (fld w 14 4) (fld w 11 3) (fld w 7 4))
  | 9 => .ok (.vneg (fld w 24 3) (fld w 23 1) (fld w 22 1) (fld w 18 4) (fld w 14 4) (fld w 11 3) (fld w 7 4))
  | 10 => .ok (.vdiv (fld w 24 3) (fld w 23 1) (fld w 22 1) (fld w 18 4) (fld w 14 4) (fld w 11 3) (fld w 7 4))
  | 11 => .ok (.vsqrt (fld w 24 3) (fld w 23 1) (fld w 22 1) (fld w 18 4) (fld w 14 4) (fld w 11 3) (fld w 7 4))
  | 12 => .ok (.vrcp (fld w 24 3) (fld w 23 1) (fld w 22 1) (fld w 18 4) (fld w 14 4) (fld w 11 3) (fld w 7 4))
  | 13 => .ok (.vexp2 (fld w 24 3) (fld w 23 1) (fld w 22 1) (fld w 18 4) (fld w 14 4) (fld w 11 3) (fld w 7 4))
  | 14 => .ok (.vceq (fld w 24 3) (fld w 23 1) (fld w 22 1) (fld w 18 4) (fld w 14 4) (fld w 11 3) (fld w 7 4))
  | 15 => .ok (.vclt (fld w 24 3) (fld w 23 1) (fld w 22 1) (fld w 18 4) (fld w 14 4) (fld w 11 3) (fld w 7 4))
  | 16 => .ok (.vcle (fld w 24 3) (fld w 23 1) (fld w 22 1) (fld w 18 4) (fld w 14 4) (fld w 11 3) (fld w 7 4))
  | 17 => .ok (.vand (fld w 24 3) (fld w 23 1) (fld w 22 1) (fld w 18 4) (fld w 14 4) (fld w 11 3) (fld w 7 4))
  | 18 => .ok (.vor (fld w 24 3) (fld w 23 1) (fld w 22 1) (fld w 18 4) (fld w 14 4) (fld w 11 3) (fld w 7 4))
  | 19 => .ok (.vxor (fld w 24 3) (fld w 23 1) (fld w 22 1) (fld w 18 4) (fld w 14 4) (fld w 11 3) (fld w 7 4))
  | 20 => .ok (.vshl (fld w 24 3) (fld w 23 1) (fld w 22 1) (fld w 18 4) (fld w 14 4) (fld w 11 3) (fld w 7 4))
  | 21 => .ok (.vshr (fld w 24 3) (fld w 23 1) (fld w 22 1) (fld w 18 4) (fld w 14 4) (fld w 11 3) (fld w 7 4))
  | 22 => .ok (.vsra (fld w 24 3) (fld w 23 1) (fld w 22 1) (fld w 18 4) (fld w 14 4) (fld w 11 3) (fld w 7 4))
  | 23 => .ok (.vsel (fld w 24 3) (fld w 23 1) (fld w 22 1) (fld w 18 4) (fld w 14 4) (fld w 11 3) (fld w 7 4))
  | 24 => .ok (.vperm (fld w 24 3) (fld w 23 1) (fld w 22 1) (fld w 18 4) (fld w 14 4) (fld w 11 3) (fld w 7 4))
  | 25 => .ok (.vsplat (fld w 24 3) (fld w 23 1) (fld w 22 1) (fld w 18 4) (fld w 14 4) (fld w 11 3) (fld w 7 4))
  | 26 => .ok (.vextr (fld w 24 3) (fld w 23 1) (fld w 22 1) (fld w 18 4) (fld w 14 4) (fld w 11 3) (fld w 7 4))
  | 27 => .ok (.vins (fld w 24 3) (fld w 23 1) (fld w 22 1) (fld w 18 4) (fld w 14 4) (fld w 11 3) (fld w 7 4))
  | 28 => .ok (.vrsum (fld w 24 3) (fld w 23 1) (fld w 22 1) (fld w 18 4) (fld w 14 4) (fld w 11 3) (fld w 7 4))
  | 29 => .ok (.vrmax (fld w 24 3) (fld w 23 1) (fld w 22 1) (fld w 18 4) (fld w 14 4) (fld w 11 3) (fld w 7 4))
  | 30 => .ok (.vmov (fld w 24 3) (fld w 23 1) (fld w 22 1) (fld w 18 4) (fld w 14 4) (fld w 11 3) (fld w 7 4))
  | 31 => .ok (.vclass (fld w 24 3) (fld w 23 1) (fld w 22 1) (fld w 18 4) (fld w 14 4) (fld w 11 3) (fld w 7 4))
  | _ => reservedOp

/-- BRANCH (R55). -/
def decBranch (w : BitVec 32) : Except Cause Instr :=
  match (fld w 12 3).toNat with
  | 0 => .ok (.beq (immB w) (fld w 20 5) (fld w 15 5))
  | 1 => .ok (.bne (immB w) (fld w 20 5) (fld w 15 5))
  | 4 => .ok (.blt (immB w) (fld w 20 5) (fld w 15 5))
  | 5 => .ok (.bge (immB w) (fld w 20 5) (fld w 15 5))
  | 6 => .ok (.bltu (immB w) (fld w 20 5) (fld w 15 5))
  | 7 => .ok (.bgeu (immB w) (fld w 20 5) (fld w 15 5))
  | _ => illegal

/-- LOAD (R55). -/
def decLoad (w : BitVec 32) : Except Cause Instr :=
  match (fld w 12 3).toNat with
  | 0 => .ok (.lb (fld w 20 12) (fld w 15 5) (fld w 7 5))
  | 1 => .ok (.lh (fld w 20 12) (fld w 15 5) (fld w 7 5))
  | 2 => .ok (.lw (fld w 20 12) (fld w 15 5) (fld w 7 5))
  | 3 => .ok (.ld (fld w 20 12) (fld w 15 5) (fld w 7 5))
  | 4 => .ok (.lbu (fld w 20 12) (fld w 15 5) (fld w 7 5))
  | 5 => .ok (.lhu (fld w 20 12) (fld w 15 5) (fld w 7 5))
  | 6 => .ok (.lwu (fld w 20 12) (fld w 15 5) (fld w 7 5))
  | _ => illegal

/-- STORE (R55). -/
def decStore (w : BitVec 32) : Except Cause Instr :=
  match (fld w 12 3).toNat with
  | 0 => .ok (.sb (immS w) (fld w 20 5) (fld w 15 5))
  | 1 => .ok (.sh (immS w) (fld w 20 5) (fld w 15 5))
  | 2 => .ok (.sw (immS w) (fld w 20 5) (fld w 15 5))
  | 3 => .ok (.sd (immS w) (fld w 20 5) (fld w 15 5))
  | _ => illegal

/-- OP-IMM (R55): the shifts carry imm[11:6]. -/
def decOpImm (w : BitVec 32) : Except Cause Instr :=
  match (fld w 12 3).toNat, (fld w 26 6).toNat with
  | 0, _ => .ok (.addi (fld w 20 12) (fld w 15 5) (fld w 7 5))
  | 2, _ => .ok (.slti (fld w 20 12) (fld w 15 5) (fld w 7 5))
  | 3, _ => .ok (.sltiu (fld w 20 12) (fld w 15 5) (fld w 7 5))
  | 4, _ => .ok (.xori (fld w 20 12) (fld w 15 5) (fld w 7 5))
  | 6, _ => .ok (.ori (fld w 20 12) (fld w 15 5) (fld w 7 5))
  | 7, _ => .ok (.andi (fld w 20 12) (fld w 15 5) (fld w 7 5))
  | 1, 0 => .ok (.slli (fld w 20 6) (fld w 15 5) (fld w 7 5))
  | 5, 0 => .ok (.srli (fld w 20 6) (fld w 15 5) (fld w 7 5))
  | 5, 16 => .ok (.srai (fld w 20 6) (fld w 15 5) (fld w 7 5))
  | _, _ => illegal

/-- OP-IMM-32 (R55). -/
def decOpImm32 (w : BitVec 32) : Except Cause Instr :=
  match (fld w 12 3).toNat, (fld w 25 7).toNat with
  | 0, _ => .ok (.addiw (fld w 20 12) (fld w 15 5) (fld w 7 5))
  | 1, 0 => .ok (.slliw (fld w 20 5) (fld w 15 5) (fld w 7 5))
  | 5, 0 => .ok (.srliw (fld w 20 5) (fld w 15 5) (fld w 7 5))
  | 5, 32 => .ok (.sraiw (fld w 20 5) (fld w 15 5) (fld w 7 5))
  | _, _ => illegal

/-- OP (R55). -/
def decOp (w : BitVec 32) : Except Cause Instr :=
  match (fld w 25 7).toNat, (fld w 12 3).toNat with
  | 0, 0 => .ok (.add (fld w 20 5) (fld w 15 5) (fld w 7 5))
  | 0, 1 => .ok (.sll (fld w 20 5) (fld w 15 5) (fld w 7 5))
  | 0, 2 => .ok (.slt (fld w 20 5) (fld w 15 5) (fld w 7 5))
  | 0, 3 => .ok (.sltu (fld w 20 5) (fld w 15 5) (fld w 7 5))
  | 0, 4 => .ok (.xor (fld w 20 5) (fld w 15 5) (fld w 7 5))
  | 0, 5 => .ok (.srl (fld w 20 5) (fld w 15 5) (fld w 7 5))
  | 0, 6 => .ok (.or (fld w 20 5) (fld w 15 5) (fld w 7 5))
  | 0, 7 => .ok (.and (fld w 20 5) (fld w 15 5) (fld w 7 5))
  | 32, 0 => .ok (.sub (fld w 20 5) (fld w 15 5) (fld w 7 5))
  | 32, 5 => .ok (.sra (fld w 20 5) (fld w 15 5) (fld w 7 5))
  | 1, 0 => .ok (.mul (fld w 20 5) (fld w 15 5) (fld w 7 5))
  | 1, 1 => .ok (.mulh (fld w 20 5) (fld w 15 5) (fld w 7 5))
  | 1, 2 => .ok (.mulhsu (fld w 20 5) (fld w 15 5) (fld w 7 5))
  | 1, 3 => .ok (.mulhu (fld w 20 5) (fld w 15 5) (fld w 7 5))
  | 1, 4 => .ok (.div (fld w 20 5) (fld w 15 5) (fld w 7 5))
  | 1, 5 => .ok (.divu (fld w 20 5) (fld w 15 5) (fld w 7 5))
  | 1, 6 => .ok (.rem (fld w 20 5) (fld w 15 5) (fld w 7 5))
  | 1, 7 => .ok (.remu (fld w 20 5) (fld w 15 5) (fld w 7 5))
  | _, _ => illegal

/-- OP-32 (R55). -/
def decOp32 (w : BitVec 32) : Except Cause Instr :=
  match (fld w 25 7).toNat, (fld w 12 3).toNat with
  | 0, 0 => .ok (.addw (fld w 20 5) (fld w 15 5) (fld w 7 5))
  | 0, 1 => .ok (.sllw (fld w 20 5) (fld w 15 5) (fld w 7 5))
  | 0, 5 => .ok (.srlw (fld w 20 5) (fld w 15 5) (fld w 7 5))
  | 32, 0 => .ok (.subw (fld w 20 5) (fld w 15 5) (fld w 7 5))
  | 32, 5 => .ok (.sraw (fld w 20 5) (fld w 15 5) (fld w 7 5))
  | 1, 0 => .ok (.mulw (fld w 20 5) (fld w 15 5) (fld w 7 5))
  | 1, 4 => .ok (.divw (fld w 20 5) (fld w 15 5) (fld w 7 5))
  | 1, 5 => .ok (.divuw (fld w 20 5) (fld w 15 5) (fld w 7 5))
  | 1, 6 => .ok (.remw (fld w 20 5) (fld w 15 5) (fld w 7 5))
  | 1, 7 => .ok (.remuw (fld w 20 5) (fld w 15 5) (fld w 7 5))
  | _, _ => illegal

/-- AMO (R55): funct5 and width; LR, SC and the rest are illegal. -/
def decAmo (w : BitVec 32) : Except Cause Instr :=
  match (fld w 27 5).toNat, (fld w 12 3).toNat with
  | 0, 2 => .ok (.amoaddW (fld w 26 1) (fld w 25 1) (fld w 20 5) (fld w 15 5) (fld w 7 5))
  | 0, 3 => .ok (.amoaddD (fld w 26 1) (fld w 25 1) (fld w 20 5) (fld w 15 5) (fld w 7 5))
  | 1, 2 => .ok (.amoswapW (fld w 26 1) (fld w 25 1) (fld w 20 5) (fld w 15 5) (fld w 7 5))
  | 1, 3 => .ok (.amoswapD (fld w 26 1) (fld w 25 1) (fld w 20 5) (fld w 15 5) (fld w 7 5))
  | 4, 2 => .ok (.amoxorW (fld w 26 1) (fld w 25 1) (fld w 20 5) (fld w 15 5) (fld w 7 5))
  | 4, 3 => .ok (.amoxorD (fld w 26 1) (fld w 25 1) (fld w 20 5) (fld w 15 5) (fld w 7 5))
  | 8, 2 => .ok (.amoorW (fld w 26 1) (fld w 25 1) (fld w 20 5) (fld w 15 5) (fld w 7 5))
  | 8, 3 => .ok (.amoorD (fld w 26 1) (fld w 25 1) (fld w 20 5) (fld w 15 5) (fld w 7 5))
  | 12, 2 => .ok (.amoandW (fld w 26 1) (fld w 25 1) (fld w 20 5) (fld w 15 5) (fld w 7 5))
  | 12, 3 => .ok (.amoandD (fld w 26 1) (fld w 25 1) (fld w 20 5) (fld w 15 5) (fld w 7 5))
  | 16, 2 => .ok (.amominW (fld w 26 1) (fld w 25 1) (fld w 20 5) (fld w 15 5) (fld w 7 5))
  | 16, 3 => .ok (.amominD (fld w 26 1) (fld w 25 1) (fld w 20 5) (fld w 15 5) (fld w 7 5))
  | 20, 2 => .ok (.amomaxW (fld w 26 1) (fld w 25 1) (fld w 20 5) (fld w 15 5) (fld w 7 5))
  | 20, 3 => .ok (.amomaxD (fld w 26 1) (fld w 25 1) (fld w 20 5) (fld w 15 5) (fld w 7 5))
  | 24, 2 => .ok (.amominuW (fld w 26 1) (fld w 25 1) (fld w 20 5) (fld w 15 5) (fld w 7 5))
  | 24, 3 => .ok (.amominuD (fld w 26 1) (fld w 25 1) (fld w 20 5) (fld w 15 5) (fld w 7 5))
  | 28, 2 => .ok (.amomaxuW (fld w 26 1) (fld w 25 1) (fld w 20 5) (fld w 15 5) (fld w 7 5))
  | 28, 3 => .ok (.amomaxuD (fld w 26 1) (fld w 25 1) (fld w 20 5) (fld w 15 5) (fld w 7 5))
  | _, _ => illegal

/-- SYSTEM (R55, R58, R73). -/
def decSystem (w : BitVec 32) : Except Cause Instr :=
  match (fld w 12 3).toNat with
  | 0 => if w = 0x00000073 then .ok .ecall else if w = 0x00100073 then .ok .ebreak else illegal
  | 1 => .ok (.csrrw (fld w 20 12) (fld w 15 5) (fld w 7 5))
  | 2 => .ok (.csrrs (fld w 20 12) (fld w 15 5) (fld w 7 5))
  | 3 => .ok (.csrrc (fld w 20 12) (fld w 15 5) (fld w 7 5))
  | 5 => .ok (.csrrwi (fld w 20 12) (fld w 15 5) (fld w 7 5))
  | 6 => .ok (.csrrsi (fld w 20 12) (fld w 15 5) (fld w 7 5))
  | 7 => .ok (.csrrci (fld w 20 12) (fld w 15 5) (fld w 7 5))
  | _ => illegal

/-- OP-FP (R55). -/
def decOpFp (w : BitVec 32) : Except Cause Instr :=
  match (fld w 25 7).toNat, (fld w 20 5).toNat, (fld w 12 3).toNat with
  | 0, _, _ => .ok (.faddS (fld w 20 5) (fld w 15 5) (fld w 12 3) (fld w 7 5))
  | 4, _, _ => .ok (.fsubS (fld w 20 5) (fld w 15 5) (fld w 12 3) (fld w 7 5))
  | 8, _, _ => .ok (.fmulS (fld w 20 5) (fld w 15 5) (fld w 12 3) (fld w 7 5))
  | 12, _, _ => .ok (.fdivS (fld w 20 5) (fld w 15 5) (fld w 12 3) (fld w 7 5))
  | 44, 0, _ => .ok (.fsqrtS (fld w 15 5) (fld w 12 3) (fld w 7 5))
  | 96, 0, _ => .ok (.fcvtWS (fld w 15 5) (fld w 12 3) (fld w 7 5))
  | 96, 1, _ => .ok (.fcvtWuS (fld w 15 5) (fld w 12 3) (fld w 7 5))
  | 96, 2, _ => .ok (.fcvtLS (fld w 15 5) (fld w 12 3) (fld w 7 5))
  | 96, 3, _ => .ok (.fcvtLuS (fld w 15 5) (fld w 12 3) (fld w 7 5))
  | 104, 0, _ => .ok (.fcvtSW (fld w 15 5) (fld w 12 3) (fld w 7 5))
  | 104, 1, _ => .ok (.fcvtSWu (fld w 15 5) (fld w 12 3) (fld w 7 5))
  | 104, 2, _ => .ok (.fcvtSL (fld w 15 5) (fld w 12 3) (fld w 7 5))
  | 104, 3, _ => .ok (.fcvtSLu (fld w 15 5) (fld w 12 3) (fld w 7 5))
  | 16, _, 0 => .ok (.fsgnjS (fld w 20 5) (fld w 15 5) (fld w 7 5))
  | 16, _, 1 => .ok (.fsgnjnS (fld w 20 5) (fld w 15 5) (fld w 7 5))
  | 16, _, 2 => .ok (.fsgnjxS (fld w 20 5) (fld w 15 5) (fld w 7 5))
  | 20, _, 0 => .ok (.fminS (fld w 20 5) (fld w 15 5) (fld w 7 5))
  | 20, _, 1 => .ok (.fmaxS (fld w 20 5) (fld w 15 5) (fld w 7 5))
  | 80, _, 0 => .ok (.fleS (fld w 20 5) (fld w 15 5) (fld w 7 5))
  | 80, _, 1 => .ok (.fltS (fld w 20 5) (fld w 15 5) (fld w 7 5))
  | 80, _, 2 => .ok (.feqS (fld w 20 5) (fld w 15 5) (fld w 7 5))
  | 112, 0, 0 => .ok (.fmvXW (fld w 15 5) (fld w 7 5))
  | 112, 0, 1 => .ok (.fclassS (fld w 15 5) (fld w 7 5))
  | 120, 0, 0 => .ok (.fmvWX (fld w 15 5) (fld w 7 5))
  | _, _, _ => illegal

/-- A standard form with one legal funct3. -/
def onF3 (w : BitVec 32) (f3 : Nat) (i : Instr) : Except Cause Instr := if (fld w 12 3).toNat = f3 then .ok i else illegal
/-- A fused multiply-add has fmt = 00 (R55). -/
def onFmt0 (w : BitVec 32) (i : Instr) : Except Cause Instr := if (fld w 25 2).toNat = 0 then .ok i else illegal

/-- The instruction that a word's opcode, cell and op number name, the word's fields taken as they stand (R30 to R33); `rest` for the cells of
custom-2 from f3 = 3 up. -/
def pickWith (w : BitVec 32) (rest : Except Cause Instr) : Except Cause Instr :=
  match (fld w 0 7).toNat with
  | 11 =>
    match (fld w 12 3).toNat with
    | 0 => decCustom0F0 w
    | 1 => decCustom0F1 w
    | 2 => decCustom0F2 w
    | 3 => decCustom0F3 w
    | 4 => decCustom0F4 w
    | 5 => decCustom0F5 w
    | 6 => decCustom0F6 w
    | 7 => decCustom0F7 w
    | _ => illegal
  | 91 =>
    match (fld w 12 3).toNat with
    | 0 => decCustom2F0 w
    | 1 => decCustom2F1 w
    | 2 => decCustom2F2 w
    | _ => rest
  | 43 => decCustom1 w
  | 55 => .ok (.lui (fld w 12 20) (fld w 7 5))
  | 23 => .ok (.auipc (fld w 12 20) (fld w 7 5))
  | 111 => .ok (.jal (immJ w) (fld w 7 5))
  | 103 => onF3 w 0 (.jalr (fld w 20 12) (fld w 15 5) (fld w 7 5))
  | 99 => decBranch w
  | 3 => decLoad w
  | 35 => decStore w
  | 19 => decOpImm w
  | 27 => decOpImm32 w
  | 51 => decOp w
  | 59 => decOp32 w
  | 15 => onF3 w 0 (.fence (fld w 20 12) (fld w 15 5) (fld w 7 5))
  | 115 => decSystem w
  | 47 => decAmo w
  | 7 => onF3 w 2 (.flw (fld w 20 12) (fld w 15 5) (fld w 7 5))
  | 39 => onF3 w 2 (.fsw (immS w) (fld w 20 5) (fld w 15 5))
  | 67 => onFmt0 w (.fmaddS (fld w 27 5) (fld w 20 5) (fld w 15 5) (fld w 12 3) (fld w 7 5))
  | 71 => onFmt0 w (.fmsubS (fld w 27 5) (fld w 20 5) (fld w 15 5) (fld w 12 3) (fld w 7 5))
  | 75 => onFmt0 w (.fnmsubS (fld w 27 5) (fld w 20 5) (fld w 15 5) (fld w 12 3) (fld w 7 5))
  | 79 => onFmt0 w (.fnmaddS (fld w 27 5) (fld w 20 5) (fld w 15 5) (fld w 12 3) (fld w 7 5))
  | 83 => decOpFp w
  | _ => illegal

/-- The cells of custom-2 from f3 = 3 up. -/
noncomputable def pickRest (w : BitVec 32) : Except Cause Instr :=
  match (fld w 12 3).toNat with
  | 3 => decCustom2F3 w
  | 4 => decCustom2F4 w
  | 5 => decCustom2F5 w
  | 6 => decCustom2F6 w
  | _ => illegal

/-- The instruction that a word names (R30 to R33). -/
noncomputable def pick (w : BitVec 32) : Except Cause Instr := pickWith w (pickRest w)

/-- As `pick`, but for cells that no repeat body may hold (R127). -/
def pickBody (w : BitVec 32) : Except Cause Instr := pickWith w illegal

/-- The bits of a word that its instruction's fields and fixed bits account for: an unused field must be zero (R34), so the
word must be the one the encoder writes. MXA's rounding code is judged apart, at step 4 (R36, R227). -/
def unusedZero (w : BitVec 32) : Instr → Bool
  | .mxa n p q => encode (.mxa n p q) = w &&& 0xF1FFFFFF
  | i => encode i = w

/-- R42 steps 1 to 4 on a word and what its opcode names: the instruction, or the first cause that the word raises. -/
def checkWord (w : BitVec 32) : Except Cause Instr → Except Cause Instr
  | .error c => .error c
  | .ok i =>
    if !i.opcodeOk then .error .illegalOpcode
    else if !i.patternOk then .error .sparsePatternUnsupported
    else if !(unusedZero w i && i.fieldsOk) then .error .reservedField
    else if encode i ≠ w || !i.roundingOk then .error .reservedRounding
    else .ok i

/-- The instruction of a word, or the first cause that the word raises (R42 steps 1 to 4). -/
noncomputable def decode (w : BitVec 32) : Except Cause Instr := checkWord w (pick w)

/-- The instruction of a word of a repeat body (R127). -/
def decodeBody (w : BitVec 32) : Except Cause Instr := checkWord w (pickBody w)

/-- R1, R30: four bytes, the first at the lowest address, make a little-endian word. -/
def wordOfBytes : List (BitVec 8) → Option (BitVec 32)
  | [b0, b1, b2, b3] => some (b3 ++ b2 ++ b1 ++ b0)
  | _ => none

/-- The bytes of a word as memory holds them (R1, R30). -/
def bytesOfWord (w : BitVec 32) : List (BitVec 8) :=
  [w.extractLsb' 0 8, w.extractLsb' 8 8, w.extractLsb' 16 8, w.extractLsb' 24 8]

/-- The decoder on bytes: anything but four bytes is no instruction word. -/
noncomputable def decodeBytes (bs : List (BitVec 8)) : Except Cause Instr :=
  match wordOfBytes bs with
  | some w => decode w
  | none => .error .illegalOpcode

/-- The instruction whose bits are `w` numbered as the opcode table numbers them: one 32-bit word, laid out little-endian. -/
noncomputable def decodeTableWord (nbits w : Nat) : Option Instr :=
  if nbits ≤ 32 then (decodeBytes (bytesOfWord (BitVec.ofNat 32 w))).toOption else none

end Sys2Proof
end

