-- ==== Sys2Proof/Word.lean ====
section
/-! DEFINITION. The word types of the machine (R1, R43): 64-bit words, 32-bit words, bytes, 256-bit vector registers. -/

namespace Sys2Proof

/-- A 64-bit register or doubleword. -/
abbrev Word := BitVec 64
/-- A byte. -/
abbrev Byte := BitVec 8
/-- A v register (R43). -/
abbrev VWord := BitVec 256

end Sys2Proof
end

