-- ==== Sys2Proof/Machine/Bits.lean ====
section
/-! DEFINITION. Bit fields, sign extension, byte order and lanes (R1, R43). -/

namespace Sys2Proof.Machine

/-- Bits `hi` to `lo` of a number: `n` bits from bit `lo` (R1). -/
def bits (x lo n : Nat) : Nat := (x >>> lo) % 2 ^ n

/-- Bit `i` of a number. -/
def bitAt (x i : Nat) : Bool := bits x i 1 = 1

/-- The signed value of the low `w` bits of `x`. -/
def signed (w x : Nat) : Int :=
  if bits x (w - 1) 1 = 1 then (x % 2 ^ w : Nat) - (2 ^ w : Nat) else (x % 2 ^ w : Nat)

/-- A number of `w` bits from an integer, wrapping. -/
def wrapTo (w : Nat) (z : Int) : Nat := (z % (2 ^ w : Nat)).toNat

/-- Sign extension of the low `w` bits of a 64-bit word (R56, R62). -/
def sextW (w : Nat) (x : Word) : Word := BitVec.ofInt 64 (signed w x.toNat)

/-- The number that bytes make, the first the least significant (R1). -/
def leNat : List Byte → Nat
  | [] => 0
  | b :: bs => b.toNat + 256 * leNat bs

/-- The `n` bytes of a number, the least significant first (R1). -/
def leBytes : Nat → Nat → List Byte
  | 0, _ => []
  | n + 1, x => BitVec.ofNat 8 x :: leBytes n (x / 256)

/-- Lane `i` of width `w` of a vector register (R43). -/
def lane (w : Nat) (v : VWord) (i : Nat) : Nat := bits v.toNat (i * w) w

/-- The number whose fields of width `w` are the list's entries, the first in the low bits. -/
def packLanes (w : Nat) : List Nat → Nat
  | [] => 0
  | x :: xs => x % 2 ^ w + 2 ^ w * packLanes w xs

/-- A vector register from its lanes (R43). -/
def ofLanes (w : Nat) (xs : List Nat) : VWord := BitVec.ofNat 256 (packLanes w xs)

/-- All the lanes of width `w` of a vector register. -/
def lanes (w : Nat) (v : VWord) : List Nat := (List.range (256 / w)).map (lane w v)

/-- Change the list's entry `i`, if there is one. -/
def listSet {α : Type} : List α → Nat → α → List α
  | [], _, _ => []
  | _ :: xs, 0, y => y :: xs
  | x :: xs, i + 1, y => x :: listSet xs i y

/-- The 64-bit word with bits `lo + n - 1` to `lo` replaced. -/
def setBits (x lo n v : Nat) : Nat := x - bits x lo n * 2 ^ lo + (v % 2 ^ n) * 2 ^ lo

/-- A `Bool` as a number. -/
def b2n (b : Bool) : Nat := if b then 1 else 0

/-- A `Bool` as a word. -/
def b2w (b : Bool) : Word := if b then 1 else 0

end Sys2Proof.Machine
end

