-- ==== Sys2Proof/Machine/Float.lean ====
section
/-! DEFINITION. Exact values, rounding and floating-point formats (R77 to R79, R84 to R87), and correctly rounded arithmetic
(R64, R100). A finite value is an integer multiple of a power of two; a magnitude whose sticky mark is set lies strictly
between its multiple and the next. -/

namespace Sys2Proof.Machine

/-- The rounding modes of R84; `sto` carries its 16-bit random value. -/
inductive Rnd where
  | rne | rtz | rup | rdn | rto
  | sto (u : Nat)
deriving DecidableEq, Repr

/-- A value of an element format (R77, R78). `fin neg m e` is (-1)^neg * m * 2^e. -/
inductive FVal where
  | nan (signalling : Bool)
  | inf (neg : Bool)
  | fin (neg : Bool) (m : Nat) (e : Int)
deriving DecidableEq, Repr

/-- The exception flags of one operation (R64, R87). -/
structure Flg where
  nv : Bool := false
  dz : Bool := false
  ov : Bool := false
  uf : Bool := false
  nx : Bool := false
deriving DecidableEq, Repr

/-- The union of two sets of flags. -/
def Flg.union (a b : Flg) : Flg :=
  { nv := a.nv || b.nv, dz := a.dz || b.dz, ov := a.ov || b.ov, uf := a.uf || b.uf, nx := a.nx || b.nx }

/-- The flags in their places of fcsr (R74). -/
def Flg.toNat (f : Flg) : Nat := b2n f.nv * 16 + b2n f.dz * 8 + b2n f.ov * 4 + b2n f.uf * 2 + b2n f.nx

/-- A floating-point format (R77): exponent and mantissa widths, and whether the exponent of all ones holds the specials. -/
structure FFmt where
  eb : Nat
  mb : Nat
  ieee : Bool
deriving DecidableEq, Repr

/-- fp32 (R77). -/
def fp32 : FFmt := ⟨8, 23, true⟩
/-- bf16 (R77). -/
def bf16 : FFmt := ⟨8, 7, true⟩
/-- fp16 (R77). -/
def fp16 : FFmt := ⟨5, 10, true⟩
/-- e4m3 (R77). -/
def e4m3 : FFmt := ⟨4, 3, false⟩
/-- e5m2 (R77). -/
def e5m2 : FFmt := ⟨5, 2, true⟩

/-- The width of a format in bits. -/
def FFmt.width (f : FFmt) : Nat := 1 + f.eb + f.mb
/-- The bias (R77). -/
def FFmt.bias (f : FFmt) : Nat := 2 ^ (f.eb - 1) - 1
/-- The exponent of the smallest normal (R77). -/
def FFmt.emin (f : FFmt) : Int := 1 - (f.bias : Int)
/-- The code of +infinity, where the format has one (R77). -/
def FFmt.infCode (f : FFmt) : Nat := (2 ^ f.eb - 1) * 2 ^ f.mb
/-- The code of the largest finite value (R77). -/
def FFmt.maxCode (f : FFmt) : Nat := if f.ieee then f.infCode - 1 else 2 ^ (f.eb + f.mb) - 2
/-- The canonical NaN (R77). -/
def FFmt.nanCode (f : FFmt) : Nat := if f.ieee then f.infCode + 2 ^ (f.mb - 1) else 2 ^ (f.eb + f.mb) - 1
/-- A code with a sign. -/
def FFmt.withSign (f : FFmt) (neg : Bool) (c : Nat) : Nat := b2n neg * 2 ^ (f.eb + f.mb) + c

/-- The value of a code (R77, R78). -/
def FFmt.decode (f : FFmt) (x : Nat) : FVal :=
  let neg := bitAt x (f.eb + f.mb)
  let e := bits x f.mb f.eb
  let m := bits x 0 f.mb
  if f.ieee && e == 2 ^ f.eb - 1 then
    if m = 0 then .inf neg else .nan (!(bitAt m (f.mb - 1)))
  else if !f.ieee && e == 2 ^ f.eb - 1 && m == 2 ^ f.mb - 1 then .nan false
  else if e = 0 then .fin neg m (f.emin - f.mb)
  else .fin neg (2 ^ f.mb + m) ((e : Int) - f.bias - f.mb)

/-- A non-negative magnitude: between `m` and `m + 1` times 2^e, strictly above `m` when `st`. -/
structure Mag where
  m : Nat
  e : Int
  st : Bool := false
deriving DecidableEq, Repr

/-- The number of bits of a natural number. -/
def bitLen (m : Nat) : Nat := if m = 0 then 0 else Nat.log2 m + 1

/-- A magnitude as multiples of 2^t: the integer part, and whether rounding takes the next one up and whether it is inexact (R84). -/
def roundAt (md : Rnd) (neg : Bool) (x : Mag) (t : Int) : Nat × Bool :=
  if t ≤ x.e then (x.m * 2 ^ (x.e - t).toNat, x.st)
  else
    let s0 := (t - x.e).toNat
    let far := bitLen x.m + 40 < s0
    let s := if far then 40 else s0
    let m := if far then b2n (x.m != 0) else x.m
    let q := m >>> s
    let r := m % 2 ^ s
    let inexact := r != 0 || x.st
    let half := 2 ^ (s - 1)
    let up : Bool := match md with
      | .rne => decide (half < r) || (r == half && (x.st || q % 2 == 1))
      | .rtz => false
      | .rup => inexact && !neg
      | .rdn => inexact && neg
      | .rto => inexact && q % 2 == 0
      | .sto u => decide (u * 2 ^ s < r * 65536)
    (if up then q + 1 else q, inexact)

/-- The overflow rule of a float target (R85); e4m3 saturates in every mode. -/
def FFmt.overflowCode (f : FFmt) (md : Rnd) (neg : Bool) : Nat :=
  if !f.ieee then f.maxCode
  else match md with
    | .rne | .sto _ => f.infCode
    | .rtz | .rto => f.maxCode
    | .rup => if neg then f.maxCode else f.infCode
    | .rdn => if neg then f.infCode else f.maxCode

/-- A finite magnitude rounded into a float format, with the flags of R87 (tininess after rounding). -/
def FFmt.round (f : FFmt) (md : Rnd) (neg : Bool) (x : Mag) : Nat × Flg :=
  if x.m = 0 && !x.st then (f.withSign neg 0, {})
  else
    let top : Int := x.e + (bitLen x.m : Int) - 1
    let emax : Int := (2 ^ f.eb : Nat) - (f.bias : Int)
    if emax < top then (f.withSign neg (f.overflowCode md neg), { ov := true, nx := true })
    else
      let t0 : Int := f.emin - f.mb
      let t1 : Int := top - f.mb
      let t := if t1 < t0 then t0 else t1
      let (q, inexact) := roundAt md neg x t
      let code := (t - t0).toNat * 2 ^ f.mb + q
      if f.maxCode < code then (f.withSign neg (f.overflowCode md neg), { ov := true, nx := true })
      else
        let tiny : Bool := decide (top < f.emin - 1) ||
          (top == f.emin - 1 && decide ((roundAt md neg x t1).1 < 2 ^ (f.mb + 1)))
        (f.withSign neg code, { uf := tiny && inexact, nx := inexact })

/-- Conversion of a value into a float format (R84 to R88). -/
def FFmt.ofVal (f : FFmt) (md : Rnd) : FVal → Nat × Flg
  | .nan s => (f.nanCode, { nv := s })
  | .inf neg => if f.ieee then (f.withSign neg f.infCode, {}) else (f.withSign neg f.maxCode, { ov := true, nx := true })
  | .fin neg m e => f.round md neg ⟨m, e, false⟩

/-- A finite value rounded to an integer, and whether that was inexact (R84). -/
def roundInt (md : Rnd) (neg : Bool) (x : Mag) : Int × Bool :=
  let (q, i) := roundAt md neg x 0
  (if neg then -(q : Int) else q, i)

/-- The value of an integer. -/
def FVal.ofInt (z : Int) : FVal := .fin (decide (z < 0)) z.natAbs 0

/-- Conversion into an integer of `w` bits by the Zynca rules (R85, R87): NaN gives 0. Out of range sets NV and NX. -/
def intOfVal (w : Nat) (md : Rnd) : FVal → Int × Flg
  | .nan _ => (0, { nv := true })
  | .inf neg => (if neg then -(2 ^ (w - 1) : Nat) else ((2 ^ (w - 1) : Nat) : Int) - 1, { nv := true, nx := true })
  | .fin neg m e =>
    let lo : Int := -(2 ^ (w - 1) : Nat)
    let hi : Int := ((2 ^ (w - 1) : Nat) : Int) - 1
    if m != 0 && decide ((w : Int) + 2 < e + (bitLen m : Int)) then (if neg then lo else hi, { nv := true, nx := true })
    else
      let (z, i) := roundInt md neg ⟨m, e, false⟩
      if z < lo then (lo, { nv := true, nx := true })
      else if hi < z then (hi, { nv := true, nx := true })
      else (z, { nx := i })

/-- The signed sum of two finite values, as an integer multiple of a power of two. -/
def addFin (n1 : Bool) (m1 : Nat) (e1 : Int) (n2 : Bool) (m2 : Nat) (e2 : Int) : Int × Int :=
  let e := if e1 < e2 then e1 else e2
  let a : Int := (m1 * 2 ^ (e1 - e).toNat : Nat)
  let b : Int := (m2 * 2 ^ (e2 - e).toNat : Nat)
  ((if n1 then -a else a) + (if n2 then -b else b), e)

/-- The sign of a zero sum (IEEE 754): that of both terms when they agree, else + but for RDN. -/
def zeroSumNeg (md : Rnd) (n1 n2 : Bool) : Bool := if n1 = n2 then n1 else md == .rdn

/-- Exact sum of two values; the flag says an invalid operation. -/
def FVal.add (md : Rnd) : FVal → FVal → FVal × Bool
  | .nan s, y => (.nan false, s || (match y with | .nan t => t | _ => false))
  | _, .nan t => (.nan false, t)
  | .inf a, .inf b => if a = b then (.inf a, false) else (.nan false, true)
  | .inf a, _ => (.inf a, false)
  | _, .inf b => (.inf b, false)
  | .fin n1 m1 e1, .fin n2 m2 e2 =>
    let (z, e) := addFin n1 m1 e1 n2 m2 e2
    if z = 0 then (.fin (zeroSumNeg md n1 n2) 0 e, false) else (.fin (decide (z < 0)) z.natAbs e, false)

/-- The value with its sign flipped. -/
def FVal.neg : FVal → FVal
  | .nan s => .nan s
  | .inf a => .inf (!a)
  | .fin n m e => .fin (!n) m e

/-- Exact product; the flag says an invalid operation. -/
def FVal.mul : FVal → FVal → FVal × Bool
  | .nan s, y => (.nan false, s || (match y with | .nan t => t | _ => false))
  | _, .nan t => (.nan false, t)
  | .inf a, .inf b => (.inf (a != b), false)
  | .inf a, .fin n m _ => if m = 0 then (.nan false, true) else (.inf (a != n), false)
  | .fin n m _, .inf b => if m = 0 then (.nan false, true) else (.inf (b != n), false)
  | .fin n1 m1 e1, .fin n2 m2 e2 => (.fin (n1 != n2) (m1 * m2) (e1 + e2), false)

/-- Whether a value is a signalling NaN. -/
def FVal.isSnan : FVal → Bool
  | .nan s => s
  | _ => false

/-- Whether a value is a NaN. -/
def FVal.isNan : FVal → Bool
  | .nan _ => true
  | _ => false

/-- A result rounded into a format with an invalid mark added. -/
def FFmt.finish (f : FFmt) (md : Rnd) (r : FVal × Bool) : Nat × Flg :=
  let (c, fl) := f.ofVal md r.1
  (c, { fl with nv := fl.nv || r.2 })

/-- x + y in a format (R64, R100). -/
def FFmt.fadd (f : FFmt) (md : Rnd) (x y : Nat) : Nat × Flg := f.finish md (FVal.add md (f.decode x) (f.decode y))
/-- x - y in a format. -/
def FFmt.fsub (f : FFmt) (md : Rnd) (x y : Nat) : Nat × Flg := f.finish md (FVal.add md (f.decode x) (f.decode y).neg)
/-- x * y in a format. -/
def FFmt.fmul (f : FFmt) (md : Rnd) (x y : Nat) : Nat × Flg := f.finish md (FVal.mul (f.decode x) (f.decode y))

/-- Fused: (product sign `np`) x * y plus (sign `nc`) z, rounded once (R64, R100). -/
def FFmt.ffma (f : FFmt) (md : Rnd) (np : Bool) (x y : Nat) (nc : Bool) (z : Nat) : Nat × Flg :=
  let (p, i1) := FVal.mul (f.decode x) (f.decode y)
  let p := if np then p.neg else p
  let c := f.decode z
  let c := if nc then c.neg else c
  let (r, i2) := FVal.add md p c
  f.finish md (r, i1 || i2)

/-- The magnitude of a quotient of naturals with enough bits to round from (R100: correctly rounded). -/
def divMag (m1 : Nat) (e1 : Int) (m2 : Nat) (e2 : Int) : Mag :=
  let k := bitLen m2 + 66
  let n := m1 * 2 ^ k
  ⟨n / m2, e1 - e2 - k, n % m2 != 0⟩

/-- x / y in a format, with DZ for a finite non-zero value over zero. -/
def FFmt.fdiv (f : FFmt) (md : Rnd) (x y : Nat) : Nat × Flg :=
  match f.decode x, f.decode y with
  | .nan s, b => (f.nanCode, { nv := s || b.isSnan })
  | _, .nan t => (f.nanCode, { nv := t })
  | .inf _, .inf _ => (f.nanCode, { nv := true })
  | .inf a, .fin n _ _ => f.ofVal md (.inf (a != n))
  | .fin n _ _, .inf b => (f.withSign (n != b) 0, {})
  | .fin n1 m1 e1, .fin n2 m2 e2 =>
    if m2 = 0 then
      if m1 = 0 then (f.nanCode, { nv := true })
      else ((f.ofVal md (.inf (n1 != n2))).1, { dz := true })
    else if m1 = 0 then (f.withSign (n1 != n2) 0, {})
    else f.round md (n1 != n2) (divMag m1 e1 m2 e2)

/-- The integer square root, one bit of the root at a time from bit `n` down. -/
def isqrtFrom (x : Nat) : Nat → Nat → Nat
  | 0, r => r
  | n + 1, r => if (r + 2 ^ n) * (r + 2 ^ n) ≤ x then isqrtFrom x n (r + 2 ^ n) else isqrtFrom x n r

/-- The square root of a non-zero magnitude with enough bits to round from. -/
def sqrtMag (m : Nat) (e : Int) : Mag :=
  let k : Nat := if e % 2 = 0 then 80 else 81
  let n := m * 2 ^ k
  let r := isqrtFrom n (bitLen n / 2 + 1) 0
  ⟨r, (e - k) / 2, r * r != n⟩

/-- The square root in a format. -/
def FFmt.fsqrt (f : FFmt) (md : Rnd) (x : Nat) : Nat × Flg :=
  match f.decode x with
  | .nan s => (f.nanCode, { nv := s })
  | .inf true => (f.nanCode, { nv := true })
  | .inf false => f.ofVal md (.inf false)
  | .fin n m e =>
    if m = 0 then (f.withSign n 0, {})
    else if n then (f.nanCode, { nv := true })
    else f.round md false (sqrtMag m e)

/-- Order of two values that are no NaNs: -1, 0 or 1; the two zeros are equal. -/
def FVal.cmp : FVal → FVal → Int
  | .inf a, .inf b => if a = b then 0 else if a then -1 else 1
  | .inf a, _ => if a then -1 else 1
  | _, .inf b => if b then 1 else -1
  | .fin n1 m1 e1, .fin n2 m2 e2 =>
    let z := (addFin n1 m1 e1 (!n2) m2 e2).1
    if z < 0 then -1 else if z = 0 then 0 else 1
  | _, _ => 0

/-- x = y; only a signalling NaN is invalid (R64, R102). -/
def FFmt.feq (f : FFmt) (x y : Nat) : Bool × Flg :=
  let a := f.decode x
  let b := f.decode y
  if a.isNan || b.isNan then (false, { nv := a.isSnan || b.isSnan }) else (a.cmp b == 0, {})
/-- x < y; any NaN is invalid. -/
def FFmt.flt (f : FFmt) (x y : Nat) : Bool × Flg :=
  let a := f.decode x
  let b := f.decode y
  if a.isNan || b.isNan then (false, { nv := true }) else (a.cmp b == -1, {})
/-- x <= y; any NaN is invalid. -/
def FFmt.fle (f : FFmt) (x y : Nat) : Bool × Flg :=
  let a := f.decode x
  let b := f.decode y
  if a.isNan || b.isNan then (false, { nv := true }) else (decide (a.cmp b ≤ 0), {})

/-- Whether `x` stands below `y`, with -0 below +0 (R100). -/
def FFmt.below (f : FFmt) (x y : Nat) : Bool :=
  let c := (f.decode x).cmp (f.decode y)
  c == -1 || (c == 0 && bitAt x (f.eb + f.mb) && !bitAt y (f.eb + f.mb))

/-- The smaller (`mx = false`) or the larger of two codes (R64, R100). -/
def FFmt.fminmax (f : FFmt) (mx : Bool) (x y : Nat) : Nat × Flg :=
  let a := f.decode x
  let b := f.decode y
  let fl : Flg := { nv := a.isSnan || b.isSnan }
  if a.isNan && b.isNan then (f.nanCode, fl)
  else if a.isNan then (y, fl)
  else if b.isNan then (x, fl)
  else (if f.below x y != mx then x else y, fl)

/-- The class code of R102. -/
def FFmt.classCode (f : FFmt) (x : Nat) : Nat :=
  match f.decode x with
  | .nan s => if s then 8 else 9
  | .inf n => if n then 0 else 7
  | .fin n m _ =>
    if m = 0 then (if n then 3 else 4)
    else if m < 2 ^ f.mb then (if n then 2 else 5)
    else (if n then 1 else 6)

end Sys2Proof.Machine
end

