-- ==== Sys2Proof/Machine/Elem.lean ====
section
/-! DEFINITION. Element formats by their pointer tags (R66, R77 to R83): sizes, values, conversion, BFP blocks. -/

namespace Sys2Proof.Machine

/-- The format code of a fat pointer (R66). -/
def tagOf (p : Word) : Nat := bits p.toNat 59 5
/-- The block-length log of a fat pointer (R66). -/
def blogOf (p : Word) : Nat := bits p.toNat 56 3
/-- The 48-bit address of a fat pointer. -/
def addrOf (p : Word) : Nat := bits p.toNat 0 48
/-- A pointer moved by a signed number of bytes, the tag kept (R72, R108). -/
def ptrAdd (p : Word) (z : Int) : Word :=
  BitVec.ofNat 64 (bits p.toNat 56 8 * 2 ^ 56 + wrapTo 56 ((bits p.toNat 0 56 : Nat) + z))

/-- The float format of a tag 0x01 to 0x05 (R66). -/
def floatFmt (tag : Nat) : Option FFmt :=
  match tag with
  | 1 => some fp32
  | 2 => some bf16
  | 3 => some fp16
  | 4 => some e4m3
  | 5 => some e5m2
  | _ => none

/-- Bytes of an element of a tag 0x00 to 0x08 (R79, R106); 1 for the others, which have no element addressing. -/
def elemSize (tag : Nat) : Nat :=
  match tag with
  | 1 => 4
  | 2 => 2
  | 3 => 2
  | 6 => 4
  | 7 => 2
  | _ => 1

/-- The exact value of an element code of a tag 0x01 to 0x08 (R77, R79). -/
def elemVal (tag x : Nat) : FVal :=
  match floatFmt tag with
  | some f => f.decode x
  | none => .ofInt (signed (8 * elemSize tag) x)

/-- A value rounded into the format of a tag 0x01 to 0x08, with its flags (R84 to R88). -/
def elemOf (tag : Nat) (md : Rnd) (v : FVal) : Nat × Flg :=
  match floatFmt tag with
  | some f => f.ofVal md v
  | none =>
    let (z, fl) := intOfVal (8 * elemSize tag) md v
    (wrapTo (8 * elemSize tag) z, fl)

/-- Conversion of one element between formats; integer to integer is exact or saturates (R88). -/
def elemConv (dst src : Nat) (md : Rnd) (x : Nat) : Nat × Flg := elemOf dst md (elemVal src x)

/-- The rounding mode of a Zynca rnd code other than STO (R36). -/
def rndOf (c : Nat) : Rnd :=
  match c with
  | 0 => .rne
  | 1 => .rtz
  | 2 => .rup
  | 3 => .rdn
  | _ => .rto

/-- Whether a pointer's block-length log suits its tag (R83). -/
def blogOk (tag blog : Nat) : Bool :=
  if tag = 0 then true
  else if tag = 9 || tag = 10 then blog == 3
  else if tag = 12 then blog != 0
  else blog == 0

/-- The magnitude bits of a BFP tag (R80). -/
def bfpQ (tag : Nat) : Nat := if tag = 9 then 6 else 2
/-- Bytes of a BFP block (R80). -/
def bfpBytes (tag : Nat) : Nat := if tag = 9 then 34 else 18

/-- The value of an element code of a BFP block with exponent bytes `e0` and `e1` (R80). -/
def bfpVal (q e0 e1 code : Nat) : FVal :=
  let m := bits code 0 q
  let neg := bitAt code q
  let e := if bitAt code (q + 1) then e1 else e0
  if e0 = 255 || e1 = 255 then .nan false
  else if neg && m == 0 then .nan false
  else .fin neg m ((e : Int) - 127 - q)

/-- The code of element `i` of a BFP block (R80). -/
def bfpCode (tag : Nat) (blk : List Byte) (i : Nat) : Nat :=
  if tag = 9 then (blk.getD (2 + i) 0).toNat
  else bits (blk.getD (2 + i / 2) 0).toNat (i % 2 * 4) 4

/-- The 32 values of a BFP block. -/
def bfpVals (tag : Nat) (blk : List Byte) : List FVal :=
  (List.range 32).map fun i => bfpVal (bfpQ tag) (blk.getD 0 0).toNat (blk.getD 1 0).toNat (bfpCode tag blk i)

/-- The exponent of a value's magnitude, floor(log2 |x|): none for zero, and the top for an infinity (R92). -/
def magLog : FVal → Option Int
  | .fin _ m e => if m = 0 then none else some (e + (bitLen m : Int) - 1)
  | .inf _ => some 100000
  | .nan _ => none

/-- The largest magnitude exponent of a list. -/
def maxLog : List FVal → Option Int
  | [] => none
  | v :: vs => match magLog v, maxLog vs with
    | none, r => r
    | some a, none => some a
    | some a, some b => some (if a < b then b else a)

/-- An element rounded to an integer multiple of 2^(e - 127 - q), and whether it saturates: its magnitude, at most 2^q - 1. -/
def bfpRound (md : Rnd) (q e : Nat) : FVal → Bool × Nat × Bool
  | .nan _ => (false, 0, false)
  | .inf neg => (neg, 2 ^ q - 1, true)
  | .fin neg m ex =>
    let r := (roundAt md neg ⟨m, ex, false⟩ ((e : Int) - 127 - q)).1
    if 2 ^ q - 1 < r then (neg, 2 ^ q - 1, true) else (neg, r, false)

/-- The code of one element of a block (R92). -/
def bfpEncode (md : Rnd) (q e0 e1 : Nat) (x : FVal) : Nat :=
  let small : Bool := match magLog x with
    | none => true
    | some l => decide (l < (e0 : Int) - 127)
  let (n0, r0, o0) := bfpRound md q e0 x
  let (n1, r1, _) := bfpRound md q e1 x
  let use0 := small && !o0
  let neg := if use0 then n0 else n1
  let r := if use0 then r0 else r1
  if r = 0 then 0 else (if use0 then 0 else 2 ^ (q + 1)) + b2n neg * 2 ^ q + r

/-- The exponent bytes and codes of 32 values packed under a mode (R92). -/
def bfpPack (tag : Nat) (md : Rnd) (xs : List FVal) : Nat × Nat × List Nat :=
  let q := bfpQ tag
  if xs.any (·.isNan) then (255, 255, xs.map fun _ => 2 ^ q)
  else
    match maxLog xs with
    | none => (0, 0, xs.map fun _ => 0)
    | some l =>
      let z : Int := if l + 128 < q then q else l + 128
      let e1 := (if 254 < z then 254 else z).toNat
      let e0 := e1 - q
      (e0, e1, xs.map (bfpEncode md q e0 e1))

/-- The bytes of a BFP block from its exponents and codes (R80). -/
def bfpBytesOf (tag : Nat) (p : Nat × Nat × List Nat) : List Byte :=
  let codes := p.2.2
  [BitVec.ofNat 8 p.1, BitVec.ofNat 8 p.2.1] ++
    (if tag = 9 then codes.map (BitVec.ofNat 8 ·)
     else (List.range 16).map fun i => BitVec.ofNat 8 (codes.getD (2 * i) 0 + 16 * codes.getD (2 * i + 1) 0))

end Sys2Proof.Machine
end

