-- ==== Sys2Proof/Config.lean ====
section
/-! DEFINITION. The values that the spec leaves open (free values, with no body, so nothing can be proved of them) and the
sizes of the parts (R9, R12, R30). -/

namespace Sys2Proof.Config

/-- The `n`-th free value of a run: a number nothing is known of. A use takes as many low bits of it as it needs. It fills the
destination bytes of failed and overlapping commands (R199, R219, R251, R272), the choice of R60, and the signature and key
bytes of R381 and R382. `State.free` counts the uses (notes/assumptions/9.md). -/
opaque freeValue : Nat → Nat

/-- The paths that the firmware of an I/O die, 0 or 1, writes at boot for a destination package (R298): the spec gives none
(notes/assumptions/9.md). -/
opaque route : Nat → Nat → List Nat

/-- The Falcon-1024 public key that a flash object (a firmware image, the manifest, helper data) carries with its signature, the SHAKE256 digest of the key that ROM
holds, and whether the signature of an object over a digest holds under a key (R380, R381). The spec gives neither the objects' layout nor the ROM's content. -/
opaque flashKey : List Byte → List Byte
opaque romDigest : List Byte
opaque falconHolds : List Byte → List Byte → List Byte → Bool
/-- The corrected PUF response of an I/O die with its helper data; the public key of a Falcon-1024 pair that is generated from a seed; the signature made with it
over bytes; whether a certificate binds a public key (R381, R382). -/
opaque pufResponse : Nat → List Byte → List Byte
opaque falconPublic : List Byte → List Byte
opaque falconSign : List Byte → List Byte → List Byte
opaque certBinds : List Byte → List Byte → Bool
/-- The version that a firmware image bears (R382). -/
opaque firmwareVersion : List Byte → Nat
/-- Whether a manifest withholds a cluster (R383). -/
opaque withheld : List Byte → Nat → Bool

/-- Lines of an L1 data cache: 4 KiB of 64-byte lines (R12, R131). -/
def l1Lines : Nat := 64
/-- Entries of a cluster TLB (R9, R338). -/
def tlbEntries : Nat := 256
/-- Lines of an atomic engine's CAM (R9, R179). -/
def camLines : Nat := 64
/-- Range-overlap scoreboard entries of a cluster (R9, R205). -/
def scoreEntries : Nat := 32
/-- Ring descriptors of a cluster (R9, R208). -/
def ringDescriptors : Nat := 64
/-- Engine commands that a cluster's queue holds (R228). -/
def engineQueue : Nat := 16
/-- Slots of a completion area (R156, R169). -/
def completionSlots : Nat := 16
/-- Slots of the H queue (R156). -/
def hSlots : Nat := 8
/-- Slots of the L queue (R156). -/
def lSlots : Nat := 56
/-- Egress slots of a context (R164). -/
def egressSlots : Nat := 16
/-- Groups that a die's ready queue of one partition and priority holds (R280). -/
def readyRoom : Nat := 1024
/-- Entries of a notice queue (R347). -/
def noticeRoom : Nat := 4096
/-- Lines of an instruction cache: 8 KiB of 64-byte lines (R12). -/
def icacheLines : Nat := 128
/-- Global reads that a core may have outstanding (R12). -/
def globalReads : Nat := 48
/-- Items that a read port prefetches, and pushes that a write port holds (R119, R121). -/
def portDepth : Nat := 16
/-- Walks that a die's walker runs at once (R339). -/
def walks : Nat := 64

end Sys2Proof.Config
end

