-- ==== Sys2Proof/Machine/Tab.lean ====
section
/-! DEFINITION. Sparse tables: lists of keys and values, rising by key; an absent key reads as the table's default.
Byte memories are such tables in a canonical form: no entry holds the default (R-independent; see notes/assumptions/2.md). -/

namespace Sys2Proof.Machine

/-- A sparse table from numbers to values. -/
abbrev Tab (α : Type) := List (Nat × α)

/-- The entry of a key, if any. -/
def Tab.find? {α : Type} : Tab α → Nat → Option α
  | [], _ => none
  | (k', v) :: t, k => if k' = k then some v else Tab.find? t k

/-- What a key reads as. -/
def Tab.get {α : Type} (t : Tab α) (k : Nat) (dflt : α) : α := (Tab.find? t k).getD dflt

/-- The table with a key set. -/
def Tab.set {α : Type} : Tab α → Nat → α → Tab α
  | [], k, v => [(k, v)]
  | (k', v') :: t, k, v =>
    if k' = k then (k, v) :: t else if k < k' then (k, v) :: (k', v') :: t else (k', v') :: Tab.set t k v

/-- The table with a key absent. -/
def Tab.erase {α : Type} : Tab α → Nat → Tab α
  | [], _ => []
  | (k', v') :: t, k => if k' = k then Tab.erase t k else (k', v') :: Tab.erase t k

/-- A byte memory: addresses strictly rising, no zero byte listed; an unlisted byte reads as zero (notes/assumptions/2.md). -/
abbrev Memory := Tab Byte

/-- The byte at an address. -/
def Memory.read (m : Memory) (a : Nat) : Byte := Tab.get m a 0

/-- The canonical form: keys strictly rising from `lo`, no zero byte. -/
def Memory.wfFrom : Nat → Memory → Bool
  | _, [] => true
  | lo, (a, b) :: m => decide (lo ≤ a) && !(b == 0) && Memory.wfFrom (a + 1) m

/-- The canonical form of a byte memory. -/
def Memory.wf (m : Memory) : Bool := Memory.wfFrom 0 m

/-- A write of one byte; writing zero removes the entry, so that equal memories are equal lists. -/
def Memory.write (m : Memory) (a : Nat) (b : Byte) : Memory := if b = 0 then Tab.erase m a else Tab.set m a b

/-- `n` bytes from an address up. -/
def Memory.readN (m : Memory) : Nat → Nat → List Byte
  | _, 0 => []
  | a, n + 1 => m.read a :: Memory.readN m (a + 1) n

/-- Bytes written from an address up, in ascending order. -/
def Memory.writeN (m : Memory) : Nat → List Byte → Memory
  | _, [] => m
  | a, b :: bs => Memory.writeN (m.write a b) (a + 1) bs

end Sys2Proof.Machine
end

