-- ==== Sys2Proof/Machine/CoreState.lean ====
section
/-! DEFINITION. What a worker core holds (R12, R43): its two register contexts, its ports, its mailbox, its caches and its
frame slots. Plain data throughout. -/

namespace Sys2Proof.Machine

/-- Who issued an operation: core key (cluster key * 8 + R17 index), context, firing number, group, partition, job, privilege. -/
structure Origin where
  k : Nat := 0
  h : Bool := false
  fid : Nat := 0
  gid : Nat := 0
  part : Nat := 0
  job : Nat := 0
  sup : Bool := false
deriving DecidableEq, Repr

/-- A place that holds a byte: device memory by physical address (R332), a cluster's scratchpad, a core's private memory,
another package's memory. -/
inductive Loc where
  | hbm (pa : Nat)
  | scratch (cl off : Nat)
  | priv (k off : Nat)
  | remote (pkg pa : Nat)
deriving DecidableEq, Repr

/-- Where a write goes: bytes from a place up, or bytes of a compressed view (R217): buffer, tag array, offset in the view. -/
inductive Dest where
  | at (l : Loc) (bs : List Byte)
  | packed (buf tags off : Nat) (bs : List Byte)
deriving DecidableEq, Repr

/-- How read bytes become register bits: zero-extended; sign-extended from a width; an element of a format into FP32 (R65); lane
`i` of width `w` (R108). -/
inductive Conv where
  | zext
  | sext (w : Nat)
  | toF32 (tag : Nat)
  | lane (w i : Nat)
deriving DecidableEq, Repr

/-- A producer whose register is empty (R44): the value that lands, the fflags it raises (R64), the replies it still awaits, the
port and position of the push that takes its value (R119); `div` marks FDIV.S and FSQRT.S (R64); `glob` a global read, of which a core has a
bounded number outstanding (R12); `sent` is the tick of its issue (R365); `more` the addresses of the lanes that a strided load reads at their homes
(R108). -/
structure Pend where
  id : Nat := 0
  reg : Nat := 0
  val : Nat := 0
  fl : Nat := 0
  wait : Nat := 0
  addr : Word := 0
  port : Option Nat := none
  div : Bool := false
  glob : Bool := false
  sent : Nat := 0
  more : List Word := []
deriving DecidableEq, Repr

/-- A write issued and not yet performed (R141): its virtual address and its parts. -/
structure PStore where
  id : Nat := 0
  va : Word := 0
  parts : List Dest := []
  away : Bool := false
  bad : Option Cause := none
  fid : Nat := 0
  sent : Nat := 0
deriving DecidableEq, Repr

/-- An L1 line (R132): 64 bytes by their partition, job and virtual line address. -/
structure L1Line where
  part : Nat := 0
  job : Nat := 0
  va : Nat := 0
  data : List Byte := []
deriving DecidableEq, Repr

/-- A line of an instruction cache (R12, R60): its words, by job and virtual line address. -/
structure ILine where
  job : Nat := 0
  va : Nat := 0
  words : List (BitVec 32) := []
deriving DecidableEq, Repr

/-- An aperture: the four words as installed, and words 1 to 3 as recorded (R345, R346). -/
structure Aper where
  w : List Word := [0, 0, 0, 0]
  reced : List Word := [0, 0, 0]
deriving DecidableEq, Repr

/-- Where the bytes of an access stand: consecutive bytes of a place; a scratch byte of another cluster, checked there (R70); or
an aperture's view from an offset (R218). -/
inductive Spot where
  | flat (l : Loc)
  | far (cl off : Nat)
  | view (ap : Aper) (off : Nat)
deriving DecidableEq, Repr

/-- A prefetched stream item or its recorded failure (R121). -/
structure PreItem where
  val : Nat := 0
  addr : Word := 0
  fail : Option (Cause × Word) := none
deriving DecidableEq, Repr

/-- A pushed stream item not yet performed (R119): its element spots of `unit` bytes each, and its bytes; `pend` names the
producer whose value it still awaits, 0 the moving instruction (R121); `gone` when its parts in other packages are on their way (R299); `cnts` says of each
spot whether it counts for migration (R348); `inRep` while the repetition that issued it is active (R122). -/
structure Push where
  pos : Nat := 0
  addr : Word := 0
  spots : List Spot := []
  unit : Nat := 0
  val : List Byte := []
  pend : Option Nat := none
  gone : Bool := false
  cnts : List Bool := []
  inRep : Bool := false
deriving DecidableEq, Repr

/-- A stream port (R114 to R121): configuration fields, binding, consumer position, prefetched items, pushes; `stuck` is the tick from which its next read or
its oldest push waits for a stopped die (R365). -/
structure Port where
  fields : Tab Word := []
  cfg : Bool := false
  bnd : Bool := false
  kind : Nat := 0
  reg : Nat := 0
  pos : Nat := 0
  pre : List PreItem := []
  pushes : List Push := []
  stuck : Option Nat := none
deriving DecidableEq, Repr

/-- The repeat state (R126 to R130); `words` is the repeat buffer. Active while C is not 0 (R321). -/
structure Rep where
  body : Word := 0
  len : Nat := 0
  count : Nat := 0
  iter : Nat := 0
  pos : Nat := 0
  words : List (BitVec 32) := []
deriving DecidableEq, Repr

/-- One half of the chain state (R260). -/
structure ChainSt where
  cfg : Bool := false
  base : Word := 0
  hsz : Nat := 0
  fmt : Nat := 0
  acc : Nat := 0
  m : Nat := 0
  u : Nat := 0
  v : Nat := 0
  bond : Nat := 0
  h : Nat := 0
  nstep : Nat := 0
deriving DecidableEq, Repr

/-- An invocation record (R306): state 1 sent, 2 reply placed. -/
structure InvRec where
  tag : Nat := 0
  st : Nat := 0
  code : Nat := 0
deriving DecidableEq, Repr

/-- A mailbox entry (R157): eight words, the image of its handler entry (R161), the sender's job, its place in the
placement order, its sender's firing or the firing whose command it completes, and for a completion the source class. -/
structure Msg where
  words : List Word := []
  entry : Word := 0
  hdl : Nat := 0
  sup : Bool := false
  job : Nat := 0
  gid : Nat := 0
  fid : Nat := 0
  ord : Nat := 0
  src : Nat := 0
deriving DecidableEq, Repr

/-- A completion slot that is reserved or holds a completion (R169). -/
structure CSlot where
  id : Nat := 0
  fid : Nat := 0
  hdl : Nat := 0
  hidden : Bool := false
  msg : Option Msg := none
deriving DecidableEq, Repr

/-- The running firing of a context (R165, R166): kind 0 launch, 1 handler, 2 group fault handler. `resv` is the reserved
egress slots still unused (R164), `prod` the production bound, `slot` and `rank` the frame slot a fault handler works for and the rank of the core that
has it. -/
structure Firing where
  active : Bool := false
  fid : Nat := 0
  kind : Nat := 0
  sup : Bool := false
  hidx : Nat := 0
  nmsg : Nat := 0
  prod : Nat := 0
  resv : Nat := 0
  gid : Nat := 0
  job : Nat := 0
  part : Nat := 0
  slot : Nat := 0
  rank : Nat := 0
  startOrd : Nat := 0
deriving DecidableEq, Repr

/-- Where a waiting instruction stands with a request it has sent: none; sent; replied (status and words); asleep until an engine's
wake (R170); waiting for the reply to an invocation, by its tag (R309); waiting for a sync marker, by its completion slot (R237);
for the command of an MXCMP to retire (R252). -/
inductive Await where
  | none
  | sent (id : Nat)
  | replied (ok : Bool) (cause : Cause) (ws : List Word)
  | asleep
  | invoked (tag : Nat)
  | synced (slot : Nat)
  | compared (id : Nat)
deriving DecidableEq, Repr

/-- Whether a request has been sent and not answered. -/
def Await.isSent : Await → Bool
  | .sent _ => true
  | _ => false

/-- A register context, L or H (R43). `wfm`: an entry was placed since the firing's start or its previous WFM (R328);
`wfmAt` the cycle at which a WFM that waits began to, `waitAt` the tick at which any instruction that waits began to (R330, R373). `relWait`: a release is waiting at its instruction, of domain scope or not (R147, R299). `passed`: which checks the waiting instruction has passed,
that are not made again: 1 all but that of the path, 2 all (R171, R306). Registers are numbered class * 256 + number, class 0 x, 1 f, 2 v (R329, code 6). -/
structure Ctx where
  pc : Word := 0
  x : Tab Word := []
  f : Tab Word := []
  empty : List Nat := []
  pend : List Pend := []
  fcsr : BitVec 8 := 0
  zcause : BitVec 8 := 0
  ztval : Word := 0
  arrivals : List (Word × Nat) := []
  causes : List (Cause × Word) := []
  fir : Firing := {}
  aw : Await := .none
  wfm : Bool := false
  wfmAt : Option Nat := none
  relWait : Option Bool := none
  passed : Nat := 0
  waitAt : Option Nat := none
deriving DecidableEq, Repr

/-- A batch of commands whose completion is not placed yet (R202): its firing, name, number, command count, completion slot, first
failure in issue order. -/
structure Batch where
  fid : Nat := 0
  bid : Nat := 0
  num : Nat := 0
  count : Nat := 0
  isSealed : Bool := false
  id : Nat := 0
  fail : Option (Nat × Cause × Word) := none
deriving DecidableEq, Repr

/-- A frame slot of a core (R315, R319, R322): state 0 free, 1 with the fault handler, 2 parked, 3 parked and ready, 4 held
by a debug halt. `codes` says how each block's bytes stand; `words` is the image as last restored, for the clean tags (R316);
`npend` counts the causes in the image and `late` are those known since; `ca` and `batches` are the firing's completion slots and batches, `zcause` to `zpos` those of a saved fault handler firing, `aw`
what a saved INVKW waits for (R309); `va` is the image's address when another core's slot held it (R353). -/
structure Slot where
  st : Nat := 0
  fir : Firing := {}
  cause : Nat := 0
  page : Word := 0
  ready : Nat := 0
  codes : List Nat := []
  words : List Word := []
  npend : Nat := 0
  late : List (Cause × Word) := []
  ca : List CSlot := []
  batches : List Batch := []
  zcause : BitVec 8 := 0
  ztval : Word := 0
  zpos : Word := 0
  aw : Await := .none
  va : Option Word := none
deriving DecidableEq, Repr

/-- The rest of the L context (R43): vector, predicate and bond registers, ports, repeat, LUT4, chain and batch state. -/
structure LState where
  v : Tab VWord := []
  p : Tab (BitVec 32) := []
  b : Tab (BitVec 16) := []
  ports : Tab Port := []
  rep : Rep := {}
  lut : List Byte := []
  lutOk : Bool := false
  zlutbase : Word := 0
  zrr : BitVec 12 := 0
  zpos : Word := 0
  chainI : ChainSt := {}
  chainR : ChainSt := {}
  invs : List InvRec := []
  copySeq : BitVec 32 := 0
  stage : Nat := 0
  batchSize : Nat := 0
  seals : BitVec 32 := 0
deriving DecidableEq, Repr

/-- A worker core (R12): contexts, private memory, mailbox, caches, counters, frame slots. `faultDue` is a cause raised and not
yet delivered (cause, value, stream part of zpos, precise), `pageWait` the page that a save, a restore or an H firing waits for
(R314, R315), `step` a single step in progress (R373): 1 its instruction, 2 the fault handler that runs free of the hold; `dirty` the blocks of its firing
image that the L context has written (R316): below 32 since its last restore from a firing slot, 32 higher since its last from a group image. -/
structure Core where
  l : Ctx := {}
  h : Ctx := {}
  ls : LState := {}
  priv : Memory := []
  constLen : Nat := 0
  hq : List Msg := []
  lq : List Msg := []
  ca : List CSlot := []
  armed : Bool := false
  bound : Option Nat := none
  launchDue : Option Nat := none
  sendCtr : BitVec 12 := 0
  invCtr : BitVec 12 := 0
  accCtr : BitVec 12 := 0
  l1 : List L1Line := []
  icache : List ILine := []
  stores : List PStore := []
  batches : List Batch := []
  instret : Word := 0
  slots : Tab Slot := []
  dataL : Option Nat := none
  dataH : Option Nat := none
  placeCtr : Nat := 0
  csrWait : List Nat := []
  faultDue : Option (Cause × Word × Word × Bool) := none
  step : Nat := 0
  pageWait : Option Word := none
  dirty : List Nat := []
deriving DecidableEq, Repr

end Sys2Proof.Machine
end

