-- ==== Sys2Proof/Machine/ClusterState.lean ====
section
/-! DEFINITION. What a cluster holds beside its cores (R9): scratchpad, accumulators and matrix engine, rings, scoreboard,
dealer, atomic engine, TLB. -/

namespace Sys2Proof.Machine

/-- An accumulator tile (R224, R225): elements by 64 * row + column, array mode, issue mode, step count, flags, holder; `bad` when an element holds
an error that its check bits do not correct (R239); `rows` those written since a group image was restored there (R316). -/
structure Acc where
  el : Tab (BitVec 32) := []
  i32 : Bool := false
  issueI32 : Bool := false
  steps : BitVec 16 := 0
  ovf : Bool := false
  nonfin : Bool := false
  retry : Bool := false
  holder : Option Nat := none
  bad : Bool := false
  rows : List Nat := []
deriving DecidableEq, Repr

/-- A ring slot (R207): 0 free, 1 filling, 2 full, 3 reading; the holder is a core key + 1000, or 1 spring, 2 outlet, 3 engine. -/
structure RSlot where
  st : Nat := 0
  holder : Nat := 0
deriving DecidableEq, Repr

/-- An active subscription or drain (R215, R216): who, descriptor, tiling word, tiles done, tiles in all, completion; `moved` once the tile in
hand is written but for what is on its way to another package; `since` the tick at which that tile was begun (R365). -/
structure Subs where
  out : Bool := false
  org : Origin := {}
  id : Nat := 0
  desc : List Word := []
  tiling : Word := 0
  tile : Nat := 0
  total : Nat := 0
  busy : Option Nat := none
  ending : Bool := false
  page : Option Word := none
  moved : Bool := false
  since : Nat := 0
deriving DecidableEq, Repr

/-- A ring descriptor (R208). -/
structure Ring where
  owner : Option Nat := none
  cfg : Bool := false
  base : Word := 0
  size : Nat := 0
  cnt : Nat := 0
  f : Nat := 0
  r : Nat := 0
  slots : List RSlot := []
  sub : Option Subs := none
deriving DecidableEq, Repr

/-- A range-overlap scoreboard entry (R205): ranges of scratch offsets, low to one past high, and the core whose command it is. -/
structure Score where
  id : Nat := 0
  gid : Nat := 0
  k : Nat := 0
  rd : List (Nat × Nat) := []
  wr : List (Nat × Nat) := []
deriving DecidableEq, Repr

/-- A dealer command (R192): kind 1 COPY, 2 CTILE, 3 schedule entry; operands, sequence number, completion slot (`id` when `own`) and
handler, batch and its place there; `page` is the page it waits for (R199), `seed` the zseed it read at acceptance (R340); `moved` once its bytes
are written but for those on their way to other packages, `crcVal` their CRC; `since` the tick from which the deadlines of its accesses run (R365). -/
structure DCmd where
  id : Nat := 0
  kind : Nat := 1
  org : Origin := {}
  src : Word := 0
  dst : Word := 0
  cnt : Nat := 0
  rnd : Nat := 0
  desc : List Word := []
  seq : BitVec 32 := 0
  crc : Bool := false
  own : Bool := false
  hdl : Nat := 0
  batch : Nat := 0
  place : Nat := 0
  accepted : Bool := false
  page : Option Word := none
  bad : Option (Cause × Word) := none
  seed : Word := 0
  moved : Bool := false
  crcVal : Nat := 0
  since : Nat := 0
deriving DecidableEq, Repr

/-- A chain step with its captured registers (R259): extents of the bonds and of o and i, the right bond register. -/
structure CStep where
  link : Word := 0
  rnd : Nat := 0
  keep : Bool := false
  dl : Nat := 0
  dr : Nat := 0
  o : Nat := 0
  i : Nat := 0
  rb : Nat := 0
deriving DecidableEq, Repr

/-- What an engine command does (R228, R251, R264, R266); `cur` is the chain state before the next step of a walk. -/
inductive EOp where
  | mxa (acc p q : Nat) (lut : List Byte)
  | mxas (pat acc p q : Nat) (masks : List Nat) (lut : List Byte)
  | mxcmp (pat : Nat) (src vals masks : Word)
  | mxz (acc mode : Nat)
  | mxrd (acc rnd : Nat) (dst : Word)
  | mxwr (acc : Nat) (src : Word)
  | vaccr (acc elem reg : Nat) (h : Bool)
  | vaccw (acc elem : Nat) (val : VWord)
  | sync (acc slot : Nat)
  | walk (acc : Nat) (steps : List CStep) (next : Nat) (isWalk ps : Bool) (hdl : Nat) (slots : List Nat) (lut : List Byte) (cur : ChainSt)
deriving DecidableEq, Repr

/-- An engine command in the queue (R228, R229); `slots` are the ring slots a started step has taken,
`outs` the scratch ranges (offset, bytes) that a kill of a started command leaves unspecified (R219); `occ` is the die cycles that a started
step occupies the array from the tick `since` (R229, R365); `link` the places of a chain step's link bytes once its pages are translated: address, spot,
bytes, counted or not (R264, R267). -/
structure ECmd where
  id : Nat := 0
  org : Origin := {}
  op : EOp := .mxz 0 0
  arrived : Bool := false
  started : Bool := false
  retried : Bool := false
  outs : List (Nat × Nat) := []
  slots : List (Nat × Nat) := []
  page : Option Word := none
  occ : Nat := 0
  since : Nat := 0
  link : Option (List (Word × Spot × Nat × Bool)) := none
deriving DecidableEq, Repr

/-- A TLB entry (R338). -/
structure Tlb where
  part : Nat := 0
  job : Nat := 0
  va : Nat := 0
  size : Nat := 0
  pa : Nat := 0
  r : Bool := false
  w : Bool := false
  x : Bool := false
  u : Bool := false
  cnt : Bool := false
  mask : Word := 0
  ls : Bool := true
  aper : Option Nat := none
deriving DecidableEq, Repr

/-- A non-leaf entry that a die's page-walk cache holds (R339): the level it was read at, the first address it covers, the table it points to. -/
structure WalkEnt where
  part : Nat := 0
  job : Nat := 0
  lvl : Nat := 0
  va : Nat := 0
  frame : Nat := 0
deriving DecidableEq, Repr

/-- A waiter registered at an engine or home (R170): kind 0 barrier, 1 queue push, 2 queue pop; the object, the generation it saw. -/
structure Waiter where
  kind : Nat := 0
  obj : Loc := .hbm 0
  gen : Nat := 0
  k : Nat := 0
  h : Bool := false
  fid : Nat := 0
deriving DecidableEq, Repr

/-- A core's atomic that waits for its cluster's engine (R178): the core's index, its firing, the tick at which it came. -/
structure AmoReq where
  idx : Nat := 0
  fid : Nat := 0
  since : Nat := 0
deriving DecidableEq, Repr

/-- A cluster (R9). `array` is the command on the array, `drain` the started steps behind which it has gone on, oldest first (R229). `amoLast` is the index of the core its engine served last, `amoWait` the cores that wait for it and `amoDeal` the dealer's command that does, since a tick (R178); `accCtr` numbers
the accesses of its dealer to other packages (R297); `dirty` the 256-byte blocks of its scratchpad written since a group image was restored there (R316);
`log` the waits that broke a bound, by tick, core and PC, oldest first (R330). -/
structure Cluster where
  scratch : Memory := []
  acc0 : Acc := {}
  acc1 : Acc := {}
  eng : List ECmd := []
  array : Option Nat := none
  drain : List Nat := []
  selfTest : Bool := false
  rings : Tab Ring := []
  score : List Score := []
  dealer : List DCmd := []
  amoQ : List Nat := []
  amoLast : Nat := 7
  amoWait : List AmoReq := []
  amoDeal : Option (Nat × Nat) := none
  accCtr : BitVec 12 := 0
  leases : List Nat := []
  tlb : List Tlb := []
  gslots : Tab Nat := []
  retired : Bool := false
  spareUsed : List Nat := []
  dirty : List Nat := []
  log : List (Nat × Nat × Word) := []
deriving DecidableEq, Repr

end Sys2Proof.Machine
end

