-- ==== Sys2Proof/Machine/PackageState.lean ====
section
/-! DEFINITION. What the package holds beside its clusters: dies, partitions, jobs, launches, groups, counters, graphs,
operations in flight, the fabric, host queues, debug pages, power and boot. -/

namespace Sys2Proof.Machine

/-- A compute die by socket (R354 to R357): `next` is the setting of a step announced at `ann` and not yet done, `ta` its stop tick,
`restart` the last restart tick, `asked` the steps that are deferred, oldest first; `anns` are the announcements of its steps and remaps with
the allowance of each (R365); `walks` is its walker's page-walk cache and `held` the walks that wait in it for room in a notice queue, each by partition, issuer
and address (R339, R347); `halting` from stage 4 of its way offline (R354, R355). -/
structure Die where
  online : Bool := false
  evac : Bool := false
  running : Bool := false
  mult : Nat := 40
  next : Option Nat := none
  ta : Option Nat := none
  restart : Option Nat := none
  ann : Option Nat := none
  asked : List Nat := []
  anns : List (Nat × Nat) := []
  home : Option Nat := none
  walks : List WalkEnt := []
  held : List (Nat × Nat × Word) := []
  halting : Bool := false
deriving DecidableEq, Repr

/-- A virtual die of a partition (R20, R363): its socket, its cycle counter, in twentieths of a cycle, its newest step-log entry, the
quadrants it holds, whether a steal request is out and which neighbour is asked next (R281), the tick at which its counter stopped, the socket to which a remap moves it
(R352). -/
structure VDie where
  sock : Option Nat := none
  cyc : Nat := 0
  seq : BitVec 16 := 0
  quads : List Nat := []
  steal : Bool := false
  turn : Nat := 0
  stop : Nat := 0
  dest : Option Nat := none
deriving DecidableEq, Repr

/-- A partition supervisor register set of R50 (R340): values in effect and values written. -/
structure Csrs where
  grp : Tab Nat := []
  zhtab : Word := 0
  lim : Nat := 128
  seed : Word := 0
deriving DecidableEq, Repr

/-- A job of a partition (R315, R333). -/
structure Job where
  root : Word := 0
  pool : Word := 0
deriving DecidableEq, Repr

/-- A partition (R20, R340, R378): `halted` while a switch holds its cores (R326), `busy` the command in progress
(and 16 times the socket that a die-offline command names). -/
structure Part where
  made : Bool := false
  shadow : Bool := false
  vdies : Tab VDie := []
  sel : Nat := 0
  csr : Csrs := {}
  csrNew : Csrs := {}
  apers : Tab Aper := []
  jobs : Tab Job := []
  icfg0 : Word := 0
  icfg1 : Word := 0
  domain : Tab Word := []
  ntqbase : Word := 0
  ntqprod : Nat := 0
  ntqcons : Nat := 0
  overflow : Bool := false
  mthr : Nat := 4
  steplog : Word := 0
  jsel : Nat := 0
  parg0 : Word := 0
  parg1 : Word := 0
  pcmd : Nat := 0
  pstat : Nat := 0
  invHigh : List Nat := []
  invLow : List Nat := []
  heldPages : List (Word × Word) := []
  halted : Bool := false
  busy : Nat := 0
  notices : List (List Word) := []
deriving DecidableEq, Repr

/-- A launch accepted by the dispatcher (R277 to R286). `st`: 1 active, 2 ended. `src` 0 host queue, 1 SPAWN, 2 graph node, 3 invocation;
`queue` the host queue whose level it follows, `turn` its place among the accepted launches of host queues (R279). -/
structure Launch where
  st : Nat := 0
  part : Nat := 0
  job : Nat := 0
  lid : Nat := 0
  graph : Nat := 0
  phid : Nat := 0
  k15 : Nat := 0
  lim : Nat := 0
  pri : Bool := false
  pre : Bool := false
  rty : Bool := false
  aff : Nat := 8
  cpg : Nat := 1
  ngrp : Nat := 1
  handed : Nat := 0
  done : Nat := 0
  ent : Nat := 0
  flt : Nat := 0
  tab : Word := 0
  n : Nat := 0
  consts : List Word := []
  sched : Word := 0
  rings : Nat := 0
  scr : Nat := 0
  src : Nat := 0
  node : Nat := 0
  inv : Option (List Word) := none
  level : Nat := 0
  queue : Option Nat := none
  turn : Nat := 0
  paused : Option Nat := none
deriving DecidableEq, Repr

/-- What a group image keeps of a rank beside the bytes of its frame (R324): whether its L context held a firing, that firing as a frame
slot holds one, what the L context keeps between firings, and the mailbox; `dirty` as in the core. -/
structure RankImg where
  live : Bool := false
  slot : Slot := {}
  ls : LState := {}
  armed : Bool := false
  hq : List Msg := []
  lq : List Msg := []
  ca : List CSlot := []
  batches : List Batch := []
  launchDue : Option Nat := none
  parked : Tab Slot := []
  dirty : List Nat := []
deriving DecidableEq, Repr

/-- The group record of a pre-empted group (R324): ranks, ring descriptors in the order of the group's ring numbers, copy commands to run
again, withdrawn engine commands with their scoreboard ranges, the accumulators held with their flags; the image's address. -/
structure GImage where
  va : Word := 0
  ranks : Tab RankImg := []
  rings : List Ring := []
  cmds : List DCmd := []
  eng : List ECmd := []
  scores : List Score := []
  accs : Tab Acc := []
deriving DecidableEq, Repr

/-- A group (R22, R282): `st` 0 with the dispatcher, 1 in a ready queue, 2 resident, 3 being pre-empted or pre-empted, 4 complete,
5 killed. `cl` is its cluster key, `slot` its group slot, `cores` its cores by rank; `stopping` while it is being pre-empted (R324),
`page` the frame page its save or restore waits for (R315), `codes` and `clean` how the blocks of its image stand and what they held when it
was last restored (R316), `preAsked` the group pre-empted for it last (R283), `avoid` the cluster whose engine failed under it (R238), `killed` the cause that killed it
and its value (R323, R329). -/
structure Group where
  st : Nat := 0
  launch : Nat := 0
  num : Nat := 0
  part : Nat := 0
  job : Nat := 0
  aff : Nat := 8
  vdie : Nat := 0
  since : Nat := 0
  passed : Bool := false
  blocks : Bool := false
  preAsked : Option Nat := none
  cl : Nat := 0
  slot : Nat := 0
  cores : List Nat := []
  base : Nat := 0
  units : Nat := 0
  rings : List Nat := []
  placed : Nat := 0
  entry : Word := 0
  rerun : Bool := false
  img : Option GImage := none
  halted : Bool := false
  stopping : Bool := false
  page : Option Word := none
  codes : Tab Nat := []
  clean : Tab (List Word) := []
  avoid : Option Nat := none
  killed : Option (Cause × Word) := none
deriving DecidableEq, Repr

/-- A completion counter (R284, R290). -/
structure Counter where
  st : Nat := 0
  cnc : Bool := false
  tmo : Bool := false
  kil : Bool := false
  rty : Bool := false
  out : Nat := 0
deriving DecidableEq, Repr

/-- A resident graph of a job and its run (R292, R293): nodes of four words, join counts, while counts, active nodes. -/
structure Graph where
  nodes : List (List Word) := []
  running : Bool := false
  phid : Nat := 0
  lim : Nat := 0
  joins : Tab Nat := []
  whiles : Tab Nat := []
  pending : List Nat := []
  stopped : Bool := false
deriving DecidableEq, Repr

/-- A message in flight (R162, R163): `st` 0 sent, 1 validated and waiting for a slot; its target core, or the scratch place whose owner
is the target (R160); `pkg` when it has left the package; `spkg` when it came from another; `unres` when it holds an unreserved slot; `ord` its
place in the order of arrival; `env` the packet that brought it and `came` the tick of its arrival. -/
structure Flight where
  org : Origin := {}
  dst : Nat := 0
  words : List Word := []
  pri : Bool := false
  sup : Bool := false
  hdl : Nat := 0
  st : Nat := 0
  entry : Word := 0
  gid : Nat := 0
  tval : Word := 0
  pkg : Option Nat := none
  spkg : Option Nat := none
  addr : Option (Nat × Nat) := none
  unres : Bool := false
  ord : Nat := 0
  env : List Word := []
  came : Nat := 0
deriving DecidableEq, Repr

/-- What an atomic engine or a message unit is asked (R170, R177): service index, operation code, element format, bytes, operands. -/
structure AOp where
  idx : Nat := 0
  op : Nat := 0
  fmt : Nat := 0
  size : Nat := 8
  data : List Word := []
deriving DecidableEq, Repr

/-- A service request in flight (R170): what it asks, of a cluster's scratch offset; `st` 0 going, 1 queued at the engine, 2 replying;
3 failed, while other lanes of its vector instruction `batch` are still in flight (R110); the tick at which it
reached the engine (R178); the outcome (an empty reply says that the issuer
is registered as a waiter); the producer and the place of a value it brings; `await` when its instruction waits for it; `lost` when its issuer has been
told that no reply came (R183, R365). -/
structure Svc where
  org : Origin := {}
  ask : AOp := {}
  cl : Nat := 0
  off : Nat := 0
  va : Word := 0
  st : Nat := 0
  ok : Bool := true
  cause : Cause := .serviceRange
  reply : List Word := []
  pend : Option Nat := none
  conv : Conv := .zext
  await : Bool := false
  batch : Option Nat := none
  at_ : Nat := 0
  sent : Nat := 0
  lost : Bool := false
deriving DecidableEq, Repr

/-- An error reply on its way (R46, R162): the cause, its value, the producer that fails; `send` for a refused message. -/
structure ErrRep where
  org : Origin := {}
  cause : Cause := .messageTargetInvalid
  tval : Word := 0
  pend : Option Nat := none
  send : Bool := false
deriving DecidableEq, Repr

/-- A TLB invalidation on its way (R342): kind, virtual address, job, clusters; kind 3 is a range of `len` bytes (R346). -/
structure Inval where
  org : Origin := {}
  kind : Nat := 0
  va : Word := 0
  job : Nat := 0
  part : Nat := 0
  cls : List Nat := []
  len : Nat := 0
deriving DecidableEq, Repr

/-- A ticket-queue row being written (R189): header place and address, ticket, row address and place, whether it counts for migration (R348), element;
`live` until a QINIT; when it was sent. -/
structure RowWrite where
  org : Origin := {}
  hdr : Loc := .hbm 0
  hva : Word := 0
  tkt : Nat := 0
  va : Word := 0
  spot : Spot := .flat (.hbm 0)
  cnt : Bool := false
  val : Word := 0
  done : Bool := false
  live : Bool := true
  sent : Nat := 0
deriving DecidableEq, Repr

/-- A push that a killed firing had issued and that is not performed yet (R124): whose, its port, the port's configuration, the push, and the producer whose value
it still awaits. -/
structure LastPush where
  org : Origin := {}
  port : Nat := 0
  cfg : Port := {}
  push : Push := {}
  pend : Option Pend := none
deriving DecidableEq, Repr

/-- An agent with accesses to another package under way: the reads of a stream port, its pushes, a queue row, a dealer command, the tiles of a
ring's subscription. -/
inductive Owner where
  | port (k i : Nat)
  | push (k i : Nat)
  | row (id : Nat)
  | copy (cl id : Nat)
  | spring (cl rg : Nat)
  | outlet (cl rg : Nat)
deriving DecidableEq, Repr

/-- A 64-byte line of another package that an agent has asked for (R299), by the packet that asks: its bytes once they are here, or the cause of
its failure. -/
structure AwayLine where
  own : Owner
  ask : Nat := 0
  pkg : Nat := 0
  pa : Nat := 0
  got : Bool := false
  data : List Byte := []
  bad : Option Cause := none
deriving DecidableEq, Repr

/-- A piece of a write to another package, within one 64-byte line: package, physical and virtual address, bytes, counted for migration or not (R348). -/
structure OutPiece where
  pkg : Nat := 0
  pa : Nat := 0
  va : Word := 0
  data : List Byte := []
  cnt : Bool := false
deriving DecidableEq, Repr

/-- The writes of an agent to another package (R299): those not yet sent, how many are not yet acknowledged, the first failure with its address;
`gone` once nobody waits for them. -/
structure AwayOut where
  own : Owner
  id : Nat := 0
  gone : Bool := false
  org : Origin := {}
  todo : List OutPiece := []
  out : Nat := 0
  bad : Option (Cause × Word) := none
deriving DecidableEq, Repr

/-- An outbound fabric packet not yet acknowledged (R296 to R298): class, envelope and payload words, the ticks at which it
was first and last sent, what it stands for: 1 a read into a register, 2 a store, 3 an access that its instruction awaits, 4 a message, 5 an
invocation, 6 its reply, 7 a write of the agent's writes `store` and 8 an agent's line read; `fill` when its line is to stand in the core's L1. -/
structure Packet where
  org : Origin := {}
  cls : Nat := 0
  dpkg : Nat := 0
  seq : Nat := 0
  words : List Word := []
  va : Word := 0
  path : Nat := 0
  sent : Nat := 0
  last : Nat := 0
  kind : Nat := 0
  pend : Nat := 0
  store : Nat := 0
  flight : Nat := 0
  tag : Nat := 0
  size : Nat := 0
  conv : Conv := .zext
  fill : Bool := false
deriving DecidableEq, Repr

/-- An inbound fabric packet accepted and not yet acted on (R297): words as received, the tick of its arrival. -/
structure Inbound where
  words : List Word := []
  came : Nat := 0
deriving DecidableEq, Repr

/-- An invocation sent and not yet replied to (R306, R307): its tag, its number in its core's series and its completion slot, the target package,
the tick its packet left, and the reply once it is `known`. -/
structure InvReply where
  org : Origin := {}
  tag : Nat := 0
  seq : Nat := 0
  slot : Nat := 0
  pkg : Nat := 0
  sent : Nat := 0
  known : Bool := false
  code : Nat := 0
  lid : Nat := 0
  tick : Word := 0
deriving DecidableEq, Repr

/-- A completion on its way into a saved image (R319): of a core's frame slot, or of a rank (`slot`) of a pre-empted group. -/
structure FrameCompl where
  gid : Nat := 0
  grp : Option Nat := none
  k : Nat := 0
  slot : Nat := 0
  id : Nat := 0
  words : List Word := []
  src : Nat := 0
  page : Option Word := none
deriving DecidableEq, Repr

/-- A host work queue (R376, R279); `served` counts the entries taken in the present round. -/
structure HQueue where
  qbase : Word := 0
  qcfg : Word := 0
  qprod : Nat := 0
  qcons : Nat := 0
  qerr : Word := 0
  served : Nat := 0
deriving DecidableEq, Repr

/-- A debug page (R368). -/
structure DPage where
  att : Bool := false
  srank : Nat := 0
  gid : Nat := 0
  dtgt : Word := 0
  st : Nat := 0
  cause : Nat := 0
  crank : Nat := 0
  stmo : Bool := false
  gone : Bool := false
  haltReq : Bool := false
  bps : Tab Word := []
  wps : Tab Word := []
  dimg : Tab Word := []
  stepping : Bool := false
deriving DecidableEq, Repr

/-- The device page, boot and power (R380 to R385), and the sequence number of the I/O die's next reply (R297): `boot` 0 not booted, 1
ready, 2 recovery; `power` 0 off, 1 standby, 2 active; `flash` holds images A and B, `image` and `manifest` are those in use, `regs` the
words of the device page, `lost` the 64 KiB regions of device memory that cannot be read; flash also holds each I/O die's PUF helper data and certificate;
`seeds` are those of the identities derived at power-up (R381), `slept` the sockets that were online when standby began (R384). -/
structure Device where
  boot : Nat := 0
  power : Nat := 0
  ioUp : List Bool := [false, false]
  ident : List Bool := [false, false]
  active : Nat := 16
  flash : List (List Byte) := [[], []]
  image : List Byte := []
  manifest : List Byte := []
  regs : Tab Word := []
  report : List Byte := []
  replySeq : Nat := 0
  lost : List Nat := []
  helper : List (List Byte) := [[], []]
  certs : List (List Byte) := [[], []]
  seeds : List (List Byte) := [[], []]
  slept : List Nat := []
deriving DecidableEq, Repr

/-- The shadow image of a quadrant in the reservoir and the shadow banks (R15, R326): clusters and cores by position, completions
that wait for a page of one of their frames. -/
structure Shadow where
  part : Nat := 0
  cls : Tab Cluster := []
  cores : Tab Core := []
  compls : Tab FrameCompl := []
deriving DecidableEq, Repr

/-- An act that an agent of the machine owes: follow-ups of earlier acts, run by the meanings of the events of their names. -/
inductive Act where
  | land (k : Nat) (h : Bool) (reg : Nat)
  | ack (k id : Nat)
  | prefetch (k port : Nat)
  | push (k port : Nat)
  | rep (k : Nat)
  | validate (id : Nat)
  | place (id : Nat)
  | errRep (id : Nat)
  | impr (k : Nat) (h : Bool)
  | svcReq (id : Nat)
  | svcReply (id : Nat)
  | wake (k : Nat) (h : Bool)
  | bwake (k : Nat) (h : Bool)
  | serve (cl : Nat)
  | row (id : Nat)
  | accept (cl : Nat)
  | copyDone (cl id : Nat)
  | batchDone (k : Nat)
  | retire (cl id : Nat)
  | spring (cl rg : Nat)
  | outlet (cl rg : Nat)
  | engArrive (cl : Nat)
  | stepStart (cl : Nat)
  | stepRetire (cl : Nat)
  | mxzDone (cl acc : Nat)
  | mxrdDone (cl acc : Nat)
  | mxwrDone (cl acc : Nat)
  | vaccDone (cl acc : Nat)
  | syncDone (cl id : Nat)
  | mxcmpDone (cl : Nat)
  | chainStart (cl : Nat)
  | chainRetire (cl : Nat)
  | inval (id : Nat)
  | csr (p : Nat)
  | handover (g : Nat)
  | placement (p v : Nat)
  | complete (g : Nat)
  | kill (g : Nat) (c : Cause) (tv : Word)
  | node (p job gid n : Nat)
  | fault (k : Nat)
  | park (k : Nat)
  | resume (k src slot : Nat)
  | frameCompl (id : Nat)
  | packet (ws : List Word)
  | invArr (id : Nat)
  | remArr (id : Nat)
  | ackArr (id code : Nat) (data : List Byte)
  | invReply (id : Nat)
  | queue
  | resumeGroup (g : Nat)
  | preempt (g : Nat)
  | halt (page : Nat)
  | selfTest (cl : Nat)
  | steal (p v : Nat)
  | answer (p v thief : Nat)
  | blocks (g : Nat)
  | trigger (g : Nat)
  | timeout (l : Nat)
  | watchdog (k : Nat) (h : Bool)
  | wfmEnd (k : Nat) (h : Bool)
  | deadline (id : Nat)
  | resend (id : Nat)
  | giveUp (id : Nat)
  | invTimeout (id : Nat)
  | domain (p : Nat)
  | remap (p v sk : Nat)
  | dieOff (sk : Nat)
  | faultOff (sk : Nat)
  | cmd (p code : Nat)
  | stepAbandon (page : Nat)
  | run (page : Nat)
  | detach (page : Nat)
  | attest
  | step (page : Nat)
deriving DecidableEq, Repr

/-- Whose turn it is next: an event of the outside world or of an agent, an owed act, a core, or a stretch of reference ticks. -/
inductive Turn where
  | event (i : Instr)
  | act (a : Act)
  | core (k : Nat)
  | time (ticks : Nat)
deriving DecidableEq, Repr

end Sys2Proof.Machine
end

