-- ==== Sys2Proof/Machine/State.lean ====
section
/-! DEFINITION. The state of the package as plain data, the reasons a step can stop, and the state after reset. -/

namespace Sys2Proof.Machine

/-- No meaning of this machine stops with a fault: every cause of R329 is taken as R312 to R323 describe, which is a next state. -/
inductive Fault where
deriving DecidableEq, Repr

/-- Why a step may have no meaning. -/
inductive Refusal where
  /-- Raised by exec for a row of the opcode table that has no meaning yet; no arm raises it. Safe: nothing is claimed of it. -/
  | notModelled (mnemonic : String)
deriving DecidableEq, Repr

/-- The record of one source endpoint and series (R297): the sequences accepted, the acknowledgements given, which every later copy gets
again, and the sequences of copies that came before their packet's acknowledgement. -/
structure SeqRec where
  top : Nat := 0
  seen : List Nat := []
  acks : Tab (List Word) := []
  more : List Nat := []
deriving DecidableEq, Repr

/-- The machine. Keys: a die is its socket; a cluster key is socket * 64 + cluster number; a core key is cluster key * 8 + R17
index; a quadrant key is socket * 4 + quadrant. `cur`, `turns`, `nextId`, `free` and `pace` are the model's own fields. -/
structure State where
  cur : Nat := 0
  turns : List Turn := []
  nextId : Nat := 1
  free : Nat := 0
  pace : Nat := 1
  time : Word := 0
  pkgId : Nat := 0
  hbm : Memory := []
  poison : List Nat := []
  hostMem : Memory := []
  cores : Tab Core := []
  clusters : Tab Cluster := []
  dies : Tab Die := []
  quads : Tab Nat := []
  shadows : Tab Shadow := []
  parts : Tab Part := []
  groups : Tab Group := []
  launches : Tab Launch := []
  counters : Tab Counter := []
  graphs : Tab Graph := []
  ready : Tab (List Nat) := []
  flights : Tab Flight := []
  svcs : Tab Svc := []
  errs : Tab ErrRep := []
  invals : Tab Inval := []
  rows : Tab RowWrite := []
  waiters : List Waiter := []
  pkts : Tab Packet := []
  inbound : Tab Inbound := []
  seqs : Tab SeqRec := []
  routes : Tab (List Nat) := []
  failedLinks : List Nat := []
  awayLines : List AwayLine := []
  awayOuts : List AwayOut := []
  lastPushes : List LastPush := []
  acksOut : List (List Word) := []
  invReps : Tab InvReply := []
  frameCompls : Tab FrameCompl := []
  migCount : Tab Nat := []
  migPend : List Nat := []
  hostq : Tab HQueue := []
  dpages : Tab DPage := []
  dev : Device := {}
deriving DecidableEq, Repr

/-- The machine right after reset: nothing powered, no partition, no job and no firing (R380, R384); every register at the
value of its assumption-log entry (notes/assumptions/1.md to 8.md and 133.md). -/
def State.reset : State := {}

end Sys2Proof.Machine
end

