-- ==== Sys2Proof/Machine/Base.lean ====
section
/-! DEFINITION. Reading and changing the parts of the state, the effect of one instruction as a computation that completes,
raises a cause or waits, and the queue of owed acts. -/

namespace Sys2Proof.Machine

/-- The outcome of a step of this machine. -/
abbrev Out := Host.Outcome State Fault Refusal

/-- Why an instruction does not complete: it raises a cause, with its value and the stream part of zpos (R75); it raises a cause that a
dequeued completion reports, keeping what was dequeued (R203, R268); or it waits and is tried again, from the state it started in, from
one it hands on, or from the state it started in with the requests it needs made; or it meets a failure that R329 makes imprecise and cannot go on: the
cause is raised at the boundary before it, and it has done nothing. -/
inductive Stop where
  | trap (c : Cause) (tv : Word) (zp : Word)
  | report (c : Cause) (tv : Word) (s : State)
  | hold (s : Option State)
  | want (ask : State → State)
  | late (c : Cause) (tv : Word) (s : State)

/-- The effect of an instruction: nothing of it stands unless it completes (R4, R313). -/
abbrev M := StateT State (Except Stop)

/-- Raise a cause (R4). -/
def trap {α : Type} (c : Cause) (tv : Word) : M α := fun _ => .error (.trap c tv 0)
/-- Raise a cause at a stream pop or push. -/
def trapAt {α : Type} (c : Cause) (tv zp : Word) : M α := fun _ => .error (.trap c tv zp)
/-- Raise a cause that a dequeued completion reports, keeping what has been changed so far (R203, R268). -/
def report {α : Type} (c : Cause) (tv : Word) : M α := fun s => .error (.report c tv s)
/-- Wait with no effect. -/
def hold {α : Type} : M α := fun _ => .error (.hold none)
/-- Wait, keeping what has been changed so far. -/
def holdKeep {α : Type} : M α := fun s => .error (.hold (some s))
/-- Wait with no effect but the requests that the instruction needs. -/
def want {α : Type} (ask : State → State) : M α := fun _ => .error (.want ask)
/-- Meet a failure that R329 makes imprecise before the instruction has done anything: raised at the boundary before it (R313). -/
def late {α : Type} (c : Cause) (tv : Word) : M α := fun s => .error (.late c tv s)
/-- Wait unless a condition holds. -/
def holdUnless (b : Bool) : M Unit := if b then pure () else hold
/-- Raise a cause when a condition holds. -/
def trapIf (b : Bool) (c : Cause) (tv : Word) : M Unit := if b then trap c tv else pure ()

/-- An instruction word as a trap value. -/
def tvw (w : BitVec 32) : Word := w.setWidth 64

/-- Core `k`. -/
def State.coreAt (s : State) (k : Nat) : Core := Tab.get s.cores k {}
/-- The state with core `k` replaced. -/
def State.putCore (s : State) (k : Nat) (c : Core) : State := { s with cores := Tab.set s.cores k c }
/-- The state with core `k` changed. -/
def State.modCore (s : State) (k : Nat) (f : Core → Core) : State := s.putCore k (f (s.coreAt k))
/-- Cluster `cl`. -/
def State.clusterAt (s : State) (cl : Nat) : Cluster := Tab.get s.clusters cl {}
/-- The state with cluster `cl` replaced. -/
def State.putCluster (s : State) (cl : Nat) (c : Cluster) : State := { s with clusters := Tab.set s.clusters cl c }
/-- The state with cluster `cl` changed. -/
def State.modCluster (s : State) (cl : Nat) (f : Cluster → Cluster) : State := s.putCluster cl (f (s.clusterAt cl))
/-- The compute die in a socket. -/
def State.dieAt (s : State) (d : Nat) : Die := Tab.get s.dies d {}
/-- The state with a die changed. -/
def State.modDie (s : State) (d : Nat) (f : Die → Die) : State := { s with dies := Tab.set s.dies d (f (s.dieAt d)) }
/-- Partition `p`. -/
def State.partAt (s : State) (p : Nat) : Part := Tab.get s.parts p {}
/-- The state with a partition changed. -/
def State.modPart (s : State) (p : Nat) (f : Part → Part) : State := { s with parts := Tab.set s.parts p (f (s.partAt p)) }
/-- Group `g`. -/
def State.groupAt (s : State) (g : Nat) : Group := Tab.get s.groups g {}
/-- The state with a group changed. -/
def State.modGroup (s : State) (g : Nat) (f : Group → Group) : State := { s with groups := Tab.set s.groups g (f (s.groupAt g)) }
/-- Launch `l`. -/
def State.launchAt (s : State) (l : Nat) : Launch := Tab.get s.launches l {}
/-- The state with a launch changed. -/
def State.modLaunch (s : State) (l : Nat) (f : Launch → Launch) : State := { s with launches := Tab.set s.launches l (f (s.launchAt l)) }

/-- Blocks added to a list of blocks. -/
def addBlocks (d ns : List Nat) : List Nat := ns.foldl (fun d n => if d.contains n then d else n :: d) d
/-- The core with blocks of its L context's firing image written (R316). -/
def Core.touch (c : Core) (ns : List Nat) : Core := { c with dirty := addBlocks c.dirty (ns ++ ns.map (· + 32)) }
/-- The completion slots that stand in one block of the firing image: four of the L firing's own (R317). -/
def Core.slotsIn (c : Core) (n : Nat) : List CSlot := ((c.ca.filter fun x => x.fid == c.l.fir.fid && x.hdl == 0).drop (4 * n)).take 4
/-- The core with its completion area changed: the blocks whose slots differ are written (R316, R317). -/
def Core.setArea (c : Core) (ca : List CSlot) : Core :=
  let d := { c with ca := ca }
  d.touch (((List.range 4).filter fun n => c.slotsIn n != d.slotsIn n).map (28 + ·))
/-- The blocks of a firing image that hold `n` bytes of private memory from an offset (R316, R317). -/
def privBlocks (off n : Nat) : List Nat :=
  let at_ := fun (a : Nat) => if 0x800 ≤ a && a < 0xA00 then [a / 256] else if 0xE00 ≤ a then [(a - 0x400) / 256] else []
  (List.range (n / 256 + 2)).flatMap fun i => at_ (min (off + 256 * i) (off + n - 1))

/-- The core that moves. -/
def State.me (s : State) : Core := s.coreAt s.cur
/-- The state with the moving core changed. -/
def State.modMe (s : State) (f : Core → Core) : State := s.modCore s.cur f
/-- Whether a core runs an H firing, and so moves in its H context (R167). -/
def Core.inH (c : Core) : Bool := c.h.fir.active
/-- The context a core moves in. -/
def Core.ctx (c : Core) : Ctx := if c.inH then c.h else c.l
/-- A context of a core. -/
def Core.ctxAt (c : Core) (h : Bool) : Ctx := if h then c.h else c.l
/-- The core with a context replaced. -/
def Core.putCtx (c : Core) (h : Bool) (x : Ctx) : Core := if h then { c with h := x } else { c with l := x }
/-- The context that moves. -/
def State.ctx (s : State) : Ctx := s.me.ctx
/-- The state with the moving context changed. -/
def State.modCtx (s : State) (f : Ctx → Ctx) : State := s.modMe fun c => c.putCtx c.inH (f c.ctx)
/-- The state with a context of a core changed. -/
def State.modCtxAt (s : State) (k : Nat) (h : Bool) (f : Ctx → Ctx) : State := s.modCore k fun c => c.putCtx h (f (c.ctxAt h))
/-- The rest of the L context of the moving core. -/
def State.ls (s : State) : LState := s.me.ls
/-- The state with the rest of the moving core's L context changed. -/
def State.modLs (s : State) (f : LState → LState) : State := s.modMe fun c => { c with ls := f c.ls }
/-- The cluster key of the moving core. -/
def State.cl (s : State) : Nat := s.cur / 8
/-- The running firing. -/
def State.fir (s : State) : Firing := s.ctx.fir
/-- The group of the running firing. -/
def State.grp (s : State) : Group := s.groupAt s.fir.gid
/-- The partition of the running firing. -/
def State.part (s : State) : Part := s.partAt s.fir.part
/-- Who the running firing is, as the issuer of an operation. -/
def State.org (s : State) : Origin :=
  { k := s.cur, h := s.me.inH, fid := s.fir.fid, gid := s.fir.gid, part := s.fir.part, job := s.fir.job, sup := s.fir.sup }

/-- The origin of a core's L firing. -/
def State.lOrg (s : State) (k : Nat) : Origin :=
  let f := (s.coreAt k).l.fir
  { k := k, h := false, fid := f.fid, gid := f.gid, part := f.part, job := f.job, sup := f.sup }

/-- The core that moves, as an effect. -/
def me : M Core := fun s => .ok (s.me, s)
/-- The context that moves, as an effect. -/
def ctx : M Ctx := fun s => .ok (s.ctx, s)
/-- Change the state. -/
def upd (f : State → State) : M Unit := fun s => .ok ((), f s)
/-- Change the moving context. -/
def updCtx (f : Ctx → Ctx) : M Unit := upd fun s => s.modCtx f
/-- Change the moving core. -/
def updMe (f : Core → Core) : M Unit := upd fun s => s.modMe f
/-- Change the rest of the L context of the moving core. -/
def updLs (f : LState → LState) : M Unit := upd fun s => s.modLs f
/-- Change it where blocks of the firing image hold it (R316, R317). -/
def updLsIn (ns : List Nat) (f : LState → LState) : M Unit := updMe fun c => { c with ls := f c.ls }.touch ns

/-- Append an act that an agent now owes. -/
def State.post (s : State) (a : Act) : State := { s with turns := s.turns ++ [.act a] }
/-- Append an act unless it is owed already. -/
def State.postOnce (s : State) (a : Act) : State := if s.turns.contains (.act a) then s else s.post a
/-- Append an act, as an effect. -/
def post (a : Act) : M Unit := upd fun s => s.post a
/-- A fresh name for an operation in flight. -/
def freshId : M Nat := fun s => .ok (s.nextId, { s with nextId := s.nextId + 1 })
/-- A free value (R-open; notes/assumptions/9.md). -/
def freeNat : M Nat := fun s => .ok (Config.freeValue s.free, { s with free := s.free + 1 })
/-- The state after `n` free bytes have been drawn, and those bytes. -/
def State.freeBytes (s : State) (n : Nat) : List Byte × State :=
  ((List.range n).map fun i => BitVec.ofNat 8 (Config.freeValue (s.free + i)), { s with free := s.free + n })

/-- An H firing may not run the instruction (R42 step 6, R43). -/
def needL (w : BitVec 32) : M Unit := do
  let c ← me
  trapIf c.inH .highContextIllegal (tvw w)
/-- The instruction is supervisor only (R42 step 5). -/
def needSup (w : BitVec 32) : M Unit := do
  let c ← ctx
  trapIf (!c.fir.sup) .privilegedOp (tvw w)
/-- A blocking form runs in launch firings only (R42 step 7). -/
def needLaunch (w : BitVec 32) : M Unit := do
  let c ← ctx
  trapIf (c.fir.kind != 0) .blockingInHandler (tvw w)
/-- Whether the moving core's repetition is active (R129). -/
def State.repeating (s : State) : Bool := !s.me.inH && s.ls.rep.count != 0
/-- Wait for an active repetition to end (R129). -/
def noRepeat : M Unit := do
  let s ← get
  holdUnless (!s.repeating)

end Sys2Proof.Machine
end

