-- ==== Sys2Proof/Machine/Geometry.lean ====
section
/-! DEFINITION. Where things are: quadrants, virtual dies, mesh coordinates, core groups, homes (R5 to R8, R16 to R21). -/

namespace Sys2Proof.Machine

/-- The quadrant of a cluster number (R8). -/
def quadOf (c : Nat) : Nat := c / 8 / 4 * 2 + c % 8 / 4

/-- Whether a cluster key belongs to a partition (R20). -/
def State.clusterIn (s : State) (p cl : Nat) : Bool := Tab.find? s.quads (cl / 64 * 4 + quadOf (cl % 64)) == some p

/-- The socket that carries a virtual die of a partition, if any (R20, R353). -/
def State.sockOf (s : State) (p v : Nat) : Option Nat := (Tab.find? (s.partAt p).vdies v).bind (·.sock)

/-- The virtual die of a partition that a socket carries. -/
def State.vdieOf (s : State) (p sock : Nat) : Option Nat :=
  (List.find? (fun e => e.2.sock == some sock) (s.partAt p).vdies).map (·.1)

/-- The virtual die number of a cluster key in a partition, 0 where it has none. -/
def State.vdie (s : State) (p cl : Nat) : Nat := (s.vdieOf p (cl / 64)).getD 0

/-- The cluster key of a virtual die and cluster number, when the partition holds it (R70). -/
def State.clusterOf (s : State) (p v c : Nat) : Option Nat :=
  match s.sockOf p v with
  | none => none
  | some sock => if s.clusterIn p (sock * 64 + c) then some (sock * 64 + c) else none

/-- The mesh column of a core (R16). -/
def meshX (v c i : Nat) : Nat := v % 4 * 32 + c % 8 * 4 + i % 4
/-- The mesh row of a core (R16). -/
def meshY (v c i : Nat) : Nat := v / 4 * 16 + c / 8 * 2 + i / 4

/-- The mesh coordinate word of a core (R19). -/
def State.meshWord (s : State) (p k : Nat) : Nat :=
  let v := s.vdie p (k / 8)
  meshY v (k / 8 % 64) (k % 8) * 65536 + meshX v (k / 8 % 64) (k % 8)

/-- The core key at a mesh coordinate, when its cluster lies in the partition (R16, R159). -/
def State.coreOf (s : State) (p x y : Nat) : Option Nat :=
  let v := y / 16 * 4 + x / 32
  let c := y % 16 / 2 * 8 + x % 32 / 4
  (s.clusterOf p v c).map fun cl => cl * 8 + y % 2 * 4 + x % 4

/-- Word k1 of a core (R48). -/
def State.k1Word (s : State) (p k : Nat) : Nat :=
  let c := k / 8 % 64
  k % 8 * 65536 + s.vdie p (k / 8) * 256 + quadOf c * 64 + c

/-- The core group of a cluster (R340). -/
def State.coreGroup (s : State) (p cl : Nat) : Nat := Tab.get (s.partAt p).csr.grp (s.vdie p cl * 64 + cl % 64) 0

/-- The socket that orders accesses to a physical address of this package (R6, R354). -/
def State.homeOf (s : State) (pa : Nat) : Nat :=
  let d := pa / 2 ^ 36 % 8
  ((s.dieAt d).home).getD d

/-- The entry of a partition's domain table copy for a package: valid only with its reserved bits zero (R294, R295). -/
def State.domainEntry (s : State) (p pkg : Nat) : Option Word :=
  let e := Tab.get (s.partAt p).domain pkg 0
  if bitAt e.toNat 63 && bits e.toNat 0 52 == 0 then some e else none

/-- Whether a bit of the domain table entry for a package is set. -/
def State.domainBit (s : State) (p pkg bit : Nat) : Bool :=
  match s.domainEntry p pkg with
  | some e => bitAt e.toNat bit
  | none => false

/-- The key of a package's entry in the route table of I/O die `d`, 0 in socket 16 and 1 in socket 17 (R298). -/
def routeKey (d pkg : Nat) : Nat := d * 4096 + pkg

/-- The paths of one I/O die to a package: a path is a link of one of its nine ports (R298). -/
def State.dieRoute (s : State) (d pkg : Nat) : List Nat := ((Tab.get s.routes (routeKey d pkg) []).take 4).filter fun l => l / 9 == d

/-- The paths to a package in the order of the route tables: those of the active I/O die, then those of the other (R7, R298). -/
def State.route (s : State) (pkg : Nat) : List Nat := s.dieRoute (s.dev.active - 16) pkg ++ s.dieRoute (17 - s.dev.active) pkg

/-- Whether a path works: its link has not failed and its I/O die is in service (R7, R298). -/
def State.pathWorks (s : State) (l : Nat) : Bool := s.dev.ioUp.getD (l / 9) false && !s.failedLinks.contains l

/-- The working paths to a package (R298). -/
def State.workingPaths (s : State) (pkg : Nat) : List Nat := (s.route pkg).filter s.pathWorks

/-- Whether a die can take new work: online and not evacuating (R171, R354). -/
def State.dieOpen (s : State) (sock : Nat) : Bool := (s.dieAt sock).online && !(s.dieAt sock).evac

/-- Whether a die's clusters are halted or gone, so that nothing more is performed in them (R354, R355). -/
def State.dieLeft (s : State) (d : Nat) : Bool := !(s.dieAt d).online || (s.dieAt d).halting

/-- Whether a cluster stands still for the remap of its virtual die (R352). -/
def State.clMoving (s : State) (cl : Nat) : Bool :=
  match Tab.find? s.quads (cl / 64 * 4 + quadOf (cl % 64)) with
  | some p => (s.partAt p).vdies.any fun e => e.2.dest.isSome && e.2.sock == some (cl / 64)
  | none => false

/-- Whether a remap from or to a socket is announced and not over (R352). -/
def State.socketMoving (s : State) (sk : Nat) : Bool :=
  List.any s.parts fun e => e.2.vdies.any fun d => d.2.dest.isSome && (d.2.sock == some sk || d.2.dest == some sk)

/-- Announcements in order of their ticks. -/
def insertAnn (e : Nat × Nat) : List (Nat × Nat) → List (Nat × Nat)
  | [] => [e]
  | x :: xs => if e.1 ≤ x.1 then e :: x :: xs else x :: insertAnn e xs

/-- The deadline of a request sent at a tick between two dies (R365): 4,000 ticks, and the allowance of each step and remap announced on either
die before the deadline so far passes, and not over at the sending; a step of a third die counts for nothing (R367). -/
def State.deadlineOf (s : State) (sent a b : Nat) : Nat :=
  ((((s.dieAt a).anns ++ (s.dieAt b).anns).foldr insertAnn [])).foldl
    (fun t e => if sent ≤ e.1 + 1000 + e.2 && e.1 < t then t + e.2 else t) (sent + 4000)

/-- Whether traffic to a die waits: it is online and its clock is stopped (R358). -/
def State.dieStopped (s : State) (d : Nat) : Bool := (s.dieAt d).online && !(s.dieAt d).running

/-- Whether what core `k` does to a place waits for a die that it needs (R352, R358): its clock is stopped, or the cluster is being remapped. -/
def State.dieWaits (s : State) (k : Nat) (sp : Spot) (d : Nat) : Bool :=
  s.dieStopped d || (match sp with
    | .far cl _ => s.clMoving cl && !s.clMoving (k / 8)
    | _ => false)

/-- The home on another die that a core's write waits for, if its clock is stopped (R358). -/
def State.destWaits (s : State) (k : Nat) (d : Dest) : Option Nat :=
  (match d with
    | .at (.hbm pa) _ => some pa
    | .packed buf _ off _ => some (buf + off / 256 * 256)
    | _ => none).bind fun pa => if s.homeOf pa != k / 512 && s.dieStopped (s.homeOf pa) then some (s.homeOf pa) else none

/-- The place `i` bytes further on. -/
def Loc.plus (l : Loc) (i : Nat) : Loc :=
  match l with
  | .hbm pa => .hbm (pa + i)
  | .scratch cl off => .scratch cl (off + i)
  | .priv k off => .priv k (off + i)
  | .remote pkg pa => .remote pkg (pa + i)

/-- The byte that stands at a place, nothing pending counted; another package's memory reads as zero here. -/
def State.byteAt (s : State) (l : Loc) : Byte :=
  match l with
  | .hbm pa => Memory.read s.hbm pa
  | .scratch cl off => Memory.read (s.clusterAt cl).scratch off
  | .priv k off => Memory.read (s.coreAt k).priv off
  | .remote _ _ => 0

/-- `n` bytes from a place up. -/
def State.bytesAt (s : State) (l : Loc) (n : Nat) : List Byte := (List.range n).map fun i => s.byteAt (l.plus i)

/-- The little-endian number of `n` bytes at a place (R1). -/
def State.numAt (s : State) (l : Loc) (n : Nat) : Nat := leNat (s.bytesAt l n)

/-- The state with bytes written at a place; another package's memory is not held here. -/
def State.writeAt (s : State) (l : Loc) (bs : List Byte) : State :=
  match l with
  | .hbm pa => { s with hbm := Memory.writeN s.hbm pa bs }
  | .scratch cl off => s.modCluster cl fun c => { c with
      scratch := Memory.writeN c.scratch off bs
      dirty := addBlocks c.dirty ((List.range ((off + bs.length + 255) / 256 - off / 256)).map (off / 256 + ·)) }
  | .priv k off => s.modCore k fun c => { c with priv := Memory.writeN c.priv off bs }.touch (privBlocks off bs.length)
  | .remote _ _ => s

/-- The state with a number written in `n` bytes at a place. -/
def State.writeNum (s : State) (l : Loc) (n x : Nat) : State := s.writeAt l (leBytes n x)

end Sys2Proof.Machine
end

