-- ==== Sys2Proof/Machine/Notice.lean ====
section
/-! DEFINITION. The notice queue of a partition and the migration counters (R347, R348, R379). -/

namespace Sys2Proof.Machine

/-- Entries of a notice queue (R347). -/
def ntqSize : Nat := 4096

/-- Whether the notice queue of a partition has room (R347). -/
def Part.ntqRoom (p : Part) : Bool := (p.ntqprod + 2 ^ 32 - p.ntqcons) % 2 ^ 32 < ntqSize

/-- The state with a notice of four words written and the producer index advanced (R347). -/
def State.putNotice (s : State) (p : Nat) (ws : List Word) : State :=
  let pt := s.partAt p
  let at_ := pt.ntqbase.toNat + pt.ntqprod % ntqSize * 32
  let s := s.writeAt (.hbm at_) (ws.flatMap fun w => leBytes 8 w.toNat)
  s.modPart p fun pt => { pt with ntqprod := (pt.ntqprod + 1) % 2 ^ 32 }

/-- The words of a page-fault notice (R347): word 1 is the address without tag bits. -/
def State.faultWords (s : State) (o : Origin) (c : Cause) (va : Word) : List Word :=
  let cl := s.vdie o.part (o.k / 8) * 64 + o.k / 8 % 64
  [BitVec.ofNat 64 (1 * 2 ^ 60 + o.job % 65536 * 2 ^ 44 + cl * 2 ^ 35 + c.code), BitVec.ofNat 64 (va.toNat % 2 ^ 48), 0, 0]

/-- The state with a page-fault notice written, when the queue has room (R347). -/
def State.faultNotice (s : State) (o : Origin) (c : Cause) (va : Word) : Option State :=
  if (s.partAt o.part).ntqRoom then some (s.putNotice o.part (s.faultWords o c va)) else none

/-- The walks of a die's walker that wait for room in a notice queue (R339, R347). -/
def State.heldWalks (s : State) (d : Nat) : List (Nat × Nat × Word) := (s.dieAt d).held.filter fun e => !(s.partAt e.1).ntqRoom

/-- Whether all 64 walks of a die's walker wait for room in a notice queue, so that a miss waits (R339). -/
def State.walkersFull (s : State) (d : Nat) : Bool := decide (Config.walks ≤ (s.heldWalks d).length)

/-- The state in which a page fault waits in its walker for room in the notice queue (R347); none when it does already. -/
def State.holdWalk (s : State) (o : Origin) (va : Word) : Option State :=
  let e := (o.part, o.k * 2 + b2n o.h, BitVec.ofNat 64 (va.toNat % 2 ^ 48 / 4096 * 4096))
  if (s.heldWalks (o.k / 512)).contains e then none else some (s.modDie (o.k / 512) fun d => { d with held := e :: s.heldWalks (o.k / 512) })

/-- The state with a notice entered in a partition's queue; one that finds it full, or others waiting, waits with the partition and is written by
NTQCONS_WRITE (notes/assumptions/10.md). -/
def State.reportNotice (s : State) (p : Nat) (ws : List Word) : State :=
  if (s.partAt p).ntqRoom && (s.partAt p).notices == [] then s.putNotice p ws else s.modPart p fun pt => { pt with notices := pt.notices ++ [ws] }

/-- The state after a package event, entered in the notice queue of every partition (R379). -/
def State.packageEvent (s : State) (event sock : Nat) (cl : Nat) : State :=
  let w0 := BitVec.ofNat 64 (3 * 2 ^ 60 + event * 2 ^ 56 + sock * 2 ^ 48 + cl * 2 ^ 35)
  let ws := [w0, s.time, 0, 0]
  s.parts.foldl (fun s e =>
    if e.2.made then s.reportNotice e.1 ws else s) s

/-- The state after one counted access to a 64 KiB region reached its home (R348): the counter, and the crossing. -/
def State.countRegion (s : State) (o : Origin) (pa : Nat) : State :=
  let rg := pa / 65536
  let n := Tab.get s.migCount rg 0
  let s' := { s with migCount := Tab.set s.migCount rg (if n < 65535 then n + 1 else n) }
  if n + 1 = 2 ^ (s.partAt o.part).mthr then
    if s.migPend.contains rg then s'
    else if (s.partAt o.part).ntqRoom then
      let cl := s.vdie o.part (o.k / 8) * 64 + o.k / 8 % 64
      { s'.putNotice o.part [BitVec.ofNat 64 (2 * 2 ^ 60 + o.job % 65536 * 2 ^ 44 + cl * 2 ^ 35), BitVec.ofNat 64 (rg * 65536),
          BitVec.ofNat 64 (o.k / 512), 0] with migPend := rg :: s.migPend }
    else s'.modPart o.part fun p => { p with overflow := true }
  else s'

end Sys2Proof.Machine
end

