-- ==== Sys2Proof/Machine/Translate.lean ====
section
/-! DEFINITION. Translation (R331 to R339), apertures (R217, R218, R345) and the address windows (R61, R67 to R70). -/

namespace Sys2Proof.Machine

/-- What an access is for; an atomic counts as a store and also needs r (R337). -/
inductive AKind where
  | load
  | store
  | fetch
  | amo
deriving DecidableEq, Repr

/-- The page-fault cause of an access (R337). -/
def AKind.absent : AKind → Cause
  | .load => .loadPageFault
  | .fetch => .fetchPageFault
  | _ => .storePageFault
/-- The permission cause of an access (R337). -/
def AKind.denied : AKind → Cause
  | .load => .loadPermission
  | .fetch => .fetchPermission
  | _ => .storePermission
/-- The misalignment cause of an access (R61). -/
def AKind.misaligned : AKind → Cause
  | .load => .misalignedLoad
  | .store => .misalignedStore
  | .fetch => .misalignedFetch
  | .amo => .atomicMisaligned

/-- The outcome of a walk: no entry, a malformed entry, an entry in a poisoned line (R385), or a leaf with its run's size, its mask and its bits. -/
inductive Walk where
  | none
  | bad
  | poison
  | leaf (size pa pte mask : Nat)
deriving DecidableEq, Repr

/-- A leaf entry at a level (R334 to R336). -/
def walkLeaf (own lvl pte mask : Nat) : Walk :=
  let cont := bits pte 57 2
  let frame := bits pte 12 40 * 4096
  let size := 2 ^ (12 + 9 * lvl) * 4 ^ cont
  let region := bits frame 39 12
  if lvl = 3 || (bitAt pte 61 && !bitAt pte 62) || cont = 3 || (cont = 1 && lvl != 0) || frame % size != 0
      || (!bitAt frame 51 && region != 0) then .bad
  else .leaf size (if bitAt frame 51 && region = own then bits frame 0 39 else frame) pte mask

/-- What one entry of a table says: no entry, a malformed one, nothing as its line is poisoned (R385), a leaf, or the table it points to. -/
inductive Pte where
  | none
  | bad
  | poison
  | leaf (w : Walk)
  | table (frame : Nat)

/-- Whether `n` bytes from a physical address up touch a poisoned 64-byte line (R385). -/
def State.poisonAt (s : State) (pa n : Nat) : Bool := s.poison.any fun l => l * 64 < pa + n && pa < l * 64 + 64

/-- The entry for a virtual address in the table of level `lvl` at `tab` (R333, R334). -/
def State.pteAt (s : State) (va lvl tab : Nat) : Pte :=
  let e := tab + bits va (12 + 9 * lvl) 9 * 16
  let pte := s.numAt (.hbm e) 8
  let frame := bits pte 12 40 * 4096
  if s.poisonAt e 16 then .poison
  else if !bitAt pte 63 then .none
  else if bits pte 52 4 != 0 || bits pte 0 12 != 0 then .bad
  else if bitAt pte 62 || bitAt pte 61 || bitAt pte 60 then .leaf (walkLeaf s.pkgId lvl pte (s.numAt (.hbm (e + 8)) 8))
  else if lvl = 0 || bits pte 56 3 != 0 || frame % 8192 != 0 || bits frame 39 13 != 0 then .bad
  else .table frame

/-- The walk of a virtual address from a table of level `lvl` down (R333, R334). -/
def State.walkFrom (s : State) (va : Nat) : Nat → Nat → Walk
  | lvl, tab =>
    match s.pteAt va lvl tab, lvl with
    | .none, _ => .none
    | .poison, _ => .poison
    | .leaf w, _ => w
    | .table frame, lvl' + 1 => s.walkFrom va lvl' frame
    | _, _ => .bad

/-- The first address that an entry of level `lvl` covers. -/
def walkBase (va lvl : Nat) : Nat := va / 2 ^ (12 + 9 * lvl) * 2 ^ (12 + 9 * lvl)

/-- Whether a page-walk cache entry stands for the entry of level `lvl` on the path to an address (R339). -/
def WalkEnt.on (e : WalkEnt) (p job va lvl : Nat) : Bool := e.part == p && e.job == job && e.lvl == lvl && e.va == walkBase va lvl

/-- The walk that a die's walker makes (R339): a non-leaf entry in its cache is taken from there, one that is not is read and kept. -/
def State.dieWalk (s : State) (p job va : Nat) : Nat → Nat → List WalkEnt → Walk × List WalkEnt
  | lvl, tab, ws =>
    match (match ws.find? (·.on p job va lvl) with
      | some e => Pte.table e.frame
      | none => s.pteAt va lvl tab), lvl with
    | .none, _ => (.none, ws)
    | .poison, _ => (.poison, ws)
    | .leaf w, _ => (w, ws)
    | .table frame, lvl' + 1 =>
      s.dieWalk p job va lvl' frame (if ws.any (·.on p job va lvl) then ws else { part := p, job := job, lvl := lvl, va := walkBase va lvl, frame := frame } :: ws)
    | _, _ => (.bad, ws)

/-- The root table of a job (R333). -/
def State.rootOf (s : State) (p job : Nat) : Nat := (Tab.get (s.partAt p).jobs job {}).root.toNat

/-- The enabled aperture whose range holds a virtual address (R345). -/
def Part.aperOf (p : Part) (va : Nat) : Option Nat :=
  (List.find? (fun e =>
    let w0 := (e.2.w.getD 0 0).toNat
    let lo := bits w0 12 36 * 4096
    bitAt w0 63 && decide (lo ≤ va) && decide (va < lo + bits (e.2.w.getD 1 0).toNat 0 36 * 4096)) p.apers).map (·.1)

/-- Whether a TLB entry translates an address (R338, R345). -/
def Tlb.hits (e : Tlb) (p job va : Nat) (ap : Option Nat) : Bool :=
  e.part == p && e.job == job && decide (e.va ≤ va) && decide (va < e.va + e.size) && e.aper == ap

/-- The TLB entry of a leaf (R335, R338). -/
def State.tlbEntry (s : State) (p job va : Nat) (ap : Option Nat) (size pa pte mask : Nat) : Tlb :=
  { part := p, job := job, va := va / size * size, size := size, pa := pa, r := bitAt pte 62, w := bitAt pte 61,
    x := bitAt pte 60, u := bitAt pte 59, cnt := bitAt pte 56, mask := BitVec.ofNat 64 mask,
    ls := if bitAt pa 51 then s.domainBit p (bits pa 39 12) 60 else true, aper := ap }

/-- Whether an entry maps a page of the new entry's under a different virtual address (R338). -/
def Tlb.aliases (n e : Tlb) : Bool :=
  n.aper == none && e.aper == none && decide (n.pa < e.pa + e.size) && decide (e.pa < n.pa + n.size)
    && !(e.part == n.part && e.job == n.job && decide (e.va + n.pa = n.va + e.pa))

/-- The cores of a cluster without the L1 lines of a range of a job (R338, R342). -/
def State.dropL1 (s : State) (cl : Nat) (p : L1Line → Bool) : State :=
  (List.range 8).foldl (fun s i => match Tab.find? s.cores (cl * 8 + i) with
    | none => s
    | some c => s.putCore (cl * 8 + i) { c with l1 := c.l1.filter fun x => !p x }) s

/-- Whether an L1 line lies in the run of a TLB entry. -/
def Tlb.ofLine (e : Tlb) (x : L1Line) : Bool := x.part == e.part && x.job == e.job && decide (e.va ≤ x.va) && decide (x.va < e.va + e.size)

/-- Whether an access under way in a cluster is at an address that a test of partition, job and address names (R338, R343): a stream push, a queue row and
its header, a packet, an agent's writes to other packages. Only translated addresses count. -/
def State.underWay (s : State) (cl : Nat) (hit : Nat → Nat → Nat → Bool) : Bool :=
  let on := fun (p job : Nat) (va : Word) (n : Nat) =>
    decide (addrOf va < 0xFFFE00000000) && (hit p job (addrOf va) || hit p job (addrOf va + n - 1))
  let of := fun (o : Origin) (va : Word) (n : Nat) => o.k / 8 == cl && on o.part o.job va n
  ((List.range 8).any fun i =>
      let c := s.coreAt (cl * 8 + i)
      c.ls.ports.any fun e => e.2.pushes.any fun q => on c.l.fir.part c.l.fir.job q.addr (q.spots.length * q.unit))
    || s.lastPushes.any (fun l => of l.org l.push.addr (l.push.spots.length * l.push.unit))
    || List.any s.rows (fun e => (!e.2.done && of e.2.org e.2.va 8) || (e.2.live && of e.2.org e.2.hva 32))
    || List.any s.pkts (fun e => e.2.cls == 3 && of e.2.org e.2.va 1)
    || s.awayOuts.any (fun w => w.todo.any fun x => of w.org x.va x.data.length)

/-- The cluster TLB without its least recently used entry that no access uses, of entries the last of which was used least recently (R338). -/
def evictOne (used : Tlb → Bool) : List Tlb → Option Tlb × List Tlb
  | [] => (none, [])
  | e :: es => match evictOne used es with
    | (some x, es) => (some x, e :: es)
    | (none, es) => if used e then (none, e :: es) else (some e, es)

/-- The state in which lines on their way to a cluster's cores do not stand in an L1 when they come, where a TLB entry holds their address (R338). -/
def State.unfillRun (s : State) (cl : Nat) (e : Tlb) : State :=
  { s with pkts := s.pkts.map fun (x : Nat × Packet) =>
      if x.2.org.k / 8 == cl && x.2.org.part == e.part && x.2.org.job == e.job && decide (e.va ≤ addrOf x.2.va) && decide (addrOf x.2.va < e.va + e.size)
      then (x.1, { x.2 with fill := false }) else x }

/-- The state after a TLB fill: the least recently used entry that no access uses gives way, and the reverse map removes aliases (R338). The L1 lines of an
entry that gives way go with it, since the reverse map no longer knows them, and lines on their way to its addresses fill no L1. -/
def State.tlbFill (s : State) (cl : Nat) (n : Tlb) : State :=
  let old := (s.clusterAt cl).tlb
  let used := fun (e : Tlb) => s.underWay cl fun p job va => e.part == p && e.job == job && decide (e.va ≤ va) && decide (va < e.va + e.size)
  let keep := old.filter fun e => !n.aliases e
  let (out, keep) := if keep.length < Config.tlbEntries then (none, keep) else evictOne used keep
  let gone := old.filter n.aliases ++ out.toList
  let s := gone.foldl (fun s e => (s.dropL1 cl e.ofLine).unfillRun cl e) s
  s.modCluster cl fun c => { c with tlb := n :: keep }

/-- The TLB entry that translates an address, walking on a miss (R333, R337 steps 1 and 2, R339). -/
def State.tlbLookup (s : State) (cl p job va : Nat) (k : AKind) : Except Cause (Tlb × State) :=
  let ap := (s.partAt p).aperOf va
  let tlb := (s.clusterAt cl).tlb
  match List.find? (fun e => e.hits p job va ap) tlb with
  | some e => .ok (e, s.modCluster cl fun c => { c with tlb := e :: tlb.filter (fun x => x != e) })
  | none =>
    let (w, ws) := s.dieWalk p job va 3 (s.rootOf p job) (s.dieAt (cl / 64)).walks
    let s := s.modDie (cl / 64) fun d => { d with walks := ws }
    match w with
    | .none => .error k.absent
    | .bad => .error k.denied
    | .poison => .error .memoryPoison
    | .leaf size pa pte mask =>
      let e := s.tlbEntry p job va ap size pa pte mask
      .ok (e, s.tlbFill cl e)

/-- The checks of R337 steps 3 to 5 on a TLB entry. -/
def State.tlbCheck (s : State) (o : Origin) (k : AKind) (e : Tlb) : Except Cause Unit :=
  if !bitAt e.mask.toNat (s.coreGroup o.part (o.k / 8)) then .error .groupDenied
  else if (!e.u && !o.sup) || (match k with
      | .load => !e.r
      | .store => !e.w
      | .amo => !e.w || !e.r
      | .fetch => !e.x) then .error k.denied
  else if !e.ls then .error .remoteDenied
  else .ok ()

/-- The place a virtual address of the translated range maps to, whether it is counted, and its aperture. -/
structure Page where
  loc : Loc
  cnt : Bool
  aper : Option Nat

/-- Translation of an address for an issuer (R337). -/
def State.xlate (s : State) (o : Origin) (va : Nat) (k : AKind) : Except Cause (Page × State) := do
  let (e, s) ← s.tlbLookup (o.k / 8) o.part o.job va k
  s.tlbCheck o k e
  let pa := e.pa + va % e.size
  .ok ({ loc := if bitAt pa 51 then .remote (bits pa 39 12) (bits pa 0 39) else .hbm pa, cnt := e.cnt, aper := e.aper }, s)

/-- The transform, first virtual byte, byte size, buffer and parameter word of an aperture (R345). -/
def Aper.xf (a : Aper) : Nat := bits (a.w.getD 0 0).toNat 60 3
/-- The first virtual byte of an aperture. -/
def Aper.vbase (a : Aper) : Nat := bits (a.w.getD 0 0).toNat 12 36 * 4096
/-- The byte size of an aperture's view. -/
def Aper.size (a : Aper) : Nat := bits (a.w.getD 1 0).toNat 0 36 * 4096
/-- The buffer of an aperture. -/
def Aper.pbase (a : Aper) : Nat := bits (a.w.getD 2 0).toNat 12 40 * 4096
/-- The parameter word of an aperture. -/
def Aper.par (a : Aper) : Nat := (a.w.getD 3 0).toNat
/-- The bytes of a view element: a transpose's element, a format view's view format, one otherwise (R218). -/
def Aper.unit (a : Aper) : Nat :=
  if a.xf = 1 then 2 ^ bits a.par 32 2 else if a.xf = 2 then elemSize (bits a.par 48 5) else 1
/-- The buffer address of view element `k` of a transpose or format view (R218). -/
def Aper.elemPa (a : Aper) (k : Nat) : Nat :=
  if a.xf = 1 then
    let l := bits a.par 0 32
    let r := a.size / (l * a.unit)
    a.pbase + (k % l * r + k / l) * a.unit
  else a.pbase + k * elemSize (bits a.par 40 5)

/-- The tag of line `n` of a compressed buffer (R217), whose tags stand two to a byte, an even line's in the low half. DESIGN CHOICE
(notes/assumptions/134.md): the rules give each line one 4-bit tag and no place in its byte. -/
def State.tagAt (s : State) (tags n : Nat) : Nat := bits (s.byteAt (.hbm (tags + n / 2))).toNat (n % 2 * 4) 4

/-- The 256 bytes of line `n` of a compressed view (R217). -/
def State.lineAt (s : State) (buf tags n : Nat) : List Byte :=
  let t := s.tagAt tags n
  if t = 0 then List.replicate 256 0
  else s.bytesAt (.hbm (buf + n * 256)) (16 * (t + 1)) ++ List.replicate (240 - 16 * t) 0

/-- The tag a line is stored under: the fewest bytes that hold it, trailing zero bytes cut (R217; notes/assumptions/11.md). -/
def lineTag (bs : List Byte) : Nat :=
  let used := (bs.reverse.dropWhile (· == 0)).length
  if used = 0 then 0 else if used ≤ 32 then 1 else (used + 15) / 16 - 1

/-- The state with line `n` of a compressed buffer stored: its bytes and its tag (R217). -/
def State.putLine (s : State) (buf tags n : Nat) (bs : List Byte) : State :=
  let t := lineTag bs
  let s := if t = 0 then s else s.writeAt (.hbm (buf + n * 256)) (bs.take (16 * (t + 1)))
  let b := (s.byteAt (.hbm (tags + n / 2))).toNat
  s.writeNum (.hbm (tags + n / 2)) 1 (setBits b (n % 2 * 4) 4 t)

/-- Bytes of a compressed view, from an offset (R217). -/
def State.packedAt (s : State) (buf tags off n : Nat) : List Byte :=
  (List.range n).map fun i => (s.lineAt buf tags ((off + i) / 256)).getD ((off + i) % 256) 0

/-- The state with bytes written through a compressed view: each touched line re-encoded whole (R217). -/
def State.putPacked (s : State) (buf tags off : Nat) (bs : List Byte) : State :=
  let lo := off / 256
  let hi := (off + bs.length + 255) / 256
  (List.range (hi - lo)).foldl (fun s i =>
    let n := lo + i
    let old := s.lineAt buf tags n
    s.putLine buf tags n ((List.range 256).map fun j =>
      let a := n * 256 + j
      if off ≤ a && a < off + bs.length then bs.getD (a - off) 0 else old.getD j 0)) s

/-- The bytes an access reads (R218): a transpose gathers elements, a format view converts stored elements by RNE. -/
def State.spotBytes (s : State) (sp : Spot) (n : Nat) : List Byte :=
  match sp with
  | .flat l => s.bytesAt l n
  | .far cl off => s.bytesAt (.scratch cl off) n
  | .view a off =>
    if a.xf = 3 then s.packedAt a.pbase (bits a.par 12 40 * 4096) off n
    else
      let u := a.unit
      (List.range (n / u)).flatMap fun i =>
        let pa := a.elemPa (off / u + i)
        if a.xf = 1 then s.bytesAt (.hbm pa) u
        else
          let st := bits a.par 40 5
          leBytes u (elemConv (bits a.par 48 5) st .rne (s.numAt (.hbm pa) (elemSize st))).1

/-- The writes an access of a spot performs (R218). -/
def Spot.dests (sp : Spot) (bs : List Byte) : List Dest :=
  match sp with
  | .flat l => [.at l bs]
  | .far cl off => [.at (.scratch cl off) bs]
  | .view a off =>
    if a.xf = 3 then [.packed a.pbase (bits a.par 12 40 * 4096) off bs]
    else
      let u := a.unit
      (List.range (bs.length / u)).map fun i =>
        let e := bs.drop (i * u) |>.take u
        let pa := a.elemPa (off / u + i)
        if a.xf = 1 then .at (.hbm pa) e
        else
          let st := bits a.par 40 5
          .at (.hbm pa) (leBytes (elemSize st) (elemConv st (bits a.par 48 5) .rne (leNat e)).1)

/-- The state with one write performed. -/
def State.apply (s : State) (d : Dest) : State :=
  match d with
  | .at l bs => s.writeAt l bs
  | .packed buf tags off bs => s.putPacked buf tags off bs
/-- The state with writes performed in order. -/
def State.applyAll (s : State) (ds : List Dest) : State := ds.foldl State.apply s

/-- The lines of a compressed view that `n` bytes from an offset up touch (R217). -/
def viewLines (off n : Nat) : List Nat := (List.range ((off + n + 255) / 256 - off / 256)).map (off / 256 + ·)

/-- Whether an access reads a poisoned 64-byte line (R385): of a compressed view, in the stored bytes of the lines it touches or in their tags. -/
def State.poisoned (s : State) (sp : Spot) (n : Nat) : Bool :=
  match sp with
  | .flat (.hbm pa) => s.poisonAt pa n
  | .view a off =>
    if a.xf = 3 then
      let tags := bits a.par 12 40 * 4096
      (viewLines off n).any fun l =>
        let t := s.tagAt tags l
        s.poisonAt (tags + l / 2) 1 || (t != 0 && s.poisonAt (a.pbase + l * 256) (16 * (t + 1)))
    else (List.range (n / a.unit)).any fun i => s.poisonAt (a.elemPa (off / a.unit + i)) 1
  | _ => false

/-- Where an access goes and whether it counts for migration (R348). -/
structure Reach where
  spot : Spot
  cnt : Bool := false
deriving DecidableEq, Repr

/-- Whether an offset range lies in a group's allotment (R69). -/
def Group.holds (g : Group) (off n : Nat) : Bool := decide (g.base ≤ off) && decide (off + n ≤ g.base + g.units * 4096)

/-- Whether a group is resident on a cluster. -/
def Group.on (g : Group) (cl : Nat) : Bool := g.st == 2 && g.cl == cl

/-- The resident group of a job whose allotment on a cluster holds a range (R70, R160). -/
def State.holderOf (s : State) (cl p job off n : Nat) : Option Nat :=
  (List.find? (fun e => e.2.on cl && e.2.part == p && e.2.job == job && e.2.holds off n) s.groups).map (·.1)

/-- The own-cluster scratch check (R69). -/
def State.scratchOk (s : State) (o : Origin) (off n : Nat) : Bool := o.sup || (s.groupAt o.gid).holds off n

/-- The private window check (R68). -/
def privOk (h : Bool) (k : AKind) (off : Nat) : Bool :=
  let rd := k == .load
  if off < 0x800 then rd
  else if off < 0xA00 then !h && rd
  else if off < 0xC00 then h && rd
  else if off < 0xE00 then h && k != .amo
  else !h && k != .amo

/-- The window checks and translation of an access of `n` bytes (R61 step 5, R67 to R70, R337, R218). -/
def State.place (s : State) (o : Origin) (p : Word) (n : Nat) (k : AKind) : Except Cause (Reach × State) :=
  let a := addrOf p
  if a < 0xFFFE00000000 then
    match s.xlate o a k with
    | .error c => .error c
    | .ok (pg, s) => match pg.aper with
      | none => .ok ({ spot := .flat pg.loc, cnt := pg.cnt }, s)
      | some i =>
        let ap := Tab.get (s.partAt o.part).apers i {}
        let off := a - ap.vbase
        if ap.xf = 0 then .ok ({ spot := .flat (.hbm (ap.pbase + off)), cnt := pg.cnt }, s)
        else if k = .amo || off % ap.unit != 0 || n % ap.unit != 0 then .error .apertureViolation
        else .ok ({ spot := .view ap off, cnt := pg.cnt }, s)
  else if k = .fetch then .error .fetchPermission
  else if a < 0xFFFE10000000 then
    match s.clusterOf o.part (bits a 25 3) (bits a 19 6) with
    | none => .error .remoteDenied
    | some cl =>
      let off := bits a 0 19
      if cl = o.k / 8 then (if s.scratchOk o off n then .ok ({ spot := .flat (.scratch cl off) }, s) else .error .scratchRange)
      else .ok ({ spot := .far cl off }, s)
  else if a < 0xFFFFE0000000 then .error .scratchRange
  else if a < 0xFFFFE0080000 then
    let off := a - 0xFFFFE0000000
    if s.scratchOk o off n then .ok ({ spot := .flat (.scratch (o.k / 8) off) }, s) else .error .scratchRange
  else if a < 0xFFFFF0000000 then .error .scratchRange
  else if a < 0xFFFFF0002000 then
    let off := a - 0xFFFFF0000000
    if privOk o.h k off then .ok ({ spot := .flat (.priv o.k off) }, s) else .error .privateRange
  else .error .privateRange

/-- R61 step 1. -/
def tagOk (p : Word) : Bool := tagOf p < 0x0D
/-- R61 step 3. -/
def canonical (p : Word) : Bool := bits p.toNat 48 8 == 0

/-- The checks of R61 on a raw access: steps 1, 3, 4 and 5. -/
def State.reach (s : State) (o : Origin) (p : Word) (n : Nat) (k : AKind) : Except Cause (Reach × State) :=
  if !tagOk p then .error .formatReserved
  else if !canonical p then .error .noncanonical
  else if addrOf p % n != 0 then .error k.misaligned
  else s.place o p n k

/-- Whether a spot is in global memory, of this package or another (R12): not a scratchpad, not a private memory. -/
def Spot.isGlobal (sp : Spot) : Bool :=
  match sp with
  | .flat (.hbm _) => true
  | .flat (.remote ..) => true
  | .view .. => true
  | _ => false

/-- The places that the bytes of a spot occupy. -/
def Spot.spans (sp : Spot) (n : Nat) : List (Loc × Nat) :=
  match sp with
  | .flat l => [(l, n)]
  | .far cl off => [(.scratch cl off, n)]
  | .view a off =>
    if a.xf = 3 then (viewLines off n).map fun l => (.hbm (a.pbase + l * 256), 256)
    else
      let sz := if a.xf = 1 then a.unit else elemSize (bits a.par 40 5)
      (List.range (n / a.unit)).map fun i => (.hbm (a.elemPa (off / a.unit + i)), sz)

/-- Whether two runs of bytes share a place. -/
def spanMeets (a b : Loc × Nat) : Bool :=
  let m := fun (x y : Nat) => decide (x < y + b.2) && decide (y < x + a.2)
  match a.1, b.1 with
  | .hbm x, .hbm y => m x y
  | .scratch c x, .scratch d y => c == d && m x y
  | .priv c x, .priv d y => c == d && m x y
  | .remote c x, .remote d y => c == d && m x y
  | _, _ => false

/-- Whether a service request or a queue row of a core that is on its way touches bytes of a spot, so that a later access of the core waits for it (R70,
R134 to R137, R189). -/
def State.served (s : State) (k : Nat) (sp : Spot) (n : Nat) : Bool :=
  let meets := fun (xs : List (Loc × Nat)) => xs.any fun a => (sp.spans n).any fun b => spanMeets a b
  let far := match sp with
    | .far cl _ => some cl
    | _ => none
  (List.any s.svcs fun e => e.2.org.k == k && decide (e.2.st < 2)
      && (meets [(.scratch e.2.cl e.2.off, e.2.ask.size)] || (e.2.await && far == some e.2.cl)))
    || List.any s.rows (fun e => e.2.org.k == k && !e.2.done && meets (e.2.spot.spans 8))

/-- Whether an earlier access of a core that is on its way touches bytes of a spot, so that a later access of the core waits for it: one of `served`, or for a
write a push, but not one whose repetition is active (R122). -/
def State.owes (s : State) (k : Nat) (sp : Spot) (n : Nat) (wr : Bool) : Bool :=
  let meets := fun (xs : List (Loc × Nat)) => xs.any fun a => (sp.spans n).any fun b => spanMeets a b
  s.served k sp n
    || (wr && (s.coreAt k).ls.ports.any fun e => e.2.pushes.any fun q => !q.inRep && q.spots.any fun x => meets (x.spans q.unit))

/-- Whether any scoreboard entry stalls an access of a cluster's scratch (R206). -/
def Cluster.stalls (c : Cluster) (off n : Nat) (wr : Bool) : Bool :=
  c.score.any fun e =>
    (e.wr.any fun r => r.1 < off + n && off < r.2) || (wr && e.rd.any fun r => r.1 < off + n && off < r.2)

/-- Whether a spot's access stalls (R206). -/
def State.stalled (s : State) (sp : Spot) (n : Nat) (wr : Bool) : Bool :=
  match sp with
  | .flat (.scratch cl off) => (s.clusterAt cl).stalls off n wr
  | .far cl off => (s.clusterAt cl).stalls off n wr
  | _ => false

/-- Whether an access of the moving core waits: a command holds the place (R206), or an earlier access of the core has yet to be performed
there. -/
def State.blocked (s : State) (sp : Spot) (n : Nat) (wr : Bool) : Bool := s.stalled sp n wr || s.owes s.cur sp n wr

/-- The first physical address in this package's memory that an access of a spot touches: the line of a compressed view, the element of
another (R217, R218). -/
def Spot.firstPa (sp : Spot) : Option Nat :=
  match sp with
  | .flat (.hbm pa) => some pa
  | .view a off => some (if a.xf = 3 then a.pbase + off / 256 * 256 else a.elemPa (off / a.unit))
  | _ => none

/-- The state with the leases of every cluster but one recalled for the lines from a physical address up that `n` bytes touch (R131, R179). -/
def State.recallAt (s : State) (but pa n : Nat) : State :=
  { s with clusters := s.clusters.map fun e =>
      if e.1 = but then e else (e.1, { e.2 with leases := e.2.leases.filter fun l => !(decide (pa / 64 ≤ l) && decide (l * 64 < pa + n)) }) }

/-- The state after an access of `n` bytes reached its home, counted when it comes from another die (R348); a lease that another cluster
holds on its lines is recalled (R131, R179). -/
def State.counted (s : State) (o : Origin) (r : Reach) (n : Nat) : State :=
  match r.spot.firstPa with
  | none => s
  | some pa =>
    let s := if r.cnt && s.homeOf pa != o.k / 512 then s.countRegion o pa else s
    (r.spot.spans n).foldl (fun s x => match x.1 with
      | .hbm pa => s.recallAt (o.k / 8) pa x.2
      | _ => s) s

end Sys2Proof.Machine
end

