-- ==== Sys2Proof/Machine/Mem.lean ====
section
/-! DEFINITION. Memory as instructions reach it: loads through the L1, stores, releases and acquires, watchpoints, packets to
other packages (R61, R62, R131, R132, R140, R141, R296, R297, R371). -/

namespace Sys2Proof.Machine

/-- Whether R329 makes a cause imprecise wherever an instruction meets it: poison, and a target that could not be reached or did not answer in time
(codes 31 and 82 to 84; the scope chapter leaves to that table whether a cause is precise). -/
def lateCause (c : Cause) : Bool := c == .memoryPoison || c == .fabricUnreachable || c == .crossDieTimeout || c == .dieOffline

/-- A checked result as an effect: a failed check raises its cause with a value. -/
def orTrap {α : Type} (tv : Word) (r : Except Cause α) : M α :=
  match r with
  | .ok a => pure a
  | .error c => if lateCause c then late c tv else trap c tv

/-- A checked result that changes the state, as an effect. -/
def orTrapS {α : Type} (tv : Word) (f : State → Except Cause (α × State)) : M α := do
  let s ← get
  let (a, s') ← orTrap tv (f s)
  set s'
  pure a

/-- The page a debugger has attached to a group, if any (R369). -/
def State.pageOf (s : State) (gid : Nat) : Option (Nat × DPage) := List.find? (fun e => e.2.att && e.2.gid == gid) s.dpages

/-- Whether watchpoint `n` of a page matches the byte at `a` of an access (R371). -/
def DPage.wpHit (pg : DPage) (n a : Nat) (rd wr : Bool) (parts : List Nat) : Bool :=
  let w := fun i => (Tab.get pg.wps (4 * n + i) 0).toNat
  bitAt (w 2) 63 && bits (w 2) 0 60 == 0 && decide (bits (w 0) 0 48 ≤ a) && decide (a < bits (w 1) 0 48)
    && ((rd && bitAt (w 2) 62) || (wr && bitAt (w 2) 61 && (!bitAt (w 2) 60 || parts.contains (w 3))))

/-- The 8-byte parts of bytes, zero-extended (R371). -/
def parts8 : Nat → List Byte → List Nat
  | 0, _ => []
  | n + 1, bs => if bs.isEmpty then [] else leNat (bs.take 8) :: parts8 n (bs.drop 8)

/-- The aligned 8-byte parts of bytes written from an address up, zero-extended (R371). -/
def partsFrom (a : Nat) (bs : List Byte) : List Nat :=
  if a % 8 = 0 then parts8 8 bs else leNat (bs.take (8 - a % 8)) :: parts8 8 (bs.drop (8 - a % 8))

/-- The first byte address of an access that a watchpoint of the group matches (R371). -/
def State.watchHit (s : State) (gid : Nat) (p : Word) (n : Nat) (rd wr : Bool) (bs : List Byte) : Option Nat :=
  match s.pageOf gid with
  | none => none
  | some (_, pg) =>
    let ps := partsFrom (addrOf p) bs
    ((List.range n).map (addrOf p + ·)).find? fun a => (List.range 4).any fun i => pg.wpHit i a rd wr ps

/-- Raise DEBUG_WATCHPOINT when an access of an L-context instruction matches (R371); a single step suppresses it (R373). -/
def watch (p : Word) (n : Nat) (rd wr : Bool) (bs : List Byte) : M Unit := do
  let s ← get
  if s.me.inH || s.me.step == 1 then pure ()
  else match s.watchHit s.fir.gid p n rd wr bs with
    | some a => trap .debugWatchpoint (BitVec.ofNat 64 a)
    | none => pure ()

/-- The reach of a raw access of the moving core's firing (R61). -/
def reach (p : Word) (n : Nat) (k : AKind) : M Reach := orTrapS p fun s => s.reach s.org p n k

/-- What a read comes to: bytes at once; bytes that land later; a failure that an error reply brings; a read of another package. -/
inductive Fetch where
  | now (bs : List Byte)
  | soon (bs : List Byte)
  | fail (c : Cause)
  | away (pkg pa : Nat)

/-- The L1 line of a job's virtual line address (R132). -/
def Core.l1Find (c : Core) (p job va : Nat) : Option L1Line := c.l1.find? fun x => x.part == p && x.job == job && x.va == va / 64 * 64

/-- The core with a line filled; the oldest line gives way. -/
def Core.l1Fill (c : Core) (x : L1Line) : Core :=
  { c with l1 := (x :: c.l1.filter fun y => !(y.part == x.part && y.job == x.job && y.va == x.va)).take Config.l1Lines }

/-- The core without the L1 lines that runs of a job's addresses touch (R122, R132). -/
def Core.dropLines (c : Core) (p job a n : Nat) : Core :=
  { c with l1 := c.l1.filter fun x => !(x.part == p && x.job == job && decide (x.va < a + n) && decide (a < x.va + 64)) }

/-- The spot of the 64-byte line around an address. -/
def Spot.line (sp : Spot) (a : Nat) : Spot :=
  match sp with
  | .flat (.hbm pa) => .flat (.hbm (pa - a % 64))
  | .flat (.remote pkg pa) => .flat (.remote pkg (pa - a % 64))
  | .view ap off => .view ap (off - a % 64)
  | sp => sp

/-- The state as the moving core's own loads see memory: its stores not yet performed are overlaid (R62). -/
def State.ownView (s : State) : State := s.me.stores.foldl (fun s st => s.applyAll st.parts) s

/-- A global read through the L1 (R62, R132, R385). -/
def State.readGlobal (s : State) (o : Origin) (p : Word) (r : Reach) (n : Nat) : Fetch × State :=
  let a := addrOf p
  match s.me.l1Find o.part o.job a with
  | some x => (.soon (x.data.drop (a % 64) |>.take n), s)
  | none =>
    match r.spot with
    | .flat (.remote pkg pa) => (.away pkg pa, s)
    | sp =>
      let s := s.counted o r n
      if s.poisoned sp n then (.fail .memoryPoison, s)
      else if s.poisoned (sp.line a) 64 then (.soon (s.ownView.spotBytes sp n), s)
      else
        let data := s.ownView.spotBytes (sp.line a) 64
        (.soon (data.drop (a % 64) |>.take n), s.modMe fun c => c.l1Fill { part := o.part, job := o.job, va := a / 64 * 64, data := data })

/-- Why an access of another cluster's scratch fails there, if it does (R70 step 3, R329 code 84). -/
def State.farBad (s : State) (o : Origin) (cl off n : Nat) : Option Cause :=
  if s.dieLeft (cl / 64) then some .dieOffline
  else if (s.holderOf cl o.part o.job off n).isNone then some .scratchRange
  else none

/-- The other die of this package that an access of a spot needs at once (R358), if any: another cluster's scratch, and for an atomic the home of its
line. -/
def State.needsDie (s : State) (k : Nat) (sp : Spot) (amo : Bool) : Option Nat :=
  (match sp with
    | .far cl _ => some (cl / 64)
    | .flat (.hbm pa) => if amo then some (s.homeOf pa) else none
    | .view .. => if amo then sp.firstPa.map s.homeOf else none
    | _ => none).filter fun d => d != k / 512

/-- Whether the other die that an access needs stands still: the access waits for it (R352, R358). -/
def State.dieHolds (s : State) (sp : Spot) (amo : Bool) : Bool := (s.needsDie s.cur sp amo).any (s.dieWaits s.cur sp)

/-- Whether the moving instruction's wait for that die has passed its deadline (R365). -/
def State.dieLate (s : State) (sp : Spot) (amo : Bool) : Bool :=
  match s.needsDie s.cur sp amo, s.ctx.waitAt with
  | some d, some t => decide (s.deadlineOf t (s.cur / 512) d ≤ s.time.toNat)
  | _, _ => false

/-- A read of `n` bytes at a checked reach (R62, R206, R358, R365). -/
def readAt (p : Word) (r : Reach) (n : Nat) : M Fetch := do
  let s ← get
  holdUnless (!s.blocked r.spot n false)
  match r.spot with
  | .flat (.priv ..) | .flat (.scratch ..) => pure (.now (s.spotBytes r.spot n))
  | .far cl off =>
    if s.dieHolds r.spot false then (if s.dieLate r.spot false then pure (.fail .crossDieTimeout) else hold)
    else match s.farBad s.org cl off n with
      | some c => pure (.fail c)
      | none => pure (.soon (s.spotBytes r.spot n))
  | _ =>
    let (f, s') := s.readGlobal s.org p r n
    set s'
    pure f

/-- The endpoint of a core's packets (R296): type 0, index y * 128 + x. -/
def State.endpoint (s : State) (o : Origin) : Nat :=
  let w := s.meshWord o.part o.k
  bits w 16 16 * 128 + bits w 0 16

/-- The partition that carries a job on another package (R294). -/
def State.rpart (s : State) (p pkg : Nat) : Nat :=
  match s.domainEntry p pkg with
  | some e => bits e.toNat 52 5
  | none => 0

/-- The first word of a packet's envelope (R296). -/
def envelope0 (dpkg spkg dpart cls seq etype eidx : Nat) : Nat :=
  dpkg * 2 ^ 52 + spkg * 2 ^ 40 + dpart * 2 ^ 35 + cls * 2 ^ 32 + seq * 2 ^ 16 + etype * 2 ^ 14 + eidx

/-- Whether a packet is of an endpoint: the I/O dies serve every partition, the coordinates of any other endpoint are a partition's own (R13, R296). -/
def Packet.isOf (pk : Packet) (part ep : Nat) : Bool :=
  bits (pk.words.getD 0 0).toNat 0 16 == ep && (ep / 2 ^ 14 == 3 || pk.org.part == part)

/-- Whether an endpoint may issue one more packet of a series (R297). -/
def State.mayIssue (s : State) (part etype eidx cls seq : Nat) : Bool :=
  let mine := s.pkts.filter fun e => e.2.isOf part (etype * 2 ^ 14 + eidx)
  decide (mine.length < 64) && !(mine.any fun e => e.2.cls == cls && (seq + 4096 - e.2.seq) % 4096 == 2048)

/-- The state with a packet sent (R296 to R298): kept until acknowledged, and on its first working path; 18, which is no link, stands for none. -/
def State.sendPacket (s : State) (pk : Packet) (etype eidx w1 : Nat) (payload : List Word) : State :=
  let w0 := envelope0 pk.dpkg s.pkgId (s.rpart pk.org.part pk.dpkg) pk.cls pk.seq etype eidx
  let path := ((s.workingPaths pk.dpkg).head?).getD 18
  { s with
    pkts := Tab.set s.pkts s.nextId { pk with words := [BitVec.ofNat 64 w0, BitVec.ofNat 64 w1] ++ payload, path := path, sent := s.time.toNat, last := s.time.toNat }
    nextId := s.nextId + 1 }

/-- What an access to another package is: a read, a write or an atomic (0, 1, 2) of `n` bytes at its address there, counted for migration or
not (R348), with its data. `after` is the number of the latest earlier access of its endpoint to the same line that is not acknowledged yet (R299). -/
structure Ask where
  op : Nat := 0
  n : Nat := 64
  pa : Nat := 0
  cnt : Bool := false
  after : Option Nat := none
  data : List Word := []

/-- The payload of an access packet (R296 gives no layout for it: notes/assumptions/12.md). -/
def Ask.words (a : Ask) : List Word :=
  let prev := match a.after with
    | some q => 2 ^ 63 + q * 2 ^ 48
    | none => 0
  [BitVec.ofNat 64 (prev + b2n a.cnt * 2 ^ 40 + a.op * 2 ^ 32 + a.n), BitVec.ofNat 64 a.pa] ++ a.data

/-- An access with its place behind the earlier accesses of its endpoint to its line (R299). -/
def State.behind (s : State) (part ep dpkg : Nat) (a : Ask) : Ask :=
  let near := s.pkts.filter fun e => e.2.cls == 3 && e.2.dpkg == dpkg && e.2.isOf part ep && (e.2.words.getD 3 0).toNat / 64 == a.pa / 64
  { a with after := near.getLast?.map fun e => e.2.seq }

/-- The state in which lines on their way to a core do not stand in its L1 when they come (R132, R137). -/
def State.unfill (s : State) (k : Nat) (line : Word → Bool) : State :=
  { s with pkts := s.pkts.map fun (e : Nat × Packet) => if e.2.org.k == k && line e.2.va then (e.1, { e.2 with fill := false }) else e }

/-- Whether an address lies in the 64-byte line of another. -/
def sameLine (p q : Word) : Bool := addrOf p / 64 == addrOf q / 64

/-- The state with an access of a core's endpoint sent under its next access number (R296, R297); none while the endpoint may issue nothing. Of the reads of
one line on their way, the latest alone fills the L1: the home performs them in their order (R137, R299). -/
def State.coreAccess (s : State) (pk : Packet) (a : Ask) : Option State :=
  let e := s.endpoint pk.org
  let seq := (s.coreAt pk.org.k).accCtr.toNat
  let s := if pk.fill then s.unfill pk.org.k (sameLine pk.va) else s
  if !s.mayIssue pk.org.part 0 e 3 seq then none
  else some ((s.sendPacket { pk with cls := 3, seq := seq } 0 e (pk.org.job * 2 ^ 32) (s.behind pk.org.part e pk.dpkg a).words).modCore pk.org.k fun c => { c with accCtr := c.accCtr + 1 })

/-- The same of the dealer's endpoint of a cluster. -/
def State.dealerAccess (s : State) (cl : Nat) (pk : Packet) (a : Ask) : Option State :=
  let e := s.vdie pk.org.part cl * 64 + cl % 64
  let seq := (s.clusterAt cl).accCtr.toNat
  if !s.mayIssue pk.org.part 1 e 3 seq then none
  else some ((s.sendPacket { pk with cls := 3, seq := seq } 1 e (pk.org.job * 2 ^ 32) (s.behind pk.org.part (2 ^ 14 + e) pk.dpkg a).words).modCluster cl fun c => { c with accCtr := c.accCtr + 1 })

/-- An access packet of the moving core to another package: its name. -/
def sendAccess (pk : Packet) (a : Ask) : M Nat := do
  let s ← get
  match s.coreAccess { pk with org := s.org } a with
  | none => hold
  | some s' => do
    set s'
    pure s.nextId

/-- The read of the 64-byte line of another package around the address of an access (R132, R299). -/
def lineAsk (p : Word) (pa : Nat) (cnt : Bool) : Ask := { pa := pa - addrOf p % 64, cnt := cnt }

/-- The 8-byte words of bytes. -/
def wordsOf (bs : List Byte) : List Word := (parts8 64 bs).map (BitVec.ofNat 64 ·)

/-- An error reply on its way to the firing of an origin (R46, R70, R162). -/
def State.sendErr (s : State) (o : Origin) (c : Cause) (tv : Word) (pend : Option Nat) : State :=
  { s with errs := Tab.set s.errs s.nextId { org := o, cause := c, tval := tv, pend := pend }, nextId := s.nextId + 1 }.post (.errRep s.nextId)

/-- The state with the L1 copy of written bytes updated (R132); a copy through a transform is dropped (R218). -/
def State.updateL1 (s : State) (p : Word) (r : Reach) (bs : List Byte) : State :=
  let a := addrOf p
  let f := s.fir
  s.modMe fun c => match c.l1Find f.part f.job a, r.spot with
    | none, _ => c
    | some x, .flat _ =>
      { c with l1 := c.l1.map fun y => if y == x then { x with data := x.data.take (a % 64) ++ bs ++ x.data.drop (a % 64 + bs.length) } else y }
    | some x, _ => { c with l1 := c.l1.filter (· != x) }

/-- A write of bytes at a checked reach (R62, R70, R132, R141, R206, R299). A line of another package that is on its way no longer holds what
the core has written. -/
def writeTo (p : Word) (r : Reach) (bs : List Byte) : M Unit := do
  let s ← get
  holdUnless (!s.blocked r.spot bs.length true)
  match r.spot with
  | .flat (.priv ..) | .flat (.scratch ..) => upd fun s => s.applyAll (r.spot.dests bs)
  | .far cl off =>
    if s.dieHolds r.spot false then (if s.dieLate r.spot false then upd fun s => s.sendErr s.org .crossDieTimeout p none else hold)
    else match s.farBad s.org cl off bs.length with
      | some c => upd fun s => s.sendErr s.org c p none
      | none => upd fun s => s.applyAll (r.spot.dests bs)
  | .flat (.remote pkg pa) =>
    let id ← freshId
    let _ ← sendAccess { dpkg := pkg, va := p, kind := 2, store := id } { op := 1, n := bs.length, pa := pa, cnt := r.cnt, data := wordsOf bs }
    upd fun s => (s.updateL1 p r bs).unfill s.cur (sameLine p)
    updMe fun c => { c with stores := c.stores ++ [{ id := id, va := p, away := true, fid := s.fir.fid, sent := s.time.toNat }] }
  | sp =>
    let id ← freshId
    upd fun s => s.counted s.org r bs.length |>.updateL1 p r bs
    updMe fun c => { c with stores := c.stores ++ [{ id := id, va := p, parts := sp.dests bs, fid := s.fir.fid, sent := s.time.toNat }] }
    post (.ack s.cur id)

/-- A whole store: checks, watchpoints, write (R61, R371). -/
def storeRaw (p : Word) (bs : List Byte) : M Unit := do
  let r ← reach p bs.length .store
  watch p bs.length false true bs
  writeTo p r bs

/-- Whether a store of a core is to another package, or to a home whose clock is stopped. -/
def State.storeWaits (s : State) (k : Nat) (x : PStore) : Bool := x.away || x.parts.any fun d => (s.destWaits k d).isSome

/-- The state with a core's stores within the package performed (R141), but those whose homes stand still (R358). -/
def State.flush (s : State) (k : Nat) : State :=
  let st := (s.coreAt k).stores.filter fun x => !s.storeWaits k x
  (st.foldl (fun s x => s.applyAll x.parts) s).modCore k fun c => { c with stores := c.stores.filter (s.storeWaits k) }

/-- The core without its L1 lines, and with the unconsumed prefetched items of its read ports discarded (R122, R132). -/
def Core.acquire (c : Core) : Core :=
  { c with l1 := [], ls := { c.ls with ports := c.ls.ports.map fun e => (e.1, { e.2 with pre := [] }) } }

/-- The state with the prefetch of every bound read port of a core due (R116, R121, R122). -/
def State.wantItems (s : State) (k : Nat) : State :=
  (s.coreAt k).ls.ports.foldl (fun s e => if e.2.bnd && e.2.kind % 2 == 0 then s.post (.prefetch k e.1) else s) s

/-- The state in which what a core has asked for ahead is not to be used: no line on its way enters its L1, and no line that its read ports
have asked of another package stays (R122, R132). -/
def State.forgetAhead (s : State) (k : Nat) : State :=
  { s.unfill k (fun _ => true) with awayLines := s.awayLines.filter fun x => match x.own with
      | .port k' _ => k' != k
      | _ => true }

/-- The state after an acquire of a core (R122, R132, R140): its L1 is empty, what it has asked for ahead is not used, and the discarded items are
fetched again. -/
def State.acquireAt (s : State) (k : Nat) : State := ((s.modCore k Core.acquire).forgetAhead k).wantItems k

/-- An acquire of the moving core. -/
def acquire : M Unit := upd fun s => s.acquireAt s.cur

/-- The state with a core's L1 empty, and nothing on its way into it (R132). -/
def State.coldL1 (s : State) (k : Nat) : State := (s.modCore k fun c => { c with l1 := [] }).unfill k fun _ => true

/-- Whether a service request writes (R141): every index but a read. -/
def Svc.writes (v : Svc) : Bool := v.ask.idx != 0

/-- Whether a row goes to another package. -/
def RowWrite.abroad (r : RowWrite) : Bool :=
  match r.spot with
  | .flat (.remote ..) => true
  | _ => false

/-- Whether every write a core has issued within the package is performed (R122, R141). -/
def State.quiet (s : State) (k : Nat) : Bool :=
  let c := s.coreAt k
  c.stores.all (·.away) && c.ls.ports.all (fun e => e.2.pushes.all (·.gone))
    && (List.all s.svcs fun e => !(e.2.org.k == k && e.2.writes && !e.2.await)) && List.all s.rows (fun e => e.2.done || e.2.abroad || e.2.org.k != k)

/-- A command waits until the core's stream pushes, service writes and queue rows are performed, and its stores within the package are performed before it; a
push whose parts in other packages are on their way is left to `State.coreAbroad` (R122, R145). -/
def ownServed : M Unit := do
  let s ← get
  holdUnless (s.me.ls.ports.all fun e => e.2.pushes.all (·.gone))
  holdUnless ((List.all s.svcs fun e => !(e.2.org.k == s.cur && e.2.writes && !e.2.await)) && List.all s.rows fun e => e.2.done || e.2.org.k != s.cur)
  upd fun s => s.flush s.cur

/-- Whether no write of a core to another package is outstanding (R141, R146). -/
def State.quietAbroad (s : State) (k : Nat) : Bool :=
  let c := s.coreAt k
  c.stores.isEmpty && c.ls.ports.all (fun e => e.2.pushes.isEmpty) && List.all s.rows (fun e => e.2.done || e.2.org.k != k)

/-- The wait of a release (R141), of domain scope or not. A failed remote write fails a release of domain scope (R299). -/
def release (dom : Bool) : M Unit := do
  let s ← get
  let c := s.me
  match dom, c.stores.find? fun x => x.bad.isSome with
  | true, some x => trap (x.bad.getD .fabricUnreachable) x.va
  | _, _ =>
    if s.quiet s.cur && (!dom || s.quietAbroad s.cur) then updCtx fun x => { x with relWait := none }
    else do
      updCtx fun x => { x with relWait := some dom }
      holdKeep

/-- A read on which the pipe waits (R109, R149): checked, watched and made once, or asked of another package once and awaited; the bytes, or the
cause with which it failed at its target (R299, R365); a read at a home whose die stands still waits (R358). -/
def pipeLoad (p : Word) (n : Nat) : M (Except Cause (List Byte)) := do
  let x ← ctx
  match x.aw with
  | .replied ok c ws => do
    updCtx fun x => { x with aw := .none }
    pure (if ok then .ok ((ws.flatMap fun w => leBytes 8 w.toNat).drop (addrOf p % 64) |>.take n) else .error c)
  | .none => do
    let r ← reach p n .load
    watch p n true false []
    let s ← get
    let f ← readAt p r n
    match f with
    | .now bs => pure (.ok bs)
    | .soon bs =>
      if s.dieHolds r.spot true then (if s.dieLate r.spot true then (do
        set s
        pure (.error .crossDieTimeout)) else hold)
      else pure (.ok bs)
    | .fail c => pure (.error c)
    | .away pkg pa => do
      let id ← sendAccess { dpkg := pkg, va := p, kind := 3, fill := true } (lineAsk p pa r.cnt)
      updCtx fun x => { x with aw := .sent id }
      holdKeep
  | _ => hold

/-- A read that an instruction makes at issue and needs at once; a failed read is raised there. -/
def readNow (p : Word) (n : Nat) : M (List Byte) := do
  let b ← pipeLoad p n
  orTrap p b

end Sys2Proof.Machine
end

