-- ==== Sys2Proof/Machine/Flags.lean ====
section
/-! DEFINITION. The floating-point control and status register (R64, R74): sticky flags and the rounding mode of the F forms. -/

namespace Sys2Proof.Machine

/-- The context with fflags bits raised (R74). -/
def Ctx.raise (x : Ctx) (fl : Nat) : Ctx := { x with fcsr := x.fcsr ||| BitVec.ofNat 8 (fl % 32) }

/-- Raise fflags bits in the moving context. -/
def raiseFlags (fl : Nat) : M Unit := updCtx fun x => x.raise fl

/-- The rounding mode of an rm code (R64). -/
def rmMode (c : Nat) : Option Rnd :=
  match c with
  | 0 => some .rne
  | 1 => some .rtz
  | 2 => some .rdn
  | 3 => some .rup
  | _ => none

/-- The rounding mode of an F form: rm, or frm for the dynamic mode; RESERVED_ROUNDING otherwise (R64). -/
def roundingOf (rm : BitVec 3) (w : BitVec 32) : M Rnd := do
  let x ← ctx
  let c := if rm.toNat = 7 then bits x.fcsr.toNat 5 3 else rm.toNat
  match rmMode c with
  | some r => pure r
  | none => trap .reservedRounding (tvw w)

/-- Wait until every pending FDIV.S and FSQRT.S of the context has landed (R64). -/
def flagsSettled : M Unit := do
  let x ← ctx
  holdUnless (!x.pend.any (·.div))

/-- Flags of a fused or plain F result. -/
def withFlags {α : Type} (r : α × Flg) : M α := do
  raiseFlags r.2.toNat
  pure r.1

end Sys2Proof.Machine
end

