-- ==== Sys2Proof/Machine/Away.lean ====
section
/-! DEFINITION. The accesses that agents other than an instruction make to another package (R298, R299): the lines they ask for and wait for, and
the writes they send and wait for; and the acknowledgements of packets from other packages (R297). -/

namespace Sys2Proof.Machine

/-- The state with an access of an agent sent: the dealer's endpoint speaks for commands and tiles, the core's for its ports and rows (R296). -/
def State.agentAccess (s : State) (own : Owner) (pk : Packet) (a : Ask) : Option State :=
  match own with
  | .copy cl _ | .spring cl _ | .outlet cl _ => s.dealerAccess cl pk a
  | _ => s.coreAccess pk a

/-- The line of another package that an agent has asked for. -/
def State.lineFor (s : State) (own : Owner) (pkg pa : Nat) : Option AwayLine := s.awayLines.find? fun x => x.own == own && x.pkg == pkg && x.pa == pa

/-- The state in which an agent has asked for a line; as before when it has already, or while its endpoint may issue nothing (R297). -/
def State.askLine (s : State) (own : Owner) (o : Origin) (va : Word) (pkg pa : Nat) (cnt : Bool) : State :=
  match s.lineFor own pkg pa with
  | some _ => s
  | none =>
    match s.agentAccess own { org := o, dpkg := pkg, va := va, kind := 8 } { pa := pa, cnt := cnt } with
    | none => s
    | some s' => { s' with awayLines := s'.awayLines ++ [{ own := own, ask := s.nextId, pkg := pkg, pa := pa }] }

/-- The lines that `n` bytes from a physical address up touch. -/
def linesOf (pa n : Nat) : List Nat := (List.range ((pa + n + 63) / 64 - pa / 64)).map fun i => (pa / 64 + i) * 64

/-- The state in which an agent has asked for the lines of `n` bytes. -/
def State.askSpan (s : State) (own : Owner) (o : Origin) (va : Word) (pkg pa n : Nat) (cnt : Bool) : State :=
  (linesOf pa n).foldl (fun s l => s.askLine own o va pkg l cnt) s

/-- The `n` bytes that an agent has asked for, or the cause with which a line failed; none while one is on its way. -/
def State.awayBytes (s : State) (own : Owner) (pkg pa n : Nat) : Option (Except Cause (List Byte)) :=
  let ls := (linesOf pa n).map fun l => s.lineFor own pkg l
  if ls.any fun x => (match x with
      | some x => !x.got
      | none => true) then none
  else match ls.findSome? fun x => x.bind (·.bad) with
    | some c => some (.error c)
    | none => some (.ok ((ls.flatMap fun x => (x.map (·.data)).getD []).drop (pa % 64) |>.take n))

/-- The state without the lines that an agent has asked for. -/
def State.dropLines (s : State) (own : Owner) : State := { s with awayLines := s.awayLines.filter (·.own != own) }

/-- The pieces of a write to another package, none across a 64-byte line. -/
def linePieces (pkg pa : Nat) (va : Word) (cnt : Bool) (bs : List Byte) : List OutPiece :=
  (linesOf pa bs.length).map fun l =>
    let lo := max l pa
    { pkg := pkg, pa := lo, va := ptrAdd va (lo - pa : Nat), data := (bs.drop (lo - pa)).take (l + 64 - lo), cnt := cnt }

/-- The pieces of a write at a checked reach that go to other packages. -/
def Reach.abroad (r : Reach) (va : Word) (bs : List Byte) : List OutPiece :=
  match r.spot with
  | .flat (.remote pkg pa) => linePieces pkg pa va r.cnt bs
  | _ => []

/-- Send as many of an agent's writes as its endpoint may issue (R297). -/
def State.sendOuts (s : State) (w : AwayOut) : List OutPiece → AwayOut × State
  | [] => ({ w with todo := [] }, s)
  | x :: rest =>
    match s.agentAccess w.own { org := w.org, dpkg := x.pkg, va := x.va, kind := 7, store := w.id }
        { op := 1, n := x.data.length, pa := x.pa, cnt := x.cnt, data := wordsOf x.data } with
    | none => ({ w with todo := x :: rest }, s)
    | some s => s.sendOuts { w with out := w.out + 1 } rest

/-- The writes that an agent has under way. -/
def State.outFor (s : State) (own : Owner) : Option AwayOut := s.awayOuts.find? fun x => x.own == own && !x.gone

/-- The state with writes under way sent on; those that nobody waits for are forgotten once they have ended. -/
def State.pump (s : State) (id : Nat) : State :=
  match s.awayOuts.find? (·.id == id) with
  | none => s
  | some w =>
    let (w, s) := s.sendOuts w w.todo
    { s with awayOuts :=
        if w.gone && w.todo.isEmpty && w.out = 0 then s.awayOuts.filter (·.id != id) else s.awayOuts.map fun x => if x.id == id then w else x }

/-- The state in which an agent begins to write pieces to other packages. -/
def State.startOut (s : State) (own : Owner) (o : Origin) (todo : List OutPiece) (gone : Bool := false) : State :=
  State.pump { s with
    awayOuts := s.awayOuts ++ [{ own := own, id := s.nextId, gone := gone, org := o, todo := todo }], nextId := s.nextId + 1 } s.nextId

/-- Whether an agent's writes are all acknowledged or failed, with the first failure. -/
def State.outEnded (s : State) (own : Owner) : Option (Option (Cause × Word)) :=
  match s.outFor own with
  | none => some none
  | some w => if w.todo.isEmpty && w.out = 0 then some w.bad else none

/-- The state without an agent's ended writes. -/
def State.dropOut (s : State) (own : Owner) : State := { s with awayOuts := s.awayOuts.filter fun x => !(x.own == own && !x.gone) }

/-- The state after one of the writes `id` was acknowledged or failed: the next one may leave. -/
def State.outAnswered (s : State) (id : Nat) (bad : Option (Cause × Word)) : State :=
  State.pump { s with awayOuts := s.awayOuts.map fun x => if x.id == id then { x with out := x.out - 1, bad := x.bad.orElse fun _ => bad } else x } id

/-- The state in which nobody waits any longer for the writes that a group's agents have under way; the lines they asked for are dropped. -/
def State.orphan (s : State) (gid : Nat) (mine : Owner → Bool) : State :=
  { s with
    awayOuts := s.awayOuts.map fun x => if x.org.gid == gid && mine x.own then { x with gone := true } else x
    awayLines := s.awayLines.filter fun x => !mine x.own }

/-- The state after a line that an agent asked for is here, or has failed; one that is no longer wanted is dropped. -/
def State.lineAnswered (s : State) (id : Nat) (r : Except Cause (List Byte)) : State :=
  { s with awayLines := s.awayLines.map fun x =>
      if x.ask == id then (match r with
        | .ok bs => { x with got := true, data := bs }
        | .error c => { x with got := true, bad := some c }) else x }

/-- Fields of a packet's envelope (R296). -/
def envF (ws : List Word) (i lo n : Nat) : Nat := bits (ws.getD i 0).toNat lo n

/-- The key of the record of a source endpoint and series (R297). Partitions of one package use the same mesh coordinates, so the partition that
the packet names here tells their endpoints apart (notes/assumptions/12.md). -/
def seqKey (ws : List Word) : Nat := ((envF ws 0 40 12 * 32 + envF ws 0 35 5) * 4 + envF ws 0 32 3 % 4) * 65536 + envF ws 0 0 16

/-- Whether a record holds a sequence (R297). -/
def SeqRec.holds (r : SeqRec) (seq : Nat) : Bool := r.seen.contains seq

/-- The record with a sequence performed (R297): the 2,048 below the highest one stay. -/
def SeqRec.add (r : SeqRec) (seq : Nat) : SeqRec :=
  let top := if r.seen.isEmpty || (seq + 4096 - r.top) % 4096 ≤ 2048 then seq else r.top
  let near := fun x => decide ((top + 4096 - x) % 4096 ≤ 2048)
  { top := top, seen := (seq :: r.seen).filter near, acks := r.acks.filter fun e => e.1 != seq && near e.1, more := r.more.filter fun x => x != seq && near x }

/-- The acknowledgement of a packet: its own envelope, what it quotes of the packet's, the outcome (0, or the code of the cause with which it is
refused) and a read's or an atomic's result (R296 gives no layout for it: notes/assumptions/12.md). -/
def State.ackWords (s : State) (ws : List Word) (code : Nat) (data : List Word) : List Word :=
  let spkg := envF ws 0 40 12
  [BitVec.ofNat 64 (envelope0 spkg s.pkgId (s.rpart (envF ws 0 35 5) spkg) 4 0 3 s.dev.active), BitVec.ofNat 64 (envF ws 1 32 16 * 2 ^ 32),
    BitVec.ofNat 64 (envF ws 0 0 40), BitVec.ofNat 64 code] ++ data

/-- The state with a packet acknowledged, and every copy of it that came meanwhile (R297). -/
def State.acknowledge (s : State) (ws : List Word) (code : Nat) (data : List Word) : State :=
  let seq := envF ws 0 16 12
  let r := Tab.get s.seqs (seqKey ws) {}
  let a := s.ackWords ws code data
  { s with
    seqs := Tab.set s.seqs (seqKey ws) { r with acks := Tab.set r.acks seq a, more := r.more.filter (· != seq) }
    acksOut := s.acksOut ++ List.replicate (1 + (r.more.filter (· == seq)).length) a }

/-- The state after one more copy of a packet (R297): acknowledged as the first one was, or with it. -/
def State.copyAgain (s : State) (ws : List Word) : State :=
  let seq := envF ws 0 16 12
  let r := Tab.get s.seqs (seqKey ws) {}
  match Tab.find? r.acks seq with
  | some a => { s with acksOut := s.acksOut ++ [a] }
  | none => { s with seqs := Tab.set s.seqs (seqKey ws) { r with more := seq :: r.more } }

end Sys2Proof.Machine
end

