-- ==== Sys2Proof/Machine/Streams.lean ====
section
/-! DEFINITION. Stream ports: patterns, items, pops, pushes, prefetch (R114 to R122). -/

namespace Sys2Proof.Machine

/-- A configuration field of a port (R114). -/
def Port.field (p : Port) (i : Nat) : Word := Tab.get p.fields i 0
/-- ctl.ind (R114). -/
def Port.ind (p : Port) : Bool := bitAt (p.field 1).toNat 2
/-- The number of dimensions used. -/
def Port.ndim (p : Port) : Nat := bits (p.field 1).toNat 0 2 + 1
/-- The count of dimension `k`. -/
def Port.count (p : Port) (k : Nat) : Nat := bits (p.field (2 + k)).toNat 0 16 + 1
/-- The stride of dimension `k`. -/
def Port.stride (p : Port) (k : Nat) : Int := signed 32 (bits (p.field (2 + k)).toNat 32 32)
/-- The pattern's total (R115). -/
def Port.total (p : Port) : Nat := (List.range p.ndim).foldl (fun n k => n * p.count k) 1
/-- Whether a position is exhausted: it equals the total; a pattern of 2^64 items never is (R115). DESIGN CHOICE (notes/assumptions/23.md): a
starting position above the total, for which R115 names no item, is not exhausted and goes on through the pattern's indices modulo its
counts. -/
def Port.exhaustedAt (p : Port) (n : Nat) : Bool := p.total != 2 ^ 64 && n == p.total
/-- Whether the pattern is exhausted at the consumer position. -/
def Port.exhausted (p : Port) : Bool := p.exhaustedAt p.pos
/-- Bound for reading (R116). -/
def Port.isRead (p : Port) : Bool := p.bnd && p.kind % 2 == 0
/-- Bound for writing. -/
def Port.isWrite (p : Port) : Bool := p.bnd && p.kind % 2 == 1
/-- Bound to a v register. -/
def Port.isV (p : Port) : Bool := 2 ≤ p.kind

/-- The byte offset of item `n` in the pattern (R115). -/
def Port.offsetAt (p : Port) (n : Nat) : Int :=
  ((List.range p.ndim).foldl (fun (a : Nat × Int) k => (a.1 / p.count k, a.2 + (a.1 % p.count k : Nat) * p.stride k)) (n, 0)).2
/-- The pattern address of item `n` (R115). -/
def Port.addrAt (p : Port) (n : Nat) : Word := ptrAdd (p.field 0) (p.offsetAt (n % 2 ^ 64))
/-- The tag that gives the item format (R115). -/
def Port.itemTag (p : Port) : Nat := if p.ind then tagOf (p.field 6) else tagOf (p.field 0)
/-- The item size (R117). -/
def Port.itemSize (p : Port) : Nat := if p.isV then 32 else if p.itemTag = 0 then 4 else elemSize p.itemTag
/-- The element size that aligns an item (R117). -/
def Port.itemUnit (p : Port) : Nat := if p.isV then elemSize p.itemTag else p.itemSize

/-- Whether a tag may be streamed by a kind (R117). -/
def streamTagOk (kind tag : Nat) : Bool :=
  if 2 ≤ kind then tag ≤ 8 || tag == 11 || tag == 12
  else if kind = 0 then tag ≤ 8 && tag != 6 else tag ≤ 8

/-- The pointer that fails the format checks of SBIND, if any (R116 check 3). -/
def Port.badFormat (p : Port) (kind : Nat) : Option Word :=
  let b := p.field 0
  let d := p.field 6
  let ok := fun (w : Word) => streamTagOk kind (tagOf w) && blogOk (tagOf w) (blogOf w)
  if p.ind then
    if !((tagOf b == 6 || tagOf b == 7) && blogOf b == 0) then some b
    else if !ok d then some d else none
  else if !ok b then some b else none

/-- The failure of a stream access that a check of R61 or R337 stands for (R120). -/
def streamCause (item ind : Bool) (c : Cause) : Cause :=
  match c with
  | .loadPageFault | .storePageFault => .streamPageFault
  | .scratchRange | .privateRange => if item && ind then .streamIndexRange else .streamAddressRange
  | .apertureViolation => .apertureViolation
  | .memoryPoison => .memoryPoison
  | _ => .streamAddressRange

/-- The reach of one element of a stream item (R120): global memory and the own-cluster scratch window only. -/
def State.streamReach (s : State) (o : Origin) (p : Word) (n : Nat) (k : AKind) : Except Cause (Reach × State) :=
  if !canonical p then .error .noncanonical
  else if addrOf p % n != 0 then .error .misalignedLoad
  else if 0xFFFE00000000 ≤ addrOf p && (addrOf p < 0xFFFFE0000000 || 0xFFFFE0080000 ≤ addrOf p) then .error .scratchRange
  else s.place o p n k

/-- The reaches of the elements of an item from an address up. -/
def State.streamReaches (s : State) (o : Origin) (p : Word) (u : Nat) (k : AKind) : Nat → Except Cause (List Reach × State)
  | 0 => .ok ([], s)
  | n + 1 =>
    match s.streamReach o p u k with
    | .error c => .error c
    | .ok (r, s) => match s.streamReaches o (ptrAdd p u) u k n with
      | .error c => .error c
      | .ok (rs, s) => .ok (r :: rs, s)

/-- A stream read of `n` elements of `u` bytes: the bytes; a cause; a wait, with the lines of other packages that it needs asked for; or a wait for the home of an
address, on a die that stands still (R358). -/
inductive SRead where
  | ok (bs : List Byte) (s : State)
  | bad (c : Cause)
  | wait (ask : State → State)
  | far (va : Word) (d : Nat)

/-- The first of the reaches of elements of `u` bytes from an address up whose home is on another die that stands still. -/
def State.homeStill (s : State) (k : Nat) (p : Word) (u : Nat) (rs : List Reach) : Option (Word × Nat) :=
  rs.zipIdx.findSome? fun e =>
    ((s.needsDie k e.1.spot true).filter (s.dieWaits k e.1.spot)).map fun d => (ptrAdd p (e.2 * u : Nat), d)

/-- The bytes of a spot as an agent reads them: another package's by the lines the agent has asked for (R299). -/
def State.agentBytes (s : State) (own : Owner) (sp : Spot) (n : Nat) : Option (Except Cause (List Byte)) :=
  match sp with
  | .flat (.remote pkg pa) => s.awayBytes own pkg pa n
  | _ => some (.ok (s.spotBytes sp n))

/-- The bytes of spots of `u` bytes each, in order; the first failure; none while bytes of another package are missing. -/
def State.agentBytesAll (s : State) (own : Owner) (u : Nat) : List Spot → Option (Except Cause (List Byte))
  | [] => some (.ok [])
  | sp :: sps =>
    match s.agentBytes own sp u, s.agentBytesAll own u sps with
    | some (.error c), _ => some (.error c)
    | some (.ok b), some (.ok bs) => some (.ok (b ++ bs))
    | some (.ok _), r => r
    | none, _ => none

/-- The lines of other packages that reaches of `u` bytes need, asked for. -/
def State.askReaches (s : State) (own : Owner) (o : Origin) (va : Word) (u : Nat) (rs : List Reach) : State :=
  rs.foldl (fun s r => match r.spot with
    | .flat (.remote pkg pa) => s.askSpan own o va pkg pa u r.cnt
    | _ => s) s

/-- Read elements for port `i` of the moving core (R120, R122): the core's own stores are seen. -/
def State.streamRead (s : State) (i : Nat) (o : Origin) (p : Word) (u n : Nat) (item ind : Bool) : SRead :=
  match s.streamReaches o p u .load n with
  | .error c => .bad (streamCause item ind c)
  | .ok (rs, s) =>
    if rs.any fun r => s.blocked r.spot u false then .wait id
    else match s.homeStill o.k p u rs with
    | some (va, d) => .far va d
    | none =>
    if rs.any fun r => s.poisoned r.spot u then .bad .memoryPoison
    else match s.ownView.agentBytesAll (.port o.k i) u (rs.map (·.spot)) with
      | none => .wait fun s => s.askReaches (.port o.k i) o p u rs
      | some (.error c) => .bad c
      | some (.ok bs) => .ok bs (rs.foldl (fun s r => s.counted o r u) s)

/-- The address of item `n`: the pattern address, or through the index array (R115). -/
def State.itemAddr (s : State) (i : Nat) (o : Origin) (p : Port) (n : Nat) : (Word × SRead) × Word :=
  let a := p.addrAt n
  if !p.ind then ((a, .ok [] s), a)
  else
    let u := elemSize (tagOf (p.field 0))
    match s.streamRead i o a u 1 false true with
    | .ok bs s => ((a, .ok bs s), ptrAdd (p.field 6) ((leNat bs * p.itemSize : Nat) : Int))
    | r => ((a, r), a)

/-- The register value of an item's bytes (R117). -/
def Port.toReg (p : Port) (bs : List Byte) : Nat :=
  if p.isV || p.itemTag = 0 then leNat bs else (elemConv 1 p.itemTag .rne (leNat bs)).1
/-- The bytes a register value is pushed as (R117). -/
def Port.ofReg (p : Port) (x : Nat) : List Byte :=
  if p.isV || p.itemTag = 0 then leBytes p.itemSize x else leBytes p.itemSize (elemConv p.itemTag 1 .rne (x % 2 ^ 32)).1

/-- An item of a read port as formed (R121), or what it waits for. -/
inductive SItem where
  | got (it : PreItem) (s : State)
  | wait (ask : State → State)
  | far (va : Word) (d : Nat)

/-- Item `n` of read port `i` of the moving core, formed (R121); the lines of other packages that were asked for it are used up. -/
def State.formItem (s : State) (i : Nat) (o : Origin) (p : Port) (n : Nat) : SItem :=
  let done := fun (it : PreItem) (s : State) => SItem.got it (s.dropLines (.port o.k i))
  match s.itemAddr i o p n with
  | ((a, .bad c), _) => done { addr := a, fail := some (c, a) } s
  | ((_, .wait f), _) => .wait f
  | ((_, .far va d), _) => .far va d
  | ((_, .ok _ s), ad) =>
    match s.streamRead i o ad p.itemUnit (p.itemSize / p.itemUnit) true p.ind with
    | .bad c => done { addr := ad, fail := some (c, ad) } s
    | .wait f => .wait f
    | .far va d => .far va d
    | .ok bs s => done { val := p.toReg bs, addr := ad } s

/-- Port `i` of the moving core. -/
def State.portAt (s : State) (i : Nat) : Port := Tab.get s.ls.ports i {}
/-- The blocks of a firing image that hold port `i` (R316, R317). -/
def portBlocks (i : Nat) : List Nat := if i = 0 then [5] else if i = 1 then [5, 6] else [6]
/-- Change port `i` of the moving core. -/
def updPort (i : Nat) (f : Port → Port) : M Unit :=
  updMe fun c => { c with ls := { c.ls with ports := Tab.set c.ls.ports i (f (Tab.get c.ls.ports i {})) } }.touch (portBlocks i)

/-- The stream part of zpos (R75). -/
def streamPos (i pos : Nat) : Word := BitVec.ofNat 64 (pos % 2 ^ 32 * 2 ^ 32 + i * 256 + 128)

/-- The port of the moving core that a register is bound to (R118): class 1 f, 2 v. -/
def State.portOf (s : State) (cls n : Nat) : Option (Nat × Port) :=
  if s.me.inH || cls = 0 then none
  else List.find? (fun e => e.2.bnd && e.2.reg == n && e.2.isV == (cls == 2)) s.ls.ports

/-- The next item of read port `i`: prefetched, or formed now; nothing is consumed yet. -/
def State.nextItem (s : State) (i : Nat) (p : Port) : SItem :=
  match p.pre with
  | it :: _ => .got it s
  | [] => s.formItem i { s.org with h := false } p p.pos

/-- Pop one item of a read port (R118, R121); `must` when the eb bit forbids waiting. -/
def popPort (i : Nat) (must : Bool) (reg : Nat) : M Nat := do
  let s ← get
  let p := s.portAt i
  if p.exhausted then trapAt .streamExhausted (BitVec.ofNat 64 i) (streamPos i p.pos)
  else if must && p.pre.isEmpty then trap .emptyRegister (BitVec.ofNat 64 reg)
  else
    match s.nextItem i p with
    | .wait f => want f
    | .far .. => hold
    | .got it s' =>
      match it.fail with
      | some (c, a) => trapAt c a (streamPos i p.pos)
      | none => do
        watch it.addr p.itemSize true false []
        set s'
        updPort i fun p => { p with pos := (p.pos + 1) % 2 ^ 64, pre := p.pre.drop 1 }
        post (.prefetch s.cur i)
        pure it.val

/-- Whether a read port of a core has room for one more prefetched item; a recorded failure is its last (R121). -/
def Core.mayPrefetch (c : Core) (i : Nat) : Bool :=
  let p := Tab.get c.ls.ports i {}
  p.isRead && c.l.fir.active && decide (p.pre.length < Config.portDepth) && !p.exhaustedAt (p.pos + p.pre.length)
    && !p.pre.any (·.fail.isSome)

/-- Whether a port that waits from a tick for a die is past its deadline (R365). -/
def State.portLate (s : State) (k d t : Nat) : Bool := decide (s.deadlineOf t (k / 512) d ≤ s.time.toNat)

/-- The state after a read port has moved on by one prefetched item, or has asked for the lines that the next one needs (R121). A read whose home stands still
waits for it until its deadline, which raises its cause imprecisely; it is then asked for anew (R358, R365). -/
def State.prefetch (s : State) (k i : Nat) : Option State :=
  let s' := { s with cur := k }
  let c := s'.me
  let p := s'.portAt i
  if !c.mayPrefetch i then none
  else
    let o : Origin := { k := k, h := false, fid := c.l.fir.fid, gid := c.l.fir.gid, part := c.l.fir.part, job := c.l.fir.job, sup := c.l.fir.sup }
    let put := fun (s : State) (f : Port → Port) =>
      { s.modCore k fun c => { c with ls := { c.ls with ports := Tab.set c.ls.ports i (f (Tab.get c.ls.ports i {})) } } with cur := s.cur }
    match s'.formItem i o p (p.pos + p.pre.length) with
    | .far va d => match p.stuck with
      | none => some (put s fun q => { q with stuck := some s.time.toNat })
      | some t => if s.portLate k d t then some ((put s fun q => { q with stuck := none }).sendErr o .crossDieTimeout va none) else none
    | .wait f => if (f s).awayLines.length = s.awayLines.length then none else some (f s)
    | .got it s'' =>
      some { put s'' fun q => { q with pre := p.pre ++ [it], stuck := none } with cur := s.cur }

/-- Push one value at a write port (R119, R121); `pend` names a producer whose value is still to land, `known` says whether a watchpoint can already compare
it (notes/assumptions/140.md). -/
def pushPort (i : Nat) (x : Nat) (pend : Option Nat) (known : Bool := true) : M Unit := do
  let s ← get
  let p := s.portAt i
  let zp := streamPos i p.pos
  if p.exhausted then trapAt .streamOverfull (BitVec.ofNat 64 i) zp
  else
    holdUnless (p.pushes.length < Config.portDepth)
    match s.itemAddr i s.org p p.pos with
    | ((a, .bad c), _) => trapAt c a zp
    | ((_, .wait f), _) => want f
    | ((_, .far va d), _) => if s.ctx.waitAt.any (s.portLate s.cur d) then late .crossDieTimeout va else hold
    | ((ia, .ok _ s1), ad) =>
      if p.ind then watch ia (elemSize (tagOf (p.field 0))) true false []
      let u := p.itemUnit
      match s1.streamReaches s.org ad u .store (p.itemSize / u) with
      | .error c => trapAt (streamCause true p.ind c) ad zp
      | .ok (rs, s2) => do
        watch ad p.itemSize false true (if known then p.ofReg x else [])
        set ((rs.foldl (fun s r => s.counted s.org r u) s2).dropLines (.port s.cur i))
        updPort i fun q => { q with
          pos := (q.pos + 1) % 2 ^ 64
          pushes := q.pushes ++ [{
            pos := p.pos, addr := ad, spots := rs.map (·.spot), unit := u, val := p.ofReg (if pend.isSome then 0 else x), pend := pend, cnts := rs.map (·.cnt), inRep := s.repeating }] }
        post (.push s.cur i)

/-- The reaches of a push's elements with the address of each and the bytes that go there (R119). -/
def Push.pieces (q : Push) : List (Reach × Word × List Byte) :=
  q.spots.zipIdx.map fun e => ({ spot := e.1, cnt := q.cnts.getD e.2 false }, ptrAdd q.addr (e.2 * q.unit : Nat), q.val.drop (e.2 * q.unit) |>.take q.unit)
/-- The writes of a push within the package. -/
def Push.dests (q : Push) : List Dest := q.pieces.flatMap fun e => e.1.spot.dests e.2.2
/-- The writes of a push to other packages. -/
def Push.abroad (q : Push) : List OutPiece := q.pieces.flatMap fun e => e.1.abroad e.2.1 e.2.2

/-- The state with a producer's value given to the push that awaits it (R119). -/
def State.feedPush (s : State) (k id x : Nat) : State :=
  s.modCore k fun c => { c with ls := { c.ls with ports := c.ls.ports.map fun e =>
    (e.1, { e.2 with pushes := e.2.pushes.map fun q => if q.pend == some id then { q with pend := none, val := e.2.ofReg x } else q }) } }

/-- The state with the push of a failed producer dropped: its item is not written (R119). -/
def State.dropPush (s : State) (k id : Nat) : State :=
  s.modCore k fun c => { c with ls := { c.ls with ports := c.ls.ports.map fun e =>
    (e.1, { e.2 with pushes := e.2.pushes.filter fun q => !(q.pend == some id) }) } }

end Sys2Proof.Machine
end

