-- ==== Sys2Proof/Machine/Operands.lean ====
section
/-! DEFINITION. Operand forms: reading and writing x, f, v, p and bond registers, full/empty bits, bound registers, pending
destinations (R35, R43 to R46, R118 to R120). Registers are numbered class * 256 + number. -/

namespace Sys2Proof.Machine

/-- An x register as a source or destination number. -/
def xr (r : BitVec 5) : Nat := r.toNat
/-- An f register's number. -/
def fr (r : BitVec 5) : Nat := 256 + r.toNat
/-- A v register's number, from a 5-bit field. -/
def vr5 (r : BitVec 5) : Nat := 512 + r.toNat
/-- A v register's number. -/
def vr (r : BitVec 4) : Nat := 512 + r.toNat
/-- An eb bit as a condition. -/
def ebOn (e : BitVec 1) : Bool := e == 1

/-- R42 step 9 for one source: an empty register is waited for, or raises EMPTY_REGISTER when it has no producer (R318) or its
eb bit is set (R35). A register bound for reading is empty until its next item has landed (R118). -/
def srcReady (r : Nat) (eb : Bool) : M Unit := do
  let s ← get
  if r = 0 then pure ()
  else match s.portOf (r / 256) (r % 256) with
    | some (_, p) => if p.isRead && eb && p.pre.isEmpty && !p.exhausted then trap .emptyRegister (BitVec.ofNat 64 r) else pure ()
    | none =>
      if s.ctx.empty.contains r then
        (if eb || !s.ctx.pend.any (fun q => q.reg == r && q.port.isNone) then trap .emptyRegister (BitVec.ofNat 64 r) else hold)
      else pure ()

/-- R120: a read of a register bound for writing. -/
def srcConflict (r : Nat) : M Unit := do
  let s ← get
  match s.portOf (r / 256) (r % 256) with
  | some (i, p) => if r ≠ 0 && p.isWrite then trap .streamBindConflict (BitVec.ofNat 64 i) else pure ()
  | none => pure ()

/-- R120: a write of a register bound for reading; R45: a destination with a pending producer waits. -/
def dstReady (r : Nat) : M Unit := do
  let s ← get
  if r = 0 then pure ()
  else match s.portOf (r / 256) (r % 256) with
    | some (i, p) => if p.isRead then trap .streamBindConflict (BitVec.ofNat 64 i) else pure ()
    | none => holdUnless (!s.ctx.pend.any fun q => q.reg == r && q.port.isNone)

/-- Every source of a list, in field order (R42 step 9). -/
def srcsReady : List (Nat × Bool) → M Unit
  | [] => pure ()
  | (r, eb) :: rs => do
    srcReady r eb
    srcsReady rs
/-- No source is bound for writing. -/
def srcsFree : List (Nat × Bool) → M Unit
  | [] => pure ()
  | (r, _) :: rs => do
    srcConflict r
    srcsFree rs
/-- Every destination of a list may be written. -/
def dstsReady : List Nat → M Unit
  | [] => pure ()
  | r :: rs => do
    dstReady r
    dstsReady rs

/-- The register checks of an instruction: sources in the order a, b, d, then bindings, then destinations (R42, R45, R120). -/
def regs (srcs : List (Nat × Bool)) (dsts : List Nat) : M Unit := do
  srcsReady srcs
  srcsFree srcs
  dstsReady dsts

/-- The f registers an H firing may not name (R43). -/
def fLow (rs : List (BitVec 5)) (w : BitVec 32) : M Unit := do
  let c ← me
  trapIf (c.inH && rs.any fun r => 8 ≤ r.toNat) .highContextIllegal (tvw w)

/-- X[r] (R43: x0 reads zero). -/
def getX (r : BitVec 5) : M Word := do
  let x ← ctx
  pure (if r = 0 then 0 else Tab.get x.x r.toNat 0)
/-- F[r], popped when bound for reading (R118). -/
def getF (r : BitVec 5) (eb : Bool := false) : M Word := do
  let s ← get
  match s.portOf 1 r.toNat with
  | some (i, _) => do
    let v ← popPort i eb (fr r)
    pure (BitVec.ofNat 64 v)
  | none => pure (Tab.get s.ctx.f r.toNat 0)
/-- V[n], popped when bound for reading. -/
def getV (n : Nat) (eb : Bool := false) : M VWord := do
  let s ← get
  match s.portOf 2 n with
  | some (i, _) => do
    let v ← popPort i eb (512 + n)
    pure (BitVec.ofNat 256 v)
  | none => pure (Tab.get s.ls.v n 0)
/-- P[n] (R43: p0 reads all ones). -/
def getP (n : Nat) : M (BitVec 32) := do
  let s ← get
  pure (if n = 0 then BitVec.allOnes 32 else Tab.get s.ls.p n 0)
/-- A bond register's extent (R43). -/
def getB (n : Nat) : M Nat := do
  let s ← get
  pure (Tab.get s.ls.b n 0).toNat

/-- The context with a register full. -/
def Ctx.fill (x : Ctx) (r : Nat) : Ctx := { x with empty := x.empty.filter (· != r) }

/-- The core with a register holding a value and full (R44). -/
def Core.setReg (c : Core) (h : Bool) (r v : Nat) : Core :=
  let x := c.ctxAt h
  let c := if h || r = 0 then c else c.touch [if r / 256 = 2 then 3 + r % 256 / 8 else 1 + r / 256]
  if r / 256 = 0 then (if r = 0 then c else c.putCtx h ({ x with x := Tab.set x.x r (BitVec.ofNat 64 v) }.fill r))
  else if r / 256 = 1 then c.putCtx h ({ x with f := Tab.set x.f (r % 256) (BitVec.ofNat 64 v) }.fill r)
  else { c.putCtx h (x.fill r) with ls := { c.ls with v := Tab.set c.ls.v (r % 256) (BitVec.ofNat 256 v) } }

/-- Write a register: the value stands and the register is full; a bound register pushes (R44, R119). -/
def setReg (r v : Nat) : M Unit := do
  let s ← get
  match s.portOf (r / 256) (r % 256) with
  | some (i, _) => if r = 0 then pure () else pushPort i v none
  | none => updMe fun c => c.setReg c.inH r v

/-- X[d] := v; a write to x0 is discarded (R43). -/
def setX (d : BitVec 5) (v : Word) : M Unit := updMe fun c => c.setReg c.inH (xr d) v.toNat
/-- F[d] := v. -/
def setF (d : BitVec 5) (v : Word) : M Unit := setReg (fr d) v.toNat
/-- F[d] := the 32 bits of an F result, bits 63:32 zero (R64). -/
def setF32 (d : BitVec 5) (v : Nat) : M Unit := setReg (fr d) (v % 2 ^ 32)
/-- V[n] := v. -/
def setV (n : Nat) (v : VWord) : M Unit := setReg (512 + n) v.toNat
/-- P[n] := v; a write to p0 is ignored (R43). -/
def setP (n : Nat) (v : BitVec 32) : M Unit :=
  if n = 0 then pure () else updMe fun c => { c with ls := { c.ls with p := Tab.set c.ls.p n v } }.touch [5]

/-- Mark a register empty with a pending producer (R44), or let the producer feed a push (R119). Register 0 awaits nothing. -/
def markPending (q : Pend) : M Unit := do
  let s ← get
  let q := { q with sent := s.time.toNat }
  let r := q.reg
  match s.portOf (r / 256) (r % 256) with
  | some (i, _) => if r = 0 then pure () else do
    pushPort i q.val (some q.id) (q.wait == 0)
    updCtx fun x => { x with pend := x.pend ++ [{ q with port := some i }] }
  | none => updCtx fun x => { x with pend := x.pend ++ [q], empty := if r = 0 then x.empty else r :: x.empty.filter (· != r) }

/-- A value that lands later (R44), from a producer of the kind given. -/
def setLater (r v fl : Nat) (q : Pend) : M Unit := do
  let s ← get
  let id ← freshId
  markPending { q with id := id, reg := r, val := v, fl := fl }
  post (.land s.cur s.me.inH r)

/-- A producer that fails: the register stays empty and the cause comes by an error reply (R46). -/
def setFailed (r : Nat) (c : Cause) (addr : Word) : M Unit := do
  let id ← freshId
  markPending { id := id, reg := r, wait := 1, addr := addr }
  upd fun s => s.sendErr s.org c addr (some id)

/-- The register bits of read bytes, and the flags the conversion raises (R62, R65). -/
def Conv.of (c : Conv) (bs : List Byte) : Nat × Nat :=
  match c with
  | .zext => (leNat bs, 0)
  | .sext w => ((sextW w (BitVec.ofNat 64 (leNat bs))).toNat, 0)
  | .toF32 tag => if tag ≤ 1 then (leNat bs, 0) else
    let r := elemConv 1 tag .rne (leNat bs)
    (r.1, r.2.toNat)
  | .lane w i => (leNat bs % 2 ^ w * 2 ^ (i * w), 0)

/-- Wait while the moving core has as many global reads outstanding as it may (R12). Which reads count is the model's choice: a load into a register, a strided one
as one, and no line of a stream port, fetch or read that the pipe waits for (notes/assumptions/44.md). -/
def globalRoom : M Unit := do
  let c ← me
  holdUnless (((c.l.pend ++ c.h.pend).filter (·.glob)).length < Config.globalReads)

/-- Give a read's bytes to a register, at once or when they land (R62, R65, R44). -/
def deliver (p : Word) (n r : Nat) (cv : Conv) (rc : Reach) (f : Fetch) : M Unit := do
  match f with
  | .now bs => do
    raiseFlags (cv.of bs).2
    setReg r (cv.of bs).1
  | .soon bs => do
    if rc.spot.isGlobal then globalRoom else pure ()
    setLater r (cv.of bs).1 (cv.of bs).2 { addr := p, glob := rc.spot.isGlobal }
  | .fail c => setFailed r c p
  | .away pkg pa => do
    globalRoom
    let id ← freshId
    let _ ← sendAccess { dpkg := pkg, va := p, kind := 1, pend := id, size := n, conv := cv, fill := true } (lineAsk p pa rc.cnt)
    markPending { id := id, reg := r, wait := 1, addr := p, glob := true }

/-- A whole load of `n` bytes into a register (R61, R62). -/
def loadRaw (p : Word) (n r : Nat) (cv : Conv) : M Unit := do
  let rc ← reach p n .load
  watch p n true false []
  let f ← readAt p rc n
  deliver p n r cv rc f

/-- The state with one pending producer of a context landed (R44, R119): the first of a register whose replies are all in. -/
def State.land (s : State) (k : Nat) (h : Bool) (r : Nat) : Option State :=
  let x := (s.coreAt k).ctxAt h
  match x.pend.find? fun q => q.reg == r && q.wait == 0 with
  | none => none
  | some q =>
    let s := s.modCtxAt k h fun x => { x with pend := x.pend.filter (·.id != q.id) }.raise q.fl
    some (match q.port with
      | some _ => s.feedPush k q.id q.val
      | none => s.modCore k fun c => c.setReg h r q.val)

/-- The state with the pushes of killed firings performed whose values are known and whose homes run, those of one port in their order (R119, R124, R358); what
goes to other packages is sent, and nobody waits for it. -/
def State.settleLast (s : State) : State :=
  let one := fun (a : State × List LastPush) (x : LastPush) =>
    if x.pend.isSome || x.push.dests.any (fun d => (a.1.destWaits x.org.k d).isSome) || a.2.any fun y => y.port == x.port && y.org == x.org then (a.1, a.2 ++ [x])
    else
      let s := a.1.applyAll x.push.dests
      (if x.push.abroad.isEmpty then s else s.startOut (.push x.org.k x.port) x.org x.push.abroad true, a.2)
  let r := s.lastPushes.foldl one (s, [])
  { r.1 with lastPushes := r.2 }

/-- The state with a value given to the push of a killed firing that awaits a producer (R124). -/
def State.feedLast (s : State) (id v : Nat) : State :=
  if s.lastPushes.any fun x => x.pend.any (·.id == id) then
    State.settleLast { s with lastPushes := s.lastPushes.map fun x => match x.pend with
      | some q =>
        if q.id != id then x
        else if 1 < q.wait then { x with pend := some { q with val := q.val + v, wait := q.wait - 1 } }
        else { x with pend := none, push := { x.push with val := x.cfg.ofReg (q.val + v) } }
      | none => x }
  else s

/-- The state without the push of a killed firing whose producer failed (R119, R124). -/
def State.dropLast (s : State) (id : Nat) : State :=
  if s.lastPushes.any fun x => x.pend.any (·.id == id) then
    State.settleLast { s with lastPushes := s.lastPushes.filter fun x => !x.pend.any (·.id == id) }
  else s

/-- The state with a producer failed (R46): its register stays empty, its push is dropped (R119). -/
def State.failPend (s : State) (k : Nat) (h : Bool) (id : Nat) : State :=
  ((s.modCtxAt k h fun x => { x with pend := x.pend.filter (·.id != id) }).dropPush k id).dropLast id

/-- The state with one reply's value given to a producer; it lands when no reply is missing. -/
def State.feed (s : State) (k : Nat) (h : Bool) (id v fl : Nat) : State :=
  let x := (s.coreAt k).ctxAt h
  match x.pend.find? (·.id == id) with
  | none => s.feedLast id v
  | some q =>
    let q' := { q with val := q.val + v, fl := q.fl ||| fl, wait := q.wait - 1 }
    let s := s.modCtxAt k h fun x => { x with pend := x.pend.map fun y => if y.id == id then q' else y }
    if q'.wait = 0 then s.post (.land k h q.reg) else s

end Sys2Proof.Machine
end

