-- ==== Sys2Proof/Machine/Frames.lean ====
section
/-! DEFINITION. Frames: the firing image and its coding (R315 to R318), and the checks of TRET (R321). -/

namespace Sys2Proof.Machine

/-- The words that a list of values of `w` bits packs into, `n` words in all. -/
def packWords (w n : Nat) (xs : List Nat) : List Word :=
  let t := packLanes w xs
  (List.range n).map fun i => BitVec.ofNat 64 (t >>> (64 * i))

/-- The header word of a firing image (R317). -/
def frameHeader (cause : Nat) (prec : Bool) (f : Firing) : Word :=
  BitVec.ofNat 64 (2 ^ 56 + cause * 2 ^ 48 + b2n prec * 2 ^ 47 + f.kind * 2 ^ 45 + b2n f.sup * 2 ^ 44 + f.nmsg * 2 ^ 32 + f.hidx * 2 ^ 20)

/-- The two words of one half of the chain state (R260; layout notes/assumptions/13.md). -/
def ChainSt.words (c : ChainSt) : List Word :=
  [BitVec.ofNat 64 (c.v % 2 ^ 20 * 2 ^ 44 + c.bond % 16 * 2 ^ 40 + b2n c.cfg * 2 ^ 39 + c.acc % 2 * 2 ^ 37 + c.h % 2 * 2 ^ 36
      + (c.m - 1) % 64 * 2 ^ 30 + c.u % 2 ^ 19 * 2 ^ 11 + c.nstep % 2048),
   BitVec.ofNat 64 (b2n (c.fmt == 4) * 2 ^ 62 + c.hsz % 2 ^ 14 * 2 ^ 48 + addrOf c.base)]

/-- One half of the chain state from its two words. -/
def ChainSt.ofWords (a b : Nat) : ChainSt :=
  if !bitAt a 39 then {} else
  let fmt := if bitAt b 62 then 4 else 2
  { cfg := true, base := BitVec.ofNat 64 (fmt * 2 ^ 59 + bits b 0 48), hsz := bits b 48 14, fmt := fmt, acc := bits a 37 1,
    m := bits a 30 6 + 1, u := bits a 11 19, v := bits a 44 20, bond := bits a 40 4, h := bits a 36 1, nstep := bits a 0 11 }

/-- The ten words of a stream port (R317). -/
def Port.words (p : Port) : List Word :=
  (List.range 7).map p.field ++
    [if p.bnd then BitVec.ofNat 64 p.pos else p.field 7,
     BitVec.ofNat 64 (b2n p.cfg * 256 + b2n p.bnd * 512 + p.kind * 1024 + p.reg * 2 ^ 27), 0]

/-- A stream port from its words. -/
def Port.ofWords (ws : List Word) : Port :=
  let t := (ws.getD 8 0).toNat
  { fields := (List.range 8).foldl (fun t i => if ws.getD i 0 = 0 then t else Tab.set t i (ws.getD i 0)) []
    cfg := bitAt t 8, bnd := bitAt t 9, kind := bits t 10 2, reg := bits t 27 5, pos := (ws.getD 7 0).toNat }

/-- The 256-bit registers' words. -/
def vWords (v : VWord) : List Word := (List.range 4).map fun i => BitVec.ofNat 64 (v.toNat >>> (64 * i))

/-- The completion-area words of a slot (R317): a reservation holds 1 in byte 0. -/
def CSlot.words (c : CSlot) : List Word :=
  match c.msg with
  | some m => (List.range 8).map fun i => m.words.getD i 0
  | none => [1, 0, 0, 0, 0, 0, 0, 0]

/-- The words of private memory from an offset. -/
def Core.privWords (c : Core) (off n : Nat) : List Word :=
  (List.range n).map fun i => BitVec.ofNat 64 (leNat (Memory.readN c.priv (off + 8 * i) 8))

/-- A list cut or padded to a length. -/
def padTo {α : Type} (n : Nat) (z : α) (xs : List α) : List α := (List.range n).map fun i => xs.getD i z

/-- The register section of the L context, 0x000 to 0x7FF (R317). -/
def Core.regSection (c : Core) (cause : Nat) (prec : Bool) (tval zp : Word) : List Word :=
  let x := c.l
  let l := c.ls
  let full := fun base i => !(x.empty.contains (base + i))
  [frameHeader cause prec x.fir, x.pc, tval, zp,
   BitVec.ofNat 64 (packLanes 1 ((List.range 32).map (fun i => b2n (i != 0 && full 0 i)) ++ (List.range 32).map fun i => b2n (full 256 i))),
   BitVec.ofNat 64 (packLanes 1 ((List.range 16).map fun i => b2n (full 512 i))),
   x.fcsr.setWidth 64, l.zlutbase, l.zrr.setWidth 64,
   BitVec.ofNat 64 (l.stage % 4096 * 2 ^ 32 + l.copySeq.toNat), BitVec.ofNat 64 (l.seals.toNat * 2 ^ 32 + l.batchSize % 512)]
  ++ List.replicate 21 0
  ++ (List.range 32).map (fun i => if i = 0 then 0 else Tab.get x.x i 0)
  ++ (List.range 32).map (fun i => Tab.get x.f i 0)
  ++ (List.range 16).flatMap (fun i => vWords (Tab.get l.v i 0))
  ++ packWords 32 4 ((List.range 8).map fun i => if i = 0 then 0 else (Tab.get l.p i 0).toNat)
  ++ packWords 16 4 ((List.range 16).map fun i => (Tab.get l.b i 0).toNat)
  ++ packWords 8 4 (padTo 16 0 (l.lut.map (·.toNat)) ++ [b2n l.lutOk])
  ++ l.chainI.words ++ l.chainR.words
  ++ [l.rep.body, BitVec.ofNat 64 (l.rep.count * 2 ^ 32 + l.rep.len), BitVec.ofNat 64 l.rep.iter, BitVec.ofNat 64 l.rep.pos]
  ++ (List.range 4).flatMap (fun i => (Tab.get l.ports i {}).words)
  ++ padTo 16 0 (x.arrivals.flatMap fun e => [e.1, BitVec.ofNat 64 (2 ^ 32 + e.2)])
  ++ padTo 8 0 (l.invs.map fun r => BitVec.ofNat 64 (r.code * 2 ^ 24 + r.st * 2 ^ 16 + r.tag))
  ++ padTo 8 0 (x.causes.flatMap fun e => [BitVec.ofNat 64 (256 + e.1.code), e.2])
  ++ List.replicate 4 0

/-- The firing image of a core's L context: 1,024 words (R317). -/
def Core.image (c : Core) (cause : Nat) (prec : Bool) (tval zp : Word) (ca : List CSlot) : List Word :=
  c.regSection cause prec tval zp ++ c.privWords 0x800 64 ++ c.privWords 0xE00 576 ++ padTo 128 0 (ca.flatMap CSlot.words)

/-- The tag of a 32-word block that is written (R316): 0 all zero, 1 one word repeated, 2 literal. -/
def blockTag (b : List Word) : Nat :=
  if b.all (· == 0) then 0 else if b.all (· == b.getD 0 0) then 1 else 2

/-- Block `n` of an image. -/
def blockOf (ws : List Word) (n : Nat) : List Word := ws.drop (32 * n) |>.take 32

/-- The mesh index of a core (R315). -/
def State.meshIndex (s : State) (p k : Nat) : Nat := s.endpoint { k := k, part := p }

/-- The virtual address of a firing slot (R315). -/
def State.slotVa (s : State) (p job k i : Nat) : Word :=
  (Tab.get (s.partAt p).jobs job {}).pool + BitVec.ofNat 64 (s.meshIndex p k * 33024 + i * 8256)

/-- The virtual address of the image that a firing slot of a core holds (R315, R353). -/
def State.imageVa (s : State) (k i : Nat) : Word :=
  let sl := Tab.get (s.coreAt k).slots i {}
  sl.va.getD (s.slotVa sl.fir.part sl.fir.job k i)

/-- One word written to a frame, as an access of the job with translation (R315). -/
def State.frameWrite (s : State) (o : Origin) (va w : Word) : Except Cause State :=
  match s.reach { o with sup := true } va 8 .store with
  | .error c => .error c
  | .ok (r, s) => .ok (s.applyAll (r.spot.dests (leBytes 8 w.toNat)))

/-- Words written to consecutive frame addresses; a failure carries the address. -/
def State.frameWrites (s : State) (o : Origin) (va : Word) : List Word → Except (Cause × Word) State
  | [] => .ok s
  | w :: ws =>
    match s.frameWrite o va w with
    | .error c => .error (c, va)
    | .ok s => s.frameWrites o (va + 8) ws

/-- Words read from consecutive frame addresses. -/
def State.frameReads (s : State) (o : Origin) (va : Word) : Nat → Except (Cause × Word) (List Word)
  | 0 => .ok []
  | n + 1 =>
    match s.reach { o with sup := true } va 8 .load with
    | .error c => .error (c, va)
    | .ok (r, s) =>
      match s.frameReads o (va + 8) n with
      | .error e => .error e
      | .ok ws => .ok (BitVec.ofNat 64 (leNat (s.spotBytes r.spot 8)) :: ws)

/-- The blocks of an image written under their tags (R316): 3 clean writes nothing, 0 nothing, 1 one word, 2 the block. -/
def State.blockWrites (s : State) (o : Origin) (va : Word) (ws : List Word) (tags : List Nat) : List Nat → Except (Cause × Word) State
  | [] => .ok s
  | n :: ns =>
    let t := tags.getD n 0
    let b := blockOf ws n
    match s.frameWrites o (va + BitVec.ofNat 64 (256 * n)) (if t = 2 then b else if t = 1 then b.take 1 else []) with
    | .error e => .error e
    | .ok s => s.blockWrites o va ws tags ns

/-- The blocks of an image read under their codings. -/
def State.blockReads (s : State) (o : Origin) (va : Word) (codes : List Nat) : List Nat → Except (Cause × Word) (List Word)
  | [] => .ok []
  | n :: ns =>
    let t := codes.getD n 0
    let a := va + BitVec.ofNat 64 (256 * n)
    match s.frameReads o a (if t = 2 then 32 else if t = 1 then 1 else 0) with
    | .error e => .error e
    | .ok ws =>
      let b := if t = 2 then ws else if t = 1 then List.replicate 32 (ws.getD 0 0) else List.replicate 32 0
      match s.blockReads o va codes ns with
      | .error e => .error e
      | .ok rest => .ok (b ++ rest)

/-- The tags a save of a firing image picks (R316): `lit` for a delivery's register section; clean for a block that the L context has not
written since the slot's image was last restored, which block 0, with the PC, always is (notes/assumptions/14.md). -/
def saveTags (ws : List Word) (lit : Bool) (old : List Word) (dirty : List Nat) (nblocks : Nat) : List Nat :=
  (List.range nblocks).map fun n =>
    let b := blockOf ws n
    if lit && n < 8 then 2
    else if n != 0 && !old.isEmpty && !dirty.contains n && b == blockOf old n then 3
    else blockTag b

/-- The words of a tag area of `n` words (R316). -/
def tagWords (tags : List Nat) (n : Nat) : List Word := packWords 2 n tags

/-- The state with an image of `nblocks` blocks and its tag area written at an address (R315, R316). -/
def State.saveImage (s : State) (o : Origin) (va : Word) (ws : List Word) (tags : List Nat) (nblocks tagW : Nat) :
    Except (Cause × Word) State :=
  match s.blockWrites o va ws tags (List.range nblocks) with
  | .error e => .error e
  | .ok s => s.frameWrites o (va + BitVec.ofNat 64 (256 * nblocks)) (tagWords tags tagW)

/-- How each block's bytes stand under its tags: a clean block as before (R316). -/
def codesAfter (tags old : List Nat) : List Nat := (tags.zip (List.range tags.length)).map fun e => if e.1 = 3 then old.getD e.2 0 else e.1

/-- How the blocks of a saved image stand, by the tag area in memory (R316); `old` says it of the blocks tagged clean. -/
def State.savedCodes (s : State) (o : Origin) (tagVa : Word) (nblocks : Nat) (old : List Nat) : Except (Cause × Word) (List Nat) :=
  match s.frameReads o tagVa ((nblocks + 31) / 32) with
  | .error e => .error e
  | .ok ws => .ok (codesAfter ((List.range nblocks).map fun n => bits (ws.getD (n / 32) 0).toNat (2 * (n % 32)) 2) old)

/-- The context and L state that an image gives back to a core (R318, R321). Saved waits and the pending producers do not exist. -/
def Core.restore (c : Core) (ws : List Word) (sl : Slot) : Core :=
  let w := fun i => ws.getD i 0
  let n := fun i => (w i).toNat
  let empt := ((List.range 31).filterMap fun i => if bitAt (n 4) (i + 1) then none else some (i + 1))
    ++ ((List.range 32).filterMap fun i => if bitAt (n 4) (32 + i) then none else some (256 + i))
    ++ ((List.range 16).filterMap fun i => if bitAt (n 5) i then none else some (512 + i))
  let wide := fun base k => (List.range k).foldl (fun t i => t + n (base + i) * 2 ^ (64 * i)) 0
  let lut := wide 0xA8 4
  let ca := (List.range 16).filterMap fun i =>
    let m := (sl.ca[i]?).getD {}
    let e := ws.drop (896 + 8 * i) |>.take 8
    if e.all (· == 0) then none
    else if e.getD 0 0 == 1 then some { m with msg := none }
    else some { m with fid := sl.fir.fid, msg := some { (m.msg.getD {}) with words := e, job := sl.fir.job, gid := sl.fir.gid, fid := sl.fir.fid } }
  { c with
    l := { pc := w 1, x := (List.range 31).foldl (fun t i => Tab.set t (i + 1) (w (33 + i))) [],
           f := (List.range 32).foldl (fun t i => Tab.set t i (w (64 + i))) [],
           empty := empt, fcsr := (w 6).setWidth 8, zcause := sl.zcause, ztval := sl.ztval,
           arrivals := (List.range 8).filterMap fun i => if bitAt (n (0xDD + 2 * i)) 32 then some (w (0xDC + 2 * i), bits (n (0xDD + 2 * i)) 0 32) else none,
           causes := ((List.range 4).filterMap fun i => if bitAt (n (0xF4 + 2 * i)) 8 then
             (Cause.ofCode (bits (n (0xF4 + 2 * i)) 0 8)).map fun c => (c, w (0xF5 + 2 * i)) else none) ++ sl.late,
           fir := sl.fir, aw := sl.aw }
    ls := { v := (List.range 16).foldl (fun t i => Tab.set t i (BitVec.ofNat 256 (wide (96 + 4 * i) 4))) [],
            p := (List.range 7).foldl (fun t i => Tab.set t (i + 1) (BitVec.ofNat 32 (wide 160 4 >>> (32 * (i + 1))))) [],
            b := (List.range 16).foldl (fun t i => Tab.set t i (BitVec.ofNat 16 (wide 164 4 >>> (16 * i)))) [],
            ports := (List.range 4).map fun i => (i, Port.ofWords (ws.drop (180 + 10 * i) |>.take 10)),
            rep := if bits (n 177) 32 32 = 0 then {} else
              { body := w 176, len := bits (n 177) 0 32, count := bits (n 177) 32 32, iter := n 178, pos := n 179 },
            lut := leBytes 16 lut, lutOk := bitAt lut 128, zlutbase := w 7, zrr := (w 8).setWidth 12, zpos := sl.zpos,
            chainI := ChainSt.ofWords (n 172) (n 173), chainR := ChainSt.ofWords (n 174) (n 175),
            invs := (List.range 8).filterMap fun i => if bits (n (236 + i)) 16 2 = 0 then none else
              some { tag := bits (n (236 + i)) 0 16, st := bits (n (236 + i)) 16 2, code := bits (n (236 + i)) 24 8 },
            copySeq := (w 9).setWidth 32, stage := bits (n 9) 32 12, batchSize := bits (n 10) 0 9, seals := BitVec.ofNat 32 (n 10 >>> 32) }
    priv := Memory.writeN (Memory.writeN c.priv 0x800 ((ws.drop 256 |>.take 64).flatMap fun x => leBytes 8 x.toNat)) 0xE00
      ((ws.drop 320 |>.take 576).flatMap fun x => leBytes 8 x.toNat)
    ca := c.ca ++ ca
    batches := c.batches ++ sl.batches
    dirty := c.dirty.filter fun n => decide (32 ≤ n)
    dataL := some sl.fir.gid }

/-- A list holds no value twice. -/
def distinct {α : Type} [BEq α] : List α → Bool
  | [] => true
  | x :: xs => !xs.contains x && distinct xs

/-- Whether a half of the chain state in an image is one that TBND and the steps could have left (R263, R269, R321): its fields in their ranges, its base at a
multiple of 32 with both boundary halves in the group's allotment. -/
def chainOk (g : Group) (a b : Nat) : Bool :=
  let hsz := bits b 48 14
  let off := bits b 0 48 - 0xFFFFE0000000
  !bitAt a 39 || (bits a 44 20 != 0 && bits a 11 19 != 0 && hsz != 0 && decide (hsz ≤ 8192) && bits b 0 48 % 32 == 0
    && decide (0xFFFFE0000000 ≤ bits b 0 48) && decide (off + 64 * hsz ≤ 0x80000) && g.holds off (64 * hsz))

/-- The checks of TRET on an image of a firing of a group (R321). -/
def imageOk (g : Group) (ws : List Word) : Bool :=
  let n := fun i => (ws.getD i 0).toNat
  let ports := (List.range 4).map fun i => Port.ofWords (ws.drop (180 + 10 * i) |>.take 10)
  let bound := ports.filter (·.bnd)
  let c := bits (n 177) 32 32
  let invs := (List.range 8).filterMap fun i => if bits (n (236 + i)) 16 2 = 0 then none else some (n (236 + i))
  bits (n 0) 56 8 == 1 && bits (n 0) 45 2 != 3 && bits (n 0) 36 8 == 0 && bits (n 0) 0 20 == 0
    && bits (n 5) 16 48 == 0 && (List.range 21).all (fun i => n (11 + i) == 0) && (List.range 4).all (fun i => n (252 + i) == 0)
    && bound.all (fun p => p.cfg && (p.kind < 2 || p.reg < 16))
    && distinct (bound.map fun p => (p.isV, p.reg))
    && (c == 0 || (decide (1 ≤ bits (n 177) 0 32) && decide (bits (n 177) 0 32 ≤ 32) && decide (c ≤ 65536)
          && decide (n 178 < c) && decide (n 179 < bits (n 177) 0 32)))
    && chainOk g (n 172) (n 173) && chainOk g (n 174) (n 175)
    && decide (bits (n 174) 0 11 ≤ bits (n 172) 0 11)
    && invs.all (fun r => bits r 16 2 == 1 || bits r 16 2 == 2) && distinct (invs.map fun r => bits r 0 16)
    && (List.range 4).all fun i => !bitAt (n (0xF4 + 2 * i)) 8 ||
        (decide (bits (n (0xF4 + 2 * i)) 0 8 ≤ 93) || bits (n (0xF4 + 2 * i)) 0 8 == 95)

/-- Blocks of a group image (R324). -/
def groupBlocks : Nat := 3069
/-- The first block of the accumulator images (R324). -/
def accBlock : Nat := 2048
/-- The first block of the firing images. -/
def rankBlock : Nat := 2176
/-- The first block of the mailboxes. -/
def boxBlock : Nat := 2432
/-- The first block of the group record. -/
def recordBlock : Nat := 2624

/-- The mailbox of a rank as its image holds it (R324): 80 slots of 8 words, 8 for the H queue, 56 for the L queue and 16 of the completion area, and
128 words of mailbox state in an order that is the model's (notes/assumptions/13.md): the armed bit, the bound group's number, the place of every slot
in the placement order, zero for a slot that holds no entry, and the count of queued messages for each handler, two to a word. -/
def RankImg.boxWords (ri : RankImg) (num : Nat) : List Word :=
  let qs := padTo 8 none (ri.hq.map some) ++ padTo 56 none (ri.lq.map some)
  let as := padTo 16 none (ri.ca.map some)
  let hs := (ri.hq ++ ri.lq).map (·.hdl)
  let counts := (hs.zipIdx.filter fun e => !(hs.take e.2).contains e.1).map fun e => e.1 * 65536 + (hs.filter (· == e.1)).length
  (qs.flatMap fun m => padTo 8 0 ((m.map (·.words)).getD [])) ++ (as.flatMap fun c => (c.map CSlot.words).getD (List.replicate 8 0))
    ++ [b2w ri.armed, BitVec.ofNat 64 num] ++ qs.map (fun m => BitVec.ofNat 64 ((m.map (·.ord)).getD 0))
    ++ as.map (fun c => BitVec.ofNat 64 (((c.bind (·.msg)).map (·.ord)).getD 0)) ++ packWords 32 46 (counts.take 92)

/-- A message put into a queue in the order of placement. -/
def insertMsg (m : Msg) : List Msg → List Msg
  | [] => [m]
  | x :: xs => if m.ord ≤ x.ord then m :: x :: xs else x :: insertMsg m xs

/-- A mailbox as its image holds it (R324): the armed bit, the words of each entry and their order of placement; a queue slot without a place is free. A
completion placed since the save has no place there and stays as it is. -/
def RankImg.ofBox (ri : RankImg) (ws : List Word) : RankImg :=
  let ord := fun (i : Nat) => (ws.getD (642 + i) 0).toNat
  let at_ := fun (i : Nat) (m : Msg) => { m with words := ws.drop (8 * i) |>.take 8, ord := ord i }
  let queue := fun (i0 : Nat) (ms : List Msg) =>
    (ms.zipIdx.filterMap fun e => if ord (i0 + e.2) = 0 then none else some (at_ (i0 + e.2) e.1)).foldr insertMsg []
  { ri with
    armed := bitAt (ws.getD 640 0).toNat 0, hq := queue 0 ri.hq, lq := queue 8 ri.lq
    ca := ri.ca.zipIdx.map fun e => { e.1 with msg := e.1.msg.map fun m => if ord (64 + e.2) = 0 then m else at_ (64 + e.2) m } }

/-- The issuer of a group's frame accesses. -/
def State.groupOrg (s : State) (gid : Nat) : Origin :=
  let g := s.groupAt gid
  { k := g.cores.getD 0 (g.cl * 8), gid := gid, part := g.part, job := g.job, sup := true }

/-- The state with a block of a saved image changed and coded literal, and the tag word that holds its tag (R315, R316); `codes` say how the blocks
stand. -/
def State.editBlock (s : State) (o : Origin) (va tagVa : Word) (codes : List Nat) (n : Nat) (f : List Word → List Word) :
    Except (Cause × Word) State :=
  match s.blockReads o va codes [n] with
  | .error e => .error e
  | .ok ws => match s.frameWrites o (va + BitVec.ofNat 64 (256 * n)) (f ws) with
    | .error e => .error e
    | .ok s =>
      let w := n / 32
      s.frameWrites o (tagVa + BitVec.ofNat 64 (8 * w)) [(tagWords (listSet codes n 2) (w + 1)).getD w 0]

/-- The state with the mailbox of a rank of a pre-empted group changed in the group's image (R283, R315, R324): the words that differ are written, their
blocks literal. -/
def State.editBox (s : State) (gid r : Nat) (ri : RankImg) : Except (Cause × Word) State :=
  let g := s.groupAt gid
  match g.img with
  | none => .ok s
  | some im =>
    let o := s.groupOrg gid
    let old := (Tab.get im.ranks r {}).boxWords g.num
    let new := ri.boxWords g.num
    let ns := (List.range 24).filter fun i => blockOf old i != blockOf new i
    let first := boxBlock + 24 * r
    match s.savedCodes o (im.va + 0xBFD00) groupBlocks ((List.range groupBlocks).map fun n => Tab.get g.codes n 0) with
    | .error e => .error e
    | .ok codes =>
      let step := fun (a : State × List Nat) (i : Nat) =>
        match a.1.editBlock o im.va (im.va + 0xBFD00) a.2 (first + i) fun b =>
            (List.range 32).map fun j => if old.getD (32 * i + j) 0 = new.getD (32 * i + j) 0 then b.getD j 0 else new.getD (32 * i + j) 0 with
        | .error e => Except.error e
        | .ok s => .ok (s, listSet a.2 (first + i) 2)
      match ns.foldlM step (s, codes) with
      | .error e => .error e
      | .ok (s, _) => .ok (s.modGroup gid fun g => { g with
          img := some { im with ranks := Tab.set im.ranks r ri }, codes := ns.foldl (fun t i => Tab.set t (first + i) 2) g.codes })

end Sys2Proof.Machine
end

