-- ==== Sys2Proof/Machine/CopyOps.lean ====
section
/-! DEFINITION. What the dealer does with a copy command (R192 to R201): ranges, conversion, CRC, the bytes it writes. -/

namespace Sys2Proof.Machine

/-- Bytes of `n` elements of a tag (R80 to R82, R197). -/
def bytesFor (tag n : Nat) : Nat :=
  if tag = 9 || tag = 10 then n / 32 * bfpBytes tag else if tag = 11 then n / 2 else n * elemSize tag

/-- A piece of a range of a command, within one 4 KiB page: its first address, its reach, its bytes. -/
structure Piece where
  va : Word
  r : Reach
  n : Nat

/-- The offset of the first byte of a piece that an access of one byte fails on. -/
def firstFail (n : Nat) (f : Nat → Bool) : Nat := ((List.range n).find? f).getD 0

/-- Why a piece cannot be accessed, with the address that fails, if it cannot (R70 step 3, R199, R385). -/
def State.pieceBad (s : State) (o : Origin) (k : AKind) (p : Piece) : Option (Cause × Word) :=
  match p.r.spot with
  | .far cl off => (s.farBad o cl off p.n).map fun c => (c, ptrAdd p.va (firstFail p.n fun j => (s.farBad o cl (off + j) 1).isSome))
  | .flat (.remote pkg _) => if (s.workingPaths pkg).isEmpty then some (.fabricUnreachable, p.va) else none
  | .flat (.hbm pa) =>
    if k == .load && s.poisoned p.r.spot p.n then some (.memoryPoison, ptrAdd p.va (firstFail p.n fun j => s.poisoned (.flat (.hbm (pa + j))) 1))
    else none
  | .view ap off =>
    if k == .load && s.poisoned p.r.spot p.n then
      some (.memoryPoison, ptrAdd p.va (firstFail p.n fun j => j % ap.unit == 0 && s.poisoned (.view ap (off + j)) ap.unit))
    else none
  | _ => none

/-- The pieces of a range, split at 4 KiB pages (R199). -/
def State.rangePieces (s : State) (o : Origin) (k : AKind) : Nat → Word → Nat → Except (Cause × Word) (List Piece × State)
  | 0, _, _ => .ok ([], s)
  | f + 1, p, len =>
    if len = 0 then .ok ([], s) else
    let n := min len (4096 - addrOf p % 4096)
    match s.place o p n k with
    | .error c => .error (c, p)
    | .ok (r, s) =>
      match s.pieceBad o k { va := p, r := r, n := n } with
      | some e => .error e
      | none =>
        match s.rangePieces o k f (ptrAdd p n) (len - n) with
        | .error e => .error e
        | .ok (rs, s) => .ok ({ va := p, r := r, n := n } :: rs, s)

/-- The pieces of a range of `len` bytes. -/
def State.range (s : State) (o : Origin) (k : AKind) (p : Word) (len : Nat) : Except (Cause × Word) (List Piece × State) :=
  s.rangePieces o k (len / 4096 + 2) p len

/-- The bytes of a piece as a dealer's agent reads them (R145, R299). -/
def State.pieceBytes (s : State) (own : Owner) (p : Piece) : Option (Except (Cause × Word) (List Byte)) :=
  match p.r.spot with
  | .flat (.remote pkg pa) => (s.awayBytes own pkg pa p.n).map fun r => match r with
    | .ok bs => .ok bs
    | .error c => .error (c, ptrAdd p.va (firstFail p.n fun j => ((s.lineFor own pkg ((pa + j) / 64 * 64)).bind (·.bad)).isSome))
  | sp => some (.ok (s.spotBytes sp p.n))

/-- The bytes of pieces, in order; the first failure; none while bytes of another package are missing. -/
def State.piecesBytes (s : State) (own : Owner) : List Piece → Option (Except (Cause × Word) (List Byte))
  | [] => some (.ok [])
  | p :: ps =>
    match s.pieceBytes own p, s.piecesBytes own ps with
    | some (.error e), _ => some (.error e)
    | some (.ok b), some (.ok bs) => some (.ok (b ++ bs))
    | some (.ok _), r => r
    | none, _ => none

/-- The state in which an agent has asked for the lines of other packages that pieces need. -/
def State.askPieces (s : State) (own : Owner) (o : Origin) (ps : List Piece) : State :=
  ps.foldl (fun s p => match p.r.spot with
    | .flat (.remote pkg pa) => s.askSpan own o p.va pkg pa p.n p.r.cnt
    | _ => s) s

/-- Whether any piece lies in another package. -/
def anyAbroad (ps : List Piece) : Bool := ps.any fun p => match p.r.spot with
  | .flat (.remote ..) => true
  | _ => false

/-- Whether a command of another cluster holds bytes of a piece there (R206). -/
def State.piecesHeld (s : State) (ps : List Piece) (wr : Bool) : Bool := ps.any fun p => match p.r.spot with
  | .far cl off => (s.clusterAt cl).stalls off p.n wr
  | _ => false

/-- The state with bytes written over pieces within the package. -/
def State.piecesWrite (s : State) : List Piece → List Byte → State
  | [], _ => s
  | p :: ps, bs => (s.applyAll (p.r.spot.dests (bs.take p.n))).piecesWrite ps (bs.drop p.n)

/-- The pieces of a write that go to other packages (R299). -/
def piecesAbroad : List Piece → List Byte → List OutPiece
  | [], _ => []
  | p :: ps, bs => p.r.abroad p.va (bs.take p.n) ++ piecesAbroad ps (bs.drop p.n)

/-- The state after pieces reached their homes (R179, R348). -/
def State.piecesCounted (s : State) (o : Origin) (ps : List Piece) : State := ps.foldl (fun s p => s.counted o p.r p.n) s

/-- The state with pieces holding unspecified bytes: free values (R199, R219). -/
def State.piecesFree (s : State) : List Piece → State
  | [] => s
  | p :: ps =>
    let (bs, s) := s.freeBytes p.n
    (s.applyAll (p.r.spot.dests bs)).piecesFree ps

/-- Whether pieces overlap (R199). -/
def piecesMeet (xs ys : List Piece) : Bool :=
  xs.any fun x => ys.any fun y => (x.r.spot.spans x.n).any fun a => (y.r.spot.spans y.n).any fun b => spanMeets a b

/-- The state with a range holding unspecified bytes; a page that does not translate is not written. -/
def State.rangeFree (s : State) (o : Origin) (p : Word) (n : Nat) : State :=
  (List.range (n / 4096 + 2)).foldl (fun s i =>
    let lo := if i = 0 then 0 else i * 4096 - addrOf p % 4096
    let hi := min n ((i + 1) * 4096 - addrOf p % 4096)
    match s.range o .store (ptrAdd p lo) (hi - lo) with
    | .ok (rs, s) => s.piecesFree rs
    | .error _ => s) s

/-- The random value of STO for the element at destination address `a` (R198). -/
def stoRandom (seed a seq : Nat) : Nat :=
  let h := (seed ^^^ (a % 2 ^ 56)) * 0x9E3779B97F4A7C15 % 2 ^ 64
  let h := (h ^^^ seq) * 0xC2B2AE3D27D4EB4F % 2 ^ 64
  bits (h ^^^ (h >>> 29)) 48 16

/-- The rounding mode of a copy for the element at a destination address. -/
def copyRnd (rnd seed seq a : Nat) : Rnd := if rnd = 5 then .sto (stoRandom seed a seq) else rndOf rnd

/-- The cause of a tag pair that COPY does not convert, if any (R197). -/
def copyPair (block : Bool) (src dst : Word) (rnd : Nat) : Option Cause :=
  let s := tagOf src
  let d := tagOf dst
  if s == d && (s == 0 || blogOf src == blogOf dst) && (block || !(s == 9 || s == 10)) then none
  else if 1 ≤ s && s ≤ 8 && 1 ≤ d && d ≤ 8 then none
  else if block && 1 ≤ s && s ≤ 3 && (d == 9 || d == 10) then (if rnd = 5 then some .copyRounding else none)
  else if block && (s == 9 || s == 10) && 1 ≤ d && d ≤ 8 then none
  else some .copyConversion

/-- The destination bytes of `n` source elements, the first at address `a` (R197). -/
def copyConv (st dt rnd seed seq a n : Nat) (src : List Byte) : List Byte :=
  let es := elemSize st
  let ed := elemSize dt
  let el := fun i => leNat (src.drop (i * es) |>.take es)
  if st = dt then src
  else if dt = 9 || dt = 10 then
    (List.range (n / 32)).flatMap fun b =>
      bfpBytesOf dt (bfpPack dt (rndOf rnd) ((List.range 32).map fun i => elemVal st (el (32 * b + i))))
  else if st = 9 || st = 10 then
    (List.range (n / 32)).flatMap fun b =>
      ((bfpVals st (src.drop (b * bfpBytes st) |>.take (bfpBytes st))).zip (List.range 32)).flatMap fun e =>
        leBytes ed (elemOf dt (copyRnd rnd seed seq (a + (32 * b + e.2) * ed)) e.1).1
  else (List.range n).flatMap fun i => leBytes ed (elemConv dt st (copyRnd rnd seed seq (a + i * ed)) (el i)).1

/-- One bit of the reflected CRC-32C (R198). -/
def crcBits : Nat → Nat → Nat
  | 0, c => c
  | n + 1, c => crcBits n (if c % 2 = 1 then c / 2 ^^^ 0x82F63B78 else c / 2)

/-- The CRC-32C of bytes (R198). -/
def crc32c (bs : List Byte) : Nat :=
  (bs.foldl (fun c b => crcBits 8 (c ^^^ b.toNat)) 0xFFFFFFFF) ^^^ 0xFFFFFFFF

/-- The tile descriptor of CTILE, read as integers (R200). -/
structure TileDesc where
  cols : Int
  rows : Int
  c0 : Int
  r0 : Int
  sstr : Nat
  tc : Int
  tr : Int
  dstr : Nat

/-- The tile descriptor of its words (R200). -/
def TileDesc.ofWords (ws : List Word) : TileDesc :=
  let w := fun i => (ws.getD i 0).toNat
  { cols := bits (w 0) 32 32, rows := bits (w 0) 0 32, c0 := signed 32 (bits (w 1) 32 32), r0 := signed 32 (bits (w 1) 0 32),
    sstr := bits (w 2) 32 32, tc := bits (w 2) 16 12, tr := bits (w 2) 0 12, dstr := bits (w 3) 0 32 }

/-- Whether a descriptor is admitted (R200). -/
def tileOk (ws : List Word) (es ed : Nat) : Bool :=
  let w := fun i => (ws.getD i 0).toNat
  let t := TileDesc.ofWords ws
  t.cols != 0 && t.rows != 0 && bits (w 2) 28 4 == 0 && bits (w 2) 12 4 == 0 && bits (w 3) 32 32 == 0
    && t.sstr % es == 0 && t.dstr % ed == 0

/-- The clipped box of a tile: first and last row, first and last column (R201). -/
def TileDesc.box (t : TileDesc) : Int × Int × Int × Int :=
  (max 0 (-t.r0), min t.tr (t.rows - 1 - t.r0), max 0 (-t.c0), min t.tc (t.cols - 1 - t.c0))

/-- Word 3 of a CTILE completion (R201). -/
def TileDesc.boxWord (t : TileDesc) : Word :=
  let (a, b, c, d) := t.box
  if b < a || d < c then BitVec.allOnes 64
  else BitVec.ofNat 64 (d.toNat * 2 ^ 48 + c.toNat * 2 ^ 32 + b.toNat * 2 ^ 16 + a.toNat)

/-- The byte offset of a column of a row: half a byte each for LUT4. -/
def colBytes (tag : Nat) (n : Int) : Int := if tag = 11 then n / 2 else n * elemSize tag

/-- The rows of a command: source pointer, destination pointer, elements (R196, R201). -/
def DCmd.rows (c : DCmd) : List (Word × Word × Nat) :=
  if c.kind = 2 then
    let t := TileDesc.ofWords c.desc
    let (a, b, u, v) := t.box
    if b < a || v < u then [] else
    (List.range (b - a + 1).toNat).map fun i =>
      (ptrAdd c.src ((t.r0 + a + i) * t.sstr + colBytes (tagOf c.src) (t.c0 + u)),
       ptrAdd c.dst ((a + i) * t.dstr + colBytes (tagOf c.dst) u), (v - u + 1).toNat)
  else [(c.src, c.dst, c.cnt)]

/-- The source range of a command: first address and length, not reduced; length 0 when it reads nothing (R199, R201). -/
def DCmd.srcRange (c : DCmd) : Nat × Nat :=
  if c.kind = 2 then
    let t := TileDesc.ofWords c.desc
    let (a, b, u, v) := t.box
    let lo := (t.r0 + a).toNat * t.sstr + (colBytes (tagOf c.src) (t.c0 + u)).toNat
    let hi := (t.r0 + b).toNat * t.sstr + (colBytes (tagOf c.src) (t.c0 + v + 1)).toNat
    if b < a || v < u then (addrOf c.src, 0) else (addrOf c.src + lo, hi - lo)
  else (addrOf c.src, bytesFor (tagOf c.src) c.cnt)

/-- The destination range of a command (R199, R201). -/
def DCmd.dstRange (c : DCmd) : Nat × Nat :=
  if c.kind = 2 then
    let t := TileDesc.ofWords c.desc
    (addrOf c.dst, (t.tr * t.dstr + colBytes (tagOf c.dst) (t.tc + 1)).toNat)
  else (addrOf c.dst, bytesFor (tagOf c.dst) c.cnt)

/-- The issuer of a command as its dealer: global accesses with the group mask of the issuer's cluster (R337). -/
def DCmd.agent (c : DCmd) : Origin := { c.org with h := false }

/-- A row of a command with its pieces: source, destination, destination pointer, elements. -/
structure RowMove where
  src : List Piece
  dst : List Piece
  dptr : Word
  n : Nat

/-- The rows of a command with their pieces (R197, R199, R201). -/
def State.rowMoves (s : State) (c : DCmd) : List (Word × Word × Nat) → Except (Cause × Word) (List RowMove × State)
  | [] => .ok ([], s)
  | (p, q, n) :: rs =>
    match s.range c.agent .load p (bytesFor (tagOf c.src) n) with
    | .error e => .error e
    | .ok (src, s) => match s.range c.agent .store q (bytesFor (tagOf c.dst) n) with
      | .error e => .error e
      | .ok (dst, s) => match s.rowMoves c rs with
        | .error e => .error e
        | .ok (more, s) => .ok ({ src := src, dst := dst, dptr := q, n := n } :: more, s)

/-- The bytes that the rows of a command write, row by row (R197); none while bytes of another package are missing. -/
def State.rowBytes (s : State) (own : Owner) (c : DCmd) : List RowMove → Option (Except (Cause × Word) (List (List Byte)))
  | [] => some (.ok [])
  | m :: ms =>
    match s.piecesBytes own m.src, s.rowBytes own c ms with
    | some (.error e), _ => some (.error e)
    | some (.ok bs), some (.ok out) =>
      some (.ok (copyConv (tagOf c.src) (tagOf c.dst) c.rnd c.seed.toNat c.seq.toNat (bits m.dptr.toNat 0 56) m.n bs :: out))
    | some (.ok _), r => r
    | none, _ => none

/-- The state with the destination range of a command unspecified (R199, R219). -/
def State.clobber (s : State) (c : DCmd) : State := if c.bad.isSome then s else s.rangeFree c.agent c.dst c.dstRange.2

/-- What a copy comes to: its bytes, with the writes still to make in other packages; a page to wait for; a failure; another wait, with what it
needs asked for. -/
inductive CopyEnd where
  | done (bs : List Byte) (todo : List OutPiece) (s : State)
  | page (c : Cause) (va : Word)
  | fail (c : Cause) (va : Word) (s : State)
  | wait (s : State)

/-- Whether writes of a core to other packages are under way, stores or pushes, which a command's accesses there come after (R134, R145). -/
def State.coreAbroad (s : State) (k : Nat) : Bool :=
  (s.coreAt k).stores.any (fun x => x.away && x.bad.isNone) || (s.coreAt k).ls.ports.any fun e => e.2.pushes.any (·.gone)

/-- The first of pieces that lie with a die whose clock is stopped (R358), seen from a cluster. -/
def State.stuckPiece (s : State) (cl : Nat) (ps : List Piece) : Option (Piece × Nat) :=
  ps.findSome? fun p => ((s.needsDie (cl * 8) p.r.spot true).filter (s.dieWaits (cl * 8) p.r.spot)).map fun d => (p, d)

/-- An address in a range of `n` bytes that the model leaves free. -/
def State.freeIn (s : State) (p : Word) (n : Nat) : Word × State :=
  (ptrAdd p (Config.freeValue s.free % max 1 n : Nat), { s with free := s.free + 1 })

/-- A command carried out (R197 to R201, R206): a copy over its own source leaves its destination unspecified. -/
def State.runCopy (s : State) (cl : Nat) (c : DCmd) : CopyEnd :=
  let own : Owner := .copy cl c.id
  let s := s.flush c.org.k
  match s.rowMoves c c.rows with
  | .error (e, va) =>
    if e == .loadPageFault || e == .storePageFault then .page e va else .fail e va (s.clobber c)
  | .ok (ms, t) =>
    let a := ms.flatMap (·.src)
    let b := ms.flatMap (·.dst)
    if s.piecesHeld a false || s.piecesHeld b true || (anyAbroad (a ++ b) && s.coreAbroad c.org.k) then .wait s
    else match s.stuckPiece cl (a ++ b) with
    | some (p, d) => if s.deadlineOf c.since (cl / 64) d ≤ s.time.toNat then .fail .crossDieTimeout p.va (s.clobber c) else .wait s
    | none => match t.rowBytes own c ms with
      | none => .wait (s.askPieces own c.agent a)
      | some (.ok outs) =>
        let t := (t.piecesCounted c.agent (a ++ b)).dropLines own
        let t := (ms.zip outs).foldl (fun s e => s.piecesWrite e.1.dst e.2) t
        .done outs.flatten ((ms.zip outs).flatMap fun e => piecesAbroad e.1.dst e.2) (if piecesMeet a b then t.clobber c else t)
      | some (.error (e, va)) => .fail e va (s.clobber c)

/-- Tile rows and columns of a tiling word (R214). -/
def tileRows (t : Word) : Nat := bits t.toNat 0 12 + 1
/-- Tile columns of a tiling word. -/
def tileCols (t : Word) : Nat := bits t.toNat 12 12 + 1
/-- Tensor columns of a tensor descriptor (R214). -/
def tenCols (ws : List Word) : Nat := bits (ws.getD 1 0).toNat 32 32
/-- Tensor rows. -/
def tenRows (ws : List Word) : Nat := bits (ws.getD 1 0).toNat 0 32
/-- The row stride. -/
def tenStride (ws : List Word) : Nat := bits (ws.getD 2 0).toNat 0 48
/-- Tiles of the grid: G of R214. -/
def gridTiles (ws : List Word) (t : Word) : Nat := tenRows ws / tileRows t * (tenCols ws / tileCols t)

/-- The rows of tile `n`: address and bytes (R214). -/
def Subs.rows (x : Subs) (n : Nat) : List (Word × Nat) :=
  let g := tagOf (x.desc.getD 0 0)
  let tr := tileRows x.tiling
  let tc := tileCols x.tiling
  let across := tenCols x.desc / tc
  let down := tenRows x.desc / tr
  let m := n % (down * across)
  let (ti, tj) := if bitAt x.tiling.toNat 24 then (m % down, m / down) else (m / across, m % across)
  (List.range tr).map fun t =>
    (ptrAdd (x.desc.getD 0 0) ((((ti * tr + t) * tenStride x.desc : Nat) : Int) + colBytes g ((tj * tc : Nat) : Int)), (colBytes g tc).toNat)

/-- The pieces of a tile's rows, in order. -/
def State.tilePieces (s : State) (o : Origin) (k : AKind) : List (Word × Nat) → Except (Cause × Word) (List Piece × State)
  | [] => .ok ([], s)
  | (p, n) :: rs =>
    match s.range o k p n with
    | .error e => .error e
    | .ok (xs, s) => match s.tilePieces o k rs with
      | .error e => .error e
      | .ok (ys, s) => .ok (xs ++ ys, s)

/-- The address of slot `k` of a ring (R207). -/
def Ring.slotVa (r : Ring) (k : Nat) : Word := ptrAdd r.base ((k * r.size : Nat) : Int)
/-- The scratch offset of slot `k`. -/
def Ring.slotOff (r : Ring) (k : Nat) : Nat := addrOf r.base - 0xFFFFE0000000 + k * r.size

/-- The state with the tile that a ring's subscription or drain has in hand unspecified at its destination: the slot, or the tensor's tile (R199,
R219, R220). -/
def State.clobberTile (s : State) (cl : Nat) (r : Ring) : State :=
  match r.sub with
  | none => s
  | some x => match x.busy with
    | none => s
    | some k =>
      if x.out then (x.rows x.tile).foldl (fun s e => s.rangeFree { x.org with h := false } e.1 e.2) s
      else
        let (bs, s) := s.freeBytes r.size
        s.writeAt (.scratch cl (r.slotOff k)) bs

end Sys2Proof.Machine
end

