-- ==== Sys2Proof/Machine/Groups.lean ====
section
/-! DEFINITION. Completion counters, the release of a group's resources, completion and kill (R168, R211, R220, R224, R226, R284 to
R286, R290, R313, R323). -/

namespace Sys2Proof.Machine

/-- The key of a completion counter: partition, job, level (0 launch, 1 graph, 2 phase, 3 job), id (R284). -/
def ctrKey (p job lvl id : Nat) : Nat := ((p * 65536 + job) * 4 + lvl) * 65536 + id

/-- A counter by its key. -/
def State.ctr (s : State) (key : Nat) : Counter := Tab.get s.counters key {}
/-- The state with a counter changed. -/
def State.modCtr (s : State) (key : Nat) (f : Counter → Counter) : State := { s with counters := Tab.set s.counters key (f (s.ctr key)) }

/-- A counter that gains `n` outstanding members; a new member of an ended counter clears its flags (R290). -/
def Counter.join (n : Nat) (c : Counter) : Counter := if c.st = 1 then { c with out := c.out + n } else { st := 1, out := n }
/-- A counter that loses one outstanding member: at zero it is complete, or ended when a flag is set (R290). -/
def Counter.leave (c : Counter) : Counter :=
  if c.out ≤ 1 then { c with out := 0, st := if c.cnc || c.tmo || c.kil then 3 else 2 } else { c with out := c.out - 1 }

/-- The counters that count a launch: graph, phase, job (R284). -/
def Launch.uppers (l : Launch) : List Nat :=
  (if l.graph = 0 then [] else [ctrKey l.part l.job 1 l.graph]) ++ [ctrKey l.part l.job 2 l.phid, ctrKey l.part l.job 3 0]
/-- The launch's own counter. -/
def Launch.key (l : Launch) : Nat := ctrKey l.part l.job 0 l.lid

/-- The state with a flag set on a launch's counter and on the counters that count it (R290: tmo, kil and rty travel upward). -/
def State.flagUp (s : State) (l : Launch) (f : Counter → Counter) : State := (l.key :: l.uppers).foldl (fun s k => s.modCtr k f) s

/-- The key of a resident graph: partition, job, graph id (R292). -/
def graphKey (p job g : Nat) : Nat := (p * 65536 + job) * 4096 + g

/-- The graph counter of a run (R284). -/
def graphCtr (p job gid : Nat) : Nat := ctrKey p job 1 gid

/-- The state after a graph run that has nothing left ended (R284, R293): its walker holds no node and none of its launches runs. -/
def State.graphCheck (s : State) (p job gid : Nat) : State :=
  let key := graphKey p job gid
  let g := Tab.get s.graphs key {}
  if g.running && g.pending.isEmpty && (s.ctr (graphCtr p job gid)).st != 1 then
    let s := { s with graphs := Tab.set s.graphs key { g with running := false, joins := [], whiles := [], stopped := false } }
    [ctrKey p job 2 g.phid, ctrKey p job 3 0].foldl (fun s k => s.modCtr k Counter.leave) s
  else s

/-- The state with the walker's active nodes changed: it counts as 1 in the graph counter while it holds one (R284). -/
def State.setPending (s : State) (p job gid : Nat) (ns : List Nat) : State :=
  let key := graphKey p job gid
  let g := Tab.get s.graphs key {}
  let s := { s with graphs := Tab.set s.graphs key { g with pending := ns } }
  if g.pending.isEmpty && !ns.isEmpty then s.modCtr (graphCtr p job gid) (Counter.join 1)
  else if !g.pending.isEmpty && ns.isEmpty then s.modCtr (graphCtr p job gid) Counter.leave
  else s

/-- The state after a node of the walker is done (R284). -/
def State.graphLeave (s : State) (p job gid n : Nat) : State :=
  (s.setPending p job gid ((Tab.get s.graphs (graphKey p job gid) {}).pending.erase n)).graphCheck p job gid

/-- The successors of a node that are not none (R293). -/
def nodeSuccs (ws : List Word) (ks : List Nat) : List Nat :=
  ks.filterMap fun k => let x := bits (ws.getD 0 0).toNat (48 - 12 * k) 12; if x = 0xFFF then none else some x

/-- The state with successors of a node started: each is an active node of the walker (R293). -/
def State.startNodes (s : State) (p job gid : Nat) (ns : List Nat) : State :=
  let g := Tab.get s.graphs (graphKey p job gid) {}
  if g.stopped then s
  else ns.foldl (fun s n => s.post (.node p job gid n)) (s.setPending p job gid (g.pending ++ ns))

/-- The state after the last group of a launch was counted (R284, R285, R293): a graph's successors start before its counter loses it. -/
def State.launchEnd (s : State) (lk : Nat) : State :=
  let l := s.launchAt lk
  let s := s.modLaunch lk fun l => { l with st := 2 }
  let s := if l.src = 2 then
      s.startNodes l.part l.job l.graph (nodeSuccs ((Tab.get s.graphs (graphKey l.part l.job l.graph) {}).nodes.getD l.node []) [0, 1, 2, 3])
    else s
  let s := s.modCtr l.key Counter.leave
  let s := l.uppers.foldl (fun s k => s.modCtr k Counter.leave) s
  if l.src = 2 then s.graphCheck l.part l.job l.graph else s

/-- The state with one group of a launch counted complete or dropped (R284). The package's counter falls group by group, and not once a die has completed all of its
groups: the model's choice (notes/assumptions/149.md). -/
def State.groupCounted (s : State) (lk : Nat) : State :=
  let l := s.launchAt lk
  let s := s.modLaunch lk fun l => { l with done := l.done + 1 }
  if l.done + 1 = l.ngrp then s.launchEnd lk
  else s.modCtr l.key fun c => { c with out := c.out - 1 }

/-- An accumulator released when a group held it: free, cleared, FP32 (R224). -/
def Acc.release (a : Acc) (g : Nat) : Acc := if a.holder == some g then {} else a

/-- The groups resident on a cluster, of the partition that holds it now (R326). -/
def State.residents (s : State) (cl : Nat) : List (Nat × Group) := List.filter (fun (e : Nat × Group) => e.2.on cl && s.clusterIn e.2.part cl) s.groups

/-- Whether a group is pre-empted, with its image saved (R324). -/
def Group.saved (g : Group) : Bool := g.st == 3 && g.img.isSome

/-- The state with the placement of waiting groups on a die, and the resumption of pre-empted ones there, due (R282, R283): something was
given back. -/
def State.freedOn (s : State) (p v : Nat) : State :=
  List.foldl (fun s (e : Nat × Group) => if e.2.saved && e.2.part == p && e.2.vdie == v then s.post (.resumeGroup e.1) else s)
    (s.post (.placement p v)) s.groups

/-- A cluster without the resources of a group: rings, accumulators, commands, scoreboard entries, group slot (R211, R220, R224, R226). -/
def Cluster.release (c : Cluster) (g : Nat) : Cluster :=
  { c with
    acc0 := c.acc0.release g
    acc1 := c.acc1.release g
    rings := c.rings.filter fun e => !(e.2.owner == some g)
    eng := c.eng.filter fun e => !(e.org.gid == g)
    array := match c.array with
      | some id => if c.eng.any (fun e => e.id == id && e.org.gid == g) then none else some id
      | none => none
    drain := c.drain.filter fun id => !(c.eng.any fun e => e.id == id && e.org.gid == g)
    dealer := c.dealer.filter fun e => !(e.org.gid == g)
    score := c.score.filter fun e => !(e.gid == g)
    gslots := c.gslots.filter fun e => !(e.2 == g) }

/-- A core without the firings and mailbox entries of a group (R323). Supervisor messages of other senders stay. -/
def Core.endGroup (c : Core) (g : Nat) : Core :=
  let bound := c.bound == some g
  { c with
    l := if c.l.fir.gid == g then {} else c.l
    ls := if c.l.fir.gid == g then { zlutbase := c.ls.zlutbase, lut := c.ls.lut, lutOk := c.ls.lutOk, zrr := c.ls.zrr } else c.ls
    h := if c.h.fir.gid == g then {} else c.h
    hq := if bound then c.hq.filter (·.sup) else c.hq
    lq := if bound then c.lq.filter (·.sup) else c.lq
    ca := if bound then [] else c.ca
    batches := if bound then [] else c.batches
    armed := if bound then false else c.armed
    bound := if bound then none else c.bound
    launchDue := if c.launchDue == some g then none else c.launchDue
    slots := c.slots.filter fun e => !(e.2.fir.gid == g)
    faultDue := if c.ctx.fir.gid == g then none else c.faultDue
    pageWait := if c.ctx.fir.gid == g then none else c.pageWait
    step := if bound then 0 else c.step }

/-- A push that a firing had issued when it was killed (R124): with its value where that is known, else with the producer it awaits, which for the moving
instruction's is the request it has sent. -/
def Port.lastPush (p : Port) (o : Origin) (i : Nat) (x : Ctx) (q : Push) : LastPush :=
  let l : LastPush := { org := o, port := i, cfg := { p with pre := [], pushes := [] }, push := q }
  match q.pend with
  | none => l
  | some id => match x.pend.find? (·.id == id), x.aw with
    | some y, _ => if y.wait = 0 then { l with push := { q with val := p.ofReg y.val } } else { l with pend := some y }
    | none, .sent r => { l with pend := some { id := r, wait := 1 } }
    | none, _ => { l with pend := some { id := id, wait := 1 } }

/-- The state with the pushes already issued by a core's L firing performed, each once its value is known (R124; notes/assumptions/47.md). -/
def State.drainPushes (s : State) (k : Nat) : State :=
  let c := s.coreAt k
  let s := s.flush k
  let last := c.ls.ports.flatMap fun e => (e.2.pushes.filter fun q => !q.gone).map (e.2.lastPush (s.lOrg k) e.1 c.l)
  State.settleLast { s.modCore k fun c => { c with ls := { c.ls with ports := c.ls.ports.map fun e => (e.1, { e.2 with pushes := [] }) } } with
    lastPushes := s.lastPushes ++ last }

/-- The key of a ready queue: partition, virtual die, priority (R280). -/
def readyKey (p v : Nat) (high : Bool) : Nat := (p * 8 + v) * 2 + b2n high

/-- The state with a group out of every ready queue. -/
def State.unqueue (s : State) (g : Nat) : State := { s with ready := s.ready.map fun e => (e.1, e.2.filter (· != g)) }

/-- Whether an agent's accesses to other packages are a group's, on its cluster and cores, and end with it; a queue row's do not. -/
def State.ownsAgent (s : State) (g : Nat) (w : Owner) : Bool :=
  let gr := s.groupAt g
  let c := s.clusterAt gr.cl
  match w with
  | .port k _ | .push k _ => gr.cores.contains k
  | .row _ => false
  | .copy cl id => cl == gr.cl && c.dealer.any fun d => d.id == id && d.org.gid == g
  | .spring cl rg | .outlet cl rg => cl == gr.cl && (Tab.get c.rings rg {}).owner == some g

/-- The state with a group's resources given back: its cores, cluster and frame slots (R168, R282, R323). -/
def State.releaseGroup (s : State) (g : Nat) : State :=
  let gr := s.groupAt g
  let s := s.orphan g (s.ownsAgent g)
  let s := gr.cores.foldl (fun s k => s.modCore k (·.endGroup g)) s
  if gr.st = 2 || gr.st = 3 then s.modCluster gr.cl (·.release g) else s

/-- The state with the time limit of a group's launch paused (R372). -/
def State.pauseLimit (s : State) (gid : Nat) : State :=
  s.modLaunch (s.groupAt gid).launch fun l => { l with paused := some (l.paused.getD s.time.toNat) }

/-- The state with the time limit of a group's launch running again, later by the span of the pause, unless another of its groups is halted. -/
def State.resumeLimit (s : State) (gid : Nat) : State :=
  let lk := (s.groupAt gid).launch
  if List.any s.dpages fun (e : Nat × DPage) => e.2.att && e.2.st == 3 && (s.groupAt e.2.gid).launch == lk then s
  else s.modLaunch lk fun l => match l.paused with
    | none => l
    | some t => { l with paused := none, lim := if l.lim = 0 then 0 else l.lim + (s.time.toNat - t) }

/-- The debug page of a group that ended: gone set, detached, no image named, the launch's limit running again (R369, R372). -/
def State.pageGone (s : State) (g : Nat) : State :=
  if (s.pageOf g).isNone then s
  else State.resumeLimit { s with dpages := s.dpages.map fun e =>
    if e.2.att && e.2.gid == g then (e.1, { e.2 with gone := true, st := 0, att := false, haltReq := false, stepping := false, dimg := [] }) else e } g

/-- The state with what the commands of a group that is killed or pre-empted were to write unspecified: the destination ranges of its copies, queued
or in flight, the tiles in hand, what its started engine commands write (R219, R220, R273). -/
def State.clobberGroup (s : State) (g : Nat) : State :=
  let gr := s.groupAt g
  let c := s.clusterAt gr.cl
  let s := (c.dealer.filter fun d => d.org.gid == g).foldl State.clobber s
  let s := (List.filter (fun (e : Nat × Ring) => e.2.owner == some g) c.rings).foldl (fun s e => s.clobberTile gr.cl e.2) s
  (c.eng.filter fun e => e.org.gid == g && e.started).foldl (fun s e =>
    e.outs.foldl (fun s r => let (bs, s) := s.freeBytes r.2; s.writeAt (.scratch gr.cl r.1) bs) s) s

/-- Whether a kill by a cause is re-run under the retry flag (R286, R327). -/
def rerunCause (c : Cause) : Bool := c == .engineFailed || c == .coreQuarantined || c == .uncorrectableRegister

/-- The counter flag a kill sets (R323). -/
def killFlag (c : Cause) (k : Counter) : Counter :=
  match c with
  | .launchTimeout => { k with tmo := true }
  | _ => { k with kil := true }

/-- The state with the flag of a kill set (R290, R323): tmo and kil travel upward, cnc stays with the launch. -/
def State.flagKill (s : State) (l : Launch) (c : Cause) : State :=
  if c == .launchCancelled then s.modCtr l.key fun k => { k with cnc := true } else s.flagUp l (killFlag c)

/-- A kill of a group (R323): its firings end, its commands are discarded, its resources are freed, its launch counter is told; a
group of a launch with rty is handed to its die's ready queue again, once (R286). The cause and its value are kept. -/
def State.killGroup (s : State) (g : Nat) (c : Cause) (tv : Word := 0) : State :=
  let gr := s.groupAt g
  if gr.st = 4 || gr.st = 5 || !(Tab.find? s.groups g).isSome then s
  else
    let l := s.launchAt gr.launch
    let s := if gr.st = 2 then gr.cores.foldl (fun s k => if (s.coreAt k).l.fir.gid == g then s.drainPushes k else s) (s.clobberGroup g) else s
    let s := (((s.releaseGroup g).unqueue g).pageGone g).freedOn gr.part gr.vdie
    let s := s.modGroup g fun gr => { gr with img := none, stopping := false, page := none, halted := false, killed := some (c, tv) }
    if rerunCause c && l.rty && !gr.rerun then
      let s := s.modGroup g fun gr => { gr with st := 1, rerun := true, cores := [], rings := [], since := s.time.toNat, passed := false, blocks := false, preAsked := none, avoid := if c == .engineFailed then some gr.cl else none }
      let key := readyKey gr.part gr.vdie l.pri
      (s.flagUp l fun k => { k with rty := true }) |> fun s => { s with ready := Tab.set s.ready key (Tab.get s.ready key [] ++ [g]) }
    else
      let s := s.modGroup g fun gr => { gr with st := 5 }
      (s.flagKill l c).groupCounted gr.launch

/-- Whether a core holds nothing for a group (R168). -/
def Core.quietFor (c : Core) (g : Nat) : Bool :=
  !c.armed && !(c.l.fir.active && c.l.fir.gid == g) && !(c.h.fir.active && c.h.fir.gid == g) && c.launchDue.isNone
    && c.slots.all (fun e => !(e.2.st != 0 && e.2.fir.gid == g))
    && (c.hq ++ c.lq).all (fun m => m.sup || m.gid != g) && c.ca.isEmpty && c.stores.isEmpty && c.batches.isEmpty

/-- Whether a group is complete (R168, R285): nothing of it runs, waits, or still awaits its placement, completion or reply. -/
def State.groupDone (s : State) (g : Nat) : Bool :=
  let gr := s.groupAt g
  let c := s.clusterAt gr.cl
  gr.st == 2 && s.clusterIn gr.part gr.cl && gr.cores.all (fun k => (s.coreAt k).quietFor g)
    && List.all s.flights (fun e => e.2.org.gid != g) && List.all s.svcs (fun e => e.2.org.gid != g)
    && List.all s.errs (fun e => e.2.org.gid != g) && List.all s.rows (fun e => e.2.org.gid != g) && List.all s.pkts (fun e => e.2.org.gid != g)
    && s.awayOuts.all (fun x => x.org.gid != g || x.gone)
    && List.all s.invReps (fun e => e.2.org.gid != g) && c.dealer.all (fun e => e.org.gid != g) && c.eng.all (fun e => e.org.gid != g)
    && List.all c.rings (fun e => e.2.owner != some g || e.2.sub.isNone)

/-- The state with a complete group counted and its resources given back (R285). -/
def State.completeGroup (s : State) (g : Nat) : State :=
  let gr := s.groupAt g
  let s := ((s.releaseGroup g).pageGone g).freedOn gr.part gr.vdie
  (s.modGroup g fun gr => { gr with st := 4, stopping := false }).groupCounted gr.launch

/-- A frame slot with one more cause known for its firing; none when four wait there (R313). -/
def Slot.late1 (sl : Slot) (c : Cause) (tv : Word) : Option Slot :=
  if 4 ≤ sl.npend + sl.late.length then none else some { sl with late := sl.late ++ [(c, tv)] }

/-- The state with a cause added to a firing held in its group's image; a full list kills the group, and so does a firing that has ended. -/
def State.pendImage (s : State) (g fid : Nat) (c : Cause) (tv : Word) : State :=
  match (s.groupAt g).img with
  | none => s.killGroup g c tv
  | some im => match List.find? (fun (e : Nat × RankImg) => e.2.live && e.2.slot.fir.fid == fid) im.ranks with
    | none => s.killGroup g c tv
    | some (r, ri) => match ri.slot.late1 c tv with
      | none => s.killGroup g c tv
      | some sl => s.modGroup g fun gr => { gr with img := some { im with ranks := Tab.set im.ranks r { ri with slot := sl } } }

/-- A cause that became known for a firing (R313): it joins the pending list of the firing's context, running or saved; a full list
kills the group, and so does a firing that has ended. -/
def State.pendCause (s : State) (o : Origin) (c : Cause) (tv : Word) : State :=
  let x := (s.coreAt o.k).ctxAt o.h
  if x.fir.active && x.fir.fid == o.fid then
    if 4 ≤ x.causes.length then s.killGroup o.gid c tv
    else (s.modCtxAt o.k o.h fun x => { x with causes := x.causes ++ [(c, tv)] }).modCore o.k fun c => if o.h then c else c.touch [7]
  else
    let holders := (s.groupAt o.gid).cores.filter fun k => (s.coreAt k).l.fir.active && (s.coreAt k).l.fir.fid == o.fid
    match holders with
    | k :: _ =>
      if 4 ≤ (s.coreAt k).l.causes.length then s.killGroup o.gid c tv
      else (s.modCtxAt k false fun x => { x with causes := x.causes ++ [(c, tv)] }).modCore k fun c => c.touch [7]
    | [] =>
      match (List.range 8).filterMap (fun i =>
          let k := o.k / 8 * 8 + i
          (List.find? (fun e => e.2.st != 0 && e.2.fir.fid == o.fid) (s.coreAt k).slots).map fun e => (k, e.1)) with
      | (k, i) :: _ => match (Tab.get (s.coreAt k).slots i {}).late1 c tv with
        | none => s.killGroup o.gid c tv
        | some sl => s.modCore k fun c' => { c' with slots := Tab.set c'.slots i sl }
      | [] => s.pendImage o.gid o.fid c tv

end Sys2Proof.Machine
end

