-- ==== Sys2Proof/Machine/Firings.lean ====
section
/-! DEFINITION. Handler tables, mailboxes, completions and the start of firings (R156 to R169, R319). -/

namespace Sys2Proof.Machine

/-- Fields of a handler entry (R161). -/
def entProd (e : Nat) : Nat := bits e 56 4
/-- The consumption count (R161). -/
def entCons (e : Nat) : Nat := bits e 53 3 + 1
/-- The pc of a handler entry. -/
def entPc (e : Nat) : Nat := bits e 2 46 * 4
/-- Whether an entry is registered in its table (R161). -/
def entOk (e : Nat) (sup : Bool) : Bool :=
  bitAt e 63 && bitAt e 62 == sup && bits e 60 2 != 3 && bits e 48 5 == 0 && bits e 0 2 == 0
/-- Whether an entry's class accepts a priority (R161). -/
def entAccepts (e : Nat) (high : Bool) : Bool := bits e 60 2 == 2 || (bits e 60 2 == 1) == high

/-- An entry of a group's handler table, read as the group's job at a core (R161). -/
def State.groupEntry (s : State) (g k idx : Nat) : Except Cause Nat :=
  let gr := s.groupAt g
  let o : Origin := { k := k, gid := g, part := gr.part, job := gr.job, sup := true }
  match s.reach o ((s.launchAt gr.launch).tab + BitVec.ofNat 64 (8 * (idx - 16))) 8 .load with
  | .ok (r, s) => .ok (leNat (s.spotBytes r.spot 8))
  | .error c => .error c

/-- An entry of the partition's supervisor table, read at its home (R161). -/
def State.supEntry (s : State) (p idx : Nat) : Nat :=
  s.numAt (.hbm (bits (s.partAt p).csr.zhtab.toNat 3 45 * 8 + 8 * (idx - 16))) 8
/-- The entry count of the supervisor table (R340). -/
def State.supCount (s : State) (p : Nat) : Nat := bits (s.partAt p).csr.zhtab.toNat 52 12

/-- A message header (R157). -/
def header (seq argc : Nat) (rem : Bool) (kind : Nat) (pri sup : Bool) (h mesh : Nat) : Word :=
  BitVec.ofNat 64 (seq * 2 ^ 52 + argc * 2 ^ 49 + b2n rem * 2 ^ 48 + kind * 2 ^ 46 + b2n pri * 2 ^ 45 + b2n sup * 2 ^ 44 + h * 2 ^ 32 + mesh)

/-- A fresh moment of the run: names operations and orders placements. -/
def State.moment (s : State) : Nat × State := (s.nextId, { s with nextId := s.nextId + 1 })

/-- Whether a core's queue has a free slot (R156, R163). -/
def Core.room (c : Core) (high : Bool) : Bool := if high then c.hq.length < Config.hSlots else c.lq.length < Config.lSlots

/-- The state with a message placed in a core's queue (R163); a WFM of that context has its entry (R328). -/
def State.placeMsg (s : State) (k : Nat) (high : Bool) (m : Msg) : State :=
  let (t, s) := s.moment
  let m := { m with ord := t }
  s.modCore k fun c => if high then { c with hq := c.hq ++ [m], h := { c.h with wfm := true } }
    else { c with lq := c.lq ++ [m], l := { c.l with wfm := true } }

/-- The state with the messages that wait at the router of a core told of a free slot (R163). -/
def State.slotFreed (s : State) (k : Nat) : State :=
  s.flights.foldl (fun s e => if e.2.st == 1 && e.2.dst == k then s.post (.place e.1) else s) s

/-- Whether a core has a free completion slot (R169). -/
def Core.caRoom (c : Core) : Bool := c.ca.length < Config.completionSlots

/-- The state with a completion slot reserved (R169). -/
def State.reserve (s : State) (k : Nat) (sl : CSlot) : State := s.modCore k fun c => c.setArea (c.ca ++ [sl])

/-- Reserve a completion slot for a command of the moving firing, or BATCH_OVERFLOW (R169). -/
def reserveSlot (hdl : Nat) (hidden : Bool) : M Nat := do
  let s ← get
  trapIf (!s.me.caRoom) .batchOverflow 16
  let id ← freshId
  upd fun s => s.reserve s.cur { id := id, fid := s.fir.fid, hdl := hdl, hidden := hidden }
  pure id

/-- Where a reservation stands: a core's completion area; a frame slot's image; the completion area of a rank of a pre-empted group, or its
firing image. -/
inductive Place where
  | area (k : Nat)
  | frame (k slot : Nat)
  | rank (g r : Nat)
  | image (g r : Nat)
  | gone

/-- The cores on which a reservation of an issuer may stand: the issuer and the cores of its group. -/
def State.kin (s : State) (o : Origin) : List Nat := o.k :: (s.groupAt o.gid).cores

/-- Where a reservation stands (R169, R319, R322). -/
def State.whereSlot (s : State) (o : Origin) (id : Nat) : Place :=
  match (s.kin o).find? fun k => (s.coreAt k).ca.any (·.id == id) with
  | some k => .area k
  | none =>
    match (s.kin o).findSome? fun k =>
        (List.find? (fun e => e.2.st != 0 && e.2.ca.any (·.id == id)) (s.coreAt k).slots).map fun e => (k, e.1) with
    | some (k, i) => .frame k i
    | none => match (s.groupAt o.gid).img with
      | none => .gone
      | some im =>
        match List.find? (fun (e : Nat × RankImg) => e.2.ca.any (·.id == id)) im.ranks,
            List.find? (fun (e : Nat × RankImg) => e.2.slot.ca.any (·.id == id)) im.ranks with
        | some e, _ => .rank o.gid e.1
        | none, some e => .image o.gid e.1
        | none, none => .gone

/-- The state with the completion area of a core, or of a rank of a pre-empted group, changed. -/
def State.modArea (s : State) (pl : Place) (f : List CSlot → List CSlot) : State :=
  match pl with
  | .area k => s.modCore k fun c => c.setArea (f c.ca)
  | .rank g r => s.modGroup g fun gr => match gr.img with
    | none => gr
    | some im => let ri := Tab.get im.ranks r {}
      { gr with img := some { im with ranks := Tab.set im.ranks r { ri with ca := f ri.ca } } }
  | _ => s

/-- Whether the firing of an issuer still runs on a core of its group, or is saved. -/
def State.firingLives (s : State) (pl : Place) (fid : Nat) : Bool :=
  match pl with
  | .area k => (s.coreAt k).l.fir.active && (s.coreAt k).l.fir.fid == fid
  | _ => false

/-- The eight words of a completion (R157, R194): five argument words. -/
def State.complWords (s : State) (o : Origin) (hdl : Nat) (args : List Word) : List Word :=
  padTo 8 0 (header 0 5 false 2 false false hdl (bits (s.meshWord o.part o.k) 0 32) :: args)

/-- The state with a completion on its way into a saved image (R319). -/
def State.frameCompl (s : State) (f : FrameCompl) : State :=
  { s with frameCompls := Tab.set s.frameCompls s.nextId f, nextId := s.nextId + 1 }.post (.frameCompl s.nextId)

/-- The state with a completion placed into its reservation (R144, R169, R194, R319): in the completion area; in a saved image; or
discarded when it names no handler and its firing has ended (R168). One that names a handler carries its entry's image. DESIGN CHOICE
(notes/assumptions/24.md): R161 lists no read of the entry for a completion, so it is read when the completion is placed, and an index outside the
table or an unregistered entry raises HANDLER_TABLE_RANGE or HANDLER_UNREGISTERED imprecisely, with the index where a target word holds it. -/
def State.placeCompletion (s : State) (o : Origin) (id hdl src : Nat) (args : List Word) : State :=
  let ws := s.complWords o hdl args
  let pl := s.whereSlot o id
  match pl with
  | .gone => s
  | .frame k i => s.frameCompl { gid := o.gid, k := k, slot := i, id := id, words := ws, src := src }
  | .image g r => s.frameCompl { gid := o.gid, grp := some g, slot := r, id := id, words := ws, src := src }
  | _ =>
    let drop := fun (s : State) => s.modArea pl fun ca => ca.filter (·.id != id)
    if hdl = 0 && !s.firingLives pl o.fid then drop s else
    let (t, s) := s.moment
    let e : Except Cause Nat := if hdl = 0 then .ok 0 else
      if hdl < 16 || (s.launchAt (s.groupAt o.gid).launch).n ≤ hdl - 16 then .error .handlerTableRange else s.groupEntry o.gid o.k hdl
    match e with
    | .error c => (drop s).pendCause o c (BitVec.ofNat 64 (hdl * 2 ^ 36))
    | .ok e =>
      if hdl != 0 && !entOk e false then (drop s).pendCause o .handlerUnregistered (BitVec.ofNat 64 (hdl * 2 ^ 36))
      else
        let m : Msg := { words := ws, entry := BitVec.ofNat 64 e, hdl := hdl, job := o.job, gid := o.gid, fid := o.fid, ord := t, src := src }
        let s := s.modArea pl fun ca => ca.map fun x => if x.id == id then { x with msg := some m } else x
        match pl with
        | .area k => s.modCore k fun c => { c with l := { c.l with wfm := true } }
        | _ => s

/-- The private memory with a range of zeros. -/
def zeroed (m : Memory) (off n : Nat) : Memory := Memory.writeN m off (List.replicate n 0)

/-- The L state at a firing's start (R114, R166, R202, R260): what a firing keeps from earlier firings of its group stays. -/
def LState.fresh (l : LState) (same : Bool) : LState :=
  { lut := l.lut, lutOk := l.lutOk && same, zlutbase := l.zlutbase, zrr := l.zrr, copySeq := l.copySeq, stage := l.stage }

/-- A core with a firing started (R68, R166): registers, window words, data area of its context. -/
def Core.start (c : Core) (h : Bool) (f : Firing) (pc : Nat) (args : Tab Word) (win : List Word) : Core :=
  let x : Ctx := { pc := BitVec.ofNat 64 pc, x := args, fir := f }
  let wb := (padTo 64 0 win).flatMap fun w => leBytes 8 w.toNat
  if h then
    { c with h := x, dataH := some f.gid,
             priv := Memory.writeN (if c.dataH == some f.gid then c.priv else zeroed c.priv 0xC00 512) 0xA00 wb }
  else
    { c with l := x, ls := c.ls.fresh (c.dataL == some f.gid), dataL := some f.gid, dirty := List.range 64,
             priv := Memory.writeN (if c.dataL == some f.gid then c.priv else zeroed c.priv 0xE00 4608) 0x800 wb }

/-- The registers a handler firing finds: x9 the header, x10 to x15 the first message's arguments (R166). -/
def msgRegs (m : Msg) : Tab Word := (List.range 7).map fun i => (9 + i, m.words.getD i 0)

/-- Egress slots that the sends of a context hold beside those reserved by one firing (R164): its unreserved ones, and all of other firings, whose
reservations are over. -/
def State.egressBeside (s : State) (k : Nat) (h : Bool) (fid : Nat) : Nat :=
  (List.filter (fun e => (e.2.unres || e.2.org.fid != fid) && e.2.org.k == k && e.2.org.h == h) s.flights).length
/-- Egress slots held beside those reserved by a context's running firing (R164). -/
def State.egressHeld (s : State) (k : Nat) (h : Bool) : Nat := s.egressBeside k h ((s.coreAt k).ctxAt h).fir.fid
/-- Free slots of a context's unreserved pool (R164). -/
def State.egressFree (s : State) (k : Nat) (h : Bool) : Nat :=
  Config.egressSlots - ((s.coreAt k).ctxAt h).fir.prod - s.egressHeld k h
/-- Whether a context can reserve `n` slots for a firing: a new one, or one that is restored and has sends on their way (R164). -/
def State.egressFits (s : State) (k : Nat) (h : Bool) (n : Nat) (fid : Nat := 0) : Bool := n + s.egressBeside k h fid ≤ Config.egressSlots

/-- The state with a handler firing started on messages (R165, R166): an acquire of the core (R140). -/
def State.startHandler (s : State) (k : Nat) (h : Bool) (ms : List Msg) : State :=
  match ms with
  | [] => s
  | m :: _ =>
    let (t, s) := s.moment
    let c := s.coreAt k
    let e := m.entry.toNat
    let g := if m.sup then c.bound.getD 0 else m.gid
    let f : Firing := {
      active := true, fid := t, kind := 1, sup := m.sup, hidx := m.hdl, nmsg := ms.length, prod := entProd e,
      resv := entProd e, gid := g, job := m.job, part := (Tab.find? s.quads (k / 512 * 4 + quadOf (k / 8 % 64))).getD 0, startOrd := t }
    ((s.modCore k fun c => c.start h f (entPc e) (msgRegs m) (ms.flatMap fun m => padTo 8 0 m.words)).acquireAt k).slotFreed k

/-- An L-queue handler that may start: its place in the order and its messages (R165). -/
structure Ready where
  ord : Nat
  msgs : List Msg

/-- The L-queue handlers whose consumption count is met, and the completions that name a handler (R165). Supervisor messages for one handler from firings of
different jobs are counted job by job: the model's choice (notes/assumptions/147.md). -/
def Core.readyHandlers (c : Core) : List Ready :=
  (c.lq.filterMap fun m =>
    let mine := c.lq.filter fun x => x.hdl == m.hdl && x.sup == m.sup && x.job == m.job
    match mine with
    | [] => none
    | o :: _ =>
      if o.ord != m.ord then none else
      let n := entCons o.entry.toNat
      if mine.length < n then none else some { ord := ((mine[n - 1]?).map (·.ord)).getD 0, msgs := mine.take n })
  ++ c.ca.filterMap fun x => match x.msg with
    | some m => if m.hdl = 0 then none else some { ord := m.ord, msgs := [m] }
    | none => none

/-- The oldest of the handlers that may start. -/
def oldest : List Ready → Option Ready
  | [] => none
  | r :: rs => match oldest rs with
    | none => some r
    | some q => if q.ord < r.ord then some q else some r

/-- A core without messages that a firing consumed. -/
def Core.consume (c : Core) (ms : List Msg) : Core :=
  { c with
    lq := c.lq.filter fun x => !(ms.any (·.ord == x.ord))
    hq := c.hq.filter fun x => !(ms.any (·.ord == x.ord)) }.setArea (c.ca.filter fun x => match x.msg with
      | some m => !(ms.any (·.ord == m.ord))
      | none => true)

/-- Whether both contexts of a core stand still: its partition is halted for a switch (R326), its virtual die for a remap (R352), or its die's clock
is stopped (R358). -/
def State.coreHeld (s : State) (k : Nat) : Bool :=
  !(s.dieAt (k / 512)).running || s.clMoving (k / 8) || (match Tab.find? s.quads (k / 512 * 4 + quadOf (k / 8 % 64)) with
    | some p => (s.partAt p).halted
    | none => false)

/-- Whether the work of a core's group is stopped: halted for a debugger, but for a step, or being pre-empted (R324, R372, R373). -/
def State.lStopped (s : State) (k : Nat) : Bool :=
  s.coreHeld k || (match (s.coreAt k).bound with
    | some g => ((s.groupAt g).halted && (s.coreAt k).step == 0) || (s.groupAt g).stopping
    | none => false)

/-- The lowest free firing slot of a core (R315). -/
def Core.freeSlot (c : Core) : Option Nat := (List.range 4).find? fun i => (Tab.get c.slots i {}).st == 0

/-- Whether a fault of a core waits in place for a firing slot: the core takes no other work (R322). -/
def Core.fifthFault (c : Core) : Bool := c.faultDue.isSome && c.freeSlot.isNone

/-- H_FIRING_START (R165 step 1, R167). -/
def State.startH (s : State) (k : Nat) : Option State :=
  let c := s.coreAt k
  match c.hq with
  | m :: _ =>
    if c.h.fir.active || c.pageWait.isSome || c.fifthFault || s.lStopped k || c.step != 0 || !s.egressFits k true (entProd m.entry.toNat) then none
    else some ((s.modCore k fun c => { c.consume [m] with l := { c.l with wfm := true } }).startHandler k true [m])
  | [] => none

/-- The state with a launch firing started (R165 step 4, R166, R302). -/
def State.startLaunch (s : State) (k g : Nat) : State :=
  let gr := s.groupAt g
  let l := s.launchAt gr.launch
  let e := gr.entry.toNat
  let (t, s) := s.moment
  let f : Firing := {
    active := true, fid := t, kind := 0, prod := entProd e, resv := entProd e, gid := g, job := gr.job, part := gr.part,
    startOrd := t, nmsg := b2n l.inv.isSome }
  let args : Tab Word := match l.inv with
    | some ws => (List.range 7).map fun i => (9 + i, ws.getD i 0)
    | none => []
  let s := s.modCore k fun c => { c with launchDue := none }.start false f (entPc e) args (l.inv.getD [])
  if l.inv.isSome then s.acquireAt k else s

/-- The parked firings that are ready and that a core may resume (R322): the core and slot of each and the moment it became ready. -/
def State.readyFirings (s : State) (k : Nat) : List (Nat × Nat × Nat) :=
  match (s.coreAt k).bound with
  | none => []
  | some g => (s.groupAt g).cores.flatMap fun c =>
      (List.filter (fun (e : Nat × Slot) => e.2.st == 3 && e.2.fir.gid == g) (s.coreAt c).slots).map fun e => (c, e.1, e.2.ready)

/-- The parked firing that became ready first. -/
def firstReady : List (Nat × Nat × Nat) → Option (Nat × Nat × Nat)
  | [] => none
  | r :: rs => match firstReady rs with
    | none => some r
    | some q => if q.2.2 < r.2.2 then some q else some r

/-- The parked firing that is due before every L-queue handler of a core (R322): the two are ordered by the moments they became ready. -/
def State.dueFiring (s : State) (k : Nat) : Option (Nat × Nat × Nat) :=
  (firstReady (s.readyFirings k)).filter fun r => match oldest (s.coreAt k).readyHandlers with
    | none => true
    | some h => decide (r.2.2 < h.ord)

/-- Steps 3 and 4 of R165 for messages and launch firings. -/
def State.startL (s : State) (k : Nat) : Option State :=
  let c := s.coreAt k
  if c.l.fir.active || s.lStopped k || c.step != 0 || c.faultDue.isSome || c.pageWait.isSome || (s.dueFiring k).isSome then none
  else match oldest c.readyHandlers with
    | some r =>
      let e := ((r.msgs.head?).map (·.entry.toNat)).getD 0
      if !s.egressFits k false (entProd e) then none
      else some ((s.modCore k fun c => c.consume r.msgs).startHandler k false r.msgs)
    | none => match c.launchDue with
      | none => none
      | some g =>
        if !s.egressFits k false (entProd (s.groupAt g).entry.toNat) then none else some (s.startLaunch k g)

end Sys2Proof.Machine
end

