-- ==== Sys2Proof/Machine/Ops.lean ====
section
/-! DEFINITION. Taking a trap and returning from one, as the shared operations of every instruction (R312 to R322), and how the
effect of an instruction becomes a step. -/

namespace Sys2Proof.Machine

/-- What a save of a firing comes to: done, in a slot; waiting (R46, R125, R315); waiting for a frame page; lost with its group. -/
inductive Saved where
  | ok (i : Nat) (s : State)
  | wait
  | page (c : Cause) (va : Word)
  | dead (c : Cause) (va : Word)

/-- Whether an L context is in the middle of a release's wait (R147): the waiting instruction releases, and writes are still outstanding. -/
def State.releasing (s : State) (k : Nat) : Bool :=
  match (s.coreAt k).l.relWait with
  | some dom => !(s.quiet k && (!dom || s.quietAbroad k || (s.coreAt k).stores.any (·.bad.isSome)))
  | none => false

/-- Whether a firing's L context may be saved now: producers landed or failed, pushes performed, its awaited reply in, its release's wait over, its
chain steps retired (R46, R125, R147, R260). -/
def State.saveReady (s : State) (k : Nat) : Bool :=
  let c := s.coreAt k
  c.l.pend.isEmpty && c.ls.ports.all (fun e => e.2.pushes.isEmpty)
    && (match c.l.aw with
      | .sent _ => false
      | .replied .. => false
      | .compared _ => false
      | _ => true)
    && !s.releasing k
    && (s.clusterAt (k / 8)).eng.all fun e => match e.op with
      | .walk .. => !(e.org.k == k)
      | _ => true

/-- What a waiting INVKW, MXSYNC or MXCMP keeps across a save (R237, R252, R309); every other wait starts again. -/
def Await.kept (a : Await) : Await :=
  match a with
  | .invoked t => .invoked t
  | .synced i => .synced i
  | .compared i => .compared i
  | _ => .none

/-- Whether an instruction has a request out, or its answer in: it issued, and completes before anything else is raised (R313). -/
def Await.busy (a : Await) : Bool :=
  match a with
  | .sent _ => true
  | .replied .. => true
  | .compared _ => true
  | _ => false

/-- Save the L firing of a core into its lowest free slot (R315 to R319, R322): `lit` writes the register section literal; `st` is
what the slot then holds. The firing's completion entries and reservations move with it. -/
def State.saveFiring (s : State) (k cause : Nat) (tv zp : Word) (prec lit : Bool) (st : Nat) : Saved :=
  let c := s.coreAt k
  match c.freeSlot with
  | none => .wait
  | some i =>
    if !s.saveReady k then .wait else
    let f := c.l.fir
    let old := Tab.get c.slots i {}
    let same := old.fir.fid == f.fid
    let mine := c.ca.filter fun x => x.fid == f.fid && x.hdl == 0
    let ws := c.image cause prec tv zp mine
    let tags := saveTags ws lit (if same then old.words else []) c.dirty 32
    match s.saveImage (s.lOrg k) (s.slotVa f.part f.job k i) ws tags 32 8 with
    | .error (e, va) => if e == .loadPageFault || e == .storePageFault then .page e va else .dead e va
    | .ok s =>
      let sl : Slot := {
        st := st, fir := f, cause := cause, codes := codesAfter tags old.codes, ca := mine,
        batches := c.batches.filter (·.fid == f.fid), npend := c.l.causes.length,
        zcause := c.l.zcause, ztval := c.l.ztval, zpos := c.ls.zpos, aw := c.l.aw.kept }
      .ok i (State.coldL1 (s.modCore k fun c => { c with
        slots := Tab.set c.slots i sl
        ca := c.ca.filter fun x => !(x.fid == f.fid && x.hdl == 0)
        batches := c.batches.filter fun b => !(b.fid == f.fid)
        l := { fir := { gid := f.gid } }
        ls := { c.ls.fresh true with copySeq := c.ls.copySeq } }) k)

/-- The fault handler of a group, when its entry is registered (R314, R320). -/
def State.faultEntry (s : State) (g k : Nat) : Option Nat :=
  let l := s.launchAt (s.groupAt g).launch
  if l.flt < 16 || l.n ≤ l.flt - 16 then none
  else match s.groupEntry g k l.flt with
    | .ok e => if entOk e false then some e else none
    | .error _ => none

/-- The rank of a core in a group. -/
def Group.rankOf (g : Group) (k : Nat) : Nat := (g.cores.findIdx? (· == k)).getD 0

/-- The state with a fault handler firing started for a saved firing (R320). -/
def State.startFaultHandler (s : State) (k i e cause : Nat) (tv zp : Word) (f : Firing) : State :=
  let (t, s) := s.moment
  let img := s.slotVa f.part f.job k i
  let g : Firing := {
    active := true, fid := t, kind := 2, hidx := (s.launchAt (s.groupAt f.gid).launch).flt, prod := entProd e, resv := entProd e,
    gid := f.gid, job := f.job, part := f.part, slot := i, rank := (s.groupAt f.gid).rankOf k, startOrd := t }
  s.modCore k fun c =>
    let c := c.start false g (entPc e) [(10, img), (11, BitVec.ofNat 64 cause), (12, tv)] []
    { c with l := { c.l with zcause := BitVec.ofNat 8 cause, ztval := tv }, ls := { c.ls with zpos := zp }, step := 2 * c.step }

/-- The page a page fault waits for. -/
def pageOfVa (va : Word) : Word := BitVec.ofNat 64 (addrOf va / 4096 * 4096)

/-- The state of a core that waits for a page in place, with its notice (R314, R315, R347); while the queue is full the fault waits in the die's
walker (R339). -/
def State.waitPage (s : State) (o : Origin) (c : Cause) (va : Word) : State :=
  match s.faultNotice o c va with
  | none => (s.holdWalk o va).getD s
  | some s => s.modCore o.k fun x => { x with pageWait := some (pageOfVa va) }

/-- The zpos of a cause: its stream part, and the repeat part when it was raised inside a body (R75, R130). -/
def zposOf (zp : Word) (r : Option Rep) : Word :=
  match r with
  | none => zp
  | some r => BitVec.ofNat 64 (zp.toNat + r.iter % 65536 * 2 ^ 16 + r.pos % 32 * 2 ^ 11 + 1024)

/-- FAULT_DELIVERY and PARK (R319, R320, R322): the cause that a core's L firing has raised is delivered, if it can be now. -/
def State.tryFault (s : State) (k : Nat) : Option State :=
  let c := s.coreAt k
  match c.faultDue with
  | none => none
  | some (cs, tv, zp, prec) =>
    let f := c.l.fir
    if c.h.fir.active || c.pageWait.isSome || (cs.disposition == .debug && (s.groupAt f.gid).halted) then none else
    let o := s.lOrg k
    match cs.disposition with
    | .park =>
      if !(s.partAt f.part).ntqRoom then none else
      (match s.saveFiring k cs.code tv zp prec false 2 with
      | .wait => none
      | .page e va => some (s.waitPage o e va)
      | .dead e va => some (s.killGroup f.gid e va)
      | .ok i s =>
        let s := (s.faultNotice o cs tv).getD s
        some (s.modCore k fun c => { c with
          faultDue := none
          slots := Tab.set c.slots i { Tab.get c.slots i {} with page := pageOfVa tv } }))
    | _ =>
      match s.faultEntry f.gid k with
      | none => some ((s.modCore k fun c => { c with faultDue := none }).killGroup f.gid cs tv)
      | some e =>
        if !s.egressFits k false (entProd e) then none else
        match s.saveFiring k cs.code tv zp prec true 1 with
        | .wait => none
        | .page e va => some (s.waitPage o e va)
        | .dead e va => some (s.killGroup f.gid e va)
        | .ok i s =>
          some ((s.modCore k fun c => { c with faultDue := none }).startFaultHandler k i e cs.code tv zp f)

/-- The state with a group halting for its debugger (R372): the first D cause of the halt and its rank are recorded; a step is over (R373). -/
def State.haltGroup (s : State) (pg gid code rank : Nat) : State :=
  let p := Tab.get s.dpages pg {}
  let p' := if p.st = 2 then p else { p with st := 2, cause := code, crank := rank }
  let s := { s with dpages := Tab.set s.dpages pg { p' with haltReq := false, stepping := false } }.modGroup gid fun g => { g with halted := true }
  ((s.groupAt gid).cores.foldl (fun s k => s.modCore k fun c => { c with step := 0 }) s).post (.halt pg)

/-- The state with the group of a firing halting for a D cause of its own: the firing stops at it (R372). -/
def State.beginHalt (s : State) (k : Nat) (pg : Nat) (cs : Cause) (tv zp : Word) (prec : Bool) : State :=
  let g := (s.coreAt k).l.fir.gid
  (s.haltGroup pg g cs.code ((s.groupAt g).rankOf k)).modCore k fun c => { c with faultDue := some (cs, tv, zp, prec) }

/-- The state after the stepped instruction or instance of a core, or after the fault handler that it started (R373): its firing halts before the
next instruction; a firing that has ended leaves the halt to the rest of its group. -/
def State.stepHalt (s : State) (k : Nat) : State :=
  let c := s.coreAt k
  match s.pageOf (c.bound.getD 0) with
  | none => s.modCore k fun c => { c with step := 0 }
  | some (pg, p) =>
    if c.l.fir.active then s.beginHalt k pg .debugStep c.l.pc (zposOf 0 (if c.ls.rep.count = 0 then none else some c.ls.rep)) true
    else (s.modCore k fun c => { c with step := 0 }).haltGroup pg p.gid Cause.debugStep.code p.srank

/-- Whether an enabled breakpoint of a group's page matches an instruction address (R370). -/
def State.breakHit (s : State) (gid : Nat) (pc : Word) : Bool :=
  match s.pageOf gid with
  | none => false
  | some (_, p) => p.bps.any fun e =>
    let w := e.2.toNat
    bitAt w 63 && bits w 48 15 == 0 && bits w 0 2 == 0 && bits w 2 46 == bits pc.toNat 2 46

/-- Whether a breakpoint stops the L firing of a core at an address: not in a fault handler firing, nor in a step (R370, R373). -/
def State.breaks (s : State) (k : Nat) (pc : Word) : Bool :=
  let c := s.coreAt k
  c.l.fir.kind != 2 && c.step != 1 && s.breakHit c.l.fir.gid pc

/-- A cause raised in a core's L firing (R312, R314). -/
def State.raiseL (s : State) (k : Nat) (cs : Cause) (tv zp : Word) (prec : Bool) : State :=
  let f := (s.coreAt k).l.fir
  let nested := f.sup || f.kind = 2
  let due := fun (s : State) =>
    let s := s.modCore k fun c => { c with faultDue := some (cs, tv, zp, prec), l := { c.l with waitAt := some s.time.toNat } }
    (s.tryFault k).getD s
  match cs.disposition with
  | .park => due (if (s.partAt f.part).ntqRoom then s else (s.holdWalk (s.lOrg k) tv).getD s)
  | .kill => s.killGroup f.gid cs tv
  | .handler => if nested then s.killGroup f.gid .supervisorFaultNested (BitVec.ofNat 64 cs.code) else due s
  | .debug =>
    if nested then s.killGroup f.gid .supervisorFaultNested (BitVec.ofNat 64 cs.code)
    else match s.pageOf f.gid with
      | some (pg, _) => s.beginHalt k pg cs tv zp prec
      | none => due s
  | _ => s

/-- A cause raised in a core's H firing (R314): it waits for a page in place; any other cause kills the group. -/
def State.raiseH (s : State) (k : Nat) (cs : Cause) (tv : Word) : State :=
  let f := (s.coreAt k).h.fir
  let o : Origin := { k := k, h := true, fid := f.fid, gid := f.gid, part := f.part, job := f.job, sup := f.sup }
  match cs.disposition with
  | .park => s.waitPage o cs tv
  | .kill => s.killGroup f.gid cs tv
  | _ => if f.sup then s.killGroup f.gid .supervisorFaultNested (BitVec.ofNat 64 cs.code) else s.killGroup f.gid cs tv

/-- The state with the failed remote writes that a release has reported forgotten (R299). -/
def State.forgetBad (s : State) (k : Nat) (tv : Word) : State :=
  s.modCore k fun c => { c with stores := c.stores.filter fun x => !(x.bad.isSome && x.va == tv) }

/-- Taking a trap: the cause an instruction of the moving core raises (R312 to R314). The PC stays that of the instruction, which has no
request under way. -/
def State.takeTrap (s : State) (cs : Cause) (tv zp : Word) : State :=
  let s := s.modCtx fun x => { x with aw := x.aw.kept, waitAt := none, relWait := none, passed := 0 }
  let s := if cs == .fabricUnreachable || cs == .remoteDenied then s.forgetBad s.cur tv else s
  if s.me.inH then s.raiseH s.cur cs tv else s.raiseL s.cur cs tv zp true

/-- IMPRECISE_CAUSE_RAISE (R313): the oldest pending cause of a context is raised at an instruction boundary. -/
def State.raisePending (s : State) (k : Nat) (h : Bool) : Option State :=
  let c := s.coreAt k
  match (c.ctxAt h).causes with
  | [] => none
  | (cs, tv) :: rest =>
    if !(c.ctxAt h).fir.active || (c.ctxAt h).aw.busy || c.faultDue.isSome || c.pageWait.isSome || (!h && c.h.fir.active) then none
    else
      let s := (s.modCtxAt k h fun x => { x with causes := rest }).modCore k fun c => if h then c else c.touch [7]
      some (if h then s.raiseH k cs tv else s.raiseL k cs tv 0 false)

/-- What a restore comes to. -/
inductive Restored where
  | ok (s : State)
  | page (c : Cause) (va : Word)
  | dead (c : Cause) (va : Word)

/-- Restore the image of a slot of core `src` into core `k` (R316, R318, R321, R322): only the tags and the bytes that they name are read; the
slot is freed, the L1 invalidated. -/
def State.restoreFiring (s : State) (k src i : Nat) (check : Bool) : Restored :=
  let sl := Tab.get (s.coreAt src).slots i {}
  let f := sl.fir
  let o : Origin := { k := k, fid := f.fid, gid := f.gid, part := f.part, job := f.job, sup := f.sup }
  let va := s.imageVa src i
  let read : Except (Cause × Word) (List Nat × List Word) := do
    let codes ← s.savedCodes o (va + 0x2000) 32 sl.codes
    let ws ← s.blockReads o va codes (List.range 32)
    pure (codes, ws)
  match read with
  | .error (e, va) => if e == .loadPageFault || e == .storePageFault then .page e va else .dead e va
  | .ok (codes, ws) =>
    if check && !imageOk (s.groupAt f.gid) ws then .dead .supervisorFaultNested va
    else
      let s := s.modCore src fun c => { c with slots := Tab.set c.slots i (if sl.va.isSome then {} else { fir := sl.fir, codes := codes, words := ws }) }
      let s := (s.modCore k fun c => c.restore ws sl).coldL1 k
      let s := if sl.batches.isEmpty then s else s.post (.batchDone k)
      .ok ((if (s.coreAt k).ls.rep.count = 0 then s else s.post (.rep k)).wantItems k)

/-- The next core with an active firing after core `k`, or a core with work, in key order (the model's choice of turns). -/
def State.nextCore (s : State) (k : Nat) : Nat :=
  let live := s.cores.filter fun e => e.2.l.fir.active || e.2.h.fir.active || !e.2.hq.isEmpty || !e.2.lq.isEmpty || e.2.launchDue.isSome
    || e.2.faultDue.isSome || e.2.slots.any fun x => x.2.st == 3
  match live.find? (fun e => k < e.1), live with
  | some e, _ => e.1
  | none, e :: _ => e.1
  | none, [] => k

/-- The state in which the moving core's instruction waits, from the tick at which it began to: every other act due comes first, then another
core. -/
def State.waited (s : State) : State := 
  let s := s.modCtx fun x => { x with waitAt := some (x.waitAt.getD s.time.toNat) }
  { s with turns := s.turns ++ [.core (s.nextCore s.cur)] }

/-- The state after an instruction of the moving context completed at `pc` (R73: instret). -/
def State.retire (s : State) (pc : Word) : State :=
  s.modMe fun c => { c.putCtx c.inH { c.ctx with pc := pc, waitAt := none, passed := 0 } with instret := c.instret + 1 }

/-- How an effect ends: completed with a new PC, trapped on the state it began in (R313), or waiting. -/
def finish (r : Except Stop (Word × State)) (s : State) : Out :=
  match r with
  | .ok (pc, s') => .next (s'.retire pc)
  | .error (.trap c tv zp) => .next (s.takeTrap c tv zp)
  | .error (.report c tv s') => .next (s'.takeTrap c tv 0)
  | .error (.hold none) => .next s.waited
  | .error (.hold (some s')) => .next s'.waited
  | .error (.want ask) => .next (ask s).waited
  | .error (.late c tv s') => .next (s'.pendCause s'.org c tv).waited

/-- The state without the watchpoints of its debug pages. -/
def State.unwatched (s : State) : State := { s with dpages := s.dpages.map fun e => (e.1, { e.2 with wps := [] }) }

/-- What an instruction comes to. A watchpoint that matches an access which it forms before a later check of its own counts only if that check holds (R371). -/
def settle {α : Type} (m : M α) (s : State) : Except Stop (α × State) :=
  match m s with
  | .error (.trap .debugWatchpoint tv zp) => match m s.unwatched with
    | .error (.trap c tv zp) => .error (.trap c tv zp)
    | .error (.report c tv t) => .error (.report c tv { t with dpages := s.dpages })
    | .error (.late c tv t) => .error (.late c tv { t with dpages := s.dpages })
    | _ => .error (.trap .debugWatchpoint tv zp)
  | r => r

/-- The step of an instruction that goes on at the next word. -/
def run (m : M Unit) (s : State) : Out :=
  finish (settle (do
    m
    let x ← ctx
    pure (x.pc + 4) : M Word) s) s

/-- The step of an instruction that computes where it goes on. -/
def runTo (m : M Word) (s : State) : Out := finish (settle m s) s

/-- The step of an instruction after which its context does not go on at a PC of its own: END, REARM, TRET. -/
def runEnd (m : M Unit) (s : State) : Out :=
  match settle m s with
  | .ok (_, s') => .next (s'.modMe fun c => { c with instret := c.instret + 1 })
  | .error (.trap c tv zp) => .next (s.takeTrap c tv zp)
  | .error (.report c tv s') => .next (s'.takeTrap c tv 0)
  | .error (.hold none) => .next s.waited
  | .error (.hold (some s')) => .next s'.waited
  | .error (.want ask) => .next (ask s).waited
  | .error (.late c tv s') => .next (s'.pendCause s'.org c tv).waited

/-- The step of an act of another agent: nothing happens when it is not enabled. -/
def act (r : Option State) (s : State) : Out := .next (r.getD s)

end Sys2Proof.Machine
end

