-- ==== Sys2Proof/Machine/Scalar.lean ====
section
/-! DEFINITION. The standard integer, branch, load, store, FENCE and SYSTEM forms but the CSR forms (R55 to R59, R62). -/

namespace Sys2Proof.Machine

/-- A 12-bit immediate, sign-extended. -/
def imm12 (i : BitVec 12) : Word := i.signExtend 64
/-- The byte offset of a branch (R59). -/
def branchOff (i : BitVec 12) : Word := i.signExtend 64 <<< 1
/-- The low 32 bits of a word, sign-extended: the result of a W form (R56). -/
def asW (x : Word) : Word := (x.setWidth 32).signExtend 64

/-- A register-register form (R55, R56). -/
def aluR (f : Word → Word → Word) (rs2 rs1 rd : BitVec 5) : M Unit := do
  regs [(xr rs1, false), (xr rs2, false)] [xr rd]
  let a ← getX rs1
  let b ← getX rs2
  setX rd (f a b)

/-- A register-immediate form. -/
def aluI (f : Word → Word) (rs1 rd : BitVec 5) : M Unit := do
  regs [(xr rs1, false)] [xr rd]
  let a ← getX rs1
  setX rd (f a)

/-- The product of two integers as the machine sees them, its bits 127:64 (R56). -/
def mulHigh (a b : Int) : Word := BitVec.ofInt 64 ((a * b) >>> 64)
/-- Unsigned quotient: all ones for a zero divisor (R56). -/
def divU {w : Nat} (a b : BitVec w) : BitVec w := if b = 0 then BitVec.allOnes w else a / b
/-- Unsigned remainder: the dividend for a zero divisor (R56). -/
def remU {w : Nat} (a b : BitVec w) : BitVec w := if b = 0 then a else a % b
/-- Signed quotient, rounded toward zero; the two corners of R56. -/
def divS {w : Nat} (a b : BitVec w) : BitVec w := if b = 0 then BitVec.allOnes w else BitVec.ofInt w (Int.tdiv a.toInt b.toInt)
/-- Signed remainder with the dividend's sign; the two corners of R56. -/
def remS {w : Nat} (a b : BitVec w) : BitVec w := if b = 0 then a else BitVec.ofInt w (Int.tmod a.toInt b.toInt)
/-- A form on the low 32 bits (R56). -/
def onW (f : BitVec 32 → BitVec 32 → BitVec 32) (a b : Word) : Word := (f (a.setWidth 32) (b.setWidth 32)).signExtend 64
/-- A 32-bit product's low half and the other plain 64-bit forms use these shift amounts (R55). -/
def shAmt (b : Word) : Nat := b.toNat % 64
/-- The shift amount of a W form. -/
def shAmtW (b : BitVec 32) : Nat := b.toNat % 32

/-- Check a jump target and give it back (R59). -/
def target (t : Word) : M Word := do
  trapIf (bitAt t.toNat 1) .misalignedFetch t
  pure t

/-- A branch (R59): a taken branch checks its target. -/
def branch (f : Word → Word → Bool) (off : BitVec 12) (rs2 rs1 : BitVec 5) : M Word := do
  regs [(xr rs1, false), (xr rs2, false)] []
  let a ← getX rs1
  let b ← getX rs2
  let x ← ctx
  if f a b then target (x.pc + branchOff off) else pure (x.pc + 4)

/-- A load of `n` bytes into an x register (R62). -/
def loadX (n : Nat) (cv : Conv) (off : BitVec 12) (rs1 rd : BitVec 5) : M Unit := do
  regs [(xr rs1, false)] [xr rd]
  let a ← getX rs1
  loadRaw (a + imm12 off) n (xr rd) cv

/-- A store of `n` bytes (R62). -/
def storeX (n : Nat) (off : BitVec 12) (rs2 rs1 : BitVec 5) : M Unit := do
  regs [(xr rs1, false), (xr rs2, false)] []
  let a ← getX rs1
  let v ← getX rs2
  storeRaw (a + imm12 off) (leBytes n v.toNat)

/-- Wait until every read issued before has returned its value (R148). -/
def readsBack : M Unit := do
  let c ← me
  holdUnless (!(c.l.pend ++ c.h.pend).any fun q => !q.div)

/-- ORD.FULL in a scope, of the domain or not (R139, R148). -/
def fullFence (dom : Bool) : M Unit := do
  release dom
  readsBack
  acquire

/-- LUI (R55). -/
def execLui (imm : BitVec 20) (rd : BitVec 5) (s : State) : Out :=
  run (do
    regs [] [xr rd]
    setX rd ((imm ++ (0 : BitVec 12)).signExtend 64)) s
/-- AUIPC (R55). -/
def execAuipc (imm : BitVec 20) (rd : BitVec 5) (s : State) : Out :=
  run (do
    regs [] [xr rd]
    let x ← ctx
    setX rd (x.pc + (imm ++ (0 : BitVec 12)).signExtend 64)) s
/-- JAL (R59). -/
def execJal (imm : BitVec 20) (rd : BitVec 5) (s : State) : Out :=
  runTo (do
    regs [] [xr rd]
    let x ← ctx
    let t ← target (x.pc + (imm.signExtend 64 <<< 1))
    setX rd (x.pc + 4)
    pure t) s
/-- JALR (R59): bit 0 and bits 63:56 of the target are cleared. -/
def execJalr (imm : BitVec 12) (rs1 rd : BitVec 5) (s : State) : Out :=
  runTo (do
    regs [(xr rs1, false)] [xr rd]
    let x ← ctx
    let a ← getX rs1
    let t ← target ((a + imm12 imm) &&& 0x00FFFFFFFFFFFFFE)
    setX rd (x.pc + 4)
    pure t) s

/-- BEQ (R59). -/
def execBeq (imm : BitVec 12) (rs2 rs1 : BitVec 5) (s : State) : Out := runTo (branch (fun a b => a == b) imm rs2 rs1) s

/-- BNE (R59). -/
def execBne (imm : BitVec 12) (rs2 rs1 : BitVec 5) (s : State) : Out := runTo (branch (fun a b => a != b) imm rs2 rs1) s

/-- BLT (R59). -/
def execBlt (imm : BitVec 12) (rs2 rs1 : BitVec 5) (s : State) : Out := runTo (branch (fun a b => a.slt b) imm rs2 rs1) s

/-- BGE (R59). -/
def execBge (imm : BitVec 12) (rs2 rs1 : BitVec 5) (s : State) : Out := runTo (branch (fun a b => !(a.slt b)) imm rs2 rs1) s

/-- BLTU (R59). -/
def execBltu (imm : BitVec 12) (rs2 rs1 : BitVec 5) (s : State) : Out := runTo (branch (fun a b => a.ult b) imm rs2 rs1) s

/-- BGEU (R59). -/
def execBgeu (imm : BitVec 12) (rs2 rs1 : BitVec 5) (s : State) : Out := runTo (branch (fun a b => !(a.ult b)) imm rs2 rs1) s

/-- LB (R62). -/
def execLb (imm : BitVec 12) (rs1 rd : BitVec 5) (s : State) : Out := run (loadX 1 (.sext 8) imm rs1 rd) s

/-- LH (R62). -/
def execLh (imm : BitVec 12) (rs1 rd : BitVec 5) (s : State) : Out := run (loadX 2 (.sext 16) imm rs1 rd) s

/-- LW (R62). -/
def execLw (imm : BitVec 12) (rs1 rd : BitVec 5) (s : State) : Out := run (loadX 4 (.sext 32) imm rs1 rd) s

/-- LD (R62). -/
def execLd (imm : BitVec 12) (rs1 rd : BitVec 5) (s : State) : Out := run (loadX 8 (.zext) imm rs1 rd) s

/-- LBU (R62). -/
def execLbu (imm : BitVec 12) (rs1 rd : BitVec 5) (s : State) : Out := run (loadX 1 (.zext) imm rs1 rd) s

/-- LHU (R62). -/
def execLhu (imm : BitVec 12) (rs1 rd : BitVec 5) (s : State) : Out := run (loadX 2 (.zext) imm rs1 rd) s

/-- LWU (R62). -/
def execLwu (imm : BitVec 12) (rs1 rd : BitVec 5) (s : State) : Out := run (loadX 4 (.zext) imm rs1 rd) s

/-- SB (R62). -/
def execSb (imm : BitVec 12) (rs2 rs1 : BitVec 5) (s : State) : Out := run (storeX 1 imm rs2 rs1) s

/-- SH (R62). -/
def execSh (imm : BitVec 12) (rs2 rs1 : BitVec 5) (s : State) : Out := run (storeX 2 imm rs2 rs1) s

/-- SW (R62). -/
def execSw (imm : BitVec 12) (rs2 rs1 : BitVec 5) (s : State) : Out := run (storeX 4 imm rs2 rs1) s

/-- SD (R62). -/
def execSd (imm : BitVec 12) (rs2 rs1 : BitVec 5) (s : State) : Out := run (storeX 8 imm rs2 rs1) s

/-- ADDI (R55, R56). -/
def execAddi (imm : BitVec 12) (rs1 rd : BitVec 5) (s : State) : Out := run (aluI (fun a => a + imm12 imm) rs1 rd) s

/-- SLTI (R55, R56). -/
def execSlti (imm : BitVec 12) (rs1 rd : BitVec 5) (s : State) : Out := run (aluI (fun a => b2w (a.slt (imm12 imm))) rs1 rd) s

/-- SLTIU (R55, R56). -/
def execSltiu (imm : BitVec 12) (rs1 rd : BitVec 5) (s : State) : Out := run (aluI (fun a => b2w (a.ult (imm12 imm))) rs1 rd) s

/-- XORI (R55, R56). -/
def execXori (imm : BitVec 12) (rs1 rd : BitVec 5) (s : State) : Out := run (aluI (fun a => a ^^^ imm12 imm) rs1 rd) s

/-- ORI (R55, R56). -/
def execOri (imm : BitVec 12) (rs1 rd : BitVec 5) (s : State) : Out := run (aluI (fun a => a ||| imm12 imm) rs1 rd) s

/-- ANDI (R55, R56). -/
def execAndi (imm : BitVec 12) (rs1 rd : BitVec 5) (s : State) : Out := run (aluI (fun a => a &&& imm12 imm) rs1 rd) s

/-- ADDIW (R55, R56). -/
def execAddiw (imm : BitVec 12) (rs1 rd : BitVec 5) (s : State) : Out := run (aluI (fun a => asW (a + imm12 imm)) rs1 rd) s

/-- SLLI (R55). -/
def execSlli (sh : BitVec 6) (rs1 rd : BitVec 5) (s : State) : Out := run (aluI (fun a => a <<< sh.toNat) rs1 rd) s

/-- SRLI (R55). -/
def execSrli (sh : BitVec 6) (rs1 rd : BitVec 5) (s : State) : Out := run (aluI (fun a => a >>> sh.toNat) rs1 rd) s

/-- SRAI (R55). -/
def execSrai (sh : BitVec 6) (rs1 rd : BitVec 5) (s : State) : Out := run (aluI (fun a => a.sshiftRight sh.toNat) rs1 rd) s

/-- SLLIW (R55, R56). -/
def execSlliw (sh : BitVec 5) (rs1 rd : BitVec 5) (s : State) : Out := run (aluI (fun a => asW (a <<< sh.toNat)) rs1 rd) s

/-- SRLIW (R55, R56). -/
def execSrliw (sh : BitVec 5) (rs1 rd : BitVec 5) (s : State) : Out := run (aluI (fun a => (a.setWidth 32 >>> sh.toNat).signExtend 64) rs1 rd) s

/-- SRAIW (R55, R56). -/
def execSraiw (sh : BitVec 5) (rs1 rd : BitVec 5) (s : State) : Out := run (aluI (fun a => ((a.setWidth 32).sshiftRight sh.toNat).signExtend 64) rs1 rd) s

/-- ADD (R55, R56). -/
def execAdd (rs2 rs1 rd : BitVec 5) (s : State) : Out := run (aluR (fun a b => a + b) rs2 rs1 rd) s

/-- SLL (R55, R56). -/
def execSll (rs2 rs1 rd : BitVec 5) (s : State) : Out := run (aluR (fun a b => a <<< shAmt b) rs2 rs1 rd) s

/-- SLT (R55, R56). -/
def execSlt (rs2 rs1 rd : BitVec 5) (s : State) : Out := run (aluR (fun a b => b2w (a.slt b)) rs2 rs1 rd) s

/-- SLTU (R55, R56). -/
def execSltu (rs2 rs1 rd : BitVec 5) (s : State) : Out := run (aluR (fun a b => b2w (a.ult b)) rs2 rs1 rd) s

/-- XOR (R55, R56). -/
def execXor (rs2 rs1 rd : BitVec 5) (s : State) : Out := run (aluR (fun a b => a ^^^ b) rs2 rs1 rd) s

/-- SRL (R55, R56). -/
def execSrl (rs2 rs1 rd : BitVec 5) (s : State) : Out := run (aluR (fun a b => a >>> shAmt b) rs2 rs1 rd) s

/-- OR (R55, R56). -/
def execOr (rs2 rs1 rd : BitVec 5) (s : State) : Out := run (aluR (fun a b => a ||| b) rs2 rs1 rd) s

/-- AND (R55, R56). -/
def execAnd (rs2 rs1 rd : BitVec 5) (s : State) : Out := run (aluR (fun a b => a &&& b) rs2 rs1 rd) s

/-- SUB (R55, R56). -/
def execSub (rs2 rs1 rd : BitVec 5) (s : State) : Out := run (aluR (fun a b => a - b) rs2 rs1 rd) s

/-- SRA (R55, R56). -/
def execSra (rs2 rs1 rd : BitVec 5) (s : State) : Out := run (aluR (fun a b => a.sshiftRight (shAmt b)) rs2 rs1 rd) s

/-- MUL (R55, R56). -/
def execMul (rs2 rs1 rd : BitVec 5) (s : State) : Out := run (aluR (fun a b => a * b) rs2 rs1 rd) s

/-- MULH (R55, R56). -/
def execMulh (rs2 rs1 rd : BitVec 5) (s : State) : Out := run (aluR (fun a b => mulHigh a.toInt b.toInt) rs2 rs1 rd) s

/-- MULHSU (R55, R56). -/
def execMulhsu (rs2 rs1 rd : BitVec 5) (s : State) : Out := run (aluR (fun a b => mulHigh a.toInt b.toNat) rs2 rs1 rd) s

/-- MULHU (R55, R56). -/
def execMulhu (rs2 rs1 rd : BitVec 5) (s : State) : Out := run (aluR (fun a b => mulHigh a.toNat b.toNat) rs2 rs1 rd) s

/-- DIV (R55, R56). -/
def execDiv (rs2 rs1 rd : BitVec 5) (s : State) : Out := run (aluR (divS) rs2 rs1 rd) s

/-- DIVU (R55, R56). -/
def execDivu (rs2 rs1 rd : BitVec 5) (s : State) : Out := run (aluR (divU) rs2 rs1 rd) s

/-- REM (R55, R56). -/
def execRem (rs2 rs1 rd : BitVec 5) (s : State) : Out := run (aluR (remS) rs2 rs1 rd) s

/-- REMU (R55, R56). -/
def execRemu (rs2 rs1 rd : BitVec 5) (s : State) : Out := run (aluR (remU) rs2 rs1 rd) s

/-- ADDW (R55, R56). -/
def execAddw (rs2 rs1 rd : BitVec 5) (s : State) : Out := run (aluR (onW fun a b => a + b) rs2 rs1 rd) s

/-- SLLW (R55, R56). -/
def execSllw (rs2 rs1 rd : BitVec 5) (s : State) : Out := run (aluR (onW fun a b => a <<< shAmtW b) rs2 rs1 rd) s

/-- SRLW (R55, R56). -/
def execSrlw (rs2 rs1 rd : BitVec 5) (s : State) : Out := run (aluR (onW fun a b => a >>> shAmtW b) rs2 rs1 rd) s

/-- SUBW (R55, R56). -/
def execSubw (rs2 rs1 rd : BitVec 5) (s : State) : Out := run (aluR (onW fun a b => a - b) rs2 rs1 rd) s

/-- SRAW (R55, R56). -/
def execSraw (rs2 rs1 rd : BitVec 5) (s : State) : Out := run (aluR (onW fun a b => a.sshiftRight (shAmtW b)) rs2 rs1 rd) s

/-- MULW (R55, R56). -/
def execMulw (rs2 rs1 rd : BitVec 5) (s : State) : Out := run (aluR (onW fun a b => a * b) rs2 rs1 rd) s

/-- DIVW (R55, R56). -/
def execDivw (rs2 rs1 rd : BitVec 5) (s : State) : Out := run (aluR (onW divS) rs2 rs1 rd) s

/-- DIVUW (R55, R56). -/
def execDivuw (rs2 rs1 rd : BitVec 5) (s : State) : Out := run (aluR (onW divU) rs2 rs1 rd) s

/-- REMW (R55, R56). -/
def execRemw (rs2 rs1 rd : BitVec 5) (s : State) : Out := run (aluR (onW remS) rs2 rs1 rd) s

/-- REMUW (R55, R56). -/
def execRemuw (rs2 rs1 rd : BitVec 5) (s : State) : Out := run (aluR (onW remU) rs2 rs1 rd) s

/-- FENCE: ORD.FULL of domain scope, whatever its fields hold (R57). -/
def execFence (_imm : BitVec 12) (_rs1 _rd : BitVec 5) (s : State) : Out :=
  run (do
    noRepeat
    fullFence true) s
/-- ECALL (R58). -/
def execEcall (s : State) : Out :=
  run (do
    noRepeat
    let x ← ctx
    trap (if x.fir.sup then .ecallSupervisor else .ecallUser) 0) s
/-- EBREAK (R58). -/
def execEbreak (s : State) : Out :=
  run (do
    noRepeat
    trap .ebreak 0) s

end Sys2Proof.Machine
end

