-- ==== Sys2Proof/Machine/FScalar.lean ====
section
/-! DEFINITION. The single-precision forms and the format-decoding loads and stores (R64, R65). Each effect stands on its own, for
a repeat body issues it too (R127, R128). -/

namespace Sys2Proof.Machine

/-- The 32 bits an F form reads of an f register (R64). -/
def f32 (x : Word) : Nat := x.toNat % 2 ^ 32

/-- A two-operand F form with a rounding mode (R64). DESIGN CHOICE (notes/assumptions/35.md): the mode is checked before the registers, so that an frm
that names none raises RESERVED_ROUNDING ahead of HIGH_CONTEXT_ILLEGAL and of the waits for empty registers. -/
def fBin (f : Rnd → Nat → Nat → Nat × Flg) (rs2 rs1 : BitVec 5) (rm : BitVec 3) (rd : BitVec 5) (w : BitVec 32) : M Unit := do
  let md ← roundingOf rm w
  fLow [rs1, rs2, rd] w
  regs [(fr rs1, false), (fr rs2, false)] [fr rd]
  let a ← getF rs1
  let b ← getF rs2
  let v ← withFlags (f md (f32 a) (f32 b))
  setF32 rd v

/-- A fused F form: the product and the addend each negated or not, rounded once (R64). -/
def fFused (np nc : Bool) (rs3 rs2 rs1 : BitVec 5) (rm : BitVec 3) (rd : BitVec 5) (w : BitVec 32) : M Unit := do
  let md ← roundingOf rm w
  fLow [rs1, rs2, rs3, rd] w
  regs [(fr rs1, false), (fr rs2, false), (fr rs3, false)] [fr rd]
  let a ← getF rs1
  let b ← getF rs2
  let c ← getF rs3
  let v ← withFlags (fp32.ffma md np (f32 a) (f32 b) nc (f32 c))
  setF32 rd v

/-- A two-operand F form without rounding, into an f register. -/
def fPair (f : Nat → Nat → Nat × Flg) (rs2 rs1 rd : BitVec 5) (w : BitVec 32) : M Unit := do
  fLow [rs1, rs2, rd] w
  regs [(fr rs1, false), (fr rs2, false)] [fr rd]
  let a ← getF rs1
  let b ← getF rs2
  let v ← withFlags (f (f32 a) (f32 b))
  setF32 rd v

/-- A comparison into an x register. -/
def fCmp (f : Nat → Nat → Bool × Flg) (rs2 rs1 rd : BitVec 5) (w : BitVec 32) : M Unit := do
  fLow [rs1, rs2] w
  regs [(fr rs1, false), (fr rs2, false)] [xr rd]
  let a ← getF rs1
  let b ← getF rs2
  let v ← withFlags (f (f32 a) (f32 b))
  setX rd (b2w v)

/-- Sign injection (R55): the magnitude of the first operand under a sign bit. -/
def withSignBit (x : Nat) (neg : Bool) : Nat := x % 2 ^ 31 + b2n neg * 2 ^ 31

/-- FCVT to an integer of `w` bits, signed or not (R64): out of range and NaN saturate and set NV alone; NaN gives the largest. -/
def fcvtToInt (w : Nat) (sgn : Bool) (md : Rnd) (x : Nat) : Int × Flg :=
  let lo : Int := if sgn then -(2 ^ (w - 1) : Nat) else 0
  let hi : Int := if sgn then ((2 ^ (w - 1) : Nat) : Int) - 1 else ((2 ^ w : Nat) : Int) - 1
  match fp32.decode x with
  | .nan _ => (hi, { nv := true })
  | .inf neg => (if neg then lo else hi, { nv := true })
  | .fin neg m e =>
    let (z, i) := roundInt md neg ⟨m, e, false⟩
    if z < lo then (lo, { nv := true }) else if hi < z then (hi, { nv := true }) else (z, { nx := i })

/-- FCVT from FP32 to an integer: a 32-bit result is sign-extended, unsigned or not (R64; notes/assumptions/15.md). -/
def fToInt (w : Nat) (sgn : Bool) (rs1 : BitVec 5) (rm : BitVec 3) (rd : BitVec 5) (wd : BitVec 32) : M Unit := do
  let md ← roundingOf rm wd
  fLow [rs1] wd
  regs [(fr rs1, false)] [xr rd]
  let a ← getF rs1
  let z ← withFlags (fcvtToInt w sgn md (f32 a))
  setX rd (if w = 32 then asW (BitVec.ofInt 64 z) else BitVec.ofInt 64 z)

/-- FCVT from an integer to FP32 (R64). -/
def fFromInt (val : Word → Int) (rs1 : BitVec 5) (rm : BitVec 3) (rd : BitVec 5) (w : BitVec 32) : M Unit := do
  let md ← roundingOf rm w
  fLow [rd] w
  regs [(xr rs1, false)] [fr rd]
  let a ← getX rs1
  let v ← withFlags (fp32.ofVal md (.ofInt (val a)))
  setF32 rd v

/-- FDIV.S and FSQRT.S: the destination is empty until the result lands, with its flags (R64, R44). -/
def fSlow (rd : BitVec 5) (r : Nat × Flg) : M Unit := setLater (fr rd) r.1 r.2.toNat { div := true }

/-- FDIV.S (R64). -/
def fdivM (rs2 rs1 : BitVec 5) (rm : BitVec 3) (rd : BitVec 5) : M Unit := do
  let w := encode (.fdivS rs2 rs1 rm rd)
  let md ← roundingOf rm w
  fLow [rs1, rs2, rd] w
  regs [(fr rs1, false), (fr rs2, false)] [fr rd]
  let a ← getF rs1
  let b ← getF rs2
  fSlow rd (fp32.fdiv md (f32 a) (f32 b))

/-- FSQRT.S (R64). -/
def fsqrtM (rs1 : BitVec 5) (rm : BitVec 3) (rd : BitVec 5) : M Unit := do
  let w := encode (.fsqrtS rs1 rm rd)
  let md ← roundingOf rm w
  fLow [rs1, rd] w
  regs [(fr rs1, false)] [fr rd]
  let a ← getF rs1
  fSlow rd (fp32.fsqrt md (f32 a))

/-- The checks of R61 and R65 on the pointer of FLW or FSW: the tag's element, not a block format, block log zero, alignment. -/
def State.reachF (s : State) (o : Origin) (p : Word) (k : AKind) : Except Cause (Reach × State) :=
  let tag := tagOf p
  let n := if tag = 0 then 4 else elemSize tag
  if !tagOk p || 9 ≤ tag then .error .formatReserved
  else if !blogOk tag (blogOf p) then .error .blockMismatch
  else if !canonical p then .error .noncanonical
  else if addrOf p % n != 0 then .error k.misaligned
  else s.place o p n k

/-- Bytes of the element FLW and FSW move (R65). -/
def fBytes (p : Word) : Nat := if tagOf p = 0 then 4 else elemSize (tagOf p)

/-- FLW (R65): the element read converts exactly, or by RNE, into FP32. -/
def flwM (imm : BitVec 12) (rs1 rd : BitVec 5) : M Unit := do
  fLow [rd] (encode (.flw imm rs1 rd))
  regs [(xr rs1, false)] [fr rd]
  let a ← getX rs1
  let p := a + imm12 imm
  let r ← orTrapS p fun s => s.reachF s.org p .load
  watch p (fBytes p) true false []
  let f ← readAt p r (fBytes p)
  deliver p (fBytes p) (fr rd) (.toF32 (tagOf p)) r f

/-- FSW (R65): FP32 converts by RNE into the element. -/
def fswM (imm : BitVec 12) (rs2 rs1 : BitVec 5) : M Unit := do
  fLow [rs2] (encode (.fsw imm rs2 rs1))
  regs [(xr rs1, false), (fr rs2, false)] []
  let a ← getX rs1
  let v ← getF rs2
  let p := a + imm12 imm
  let r ← orTrapS p fun s => s.reachF s.org p .store
  let tag := tagOf p
  let (x, fl) := if tag ≤ 1 then (f32 v, ({} : Flg)) else elemConv tag 1 .rne (f32 v)
  let bs := leBytes (fBytes p) x
  watch p (fBytes p) false true bs
  raiseFlags fl.toNat
  writeTo p r bs

/-- FLW (R65). -/
def execFlw (imm : BitVec 12) (rs1 rd : BitVec 5) (s : State) : Out := run (do noRepeat; flwM imm rs1 rd) s
/-- FSW (R65). -/
def execFsw (imm : BitVec 12) (rs2 rs1 : BitVec 5) (s : State) : Out := run (do noRepeat; fswM imm rs2 rs1) s

/-- FMADD.S (R64). -/
def fmaddM (rs3 rs2 rs1 : BitVec 5) (rm : BitVec 3) (rd : BitVec 5) : M Unit :=
  fFused false false rs3 rs2 rs1 rm rd (encode (.fmaddS rs3 rs2 rs1 rm rd))
/-- FMADD.S. -/
def execFmaddS (rs3 rs2 rs1 : BitVec 5) (rm : BitVec 3) (rd : BitVec 5) (s : State) : Out := run (do noRepeat; fmaddM rs3 rs2 rs1 rm rd) s

/-- FMSUB.S (R64). -/
def fmsubM (rs3 rs2 rs1 : BitVec 5) (rm : BitVec 3) (rd : BitVec 5) : M Unit :=
  fFused false true rs3 rs2 rs1 rm rd (encode (.fmsubS rs3 rs2 rs1 rm rd))
/-- FMSUB.S. -/
def execFmsubS (rs3 rs2 rs1 : BitVec 5) (rm : BitVec 3) (rd : BitVec 5) (s : State) : Out := run (do noRepeat; fmsubM rs3 rs2 rs1 rm rd) s

/-- FNMSUB.S (R64). -/
def fnmsubM (rs3 rs2 rs1 : BitVec 5) (rm : BitVec 3) (rd : BitVec 5) : M Unit :=
  fFused true false rs3 rs2 rs1 rm rd (encode (.fnmsubS rs3 rs2 rs1 rm rd))
/-- FNMSUB.S. -/
def execFnmsubS (rs3 rs2 rs1 : BitVec 5) (rm : BitVec 3) (rd : BitVec 5) (s : State) : Out := run (do noRepeat; fnmsubM rs3 rs2 rs1 rm rd) s

/-- FNMADD.S (R64). -/
def fnmaddM (rs3 rs2 rs1 : BitVec 5) (rm : BitVec 3) (rd : BitVec 5) : M Unit :=
  fFused true true rs3 rs2 rs1 rm rd (encode (.fnmaddS rs3 rs2 rs1 rm rd))
/-- FNMADD.S. -/
def execFnmaddS (rs3 rs2 rs1 : BitVec 5) (rm : BitVec 3) (rd : BitVec 5) (s : State) : Out := run (do noRepeat; fnmaddM rs3 rs2 rs1 rm rd) s

/-- FADD.S (R64). -/
def faddM (rs2 rs1 : BitVec 5) (rm : BitVec 3) (rd : BitVec 5) : M Unit := fBin fp32.fadd rs2 rs1 rm rd (encode (.faddS rs2 rs1 rm rd))
/-- FADD.S. -/
def execFaddS (rs2 rs1 : BitVec 5) (rm : BitVec 3) (rd : BitVec 5) (s : State) : Out := run (do noRepeat; faddM rs2 rs1 rm rd) s

/-- FSUB.S (R64). -/
def fsubM (rs2 rs1 : BitVec 5) (rm : BitVec 3) (rd : BitVec 5) : M Unit := fBin fp32.fsub rs2 rs1 rm rd (encode (.fsubS rs2 rs1 rm rd))
/-- FSUB.S. -/
def execFsubS (rs2 rs1 : BitVec 5) (rm : BitVec 3) (rd : BitVec 5) (s : State) : Out := run (do noRepeat; fsubM rs2 rs1 rm rd) s

/-- FMUL.S (R64). -/
def fmulM (rs2 rs1 : BitVec 5) (rm : BitVec 3) (rd : BitVec 5) : M Unit := fBin fp32.fmul rs2 rs1 rm rd (encode (.fmulS rs2 rs1 rm rd))
/-- FMUL.S. -/
def execFmulS (rs2 rs1 : BitVec 5) (rm : BitVec 3) (rd : BitVec 5) (s : State) : Out := run (do noRepeat; fmulM rs2 rs1 rm rd) s

/-- FDIV.S. -/
def execFdivS (rs2 rs1 : BitVec 5) (rm : BitVec 3) (rd : BitVec 5) (s : State) : Out := run (do noRepeat; fdivM rs2 rs1 rm rd) s
/-- FSQRT.S. -/
def execFsqrtS (rs1 : BitVec 5) (rm : BitVec 3) (rd : BitVec 5) (s : State) : Out := run (do noRepeat; fsqrtM rs1 rm rd) s

/-- FSGNJ.S (R55, R64). -/
def fsgnjM (rs2 rs1 rd : BitVec 5) : M Unit := fPair (fun a b => (withSignBit a (bitAt b 31), {})) rs2 rs1 rd (encode (.fsgnjS rs2 rs1 rd))
/-- FSGNJ.S. -/
def execFsgnjS (rs2 rs1 rd : BitVec 5) (s : State) : Out := run (do noRepeat; fsgnjM rs2 rs1 rd) s

/-- FSGNJN.S (R55, R64). -/
def fsgnjnM (rs2 rs1 rd : BitVec 5) : M Unit := fPair (fun a b => (withSignBit a (!bitAt b 31), {})) rs2 rs1 rd (encode (.fsgnjnS rs2 rs1 rd))
/-- FSGNJN.S. -/
def execFsgnjnS (rs2 rs1 rd : BitVec 5) (s : State) : Out := run (do noRepeat; fsgnjnM rs2 rs1 rd) s

/-- FSGNJX.S (R55, R64). -/
def fsgnjxM (rs2 rs1 rd : BitVec 5) : M Unit := fPair (fun a b => (withSignBit a (bitAt a 31 != bitAt b 31), {})) rs2 rs1 rd (encode (.fsgnjxS rs2 rs1 rd))
/-- FSGNJX.S. -/
def execFsgnjxS (rs2 rs1 rd : BitVec 5) (s : State) : Out := run (do noRepeat; fsgnjxM rs2 rs1 rd) s

/-- FMIN.S (R55, R64). -/
def fminM (rs2 rs1 rd : BitVec 5) : M Unit := fPair (fp32.fminmax false) rs2 rs1 rd (encode (.fminS rs2 rs1 rd))
/-- FMIN.S. -/
def execFminS (rs2 rs1 rd : BitVec 5) (s : State) : Out := run (do noRepeat; fminM rs2 rs1 rd) s

/-- FMAX.S (R55, R64). -/
def fmaxM (rs2 rs1 rd : BitVec 5) : M Unit := fPair (fp32.fminmax true) rs2 rs1 rd (encode (.fmaxS rs2 rs1 rd))
/-- FMAX.S. -/
def execFmaxS (rs2 rs1 rd : BitVec 5) (s : State) : Out := run (do noRepeat; fmaxM rs2 rs1 rd) s

/-- FLE.S (R64). -/
def execFleS (rs2 rs1 rd : BitVec 5) (s : State) : Out := run (do noRepeat; fCmp fp32.fle rs2 rs1 rd (encode (.fleS rs2 rs1 rd))) s

/-- FLT.S (R64). -/
def execFltS (rs2 rs1 rd : BitVec 5) (s : State) : Out := run (do noRepeat; fCmp fp32.flt rs2 rs1 rd (encode (.fltS rs2 rs1 rd))) s

/-- FEQ.S (R64). -/
def execFeqS (rs2 rs1 rd : BitVec 5) (s : State) : Out := run (do noRepeat; fCmp fp32.feq rs2 rs1 rd (encode (.feqS rs2 rs1 rd))) s

/-- FCVT.W.S (R64). -/
def execFcvtWS (rs1 : BitVec 5) (rm : BitVec 3) (rd : BitVec 5) (s : State) : Out :=
  run (do noRepeat; fToInt 32 true rs1 rm rd (encode (.fcvtWS rs1 rm rd))) s

/-- FCVT.WU.S (R64). -/
def execFcvtWuS (rs1 : BitVec 5) (rm : BitVec 3) (rd : BitVec 5) (s : State) : Out :=
  run (do noRepeat; fToInt 32 false rs1 rm rd (encode (.fcvtWuS rs1 rm rd))) s

/-- FCVT.L.S (R64). -/
def execFcvtLS (rs1 : BitVec 5) (rm : BitVec 3) (rd : BitVec 5) (s : State) : Out :=
  run (do noRepeat; fToInt 64 true rs1 rm rd (encode (.fcvtLS rs1 rm rd))) s

/-- FCVT.LU.S (R64). -/
def execFcvtLuS (rs1 : BitVec 5) (rm : BitVec 3) (rd : BitVec 5) (s : State) : Out :=
  run (do noRepeat; fToInt 64 false rs1 rm rd (encode (.fcvtLuS rs1 rm rd))) s

/-- FCVT.S.W (R64). -/
def execFcvtSW (rs1 : BitVec 5) (rm : BitVec 3) (rd : BitVec 5) (s : State) : Out :=
  run (do noRepeat; fFromInt (fun a => (a.setWidth 32).toInt) rs1 rm rd (encode (.fcvtSW rs1 rm rd))) s

/-- FCVT.S.WU (R64). -/
def execFcvtSWu (rs1 : BitVec 5) (rm : BitVec 3) (rd : BitVec 5) (s : State) : Out :=
  run (do noRepeat; fFromInt (fun a => (a.setWidth 32).toNat) rs1 rm rd (encode (.fcvtSWu rs1 rm rd))) s

/-- FCVT.S.L (R64). -/
def execFcvtSL (rs1 : BitVec 5) (rm : BitVec 3) (rd : BitVec 5) (s : State) : Out :=
  run (do noRepeat; fFromInt (fun a => a.toInt) rs1 rm rd (encode (.fcvtSL rs1 rm rd))) s

/-- FCVT.S.LU (R64). -/
def execFcvtSLu (rs1 : BitVec 5) (rm : BitVec 3) (rd : BitVec 5) (s : State) : Out :=
  run (do noRepeat; fFromInt (fun a => a.toNat) rs1 rm rd (encode (.fcvtSLu rs1 rm rd))) s

/-- FMV.X.W: bits 31:0, sign-extended (R64). -/
def execFmvXW (rs1 rd : BitVec 5) (s : State) : Out :=
  run (do
    noRepeat
    fLow [rs1] (encode (.fmvXW rs1 rd))
    regs [(fr rs1, false)] [xr rd]
    let a ← getF rs1
    setX rd (asW a)) s
/-- FCLASS.S: one bit of ten (R55, R64). -/
def execFclassS (rs1 rd : BitVec 5) (s : State) : Out :=
  run (do
    noRepeat
    fLow [rs1] (encode (.fclassS rs1 rd))
    regs [(fr rs1, false)] [xr rd]
    let a ← getF rs1
    setX rd (BitVec.ofNat 64 (2 ^ fp32.classCode (f32 a)))) s
/-- FMV.W.X: the low word (R64). -/
def execFmvWX (rs1 rd : BitVec 5) (s : State) : Out :=
  run (do
    noRepeat
    fLow [rd] (encode (.fmvWX rs1 rd))
    regs [(xr rs1, false)] [fr rd]
    let a ← getX rs1
    setF32 rd a.toNat) s

end Sys2Proof.Machine
end

