-- ==== Sys2Proof/Machine/Csr.lean ====
section
/-! DEFINITION. Pointers and constants (R71, R72), control and status registers (R50, R73 to R76, R340), apertures (R345, R346),
time (R360 to R362). -/

namespace Sys2Proof.Machine

/-- PADD and PADDI (R72). -/
def paddM (a d : BitVec 5) (ea : Bool) (k : Option (BitVec 5)) (n : Int) : M Unit := do
  regs ((xr a, ea) :: (match k with
    | some k => [(xr k, false)]
    | none => [])) [xr d]
  let p ← getX a
  match k with
  | some k => do
    let o ← getX k
    setX d (ptrAdd p o.toInt)
  | none => setX d (ptrAdd p n)

/-- PADD (R72). -/
def execPadd (k8 : BitVec 8) (eb1 : BitVec 1) (a d : BitVec 5) (s : State) : Out :=
  run (paddM a d (ebOn eb1) (some (k8.setWidth 5)) 0) s
/-- PADDI (R72). -/
def execPaddi (k8 : BitVec 8) (eb1 : BitVec 1) (a d : BitVec 5) (s : State) : Out := run (paddM a d (ebOn eb1) none k8.toInt) s
/-- PSETF (R72): the format and block log replace bits 63:56. -/
def execPsetf (k8 : BitVec 8) (eb1 : BitVec 1) (a d : BitVec 5) (s : State) : Out :=
  run (do
    regs [(xr a, ebOn eb1)] [xr d]
    let p ← getX a
    setX d (BitVec.ofNat 64 (bits k8.toNat 0 5 * 2 ^ 59 + bits k8.toNat 5 3 * 2 ^ 56 + bits p.toNat 0 56))) s
/-- PGETF (R72). -/
def execPgetf (eb1 : BitVec 1) (a d : BitVec 5) (s : State) : Out :=
  run (do
    regs [(xr a, ebOn eb1)] [xr d]
    let p ← getX a
    setX d (p >>> 56)) s

/-- A kitty word, or CONSTANT_UNLOADED beyond the loaded length (R49, R72). -/
def kittyWord (k : Nat) : M Word := do
  let c ← me
  trapIf (16 ≤ k && c.constLen ≤ k - 16) .constantUnloaded (BitVec.ofNat 64 k)
  pure (BitVec.ofNat 64 (leNat (Memory.readN c.priv (8 * k) 8)))

/-- KLD (R72). -/
def execKld (k8 : BitVec 8) (d : BitVec 5) (s : State) : Out :=
  run (do
    regs [] [xr d]
    let v ← kittyWord k8.toNat
    setX d v) s
/-- KLDF (R72): all 64 bits. -/
def execKldf (k8 : BitVec 8) (d : BitVec 5) (s : State) : Out :=
  run (do
    noRepeat
    fLow [d] (encode (.kldf k8 d))
    regs [] [fr d]
    let v ← kittyWord k8.toNat
    setF d v) s

/-- The virtual die cycle counter of a core (R361, R363). -/
def State.cycles (s : State) (p k : Nat) : Word :=
  BitVec.ofNat 64 ((Tab.get (s.partAt p).vdies (s.vdie p (k / 8)) {}).cyc / 20)
/-- The RDRATIO word of a core (R362): sequence number 5 and multiplier 24 give the word 0x0005_0000_0000_0018 of R367. -/
def State.ratioWord (s : State) (p k : Nat) : Word :=
  BitVec.ofNat 64 ((Tab.get (s.partAt p).vdies (s.vdie p (k / 8)) {}).seq.toNat * 2 ^ 48 + (s.dieAt (k / 512)).mult % 64)

/-- RDREF (R361). -/
def execRdref (d : BitVec 5) (s : State) : Out :=
  run (do
    regs [] [xr d]
    let s ← get
    setX d s.time) s
/-- RDDCYC (R361). -/
def execRddcyc (d : BitVec 5) (s : State) : Out :=
  run (do
    regs [] [xr d]
    let s ← get
    setX d (s.cycles s.fir.part s.cur)) s
/-- RDRATIO (R361, R362). -/
def execRdratio (d : BitVec 5) (s : State) : Out :=
  run (do
    regs [] [xr d]
    let s ← get
    setX d (s.ratioWord s.fir.part s.cur)) s

/-- The physical bytes an aperture's buffer takes (R217, R218). -/
def Aper.bufLen (a : Aper) : Nat :=
  if a.xf = 2 then a.size / elemSize (bits a.par 48 5) * elemSize (bits a.par 40 5) else a.size

/-- Whether a physical range lies in one stack of this package (R332, R345). -/
def oneStack (pa n : Nat) : Bool := pa / 2 ^ 39 == 0 && pa / 2 ^ 36 == (pa + n - 1) / 2 ^ 36

/-- Whether two apertures' ranges overlap. -/
def Aper.meets (a b : Aper) : Bool := decide (a.vbase < b.vbase + b.size) && decide (b.vbase < a.vbase + a.size)

/-- Whether an enabled aperture is valid beside the others (R345, R346). -/
def Aper.ok (a : Aper) (others : List Aper) : Bool :=
  let w := fun i => (a.w.getD i 0).toNat
  let p := a.par
  let l := bits p 0 32
  bits (w 0) 48 12 == 0 && bits (w 0) 0 12 == 0 && decide (a.xf ≤ 3) && bits (w 1) 36 28 == 0 && decide (1 ≤ a.size)
    && bits (w 2) 52 12 == 0 && bits (w 2) 0 12 == 0 && decide (a.vbase + a.size ≤ 0xFFFE00000000)
    && (match a.xf with
      | 0 => p == 0
      | 1 => decide (1 ≤ l) && bits p 34 30 == 0 && a.size % (l * 2 ^ bits p 32 2) == 0
      | 2 => bits p 0 40 == 0 && bits p 45 3 == 0 && bits p 53 11 == 0 && decide (1 ≤ bits p 40 5) && decide (bits p 40 5 ≤ 8)
          && decide (1 ≤ bits p 48 5) && decide (bits p 48 5 ≤ 8)
      | _ => bits p 0 12 == 0 && bits p 52 12 == 0 && oneStack (bits p 12 40 * 4096) (a.size / 512)
          && bits p 12 40 * 4096 / 2 ^ 36 == a.pbase / 2 ^ 36)
    && oneStack a.pbase a.bufLen && !(others.any a.meets)

/-- Send an invalidation to clusters (R342, R346). -/
def sendInval (v : Inval) : M Unit := do
  let id ← freshId
  upd fun s => { s with invals := Tab.set s.invals id { v with org := s.org } }
  post (.inval id)

/-- The clusters of a partition on this package. -/
def State.clustersOf (s : State) (p : Nat) : List Nat :=
  ((List.range 512).map fun i => i).filter fun c => s.clusterIn p c

/-- Word `w` of aperture `n` := `v` (R346): words 1 to 3 are recorded; word 0 checks and installs all four. -/
def aperWrite (n w : Nat) (v : Word) : M Unit := do
  let s ← get
  let pn := s.fir.part
  let a := Tab.get (s.partAt pn).apers n {}
  if w ≠ 0 then
    upd fun s => s.modPart pn fun p => { p with apers := Tab.set p.apers n { a with reced := listSet a.reced (w - 1) v } }
  else do
    let b : Aper := { w := v :: a.reced, reced := a.reced }
    let others := ((s.partAt pn).apers.filter fun e => e.1 != n && bitAt (e.2.w.getD 0 0).toNat 63).map (·.2)
    trapIf (bitAt v.toNat 63 && !b.ok others) .reservedField v
    upd fun s => s.modPart pn fun p => { p with apers := Tab.set p.apers n b }
    let cls := s.clustersOf pn
    if bitAt (a.w.getD 0 0).toNat 63 then
      sendInval { kind := 3, va := BitVec.ofNat 64 a.vbase, len := a.size, part := pn, cls := cls }
    if bitAt v.toNat 63 then
      sendInval { kind := 3, va := BitVec.ofNat 64 b.vbase, len := b.size, part := pn, cls := cls }

/-- Change the written partition CSRs; the change takes effect by CSR_PROPAGATION (R340). -/
def writePartCsr (f : Csrs → Csrs) : M Unit := do
  let s ← get
  let pn := s.fir.part
  upd fun s => s.modPart pn fun p => { p with csrNew := f p.csrNew }
  let id ← freshId
  updMe fun c => { c with csrWait := id :: c.csrWait }
  post (.csr pn)

/-- The value of a CSR (R50, R73 to R76, R340). -/
def readCsr (c : Nat) : M Word := do
  let s ← get
  let x := s.ctx
  let pt := s.part
  match c with
  | 0x001 => do
    flagsSettled
    pure (BitVec.ofNat 64 (bits x.fcsr.toNat 0 5))
  | 0x002 => pure (BitVec.ofNat 64 (bits x.fcsr.toNat 5 3))
  | 0x003 => do
    flagsSettled
    pure (x.fcsr.setWidth 64)
  | 0xC00 => pure (s.cycles s.fir.part s.cur)
  | 0xC01 => pure s.time
  | 0xC02 => pure s.me.instret
  | 0x8C0 => pure s.ls.zlutbase
  | 0x8C1 => pure (s.ls.zrr.setWidth 64)
  | 0xCC0 => pure (x.zcause.setWidth 64)
  | 0xCC1 => pure x.ztval
  | 0xCC2 => pure s.ls.zpos
  | 0x5C0 =>
    let g := if (s.clusterOf s.fir.part (pt.sel / 64) (pt.sel % 64)).isSome then Tab.get pt.csrNew.grp pt.sel 0 else 0
    pure (BitVec.ofNat 64 (pt.sel * 64 + g))
  | 0x5C1 => pure pt.csrNew.zhtab
  | 0x5C2 => pure (BitVec.ofNat 64 pt.csrNew.lim)
  | 0x5C3 => pure pt.csrNew.seed
  | _ => pure ((Tab.get pt.apers (c - 0x5D0) {}).w.getD 0 0)

/-- Write a CSR (R3: a read-only one ignores it). -/
def writeCsr (c : Nat) (v : Word) : M Unit := do
  match c with
  | 0x001 => updCtx fun x => { x with fcsr := BitVec.ofNat 8 (bits x.fcsr.toNat 5 3 * 32 + bits v.toNat 0 5) }
  | 0x002 => updCtx fun x => { x with fcsr := BitVec.ofNat 8 (bits v.toNat 0 3 * 32 + bits x.fcsr.toNat 0 5) }
  | 0x003 => updCtx fun x => { x with fcsr := v.setWidth 8 }
  | 0x8C0 => updLs fun l => { l with zlutbase := v }
  | 0x8C1 => updLs fun l => { l with zrr := v.setWidth 12 }
  | 0x5C0 => do
    let s ← get
    let sel := bits v.toNat 6 9
    let inside := (s.clusterOf s.fir.part (sel / 64) (sel % 64)).isSome
    upd fun s => s.modPart s.fir.part fun p => { p with sel := sel }
    if inside then writePartCsr fun r => { r with grp := Tab.set r.grp sel (bits v.toNat 0 6) } else pure ()
  | 0x5C1 => writePartCsr fun r => { r with zhtab := v &&& 0xFFF0FFFFFFFFFFF8 }
  | 0x5C2 => writePartCsr fun r => { r with lim := min 128 (bits v.toNat 0 8) }
  | 0x5C3 => writePartCsr fun r => { r with seed := v }
  | 0xC00 | 0xC01 | 0xC02 | 0xCC0 | 0xCC1 | 0xCC2 => pure ()
  | c => aperWrite (c - 0x5D0) 0 v

/-- The checks on a CSR address (R42, R50, R73, R76): a reserved address, one that names nothing, privilege, the H context. -/
def csrCheck (c : Nat) (w : BitVec 32) : M Unit := do
  let s ← get
  trapIf (csrReserved c) .reservedField (tvw w)
  trapIf (!csrNamed c) .illegalOpcode (tvw w)
  trapIf (0x5C0 ≤ c && c ≤ 0x5FF && !s.fir.sup) .privilegedOp (tvw w)
  trapIf (s.me.inH && (c == 0x8C0 || c == 0x8C1 || c == 0xCC2)) .highRegisterRange (tvw w)

/-- A Zicsr form (R73): the old value goes to rd; `src` is the source's value, `f` what is written, if anything is. -/
def csrForm (csr : BitVec 12) (src : M Word) (srcs : List (Nat × Bool)) (writes : Bool) (f : Word → Word → Word) (rd : BitVec 5)
    (w : BitVec 32) : M Unit := do
  noRepeat
  csrCheck csr.toNat w
  regs srcs [xr rd]
  let v ← src
  let old ← readCsr csr.toNat
  if writes then writeCsr csr.toNat (f old v)
  setX rd old

/-- CSRRW (R73). -/
def execCsrrw (csr : BitVec 12) (rs1 rd : BitVec 5) (s : State) : Out :=
  run (csrForm csr (getX rs1) [(xr rs1, false)] true (fun _ v => v) rd (encode (.csrrw csr rs1 rd))) s

/-- CSRRS (R73). -/
def execCsrrs (csr : BitVec 12) (rs1 rd : BitVec 5) (s : State) : Out :=
  run (csrForm csr (getX rs1) [(xr rs1, false)] (rs1 != 0) (fun o v => o ||| v) rd (encode (.csrrs csr rs1 rd))) s

/-- CSRRC (R73). -/
def execCsrrc (csr : BitVec 12) (rs1 rd : BitVec 5) (s : State) : Out :=
  run (csrForm csr (getX rs1) [(xr rs1, false)] (rs1 != 0) (fun o v => o &&& ~~~v) rd (encode (.csrrc csr rs1 rd))) s

/-- CSRRWI (R73). -/
def execCsrrwi (csr : BitVec 12) (zimm rd : BitVec 5) (s : State) : Out :=
  run (csrForm csr (pure (zimm.setWidth 64)) [] true (fun _ v => v) rd (encode (.csrrwi csr zimm rd))) s

/-- CSRRSI (R73). -/
def execCsrrsi (csr : BitVec 12) (zimm rd : BitVec 5) (s : State) : Out :=
  run (csrForm csr (pure (zimm.setWidth 64)) [] (zimm != 0) (fun o v => o ||| v) rd (encode (.csrrsi csr zimm rd))) s

/-- CSRRCI (R73). -/
def execCsrrci (csr : BitVec 12) (zimm rd : BitVec 5) (s : State) : Out :=
  run (csrForm csr (pure (zimm.setWidth 64)) [] (zimm != 0) (fun o v => o &&& ~~~v) rd (encode (.csrrci csr zimm rd))) s

/-- APERW (R341, R346). -/
def execAperw (imm7 : BitVec 7) (a : BitVec 5) (s : State) : Out :=
  run (do
    noRepeat
    needSup (encode (.aperw imm7 a))
    regs [(xr a, false)] []
    let v ← getX a
    aperWrite (bits imm7.toNat 0 4) (bits imm7.toNat 4 3) v) s

end Sys2Proof.Machine
end

