-- ==== Sys2Proof/Machine/Engine.lean ====
section
/-! DEFINITION. What an atomic engine, a home or an owner's message unit does for a request (R150 to R155, R170, R177 to R191), and
how an instruction asks for it. -/

namespace Sys2Proof.Machine

/-- What an operation at a place comes to: a reply, which is empty when the issuer was registered as a waiter; or a cause. -/
abbrev Served := Except (Cause × Word) (List Word × State)

/-- The least and the larger of two integers of `n` bytes, by the operation code of R181: 0 signed, 1 unsigned. -/
def minMaxInt (mx : Bool) (op n x y : Nat) : Nat :=
  let lt := if op = 0 then decide (signed (8 * n) x < signed (8 * n) y) else decide (x % 2 ^ (8 * n) < y % 2 ^ (8 * n))
  if lt != mx then x else y

/-- The sum of an element and an operand (R110, R175, R185): rounded RNE in a float format, wrapping else. -/
def addElem (fmt n x y : Nat) : Nat :=
  match floatFmt fmt with
  | some f => (f.fadd .rne (x % 2 ^ (8 * n)) (y % 2 ^ (8 * n))).1
  | none => x + y

/-- The larger or the smaller of two float elements (R185). -/
def minMaxElem (mx : Bool) (fmt n x y : Nat) : Nat := (((floatFmt fmt).getD fp32).fminmax mx (x % 2 ^ (8 * n)) (y % 2 ^ (8 * n))).1

/-- The integer operations of service index 2 by their codes (R181). -/
def arith (op x y : Nat) : Nat :=
  match op with
  | 0 => x + y
  | 1 => x ||| y
  | 2 => x &&& y
  | _ => x ^^^ y

/-- The state with the waiters of an object woken (R152, R170). -/
def State.wakeAll (s : State) (l : Loc) (kind : Nat) : State :=
  s.waiters.foldl (fun s w => if w.obj == l && w.kind == kind then s.post (if kind = 0 then .bwake w.k w.h else .wake w.k w.h) else s) s

/-- The state with a firing registered as a waiter at an object (R170). -/
def State.register (s : State) (o : Origin) (l : Loc) (kind gen : Nat) : State :=
  { s with waiters := s.waiters.filter (fun w => !(w.k == o.k && w.h == o.h)) ++
      [{ kind := kind, obj := l, gen := gen, k := o.k, h := o.h, fid := o.fid }] }

/-- Word `i` of an object. -/
def State.wordAt (s : State) (l : Loc) (i : Nat) : Nat := s.numAt (l.plus (8 * i)) 8
/-- The state with word `i` of an object written. -/
def State.putWord (s : State) (l : Loc) (i x : Nat) : State := s.writeNum (l.plus (8 * i)) 8 x

/-- The difference of two counters of a queue header (R187). -/
def diff32 (a b : Nat) : Nat := (a + 2 ^ 32 - b) % 2 ^ 32

/-- Whether a header is corrupt (R187). -/
def queueBad (w0 w1 : Nat) : Bool :=
  let lim := bits w0 32 32
  let tkt := bits w0 0 32
  let pop := bits w1 32 32
  decide (lim = 0) || decide (2 ^ 31 < lim) || decide (lim < diff32 tkt pop) || decide (diff32 tkt pop < diff32 (bits w1 0 32) pop)

/-- The state with a queue's published count advanced over the rows that are performed, in ticket order (R189). -/
def State.publish (s : State) (l : Loc) : Nat → State
  | 0 => s
  | n + 1 =>
    let w1 := s.wordAt l 1
    match List.find? (fun e => e.2.live && e.2.hdr == l && e.2.done && e.2.tkt == bits w1 0 32) s.rows with
    | none => s
    | some e =>
      let s := { s.putWord l 1 (setBits w1 0 32 (bits w1 0 32 + 1)) with rows := Tab.erase s.rows e.1 }
      (s.wakeAll l 2).publish l n

/-- The checks of QINIT on the row pointer (R188): R61 steps 1, 3 and 4, the private window, another package. DESIGN CHOICE
(notes/assumptions/26.md): a pointer that is no multiple of 8 raises MISALIGNED_STORE, of the three misalignment causes of R61. -/
def State.rowBaseBad (s : State) (o : Origin) (p : Word) : Option Cause :=
  if !tagOk p then some .formatReserved
  else if !canonical p then some .noncanonical
  else if addrOf p % 8 != 0 then some .misalignedStore
  else if 0xFFFFF0000000 ≤ addrOf p then some .privateRange
  else if addrOf p < 0xFFFE00000000 then
    match s.place o p 8 .load with
    | .ok (r, _) => (match r.spot with
      | .flat (.remote ..) => some .remoteDenied
      | _ => none)
    | .error .remoteDenied => some .remoteDenied
    | .error _ => none
  else none

/-- The check of a row as a store (R189, R61 steps 3 to 5). -/
def State.rowReach (s : State) (o : Origin) (p : Word) : Except Cause (Reach × State) :=
  if !canonical p then .error .noncanonical
  else if addrOf p % 8 != 0 then .error .misalignedStore
  else s.place o p 8 .store

/-- A push (R189): `wait` for QPUSHW. -/
def State.queuePush (s : State) (o : Origin) (va : Word) (l : Loc) (x : Word) (wait : Bool) : Served :=
  let w0 := s.wordAt l 0
  let w1 := s.wordAt l 1
  let lim := bits w0 32 32
  let tkt := bits w0 0 32
  if queueBad w0 w1 then .error (.queueCorrupt, va)
  else if diff32 tkt (bits w1 32 32) = lim then
    .ok (if wait then ([], s.register o l 1 0) else ([BitVec.allOnes 64], s))
  else
    let r := ptrAdd (BitVec.ofNat 64 (s.wordAt l 3)) ((8 * (tkt % lim) : Nat) : Int)
    match s.rowReach o r with
    | .error c => .error (c, r)
    | .ok (rc, s) =>
      let s := s.putWord l 0 (setBits w0 0 32 (tkt + 1))
      let row : RowWrite := { org := o, hdr := l, hva := va, tkt := tkt, va := r, spot := rc.spot, cnt := rc.cnt, val := x, sent := s.time.toNat }
      .ok ([BitVec.ofNat 64 tkt], { s with rows := Tab.set s.rows s.nextId row, nextId := s.nextId + 1 }.post (.row s.nextId))

/-- A pop (R190): `wait` for QPOPW. -/
def State.queuePop (s : State) (o : Origin) (va : Word) (l : Loc) (wait : Bool) : Served :=
  let w0 := s.wordAt l 0
  let w1 := s.wordAt l 1
  let pop := bits w1 32 32
  if queueBad w0 w1 then .error (.queueCorrupt, va)
  else if pop = bits w1 0 32 then
    .ok (if wait then ([], s.register o l 2 0) else ([BitVec.allOnes 64], s))
  else .ok ([BitVec.ofNat 64 (pop % bits w0 32 32)], (s.putWord l 1 (setBits w1 32 32 (pop + 1))).wakeAll l 1)

/-- QINIT (R188): rows still being written publish nothing any more (notes/assumptions/16.md). -/
def State.queueInit (s : State) (o : Origin) (l : Loc) (lim : Word) : Served :=
  let base := BitVec.ofNat 64 (s.wordAt l 2)
  match s.rowBaseBad o base with
  | some c => .error (c, base)
  | none =>
    let s := ((s.putWord l 0 (lim.toNat * 2 ^ 32)).putWord l 1 0).putWord l 3 base.toNat
    let s := { s with rows := s.rows.map fun (e : Nat × RowWrite) => if e.2.hdr == l then (e.1, { e.2 with live := false }) else e }
    .ok ([0], (s.wakeAll l 1).wakeAll l 2)

/-- Whether a barrier object is initialised (R150). -/
def barrierOk (w0 w1 : Nat) : Bool := w1 == 1 && bits w0 0 16 != 0

/-- The barrier operations by their codes: 0 BINIT, 1 BARR with the generations recorded for the address, 2 BWAIT, 3 BTEST (R152). -/
def State.barrier (s : State) (o : Origin) (va : Word) (l : Loc) (op : Nat) (args : List Word) : Served :=
  let w0 := s.wordAt l 0
  let w1 := s.wordAt l 1
  let gen := bits w0 32 32
  if op = 0 then
    let g := if bitAt w1 0 then gen else 0
    let s := (s.putWord l 0 (g * 2 ^ 32 + bits (args.getD 0 0).toNat 0 16)).putWord l 1 1
    .ok ([0], if g = gen then s else s.wakeAll l 0)
  else if !barrierOk w0 w1 then .error (.barrierUninitialised, va)
  else if op = 1 then
    if args.contains (BitVec.ofNat 64 gen) then .error (.barrierDoubleArrival, va)
    else
      let arr := (bits w0 16 16 + 1) % 65536
      let flip := arr = bits w0 0 16
      let g := if flip then (gen + 1) % 2 ^ 32 else gen
      let s := s.putWord l 0 (g * 2 ^ 32 + (if flip then 0 else arr) * 65536 + bits w0 0 16)
      .ok ([BitVec.ofNat 64 gen], if flip then s.wakeAll l 0 else s)
  else
    let moved := gen != bits (args.getD 0 0).toNat 0 32
    if op = 2 then .ok (if moved then ([1], s) else ([], s.register o l 0 gen))
    else .ok ([b2w moved], s)

/-- The join operations by their codes: 0 JINIT, 1 JARR, which answers the new count and words 1 to 3 (R155). -/
def State.join (s : State) (va : Word) (l : Loc) (op : Nat) (args : List Word) : Served :=
  let w0 := s.wordAt l 0
  if op = 0 then .ok ([0], s.putWord l 0 (setBits w0 0 32 (args.getD 0 0).toNat))
  else if bits w0 0 32 = 0 then .error (.joinUnderflow, va)
  else
    .ok ([BitVec.ofNat 64 (bits w0 0 32 - 1), BitVec.ofNat 64 (s.wordAt l 1), BitVec.ofNat 64 (s.wordAt l 2), BitVec.ofNat 64 (s.wordAt l 3)],
      s.putWord l 0 (setBits w0 0 32 (bits w0 0 32 - 1)))

/-- The word a read-modify-write stores, if it stores one, for the old value and its operands (R181, R184 to R186). -/
def AOp.stored (a : AOp) (old : Nat) : Option Nat :=
  let x := (a.data.getD 0 0).toNat
  match a.idx with
  | 1 => some x
  | 2 => some (if a.fmt = 0 then arith a.op old x else addElem a.fmt a.size old x)
  | 3 => some (minMaxInt false a.op a.size old x)
  | 4 => some (minMaxInt true a.op a.size old x)
  | 5 => some x
  | 6 => if old = x then some (a.data.getD 1 0).toNat else none
  | 8 => some (addElem a.fmt a.size old x)
  | 9 => some (minMaxElem true a.fmt a.size old x)
  | 10 => some (minMaxElem false a.fmt a.size old x)
  | 11 => if old < x then some (old + 1) else none
  | _ => none

/-- What a read-modify-write answers for the old value (R184 to R186). -/
def AOp.answer (a : AOp) (old : Nat) : Word :=
  if a.idx = 11 && !(decide (old < (a.data.getD 0 0).toNat)) then BitVec.allOnes 64 else BitVec.ofNat 64 old

/-- One indivisible operation at a place (R177): the reply and the state after it, or a cause, which leaves everything unchanged. -/
def State.perform (s : State) (o : Origin) (va : Word) (l : Loc) (a : AOp) : Served :=
  let x := a.data.getD 0 0
  match a.idx, a.op with
  | 12, 0 => s.queueInit o l x
  | 12, 1 => s.queuePush o va l x false
  | 12, 2 => s.queuePush o va l x true
  | 12, 3 => s.queuePop o va l false
  | 12, _ => s.queuePop o va l true
  | 13, op => s.barrier o va l op a.data
  | 14, op => s.join va l op a.data
  | _, _ =>
    if 14 < a.idx || a.idx = 7 then .error (.serviceRange, va)
    else
      let old := s.numAt l a.size
      .ok ([a.answer old], match a.stored old with
        | some y => s.writeNum l a.size y
        | none => s)

/-- The state with a service request sent on its way (R170). -/
def State.sendSvc (s : State) (v : Svc) : State :=
  { s with svcs := Tab.set s.svcs s.nextId { v with sent := s.time.toNat }, nextId := s.nextId + 1 }.post (.svcReq s.nextId)

/-- The place in this package that a reach names, if it is one place. -/
def Spot.home : Spot → Option Loc
  | .flat (.remote ..) => none
  | .flat l => some l
  | .far cl off => some (.scratch cl off)
  | .view .. => none

/-- Watchpoints on an atomic, which counts as a read and as a write of what it leaves in place (R371). -/
def watchAtomic (p : Word) (r : Reach) (a : AOp) : M Unit := do
  let s ← get
  let bs := match r.spot.home with
    | none => []
    | some l => (match s.perform s.org p l a with
      | .ok (_, s') => s'.bytesAt l a.size
      | .error _ => [])
  watch p a.size true true bs

/-- A cause that an instruction's request brought about and that is known only after the instruction (R70, R313, R385). -/
def pendHere (c : Cause) (tv : Word) : M Unit := upd fun s => s.pendCause s.org c tv

/-- A failure at the target of an access that an instruction waits for, before it has changed anything: precise (R90, R149, R183), but for the causes that
R329 makes imprecise, REMOTE_DENIED of a package that refuses the access among them (R299, R355, R365; notes/assumptions/48.md). -/
def targetFails {α : Type} (e : Cause × Word) : M α := if lateCause e.1 || e.1 == .remoteDenied then late e.1 e.2 else trap e.1 e.2

/-- The first unit of a destination that another cluster refuses (R70, R90, R149), asked before any is written. -/
def spanRefused (n : Nat) : List (Word × Reach) → M (Option (Cause × Word))
  | [] => pure none
  | (p, r) :: rs => do
    let s ← get
    match r.spot with
    | .far cl off =>
      if s.dieHolds r.spot false then (if s.dieLate r.spot false then pure (some (.crossDieTimeout, p)) else hold)
      else match s.farBad s.org cl off n with
        | some c => pure (some (c, p))
        | none => spanRefused n rs
    | _ => spanRefused n rs

/-- The leased lines in order of use, after a use of the line of a place (R179): the home grants a lease of each line that the CAM does not
hold (notes/assumptions/27.md), and the least recently used of a full CAM goes back. -/
def touchLease (ls : List Nat) (sp : Spot) : List Nat :=
  match sp with
  | .flat (.hbm pa) => (pa / 64 :: ls.filter (· != pa / 64)).take Config.camLines
  | _ => ls

/-- Whether a request that waits since a tick has waited 64 cycles of a cluster's die (R178). -/
def State.aged (s : State) (cl since : Nat) : Bool := decide (1280 ≤ (s.time.toNat - since) * (s.dieAt (cl / 64)).mult)

/-- Whether a core's request to its cluster's engine still stands: its instruction waits, and its context moves. -/
def State.amoLives (s : State) (cl : Nat) (r : AmoReq) : Bool :=
  let c := s.coreAt (cl * 8 + r.idx)
  c.ctx.fir.active && c.ctx.fir.fid == r.fid && c.ctx.waitAt.isSome && c.faultDue.isNone && c.pageWait.isNone && !s.lStopped (cl * 8 + r.idx)

/-- The core requests that a cluster's engine may serve, with one more (R178). -/
def State.amoReqs (s : State) (cl : Nat) (r : AmoReq) : List AmoReq :=
  let w := (s.clusterAt cl).amoWait
  ((w.find? fun x => x.idx == r.idx && x.fid == r.fid).getD r) :: w.filter fun x => x.idx != r.idx && s.amoLives cl x

/-- The incoming requests that a cluster's engine may serve: of each core the first, where no command holds its bytes (R62, R178). -/
def State.incoming (s : State) (cl : Nat) : List (Nat × Svc) :=
  let q := (s.clusterAt cl).amoQ.filterMap fun id => (Tab.find? s.svcs id).map fun v => (id, v)
  q.filter fun e => (q.find? fun x => x.2.org.k == e.2.org.k).map (·.1) == some e.1 && !s.stalled (.far cl e.2.off) e.2.ask.size true

/-- The tick since which the dealer's command waits for its cluster's engine, while it may still go on (R178). -/
def Cluster.dealerSince (c : Cluster) : Option Nat :=
  match c.amoDeal with
  | none => none
  | some (id, t) => if c.dealer.any fun d => d.id == id && !d.moved && d.page.isNone then some t else none

/-- The tick since which the oldest of the requests that have waited long enough to pass all others waits (R178). -/
def State.oldestAged (s : State) (cl : Nat) (rs : List AmoReq) : Option Nat :=
  (((s.incoming cl).map fun e => e.2.at_) ++ rs.map (·.since) ++ (s.clusterAt cl).dealerSince.toList).filter (s.aged cl) |>.min?

/-- The distance of a core's index from the core served last, round robin (R178). -/
def rrDist (last idx : Nat) : Nat := (idx + 7 - last) % 8

/-- Whether the engine of a cluster serves a core's request now (R178): the oldest that has waited long, else the incoming ones first, else the
cores round robin. -/
def State.amoFirst (s : State) (cl : Nat) (r : AmoReq) : Bool :=
  let rs := s.amoReqs cl r
  let me := (rs.head?).getD r
  let last := (s.clusterAt cl).amoLast
  match s.oldestAged cl rs with
  | some t => me.since == t && !((s.incoming cl).any fun e => e.2.at_ == t)
      && rs.all fun x => x.since != t || decide (rrDist last me.idx ≤ rrDist last x.idx)
  | none => (s.incoming cl).isEmpty && rs.all fun x => decide (rrDist last me.idx ≤ rrDist last x.idx)

/-- The moving core's request to its engine. -/
def State.amoMine (s : State) : AmoReq := { idx := s.cur % 8, fid := s.ctx.fir.fid, since := s.time.toNat }

/-- The state in which the moving core waits for its engine. -/
def State.amoJoin (s : State) : State :=
  s.modCluster s.cl fun c => { c with amoWait := s.amoReqs s.cl s.amoMine }

/-- The state in which the moving core has had its turn at its engine. -/
def State.amoServed (s : State) (sp : Spot) : State :=
  s.modCluster s.cl fun c => { c with
    amoLast := s.cur % 8, amoWait := c.amoWait.filter (·.idx != s.cur % 8), leases := touchLease c.leases sp }

/-- A failure that an instruction's request met where it was performed: `prec` says that the instruction has then changed nothing (R183), else it goes on
and the cause is raised at a later boundary (R70, R299, R329). -/
def engineFails (prec : Bool) (c : Cause) (p : Word) : M (Option (List Word)) := do
  if prec then targetFails (c, p)
  else do
    pendHere c p
    pure none

/-- An operation of the moving instruction at the engine, home or remote home of its checked address (R63, R177 to R183). The pipe waits for
the answer, which is none when the operation failed imprecisely. A request once sent is not checked again; `sent` is what else happens at
the sending. -/
def engine (prec : Bool) (p : Word) (chk : M Reach) (a : AOp) (sent : M Unit := pure ()) : M (Option (List Word)) := do
  let x ← ctx
  match x.aw with
  | .replied true _ ws => do
    updCtx fun x => { x with aw := .none }
    pure (some ws)
  | .replied false c [] => do
    updCtx fun x => { x with aw := .none }
    engineFails prec c p
  | .replied false c (tv :: _) => do
    updCtx fun x => { x with aw := .none }
    orTrap tv (.error c)
  | .none => do
    let r ← chk
    watchAtomic p r a
    let s ← get
    match r.spot with
    | .far cl off => do
      holdUnless (!s.owes s.cur r.spot a.size true)
      sent
      let s ← get
      upd fun s => s.sendSvc { org := s.org, ask := a, cl := cl, off := off, va := p, await := true }
      updCtx fun x => { x with aw := .sent s.nextId }
      holdKeep
    | .flat (.remote pkg pa) => do
      holdUnless (!s.owes s.cur r.spot a.size true)
      sent
      let id ← sendAccess { dpkg := pkg, va := p, kind := 3 }
        { op := 2, n := a.size, pa := pa, cnt := r.cnt, data := BitVec.ofNat 64 (a.idx * 2 ^ 32 + a.op * 256 + a.fmt) :: a.data }
      upd fun s => (s.modMe fun c => c.dropLines s.fir.part s.fir.job (addrOf p) a.size).unfill s.cur (sameLine p)
      updCtx fun x => { x with aw := .sent id }
      holdKeep
    | .flat l => do
      holdUnless (!s.blocked r.spot a.size true)
      if s.dieHolds r.spot true then (if s.dieLate r.spot true then engineFails prec .crossDieTimeout p else hold)
      else if !s.amoFirst s.cl s.amoMine then want State.amoJoin
      else if s.poisoned r.spot a.size then engineFails prec .memoryPoison p
      else do
        upd fun s => ((s.flush s.cur).counted s.org r a.size).amoServed r.spot
        let s ← get
        match s.perform s.org p l a with
        | .error (c, tv) => orTrap tv (.error c)
        | .ok (ws, s') => do
          set (s'.modMe fun c => { c with l1 := c.l1.filter fun y => !(y.va == addrOf p / 64 * 64) })
          if ws.isEmpty then do
            updCtx fun x => { x with aw := .asleep }
            holdKeep
          else pure (some ws)
    | .view .. => trap .apertureViolation p
  | _ => hold

/-- The check of an atomic's raw address of `n` bytes (R61, R183). -/
def atomicReach (p : Word) (n : Nat) : M Reach := reach p n .amo

/-- The check of an object that may not lie in another package (R150, R183). -/
def ownReach (p : Word) (n : Nat) : M Reach := do
  let r ← reach p n .amo
  match r.spot with
  | .flat (.remote ..) => trap .remoteDenied p
  | _ => pure r

end Sys2Proof.Machine
end

