-- ==== Sys2Proof/Machine/Atomics.lean ====
section
/-! DEFINITION. The standard AMOs (R63, R181) and the Zynca atomic and queue instructions (R182 to R191). -/

namespace Sys2Proof.Machine

/-- A standard AMO of `n` bytes: the old value, sign-extended, goes to rd (R63, R181). -/
def amoM (idx op n : Nat) (rs2 rs1 rd : BitVec 5) : M Unit := do
  regs [(xr rs1, false), (xr rs2, false)] [xr rd]
  let p ← getX rs1
  let v ← getX rs2
  let r ← engine false p (atomicReach p n) { idx := idx, op := op, size := n, data := [v] }
  match r with
  | some ws => setX rd (sextW (8 * n) (ws.getD 0 0))
  | none => pure ()

/-- AMOADD.W (R181); aq and rl are ignored (R63). -/
def execAmoaddW (_aq _rl : BitVec 1) (rs2 rs1 rd : BitVec 5) (s : State) : Out := run (amoM 2 0 4 rs2 rs1 rd) s
/-- AMOADD.D (R181); aq and rl are ignored (R63). -/
def execAmoaddD (_aq _rl : BitVec 1) (rs2 rs1 rd : BitVec 5) (s : State) : Out := run (amoM 2 0 8 rs2 rs1 rd) s
/-- AMOSWAP.W (R181); aq and rl are ignored (R63). -/
def execAmoswapW (_aq _rl : BitVec 1) (rs2 rs1 rd : BitVec 5) (s : State) : Out := run (amoM 5 0 4 rs2 rs1 rd) s
/-- AMOSWAP.D (R181); aq and rl are ignored (R63). -/
def execAmoswapD (_aq _rl : BitVec 1) (rs2 rs1 rd : BitVec 5) (s : State) : Out := run (amoM 5 0 8 rs2 rs1 rd) s
/-- AMOXOR.W (R181); aq and rl are ignored (R63). -/
def execAmoxorW (_aq _rl : BitVec 1) (rs2 rs1 rd : BitVec 5) (s : State) : Out := run (amoM 2 3 4 rs2 rs1 rd) s
/-- AMOXOR.D (R181); aq and rl are ignored (R63). -/
def execAmoxorD (_aq _rl : BitVec 1) (rs2 rs1 rd : BitVec 5) (s : State) : Out := run (amoM 2 3 8 rs2 rs1 rd) s
/-- AMOOR.W (R181); aq and rl are ignored (R63). -/
def execAmoorW (_aq _rl : BitVec 1) (rs2 rs1 rd : BitVec 5) (s : State) : Out := run (amoM 2 1 4 rs2 rs1 rd) s
/-- AMOOR.D (R181); aq and rl are ignored (R63). -/
def execAmoorD (_aq _rl : BitVec 1) (rs2 rs1 rd : BitVec 5) (s : State) : Out := run (amoM 2 1 8 rs2 rs1 rd) s
/-- AMOAND.W (R181); aq and rl are ignored (R63). -/
def execAmoandW (_aq _rl : BitVec 1) (rs2 rs1 rd : BitVec 5) (s : State) : Out := run (amoM 2 2 4 rs2 rs1 rd) s
/-- AMOAND.D (R181); aq and rl are ignored (R63). -/
def execAmoandD (_aq _rl : BitVec 1) (rs2 rs1 rd : BitVec 5) (s : State) : Out := run (amoM 2 2 8 rs2 rs1 rd) s
/-- AMOMIN.W (R181); aq and rl are ignored (R63). -/
def execAmominW (_aq _rl : BitVec 1) (rs2 rs1 rd : BitVec 5) (s : State) : Out := run (amoM 3 0 4 rs2 rs1 rd) s
/-- AMOMIN.D (R181); aq and rl are ignored (R63). -/
def execAmominD (_aq _rl : BitVec 1) (rs2 rs1 rd : BitVec 5) (s : State) : Out := run (amoM 3 0 8 rs2 rs1 rd) s
/-- AMOMAX.W (R181); aq and rl are ignored (R63). -/
def execAmomaxW (_aq _rl : BitVec 1) (rs2 rs1 rd : BitVec 5) (s : State) : Out := run (amoM 4 0 4 rs2 rs1 rd) s
/-- AMOMAX.D (R181); aq and rl are ignored (R63). -/
def execAmomaxD (_aq _rl : BitVec 1) (rs2 rs1 rd : BitVec 5) (s : State) : Out := run (amoM 4 0 8 rs2 rs1 rd) s
/-- AMOMINU.W (R181); aq and rl are ignored (R63). -/
def execAmominuW (_aq _rl : BitVec 1) (rs2 rs1 rd : BitVec 5) (s : State) : Out := run (amoM 3 1 4 rs2 rs1 rd) s
/-- AMOMINU.D (R181); aq and rl are ignored (R63). -/
def execAmominuD (_aq _rl : BitVec 1) (rs2 rs1 rd : BitVec 5) (s : State) : Out := run (amoM 3 1 8 rs2 rs1 rd) s
/-- AMOMAXU.W (R181); aq and rl are ignored (R63). -/
def execAmomaxuW (_aq _rl : BitVec 1) (rs2 rs1 rd : BitVec 5) (s : State) : Out := run (amoM 4 1 4 rs2 rs1 rd) s
/-- AMOMAXU.D (R181); aq and rl are ignored (R63). -/
def execAmomaxuD (_aq _rl : BitVec 1) (rs2 rs1 rd : BitVec 5) (s : State) : Out := run (amoM 4 1 8 rs2 rs1 rd) s
/-- ACAS (R184). -/
def execAcas (eb2 eb1 : BitVec 1) (b a d : BitVec 5) (s : State) : Out :=
  run (do
    noRepeat
    regs [(xr a, ebOn eb1), (xr b, ebOn eb2), (xr d, false)] [xr d]
    let p ← getX a
    let new ← getX b
    let cmp ← getX d
    let r ← engine true p (atomicReach p 8) { idx := 6, data := [cmp, new] }
    match r with
    | some ws => setX d (ws.getD 0 0)
    | none => pure ()) s

/-- The check of a float atomic's pointer (R183): the tag before the block log, the canonical and the alignment checks. -/
def floatReach (p : Word) : M Reach := do
  trapIf (!tagOk p) .formatReserved p
  trapIf (tagOf p != 1 && tagOf p != 2) .vectorFormat p
  trapIf (blogOf p != 0) .blockMismatch p
  atomicReach p (elemSize (tagOf p))

/-- The write port that an f register of the moving core is bound to. -/
def State.pushPortOf (s : State) (d : BitVec 5) : Option Nat :=
  match s.portOf 1 d.toNat with
  | some (i, p) => if p.isWrite then some i else none
  | none => none

/-- A position one item back, the port's prefetched items dropped (R121, R183). -/
def Port.stepBack (p : Port) : Port := { p with pos := (p.pos + 2 ^ 64 - 1) % 2 ^ 64, pre := [] }

/-- The pop of F[b] and the push of F[d] taken back, when a float atomic has failed where it was performed (R183). -/
def undoFloat (b d : BitVec 5) : M Unit := do
  let s ← get
  match s.pushPortOf d with
  | some i => updPort i fun p => { p.stepBack with pushes := p.pushes.filter fun q => !(q.pend == some 0) }
  | none => pure ()
  match s.portOf 1 b.toNat with
  | some (i, _) => do
    updPort i Port.stepBack
    post (.prefetch s.cur i)
  | none => pure ()

/-- A float atomic (R185): the old element goes to F[d]. When the request leaves the cluster, the value of F[b] is popped and the place of F[d]'s
push taken as it is sent (R118, R119, R121), and both stand as before if it fails (R183). -/
def floatAtomic (idx : Nat) (eb2 eb1 : BitVec 1) (b a d : BitVec 5) (w : BitVec 32) : M Unit := do
  noRepeat
  fLow [b, d] w
  let x ← ctx
  let p ← getX a
  let ask := fun (v : Word) => ({ idx := idx, fmt := tagOf p, size := elemSize (tagOf p), data := [v] } : AOp)
  match x.aw with
  | .none => do
    regs [(xr a, ebOn eb1), (fr b, ebOn eb2)] [fr d]
    let v ← getF b (ebOn eb2)
    let s ← get
    let r ← engine true p (floatReach p) (ask v) (match s.pushPortOf d with
      | some i => pushPort i 0 (some 0) false
      | none => pure ())
    match r with
    | some ws => setF d (ws.getD 0 0)
    | none => pure ()
  | .replied false c [] => do
    undoFloat b d
    updCtx fun x => { x with aw := .none }
    if lateCause c || c == .remoteDenied then late c p else report c p
  | _ => do
    let r ← engine true p (floatReach p) (ask 0)
    let s ← get
    match r, s.pushPortOf d with
    | some ws, some i => do
      upd fun s => s.feedPush s.cur 0 (ws.getD 0 0).toNat
      post (.push s.cur i)
    | some ws, none => setF d (ws.getD 0 0)
    | none, _ => pure ()

/-- AFADD (R185). -/
def execAfadd (eb2 eb1 : BitVec 1) (b a d : BitVec 5) (s : State) : Out :=
  run (floatAtomic 8 eb2 eb1 b a d (encode (.afadd eb2 eb1 b a d))) s
/-- AFMAX (R185). -/
def execAfmax (eb2 eb1 : BitVec 1) (b a d : BitVec 5) (s : State) : Out :=
  run (floatAtomic 9 eb2 eb1 b a d (encode (.afmax eb2 eb1 b a d))) s
/-- AFMIN (R185). -/
def execAfmin (eb2 eb1 : BitVec 1) (b a d : BitVec 5) (s : State) : Out :=
  run (floatAtomic 10 eb2 eb1 b a d (encode (.afmin eb2 eb1 b a d))) s

/-- ATKT (R186). -/
def execAtkt (eb2 eb1 : BitVec 1) (b a d : BitVec 5) (s : State) : Out :=
  run (do
    noRepeat
    regs [(xr a, ebOn eb1), (xr b, ebOn eb2)] [xr d]
    let p ← getX a
    let v ← getX b
    let r ← engine true p (atomicReach p 8) { idx := 11, data := [v] }
    match r with
    | some ws => setX d (ws.getD 0 0)
    | none => pure ()) s

/-- A queue operation on the header in X[a] (R187 to R190). -/
def queueOp (op : Nat) (a : BitVec 5) (x : Word) (d : BitVec 5) : M Unit := do
  let p ← getX a
  let r ← engine true p (ownReach p 32) { idx := 12, op := op, size := 32, data := [x] }
  match r with
  | some ws => setX d (ws.getD 0 0)
  | none => pure ()

/-- QPUSH (R189). -/
def execQpush (eb2 eb1 : BitVec 1) (b a d : BitVec 5) (s : State) : Out :=
  run (do
    noRepeat
    regs [(xr a, ebOn eb1), (xr b, ebOn eb2)] [xr d]
    let x ← getX b
    queueOp 1 a x d) s
/-- QPUSHW (R189). -/
def execQpushw (eb2 eb1 : BitVec 1) (b a d : BitVec 5) (s : State) : Out :=
  run (do
    noRepeat
    needLaunch (encode (.qpushw eb2 eb1 b a d))
    regs [(xr a, ebOn eb1), (xr b, ebOn eb2)] [xr d]
    let x ← getX b
    queueOp 2 a x d) s
/-- QPOP (R190). -/
def execQpop (eb1 : BitVec 1) (a d : BitVec 5) (s : State) : Out :=
  run (do
    noRepeat
    regs [(xr a, ebOn eb1)] [xr d]
    queueOp 3 a 0 d) s
/-- QPOPW (R190). -/
def execQpopw (eb1 : BitVec 1) (a d : BitVec 5) (s : State) : Out :=
  run (do
    noRepeat
    needLaunch (encode (.qpopw eb1 a d))
    regs [(xr a, ebOn eb1)] [xr d]
    queueOp 4 a 0 d) s
/-- QINIT (R188): the limit is checked before the header's address, by the model's choice (notes/assumptions/148.md). -/
def execQinit (eb2 eb1 : BitVec 1) (b a : BitVec 5) (s : State) : Out :=
  run (do
    noRepeat
    regs [(xr a, ebOn eb1), (xr b, ebOn eb2)] []
    let x ← getX b
    trapIf (x.toNat < 1 || 2 ^ 31 < x.toNat) .reservedField x
    queueOp 0 a x 0) s

end Sys2Proof.Machine
end

