-- ==== Sys2Proof/Machine/Messages.lean ====
section
/-! DEFINITION. The message instructions (R157 to R175): SEND and its kin, RECV, MCOUNT, END, REARM, GET, PUT, SADD. -/

namespace Sys2Proof.Machine

/-- The handler index of a selector (R38, R49): an immediate, or bits 11:0 of a kitty word. -/
def selector (imm7 : BitVec 7) : M Nat := do
  if bitAt imm7.toNat 6 then do
    let v ← kittyWord (16 + bits imm7.toNat 0 6)
    pure (bits v.toNat 0 12)
  else pure (bits imm7.toNat 0 6)

/-- A target word with the handler index in bits 47:36 (R162, R329; notes/assumptions/17.md). -/
def tgtWord (t : Word) (h : Nat) : Word := BitVec.ofNat 64 (setBits t.toNat 36 12 h)

/-- The cluster and offset that an address routes to (R160 steps 1 and 2): `bad` for an address outside the scratch windows. -/
def routeTo (p : Word) (bad : Cause) : M (Nat × Nat) := do
  let s ← get
  let a := addrOf p
  if 0xFFFE00000000 ≤ a && a < 0xFFFE10000000 then
    match s.clusterOf s.fir.part (bits a 25 3) (bits a 19 6) with
    | none => trap .remoteDenied p
    | some cl => pure (cl, bits a 0 19)
  else if 0xFFFFE0000000 ≤ a && a < 0xFFFFE0080000 then pure (s.cl, a - 0xFFFFE0000000)
  else trap bad p

/-- Where a message goes: a core, the owner of a scratch byte, another package. -/
inductive Target where
  | core (k : Nat)
  | owner (cl off : Nat)
  | away (pkg : Nat)

/-- Wait, with the checks of the instruction passed that are not made again: 1 all but that of the path, 2 all (R171, R306). -/
def holdPassed {α : Type} (n : Nat) : M α := do
  updCtx fun x => { x with passed := n }
  holdKeep

/-- Whether the moving instruction has passed all its checks and waits for what follows them. -/
def Ctx.passedAll (x : Ctx) : Bool := x.passed == 2 || x.relWait.isSome

/-- The check of a target word (R159); one that has passed it is only told its target. -/
def checkTarget (t : Word) (h : Nat) : M Target := do
  let s ← get
  let n := t.toNat
  let pkg := bits n 48 12
  let far := bitAt n 63 && pkg != s.pkgId
  trapIf (bitAt n 62 || (!bitAt n 63 && pkg != 0) || 127 < bits n 0 16 || 31 < bits n 16 16) .messageTargetInvalid (tgtWord t h)
  if far then do
    trapIf (!s.ctx.passedAll && !s.domainBit s.fir.part pkg 61) .messageTargetInvalid (tgtWord t h)
    trapIf (bits n 32 3 == 7) .messageTooLong (tgtWord t h)
    pure (.away pkg)
  else match s.coreOf s.fir.part (bits n 0 16) (bits n 16 16) with
    | some k => pure (.core k)
    | none => trap .messageTargetInvalid (tgtWord t h)

/-- What egress the moving firing has for a send (R164): a reserved slot, an unreserved one, or none. -/
inductive Egress where
  | reserved
  | unreserved
  | full
deriving DecidableEq, Repr

/-- The egress of the moving firing; a handler firing beyond its production bound raises PRODUCTION_BOUND (R164). -/
def egress : M Egress := do
  let s ← get
  let f := s.fir
  if f.resv ≠ 0 then pure .reserved
  else if f.kind ≠ 0 then trap .productionBound (BitVec.ofNat 64 f.prod)
  else if s.egressFree s.cur s.me.inH = 0 then pure .full
  else pure .unreserved

/-- Use an egress slot. -/
def useEgress (e : Egress) : M Unit := updCtx fun x => if e = .reserved then { x with fir := { x.fir with resv := x.fir.resv - 1 } } else x

/-- The die of a target. -/
def Target.die : Target → Option Nat
  | .core k => some (k / 512)
  | .owner cl _ => some (cl / 64)
  | .away _ => none

/-- Whether a target's cluster is retired (R11). -/
def State.targetRetired (s : State) : Target → Bool
  | .core k => (s.clusterAt (k / 8)).retired
  | .owner cl _ => (s.clusterAt cl).retired
  | .away _ => false

/-- An instruction that has passed its checks waits for its argument registers (R171). -/
def argsLanded (n : Nat) : M Unit := do
  let x ← ctx
  if (List.range n).any fun i => x.pend.any fun q => q.reg == 10 + i && q.port.isNone then holdPassed 2 else pure ()

/-- The argument words of a message, read at issue; each waits while empty (R171). -/
def argWords : List Nat → M (List Word)
  | [] => pure []
  | r :: rs => do
    srcReady r false
    let v ← getX (BitVec.ofNat 5 r)
    let vs ← argWords rs
    pure (v :: vs)

/-- The target word that the packet of a message to another package carries: bits 47:36, which a target word does not use, name the latest earlier
message of the core to the same target that is not acknowledged yet, and bit 62 says that there is one (R163; notes/assumptions/12.md). -/
def State.targetSent (s : State) (part ep pkg : Nat) (t : Word) : Word :=
  let near := s.pkts.filter fun e => e.2.cls == 0 && e.2.dpkg == pkg && e.2.isOf part ep && bits (e.2.words.getD 9 0).toNat 0 32 == bits t.toNat 0 32
  match near.getLast? with
  | some e => BitVec.ofNat 64 (setBits (setBits t.toNat 36 12 e.2.seq) 62 1 1)
  | none => t

/-- Hand a message to egress (R158, R171): it is validated at its target (R162), or leaves in a packet of its 64 bytes (R296). Argument word 6 of a
message to another package is free, as the receiver writes the sender's package there (R157, R159): it carries the target word, for which R296 gives
no other place (notes/assumptions/12.md). -/
def sendMsg (dest : Target) (e : Egress) (t : Word) (h argc : Nat) (pri sup : Bool) (args : List Word) (tval : Word) : M Unit := do
  let s ← get
  let seq := s.me.sendCtr.toNat
  let hd := header seq argc false 0 pri sup h (bits (s.meshWord s.fir.part s.cur) 0 32)
  let ws := padTo 8 0 (hd :: args)
  let f : Flight := { org := s.org, words := ws, pri := pri, sup := sup, hdl := h, tval := tval, unres := e == .unreserved }
  let f : Flight := match dest with
    | .core k => { f with dst := k }
    | .owner cl off => { f with addr := some (cl, off) }
    | .away pkg => { f with pkg := some pkg }
  match dest with
  | .away pkg => do
    let ep := s.endpoint s.org
    holdUnless (s.mayIssue s.fir.part 0 ep 0 seq)
    let id ← freshId
    upd fun s => { s with flights := Tab.set s.flights id f }
    upd fun s => s.sendPacket { org := s.org, cls := 0, dpkg := pkg, seq := seq, kind := 4, flight := id } 0 ep (s.fir.job * 2 ^ 32)
      (ws.take 7 ++ [s.targetSent s.fir.part ep pkg t])
  | _ => do
    let id ← freshId
    upd fun s => { s with flights := Tab.set s.flights id f }
    post (.validate id)
  useEgress e
  updMe fun c => { c with sendCtr := c.sendCtr + 1 }

/-- SEND and its kin (R171): the checks precede the waits for egress, for the release and for the arguments, and are not made again after them. -/
def sendM (blocking byAddr : Bool) (imm7 : BitVec 7) (a d : BitVec 5) (w : BitVec 32) : M Unit := do
  noRepeat
  if blocking then needLaunch w
  regs [(xr a, false)] [xr d]
  let t ← getX a
  let h ← selector imm7
  let tv := if byAddr then t else tgtWord t h
  trapIf (h < 16) .handlerTableRange tv
  let dest ← (if byAddr then do
      trapIf (!tagOk t) .formatReserved t
      trapIf (!canonical t) .noncanonical t
      let (cl, off) ← routeTo t .messageTargetInvalid
      pure (Target.owner cl off)
    else checkTarget t h)
  let e ← egress
  let s ← get
  let gone := match dest.die with
    | some die => !s.dieOpen die || s.targetRetired dest
    | none => false
  let noPath := match dest with
    | .away pkg => (s.workingPaths pkg).isEmpty
    | _ => false
  let first := !s.ctx.passedAll
  if first && gone then setX d 2
  else if first && noPath then setX d 3
  else if e = .full then do
    if blocking then holdPassed 2 else setX d 1
  else do
    release (match dest with
      | .away _ => true
      | _ => false)
    let argc := if byAddr then 7 else bits t.toNat 32 3
    argsLanded argc
    let args ← argWords ((List.range argc).map (10 + ·))
    sendMsg dest e t h argc (!byAddr && bitAt t.toNat 61) (!byAddr && bitAt t.toNat 60) args tv
    setX d 0

/-- SEND (R171). -/
def execSend (imm7 : BitVec 7) (a d : BitVec 5) (s : State) : Out := run (sendM false false imm7 a d (encode (.send imm7 a d))) s
/-- SENDW (R171). -/
def execSendw (imm7 : BitVec 7) (a d : BitVec 5) (s : State) : Out := run (sendM true false imm7 a d (encode (.sendw imm7 a d))) s
/-- SENDA (R171). -/
def execSenda (imm7 : BitVec 7) (a d : BitVec 5) (s : State) : Out := run (sendM false true imm7 a d (encode (.senda imm7 a d))) s
/-- SENDAW (R171). -/
def execSendaw (imm7 : BitVec 7) (a d : BitVec 5) (s : State) : Out := run (sendM true true imm7 a d (encode (.sendaw imm7 a d))) s

/-- The filter of RECV and MCOUNT (R172): the source and the handler index. A bad field is refused before an H firing's source: the model's choice
(notes/assumptions/146.md). -/
def recvFilter (v : Word) (w : BitVec 32) : M (Nat × Nat) := do
  let s ← get
  let src := bits v.toNat 12 2
  let h := bits v.toNat 0 12
  trapIf (v.toNat / 2 ^ 14 != 0 || src == 3 || (1 ≤ h && h ≤ 15)) .reservedField v
  trapIf (s.me.inH && src != 0) .highContextIllegal (tvw w)
  pure (src, h)

/-- The entries that a filter matches: of the context's queue, of the completion area; a sync marker's is never seen (R237). -/
def Core.matching (c : Core) (h : Bool) (src hdl : Nat) : List Msg :=
  ((if src = 1 then [] else if h then c.hq else c.lq)
    ++ (if src = 0 then [] else c.ca.filterMap fun x => if x.hidden then none else x.msg)).filter fun m => hdl == 0 || m.hdl == hdl

/-- The entry placed earliest. -/
def earliest : List Msg → Option Msg
  | [] => none
  | m :: ms => match earliest ms with
    | none => some m
    | some q => if q.ord < m.ord then some q else some m

/-- The handler index that comes next after `last`, wrapping from 4,095 to 16 (R172). -/
def nextIndex (last : Nat) : List Msg → Option Nat
  | [] => none
  | m :: ms =>
    let key := fun h => (h + 4096 - last - 1) % 4096
    match nextIndex last ms with
    | none => some m.hdl
    | some h => if key m.hdl < key h then some m.hdl else some h

/-- The pick of RECV (R172): the message, and the index that zrrstate then holds. -/
def Core.pick (c : Core) (h : Bool) (src hdl : Nat) (last : Nat) : Option (Msg × Nat) :=
  let ms := c.matching h src hdl
  if !h && src = 0 && hdl = 0 then
    match nextIndex last ms with
    | none => none
    | some i => (earliest (ms.filter (·.hdl == i))).map fun m => (m, i)
  else (earliest ms).map fun m => (m, last)

/-- The state with an entry dequeued by the moving core: its slot is free, and a reply's invocation record with it (R163, R307). -/
def State.dequeue (s : State) (m : Msg) : State :=
  let tag := bits (m.words.getD 1 0).toNat 32 16
  (s.modMe fun c =>
    let c := c.consume [m]
    if m.src = 8 then { c with ls := { c.ls with invs := c.ls.invs.filter fun r => r.tag != tag } }.touch [7] else c).slotFreed s.cur

/-- RECV and RECVW (R172): X[d] and x10 to x15 are empty until they land (R44); an argument that goes to X[d] is its last value. -/
def recvM (blocking : Bool) (eb1 : BitVec 1) (a d : BitVec 5) (w : BitVec 32) : M Unit := do
  noRepeat
  if blocking then needLaunch w
  regs [(xr a, ebOn eb1)] (xr d :: (List.range 6).map (10 + ·))
  let v ← getX a
  let (src, hdl) ← recvFilter v w
  let s ← get
  let c := s.me
  match c.pick c.inH src hdl c.ls.zrr.toNat with
  | none => if blocking then hold else setX d 0
  | some (m, i) => do
    upd fun s => s.dequeue m
    if !c.inH && src = 0 && hdl = 0 then updLs fun l => { l with zrr := BitVec.ofNat 12 i }
    acquire
    upd fun s => s.writeAt (.priv s.cur (if c.inH then 0xBC0 else 0x9C0)) ((padTo 8 0 m.words).flatMap fun x => leBytes 8 x.toNat)
    if d.toNat < 10 || 15 < d.toNat then setLater (xr d) (m.words.getD 0 0).toNat 0 {}
    (List.range 6).forM fun j => setLater (10 + j) (m.words.getD (1 + j) 0).toNat 0 {}

/-- RECV (R172). -/
def execRecv (eb1 : BitVec 1) (a d : BitVec 5) (s : State) : Out := run (recvM false eb1 a d (encode (.recv eb1 a d))) s
/-- RECVW (R172). -/
def execRecvw (eb1 : BitVec 1) (a d : BitVec 5) (s : State) : Out := run (recvM true eb1 a d (encode (.recvw eb1 a d))) s

/-- MCOUNT (R173). -/
def execMcount (eb1 : BitVec 1) (a d : BitVec 5) (s : State) : Out :=
  run (do
    noRepeat
    regs [(xr a, ebOn eb1)] [xr d]
    let v ← getX a
    let (src, hdl) ← recvFilter v (encode (.mcount eb1 a d))
    let c ← me
    setX d (BitVec.ofNat 64 (c.matching c.inH src hdl).length)) s

/-- Whether a send of a firing is on its way, or the error reply of one that was refused (R168 step 2). -/
def State.sending (s : State) (fid gid : Nat) : Bool :=
  List.any s.flights (fun e => e.2.org.fid == fid && e.2.org.gid == gid) || List.any s.errs fun e => e.2.send && e.2.org.fid == fid && e.2.org.gid == gid

/-- The core whose frame slot a fault handler firing works for (R320, R322): it may have been resumed on another core of its group. -/
def State.slotCore (s : State) (f : Firing) : Nat := (s.groupAt f.gid).cores.getD f.rank s.cur

/-- What END and REARM of a fault handler wait for besides (R168, R309, R320): the aborted firing's sends and the replies to its invocations. Causes of that
firing that are known meanwhile end with it (notes/assumptions/138.md). -/
def abortWaits : M Unit := do
  let s ← get
  let f := s.fir
  let sl := Tab.get (s.coreAt (s.slotCore f)).slots f.slot {}
  holdUnless (s.me.inH || f.kind != 2 || (!s.sending sl.fir.fid sl.fir.gid && List.all s.invReps fun e => e.2.org.fid != sl.fir.fid))

/-- The waits of R168 steps 1 and 2 and of R309 for the moving firing: its pushes performed, its sends placed or refused wherever it issued them
(R322), its causes raised, its invocations replied to. -/
def endWaits : M Unit := do
  let s ← get
  let c := s.me
  holdUnless (c.inH || c.ls.ports.all fun e => e.2.pushes.isEmpty)
  holdUnless (!s.sending s.fir.fid s.fir.gid)
  holdUnless s.ctx.causes.isEmpty
  holdUnless (c.inH || c.ls.invs.all fun r => r.st != 1)

/-- A core without the placed completions of a firing that name no handler (R168 step 4) and without its open batch; its sealed batches
still complete (R202). -/
def Core.dropCompletions (c : Core) (fid : Nat) : Core :=
  { c with ca := c.ca.filter fun x => !(x.fid == fid && x.hdl == 0 && x.msg.isSome)
           batches := c.batches.filter fun b => !(b.fid == fid && !b.isSealed) }

/-- A context without its firing: the registers keep what they hold (R243, R351). -/
def Ctx.ended (x : Ctx) : Ctx := { x with fir := {}, arrivals := [], causes := [], aw := .none, wfm := false, wfmAt := none, relWait := none, waitAt := none, passed := 0 }

/-- A core whose L firing ended: every port is free with its fields zero, and the bound registers hold zero (R124). -/
def Core.endL (c : Core) : Core :=
  let c := c.ls.ports.foldl (fun c e => if e.2.bnd then c.setReg false ((1 + e.2.kind / 2) * 256 + e.2.reg) 0 else c) c
  { c with l := c.l.ended, ls := { c.ls with ports := [], invs := [] } }

/-- The state with the frame slot of a fault handler that has ended free: its aborted firing ends too, and only its sealed batches go on (R168, R202,
R320). -/
def State.freeAborted (s : State) (f : Firing) : State :=
  if f.kind != 2 then s
  else s.modCore (s.slotCore f) fun c => { c with
    batches := c.batches ++ (Tab.get c.slots f.slot {}).batches.filter (·.isSealed)
    slots := Tab.set c.slots f.slot {} }

/-- The moving firing ended (R124, R168): its context is free; a fault handler's aborted firing ends with it (R320). -/
def State.endFiring (s : State) (armed : Bool) : State :=
  let f := s.fir
  (s.modMe fun c =>
    let c := { c with armed := armed }
    if c.inH then { c with h := c.h.ended }
    else (c.dropCompletions f.fid).endL).freeAborted f |>.postOnce (.complete f.gid)

/-- END and REARM (R168). -/
def endM (armed : Bool) : M Unit := do
  noRepeat
  endWaits
  abortWaits
  upd fun s => s.endFiring armed

/-- END (R174). -/
def execEndF (s : State) : Out := runEnd (endM false) s
/-- REARM (R174). -/
def execRearm (s : State) : Out := runEnd (endM true) s

/-- The checks of R61 steps 1 to 4 and R160 steps 1 and 2 for a service access of `n` bytes: its cluster and offset. -/
def serviceRoute (p : Word) (n : Nat) (k : AKind) (decodes ok : Bool) : M (Nat × Nat) := do
  trapIf (!tagOk p) .formatReserved p
  trapIf (decodes && !ok) .vectorFormat p
  trapIf (decodes && !blogOk (tagOf p) (blogOf p)) .blockMismatch p
  trapIf (!canonical p) .noncanonical p
  trapIf (addrOf p % n != 0) k.misaligned p
  routeTo p .scratchRange

/-- The byte offset of GET, PUT and SADD (R175). -/
def off8 (imm7 : BitVec 7) : Int := imm7.toInt * 8

/-- A service request waits while an earlier access of the core to its bytes is on its way (R134 to R137, R189). -/
def notBefore (cl off n : Nat) (wr : Bool) : M Unit := do
  let s ← get
  holdUnless (!s.owes s.cur (.flat (.scratch cl off)) n wr)

/-- GET (R175). -/
def execGet (imm7 : BitVec 7) (a d : BitVec 5) (s : State) : Out :=
  run (do
    noRepeat
    regs [(xr a, false)] [xr d]
    let b ← getX a
    let p := ptrAdd b (off8 imm7)
    let (cl, off) ← serviceRoute p 8 .load false true
    watch p 8 true false []
    notBefore cl off 8 false
    let id ← freshId
    markPending { id := id, reg := xr d, wait := 1, addr := p }
    upd fun s => s.sendSvc { org := s.org, ask := { idx := 0 }, cl := cl, off := off, va := p, pend := some id }) s

/-- A service write of the moving core (R170, R175): it waits for nothing but the core's own earlier accesses there. -/
def serviceWrite (p : Word) (cl off : Nat) (ask : AOp) (rd : Bool) : M Unit := do
  let s ← get
  watch p ask.size rd true (leBytes ask.size ((ask.stored (s.ownView.numAt (.scratch cl off) ask.size)).getD 0))
  notBefore cl off ask.size true
  upd fun s => s.sendSvc { org := s.org, ask := ask, cl := cl, off := off, va := p }

/-- PUT (R175). -/
def execPut (imm7 : BitVec 7) (a d : BitVec 5) (s : State) : Out :=
  run (do
    noRepeat
    regs [(xr a, false), (xr d, false)] []
    let b ← getX a
    let v ← getX d
    let p := ptrAdd b (off8 imm7)
    let (cl, off) ← serviceRoute p 8 .store false true
    serviceWrite p cl off { idx := 1, data := [v] } false) s

/-- SADD (R175): the tag fixes the element. -/
def execSadd (imm7 : BitVec 7) (a d : BitVec 5) (s : State) : Out :=
  run (do
    noRepeat
    regs [(xr a, false), (xr d, false)] []
    let b ← getX a
    let v ← getX d
    let p := ptrAdd b (off8 imm7)
    let tag := tagOf p
    let n := if tag = 0 then 8 else 4
    let (cl, off) ← serviceRoute p n .store true (tag == 0 || tag == 1 || tag == 6)
    serviceWrite p cl off { idx := 2, fmt := tag, size := n, data := [v] } true) s

end Sys2Proof.Machine
end

