-- ==== Sys2Proof/Machine/VecMem.lean ====
section
/-! DEFINITION. Vector memory (R106 to R111). -/

namespace Sys2Proof.Machine

/-- Steps 1 and 2 of R61 by the table of R106: `wide` for VLD and VST, `adds` for VSADD. -/
def vecTag (p : Word) (wide adds : Bool) : M Unit := do
  let t := tagOf p
  trapIf (!tagOk p || t == 9 || t == 10) .formatReserved p
  trapIf ((t == 11 || t == 12) && !wide || t == 0 && adds) .vectorFormat p
  trapIf (!blogOk t (blogOf p)) .blockMismatch p

/-- Steps 3 to 5 of R61 on one lane of `n` bytes. -/
def laneReach (p : Word) (n : Nat) (k : AKind) : M Reach := do
  trapIf (!canonical p) .noncanonical p
  trapIf (addrOf p % n != 0) k.misaligned p
  orTrapS p fun s => s.place s.org p n k

/-- The reaches of every lane, checked before any is read or written (R106). -/
def lanesReach (n : Nat) (k : AKind) : List Word → M (List (Word × Reach))
  | [] => pure []
  | p :: ps => do
    let r ← laneReach p n k
    let rs ← lanesReach n k ps
    pure ((p, r) :: rs)

/-- Lanes that come from elsewhere: failed ones with their causes, and reads of another package. -/
inductive LaneDue where
  | failed (p : Word) (c : Cause)
  | away (p : Word) (pkg pa i : Nat) (cnt : Bool)

/-- Read the lanes from lane `i` up: whether all are there at once, the bits of those there, the others. -/
def readLanes (n : Nat) : Nat → List (Word × Reach) → M (Bool × Nat × List LaneDue)
  | _, [] => pure (true, 0, [])
  | i, (p, r) :: rs => do
    let f ← readAt p r n
    let (now, v, due) ← readLanes n (i + 1) rs
    match f with
    | .now bs => pure (now, v + leNat bs * 2 ^ (8 * n * i), due)
    | .soon bs => pure (false, v + leNat bs * 2 ^ (8 * n * i), due)
    | .fail c => pure (false, v, .failed p c :: due)
    | .away pkg pa => pure (false, v, .away p pkg pa i r.cnt :: due)

/-- Ask for the lanes that come from elsewhere. -/
def askLanes (n id : Nat) : List LaneDue → M Unit
  | [] => pure ()
  | .failed p c :: ds => do
    upd fun s => s.sendErr s.org c p (some id)
    askLanes n id ds
  | .away p pkg pa i cnt :: ds => do
    let _ ← sendAccess { dpkg := pkg, va := p, kind := 1, pend := id, size := n, conv := .lane (8 * n) i, fill := true } (lineAsk p pa cnt)
    askLanes n id ds

/-- Watchpoints on the lanes of a read (R371). -/
def watchLanes (n : Nat) : List (Word × Reach) → M Unit
  | [] => pure ()
  | (p, _) :: rs => do
    watch p n true false []
    watchLanes n rs

/-- Write the lanes in ascending order (R108). -/
def writeLanes : List ((Word × Reach) × List Byte) → M Unit
  | [] => pure ()
  | ((p, r), bs) :: rs => do
    writeTo p r bs
    writeLanes rs

/-- Watchpoints on the lanes of a write (R371). -/
def watchStores : List ((Word × Reach) × List Byte) → M Unit
  | [] => pure ()
  | ((p, _), bs) :: rs => do
    watch p bs.length false true bs
    watchStores rs

/-- VLD (R107). -/
def execVld (imm7 : BitVec 7) (a d : BitVec 5) (s : State) : Out :=
  run (do
    noRepeat
    needL (encode (.vld imm7 a d))
    regs [(xr a, false)] [vr5 d]
    let b ← getX a
    let p := ptrAdd b (imm7.toInt * 32)
    vecTag p true false
    let r ← laneReach p 32 .load
    watch p 32 true false []
    let f ← readAt p r 32
    deliver p 32 (vr5 d) .zext r f) s

/-- VST (R107). -/
def execVst (imm7 : BitVec 7) (a d : BitVec 5) (s : State) : Out :=
  run (do
    noRepeat
    needL (encode (.vst imm7 a d))
    regs [(xr a, false), (vr5 d, false)] []
    let b ← getX a
    let v ← getV d.toNat
    let p := ptrAdd b (imm7.toInt * 32)
    vecTag p true false
    let r ← laneReach p 32 .store
    watch p 32 false true (leBytes 32 v.toNat)
    writeTo p r (leBytes 32 v.toNat)) s

/-- The lane pointers of a strided access (R108). -/
def stridePtrs (p q : Word) (n : Nat) : List Word := (List.range (32 / n)).map fun (i : Nat) => ptrAdd p ((i : Int) * q.toInt)

/-- VLDS (R108). -/
def execVlds (eb2 eb1 : BitVec 1) (b a d : BitVec 5) (s : State) : Out :=
  run (do
    noRepeat
    needL (encode (.vlds eb2 eb1 b a d))
    regs [(xr a, ebOn eb1), (xr b, ebOn eb2)] [vr5 d]
    let p ← getX a
    let q ← getX b
    vecTag p false false
    let n := elemSize (tagOf p)
    let rs ← lanesReach n .load (stridePtrs p q n)
    watchLanes n rs
    let s0 ← get
    let (now, v, due) ← readLanes n 0 rs
    if due.isEmpty && now then setV d.toNat (BitVec.ofNat 256 v)
    else do
      let glob := rs.any fun e => e.2.spot.isGlobal
      if glob then globalRoom else pure ()
      let more := (rs.filter fun e => e.2.spot.isGlobal && (s0.me.l1Find s0.fir.part s0.fir.job (addrOf e.1)).isNone).map (·.1)
      if due.isEmpty then setLater (vr5 d) v 0 { addr := p, glob := glob, more := more }
      else do
        let id ← freshId
        markPending { id := id, reg := vr5 d, val := v, wait := due.length, addr := p, glob := glob, more := more }
        askLanes n id due) s

/-- VSTS (R108). -/
def execVsts (eb2 eb1 : BitVec 1) (b a d : BitVec 5) (s : State) : Out :=
  run (do
    noRepeat
    needL (encode (.vsts eb2 eb1 b a d))
    regs [(xr a, ebOn eb1), (xr b, ebOn eb2), (vr5 d, false)] []
    let p ← getX a
    let q ← getX b
    let v ← getV d.toNat
    vecTag p false false
    let n := elemSize (tagOf p)
    let rs ← lanesReach n .store (stridePtrs p q n)
    let ws := rs.zip ((lanes (8 * n) v).map (leBytes n))
    watchStores ws
    writeLanes ws) s

/-- VLDP (R109): the pipe waits for the word. A read that fails at its target leaves an unspecified word. -/
def execVldp (imm7 : BitVec 7) (a d : BitVec 5) (s : State) : Out :=
  run (do
    noRepeat
    needL (encode (.vldp imm7 a d))
    regs [(xr a, false)] []
    let b ← getX a
    let p := ptrAdd b (imm7.toInt * 4)
    let v ← pipeLoad p 4
    match v with
    | .ok bs => setP d.toNat (BitVec.ofNat 32 (leNat bs))
    | .error c => do
      pendHere c p
      let x ← freeNat
      setP d.toNat (BitVec.ofNat 32 x)) s

/-- The lane addresses of a gather or scatter (R110). -/
def indexPtrs (p : Word) (b : VWord) (n : Nat) : List Word :=
  (lanes (8 * n) b).map fun u => ptrAdd p ((u * n : Nat) : Int)

/-- The check of every lane, in ascending order (R110): its owner's cluster and offset. -/
def lanesRoute (n : Nat) (k : AKind) : List Word → M (List (Word × Nat × Nat))
  | [] => pure []
  | p :: ps => do
    trapIf (!canonical p) .noncanonical p
    trapIf (addrOf p % n != 0) k.misaligned p
    let (cl, off) ← routeTo p .scratchRange
    let rs ← lanesRoute n k ps
    pure ((p, cl, off) :: rs)

/-- The lanes wait for the core's own earlier accesses to their bytes, before any request is sent (R134 to R137). -/
def lanesFree (n : Nat) (wr : Bool) : List (Word × Nat × Nat) → M Unit
  | [] => pure ()
  | (_, cl, off) :: rs => do
    notBefore cl off n wr
    lanesFree n wr rs

/-- Watchpoints on the lanes of a gather or scatter (R371), with what each lane leaves in place: of lanes to one place, a later one acts on what the earlier
one left. -/
def watchSvcs (mk : Nat → Svc) : List ((Nat × Nat) × Nat) → Nat → List (Word × Nat × Nat) → M Unit
  | _, _, [] => pure ()
  | left, i, (p, cl, off) :: rs => do
    let a := (mk i).ask
    let s ← get
    let old := ((left.find? fun e => e.1 == (cl, off)).map (·.2)).getD (s.ownView.numAt (.scratch cl off) a.size)
    let new := (a.stored old).getD old
    watch p a.size (a.idx != 1) (a.idx != 0) (leBytes a.size new)
    watchSvcs mk (((cl, off), new) :: left) (i + 1) rs

/-- Send the service request of each lane (R110): requests to one cluster are served in their order. -/
def sendLanes (mk : Nat → Svc) : Nat → List (Word × Nat × Nat) → M Unit
  | _, [] => pure ()
  | i, (p, cl, off) :: rs => do
    upd fun s => s.sendSvc { mk i with org := s.org, cl := cl, off := off, va := p }
    sendLanes mk (i + 1) rs

/-- VGATH (R110). -/
def execVgath (eb2 eb1 : BitVec 1) (b a d : BitVec 5) (s : State) : Out :=
  run (do
    noRepeat
    needL (encode (.vgath eb2 eb1 b a d))
    regs [(xr a, ebOn eb1), (vr5 b, ebOn eb2)] [vr5 d]
    let p ← getX a
    let u ← getV b.toNat (ebOn eb2)
    vecTag p false false
    let n := elemSize (tagOf p)
    let rs ← lanesRoute n .load (indexPtrs p u n)
    lanesFree n false rs
    watchSvcs (fun _ => { ask := { idx := 0, size := n } }) [] 0 rs
    let id ← freshId
    markPending { id := id, reg := vr5 d, wait := rs.length, addr := p }
    sendLanes (fun i => { ask := { idx := 0, size := n }, pend := some id, conv := .lane (8 * n) i, batch := some id }) 0 rs) s

/-- VSCAT and VSADD (R110). -/
def scatterM (adds : Bool) (eb2 eb1 : BitVec 1) (b a d : BitVec 5) (w : BitVec 32) : M Unit := do
  noRepeat
  needL w
  regs [(xr a, ebOn eb1), (vr5 b, ebOn eb2), (vr5 d, false)] []
  let p ← getX a
  let u ← getV b.toNat (ebOn eb2)
  let v ← getV d.toNat
  vecTag p false adds
  let t := tagOf p
  let n := elemSize t
  let rs ← lanesRoute n .store (indexPtrs p u n)
  lanesFree n true rs
  let id ← freshId
  let mk := fun (i : Nat) => ({
    ask := { idx := if adds then 2 else 1, fmt := if adds then t else 0, size := n, data := [BitVec.ofNat 64 (lane (8 * n) v i)] }
    batch := some id } : Svc)
  watchSvcs mk [] 0 rs
  sendLanes mk 0 rs

/-- VSCAT (R110). -/
def execVscat (eb2 eb1 : BitVec 1) (b a d : BitVec 5) (s : State) : Out :=
  run (scatterM false eb2 eb1 b a d (encode (.vscat eb2 eb1 b a d))) s
/-- VSADD (R110). -/
def execVsadd (eb2 eb1 : BitVec 1) (b a d : BitVec 5) (s : State) : Out :=
  run (scatterM true eb2 eb1 b a d (encode (.vsadd eb2 eb1 b a d))) s

end Sys2Proof.Machine
end

