-- ==== Sys2Proof/Machine/Vector.lean ====
section
/-! DEFINITION. Vector arithmetic (R97 to R105): lane operations, predicates, scalar moves, reductions. Each effect stands on its own, for a
repeat body issues it too (R127, R128). -/

namespace Sys2Proof.Machine

/-- The pointer tag of a fmt code (R37, R66). -/
def vTag (fmt : BitVec 3) : Nat := fmt.toNat + 1
/-- The element width of a fmt code in bits (R37). -/
def vW (fmt : BitVec 3) : Nat := 8 * elemSize (vTag fmt)
/-- Whether a fmt code is a float format (R37). -/
def vFloat (fmt : BitVec 3) : Bool := fmt.toNat < 5

/-- Which formats an instruction admits (R39). -/
inductive FClass where
  | both
  | float
  | int
deriving DecidableEq, Repr

/-- The format class check (R39, R42 step 8). -/
def needFmt (c : FClass) (fmt : BitVec 3) (w : BitVec 32) : M Unit :=
  trapIf (match c with
    | .both => false
    | .float => !vFloat fmt
    | .int => vFloat fmt) .vectorFormat (tvw w)

/-- A lane operation by the format: the float one under RNE, or the integer one, whose result wraps (R100, R101). -/
def byFmt (tag : Nat) (fl : FFmt → Nat) (int : Nat → Int) : Nat :=
  match floatFmt tag with
  | some f => fl f
  | none => wrapTo (8 * elemSize tag) (int (8 * elemSize tag))

/-- a + b. -/
def lAdd (t x y : Nat) : Nat := byFmt t (fun f => (f.fadd .rne x y).1) fun w => signed w x + signed w y
/-- a - b. -/
def lSub (t x y : Nat) : Nat := byFmt t (fun f => (f.fsub .rne x y).1) fun w => signed w x - signed w y
/-- a * b. -/
def lMul (t x y : Nat) : Nat := byFmt t (fun f => (f.fmul .rne x y).1) fun w => signed w x * signed w y
/-- d + a * b, fused. -/
def lFma (t x y d : Nat) : Nat := byFmt t (fun f => (f.ffma .rne false x y false d).1) fun w => signed w d + signed w x * signed w y
/-- a * b - d, fused. -/
def lFms (t x y d : Nat) : Nat := byFmt t (fun f => (f.ffma .rne false x y true d).1) fun w => signed w x * signed w y - signed w d
/-- d - a * b, fused. -/
def lFnma (t x y d : Nat) : Nat := byFmt t (fun f => (f.ffma .rne true x y false d).1) fun w => signed w d - signed w x * signed w y
/-- The smaller or the larger of a and b. -/
def lMinMax (mx : Bool) (t x y : Nat) : Nat :=
  byFmt t (fun f => (f.fminmax mx x y).1) fun w => if mx then max (signed w x) (signed w y) else min (signed w x) (signed w y)
/-- The absolute value; the sign bit of every float code is cleared. -/
def lAbs (t x : Nat) : Nat := byFmt t (fun f => x % 2 ^ (f.width - 1)) fun w => ((signed w x).natAbs : Int)
/-- The negation; the sign bit of every float code flips. -/
def lNeg (t x : Nat) : Nat := byFmt t (fun f => x ^^^ 2 ^ (f.width - 1)) fun w => -signed w x
/-- a / b. -/
def lDiv (t x y : Nat) : Nat := byFmt t (fun f => (f.fdiv .rne x y).1) fun _ => 0
/-- The square root. -/
def lSqrt (t x : Nat) : Nat := byFmt t (fun f => (f.fsqrt .rne x).1) fun _ => 0
/-- 1 / a. -/
def lRcp (t x : Nat) : Nat := byFmt t (fun f => (f.fdiv .rne (f.bias * 2 ^ f.mb) x).1) fun _ => 0

/-- The largest number whose 256th power is at most `2 ^ e`, built from `n` bits down (R103). -/
def root256 (e : Nat) : Nat → Nat → Nat
  | 0, r => r
  | n + 1, r => root256 e n (if (r + 2 ^ n) ^ 256 ≤ 2 ^ e then r + 2 ^ n else r)

/-- The table of VEXP2: 2^(j/256) rounded RNE to FP32 (R103). -/
def exp2Tab (j : Nat) : Nat := 126 * 2 ^ 23 + (root256 (24 * 256 + j) 25 0 + 1) / 2

/-- 2^a by the algorithm of R103. -/
def exp2Of (f : FFmt) (x : Nat) : Nat :=
  match f.decode x with
  | .nan _ => f.nanCode
  | .inf neg => if neg then 0 else f.infCode
  | .fin neg m e =>
    let sm : Int := if neg then -(m : Int) else m
    let (j, rem) : Int × Nat := if 0 ≤ e + 8 then (sm * (2 ^ (min (e + 8) 400).toNat : Nat), 0)
      else (sm / (2 ^ (-(e + 8)).toNat : Nat), (sm % (2 ^ (-(e + 8)).toNat : Nat)).toNat)
    let n := j / 256
    let r : FVal := .fin false rem e
    let c := fp32.decode (exp2Tab (j - 256 * n).toNat)
    let p := fp32.decode (fp32.ofVal .rne (FVal.add .rne (FVal.mul (fp32.decode 0x3E75FDF0) r).1 (fp32.decode 0x3F317218)).1).1
    let p := fp32.decode (fp32.ofVal .rne (FVal.mul p r).1).1
    let y := fp32.decode (fp32.ofVal .rne (FVal.add .rne (FVal.mul c p).1 c).1).1
    match y with
    | .fin ng k ey => (f.ofVal .rne (.fin ng k (ey + max (-2000) (min 2000 n)))).1
    | v => (f.ofVal .rne v).1

/-- 2^a of a lane. -/
def lExp2 (t x : Nat) : Nat := byFmt t (fun f => exp2Of f x) fun _ => 0
/-- Shifts by the low log2(w) bits of b (R99). -/
def lShl (t x y : Nat) : Nat := let w := 8 * elemSize t; x * 2 ^ (y % w) % 2 ^ w
/-- Logical right shift. -/
def lShr (t x y : Nat) : Nat := let w := 8 * elemSize t; x % 2 ^ w / 2 ^ (y % w)
/-- Arithmetic right shift. -/
def lSra (t x y : Nat) : Nat := let w := 8 * elemSize t; wrapTo w (signed w x / (2 ^ (y % w) : Nat))
/-- a = b, a < b, a <= b (R102). -/
def lEq (t x y : Nat) : Bool := match floatFmt t with
  | some f => (f.feq x y).1
  | none => x == y
/-- a < b. -/
def lLt (t x y : Nat) : Bool := match floatFmt t with
  | some f => (f.flt x y).1
  | none => decide (signed (8 * elemSize t) x < signed (8 * elemSize t) y)
/-- a <= b. -/
def lLe (t x y : Nat) : Bool := match floatFmt t with
  | some f => (f.fle x y).1
  | none => decide (signed (8 * elemSize t) x ≤ signed (8 * elemSize t) y)
/-- The class code (R102). -/
def lClass (t x : Nat) : Nat := byFmt t (fun f => f.classCode x) fun _ => 0

/-- What the destination keeps where the predicate is 0 (R98). -/
def merge (w : Nat) (p : BitVec 32) (xs : List Nat) (old : VWord) : VWord :=
  ofLanes w (xs.zipIdx.map fun e => if bitAt p.toNat e.2 then e.1 else lane w old e.2)

/-- The old destination, when it is read: under a predicate or by a fused form (R98). -/
def oldV (pred : BitVec 3) (must : Bool) (vd : BitVec 4) : M VWord :=
  if pred = 0 && !must then pure 0 else getV vd.toNat
/-- The old destination as a source (R98). -/
def oldSrc (pred : BitVec 3) (must : Bool) (vd : BitVec 4) : List (Nat × Bool) :=
  if pred = 0 && !must then [] else [(vr vd, false)]

/-- Give a vector result to its destination, at once or when it lands (R105). -/
def giveV (late : Bool) (vd : BitVec 4) (v : VWord) : M Unit :=
  if late then setLater (vr vd) v.toNat 0 { div := true } else setV vd.toNat v

/-- A lane-wise instruction of one source (R99). -/
def vUn (c : FClass) (late : Bool) (f : Nat → Nat → Nat) (pred : BitVec 3) (eb1 : BitVec 1) (va : BitVec 4) (fmt : BitVec 3) (vd : BitVec 4)
    (w : BitVec 32) : M Unit := do
  needL w
  needFmt c fmt w
  regs ((vr va, ebOn eb1) :: oldSrc pred false vd) [vr vd]
  let p ← getP pred.toNat
  let a ← getV va.toNat (ebOn eb1)
  let d ← oldV pred false vd
  giveV late vd (merge (vW fmt) p ((lanes (vW fmt) a).map (f (vTag fmt))) d)

/-- The lanes of a result of two sources and the old destination. -/
def lanes3 (w : Nat) (f : Nat → Nat → Nat → Nat) (a b d : VWord) : List Nat :=
  (List.range (256 / w)).map fun i => f (lane w a i) (lane w b i) (lane w d i)

/-- A lane-wise instruction of two sources, or of three with the old destination (R99). -/
def vBin (c : FClass) (late fused : Bool) (f : Nat → Nat → Nat → Nat → Nat) (pred : BitVec 3) (eb2 eb1 : BitVec 1) (vb va : BitVec 4)
    (fmt : BitVec 3) (vd : BitVec 4) (w : BitVec 32) : M Unit := do
  needL w
  needFmt c fmt w
  regs ((vr va, ebOn eb1) :: (vr vb, ebOn eb2) :: oldSrc pred fused vd) [vr vd]
  let p ← getP pred.toNat
  let a ← getV va.toNat (ebOn eb1)
  let b ← getV vb.toNat (ebOn eb2)
  let d ← oldV pred fused vd
  giveV late vd (merge (vW fmt) p (lanes3 (vW fmt) (f (vTag fmt)) a b d) d)

/-- A comparison into a predicate register (R102). -/
def vCmp (f : Nat → Nat → Nat → Bool) (pred : BitVec 3) (eb2 eb1 : BitVec 1) (vb va : BitVec 4) (fmt : BitVec 3) (vd : BitVec 4)
    (w : BitVec 32) : M Unit := do
  needL w
  regs [(vr va, ebOn eb1), (vr vb, ebOn eb2)] []
  let p ← getP pred.toNat
  let a ← getV va.toNat (ebOn eb1)
  let b ← getV vb.toNat (ebOn eb2)
  let n := vW fmt
  setP vd.toNat (BitVec.ofNat 32 (packLanes 1 ((List.range (256 / n)).map fun i =>
    b2n (bitAt p.toNat i && f (vTag fmt) (lane n a i) (lane n b i)))))

/-- The scalar register that a 4-bit field names under a format (R99). -/
def scalarReg (fmt : BitVec 3) (n : BitVec 4) : Nat := if vFloat fmt then 256 + n.toNat else n.toNat
/-- The scalar's value. -/
def getScalar (fmt : BitVec 3) (n : BitVec 4) (eb : Bool) : M Word :=
  if vFloat fmt then getF (n.setWidth 5) eb else getX (n.setWidth 5)

/-- One level of the pairwise tree over present and absent lanes (R104). -/
def treeLevel (f : Nat → Nat → Nat) : List (Option Nat) → List (Option Nat)
  | x :: y :: r => (match x, y with
    | some a, some b => some (f a b)
    | some a, none => some a
    | none, b => b) :: treeLevel f r
  | r => r
/-- The pairwise tree. -/
def tree (f : Nat → Nat → Nat) : Nat → List (Option Nat) → Option Nat
  | 0, xs => (xs.head?).getD none
  | n + 1, xs => if xs.length ≤ 1 then (xs.head?).getD none else tree f n (treeLevel f xs)

/-- The value of VRMAX with every lane absent (R104). -/
def lLeast (t : Nat) : Nat := match floatFmt t with
  | some f => f.withSign true (if f.ieee then f.infCode else f.maxCode)
  | none => 2 ^ (8 * elemSize t - 1)

/-- A reduction (R104): `absent` for an absent lane, if it takes part; `none_` for no lane at all. -/
def vRed (f : Nat → Nat → Nat → Nat) (absent : Option Nat) (none_ : Nat → Nat) (pred : BitVec 3) (eb1 : BitVec 1) (va : BitVec 4)
    (fmt : BitVec 3) (vd : BitVec 4) (w : BitVec 32) : M Unit := do
  needL w
  regs [(vr va, ebOn eb1)] [vr vd]
  let p ← getP pred.toNat
  let a ← getV va.toNat (ebOn eb1)
  let xs := (lanes (vW fmt) a).zipIdx.map fun e => if bitAt p.toNat e.2 then some e.1 else absent
  setV vd.toNat (ofLanes (vW fmt) [(tree (f (vTag fmt)) 5 xs).getD (none_ (vTag fmt))])


/-- The sum of each lane (R99). -/
def vaddM (pred : BitVec 3) (eb2 eb1 : BitVec 1) (vb va : BitVec 4) (fmt : BitVec 3) (vd : BitVec 4) : M Unit :=
  vBin .both false false (fun t x y _ => lAdd t x y) pred eb2 eb1 vb va fmt vd (encode (.vadd pred eb2 eb1 vb va fmt vd))
/-- VADD as an instruction (R99). -/
def execVadd (pred : BitVec 3) (eb2 eb1 : BitVec 1) (vb va : BitVec 4) (fmt : BitVec 3) (vd : BitVec 4) (s : State) : Out :=
  run (do
    noRepeat
    vaddM pred eb2 eb1 vb va fmt vd) s

/-- The difference of each lane (R99). -/
def vsubM (pred : BitVec 3) (eb2 eb1 : BitVec 1) (vb va : BitVec 4) (fmt : BitVec 3) (vd : BitVec 4) : M Unit :=
  vBin .both false false (fun t x y _ => lSub t x y) pred eb2 eb1 vb va fmt vd (encode (.vsub pred eb2 eb1 vb va fmt vd))
/-- VSUB as an instruction (R99). -/
def execVsub (pred : BitVec 3) (eb2 eb1 : BitVec 1) (vb va : BitVec 4) (fmt : BitVec 3) (vd : BitVec 4) (s : State) : Out :=
  run (do
    noRepeat
    vsubM pred eb2 eb1 vb va fmt vd) s

/-- The product of each lane (R99). -/
def vmulM (pred : BitVec 3) (eb2 eb1 : BitVec 1) (vb va : BitVec 4) (fmt : BitVec 3) (vd : BitVec 4) : M Unit :=
  vBin .both false false (fun t x y _ => lMul t x y) pred eb2 eb1 vb va fmt vd (encode (.vmul pred eb2 eb1 vb va fmt vd))
/-- VMUL as an instruction (R99). -/
def execVmul (pred : BitVec 3) (eb2 eb1 : BitVec 1) (vb va : BitVec 4) (fmt : BitVec 3) (vd : BitVec 4) (s : State) : Out :=
  run (do
    noRepeat
    vmulM pred eb2 eb1 vb va fmt vd) s

/-- d + a * b per lane (R99). -/
def vfmaM (pred : BitVec 3) (eb2 eb1 : BitVec 1) (vb va : BitVec 4) (fmt : BitVec 3) (vd : BitVec 4) : M Unit :=
  vBin .both false true lFma pred eb2 eb1 vb va fmt vd (encode (.vfma pred eb2 eb1 vb va fmt vd))
/-- VFMA as an instruction (R99). -/
def execVfma (pred : BitVec 3) (eb2 eb1 : BitVec 1) (vb va : BitVec 4) (fmt : BitVec 3) (vd : BitVec 4) (s : State) : Out :=
  run (do
    noRepeat
    vfmaM pred eb2 eb1 vb va fmt vd) s

/-- a * b - d per lane (R99). -/
def vfmsM (pred : BitVec 3) (eb2 eb1 : BitVec 1) (vb va : BitVec 4) (fmt : BitVec 3) (vd : BitVec 4) : M Unit :=
  vBin .both false true lFms pred eb2 eb1 vb va fmt vd (encode (.vfms pred eb2 eb1 vb va fmt vd))
/-- VFMS as an instruction (R99). -/
def execVfms (pred : BitVec 3) (eb2 eb1 : BitVec 1) (vb va : BitVec 4) (fmt : BitVec 3) (vd : BitVec 4) (s : State) : Out :=
  run (do
    noRepeat
    vfmsM pred eb2 eb1 vb va fmt vd) s

/-- d - a * b per lane (R99). -/
def vfnmaM (pred : BitVec 3) (eb2 eb1 : BitVec 1) (vb va : BitVec 4) (fmt : BitVec 3) (vd : BitVec 4) : M Unit :=
  vBin .both false true lFnma pred eb2 eb1 vb va fmt vd (encode (.vfnma pred eb2 eb1 vb va fmt vd))
/-- VFNMA as an instruction (R99). -/
def execVfnma (pred : BitVec 3) (eb2 eb1 : BitVec 1) (vb va : BitVec 4) (fmt : BitVec 3) (vd : BitVec 4) (s : State) : Out :=
  run (do
    noRepeat
    vfnmaM pred eb2 eb1 vb va fmt vd) s

/-- The smaller of each lane (R100). -/
def vminM (pred : BitVec 3) (eb2 eb1 : BitVec 1) (vb va : BitVec 4) (fmt : BitVec 3) (vd : BitVec 4) : M Unit :=
  vBin .both false false (fun t x y _ => lMinMax false t x y) pred eb2 eb1 vb va fmt vd (encode (.vmin pred eb2 eb1 vb va fmt vd))
/-- VMIN as an instruction (R100). -/
def execVmin (pred : BitVec 3) (eb2 eb1 : BitVec 1) (vb va : BitVec 4) (fmt : BitVec 3) (vd : BitVec 4) (s : State) : Out :=
  run (do
    noRepeat
    vminM pred eb2 eb1 vb va fmt vd) s

/-- The larger of each lane (R100). -/
def vmaxM (pred : BitVec 3) (eb2 eb1 : BitVec 1) (vb va : BitVec 4) (fmt : BitVec 3) (vd : BitVec 4) : M Unit :=
  vBin .both false false (fun t x y _ => lMinMax true t x y) pred eb2 eb1 vb va fmt vd (encode (.vmax pred eb2 eb1 vb va fmt vd))
/-- VMAX as an instruction (R100). -/
def execVmax (pred : BitVec 3) (eb2 eb1 : BitVec 1) (vb va : BitVec 4) (fmt : BitVec 3) (vd : BitVec 4) (s : State) : Out :=
  run (do
    noRepeat
    vmaxM pred eb2 eb1 vb va fmt vd) s

/-- The absolute value of each lane (R99). -/
def vabsM (pred : BitVec 3) (eb2 eb1 : BitVec 1) (vb va : BitVec 4) (fmt : BitVec 3) (vd : BitVec 4) : M Unit :=
  vUn .both false lAbs pred eb1 va fmt vd (encode (.vabs pred eb2 eb1 vb va fmt vd))
/-- VABS as an instruction (R99). -/
def execVabs (pred : BitVec 3) (eb2 eb1 : BitVec 1) (vb va : BitVec 4) (fmt : BitVec 3) (vd : BitVec 4) (s : State) : Out :=
  run (do
    noRepeat
    vabsM pred eb2 eb1 vb va fmt vd) s

/-- The negation of each lane (R99). -/
def vnegM (pred : BitVec 3) (eb2 eb1 : BitVec 1) (vb va : BitVec 4) (fmt : BitVec 3) (vd : BitVec 4) : M Unit :=
  vUn .both false lNeg pred eb1 va fmt vd (encode (.vneg pred eb2 eb1 vb va fmt vd))
/-- VNEG as an instruction (R99). -/
def execVneg (pred : BitVec 3) (eb2 eb1 : BitVec 1) (vb va : BitVec 4) (fmt : BitVec 3) (vd : BitVec 4) (s : State) : Out :=
  run (do
    noRepeat
    vnegM pred eb2 eb1 vb va fmt vd) s

/-- The quotient of each lane (R100). -/
def vdivM (pred : BitVec 3) (eb2 eb1 : BitVec 1) (vb va : BitVec 4) (fmt : BitVec 3) (vd : BitVec 4) : M Unit :=
  vBin .float true false (fun t x y _ => lDiv t x y) pred eb2 eb1 vb va fmt vd (encode (.vdiv pred eb2 eb1 vb va fmt vd))
/-- VDIV as an instruction (R100). -/
def execVdiv (pred : BitVec 3) (eb2 eb1 : BitVec 1) (vb va : BitVec 4) (fmt : BitVec 3) (vd : BitVec 4) (s : State) : Out :=
  run (do
    noRepeat
    vdivM pred eb2 eb1 vb va fmt vd) s

/-- The square root of each lane (R100). -/
def vsqrtM (pred : BitVec 3) (eb2 eb1 : BitVec 1) (vb va : BitVec 4) (fmt : BitVec 3) (vd : BitVec 4) : M Unit :=
  vUn .float true lSqrt pred eb1 va fmt vd (encode (.vsqrt pred eb2 eb1 vb va fmt vd))
/-- VSQRT as an instruction (R100). -/
def execVsqrt (pred : BitVec 3) (eb2 eb1 : BitVec 1) (vb va : BitVec 4) (fmt : BitVec 3) (vd : BitVec 4) (s : State) : Out :=
  run (do
    noRepeat
    vsqrtM pred eb2 eb1 vb va fmt vd) s

/-- The reciprocal of each lane (R100). -/
def vrcpM (pred : BitVec 3) (eb2 eb1 : BitVec 1) (vb va : BitVec 4) (fmt : BitVec 3) (vd : BitVec 4) : M Unit :=
  vUn .float true lRcp pred eb1 va fmt vd (encode (.vrcp pred eb2 eb1 vb va fmt vd))
/-- VRCP as an instruction (R100). -/
def execVrcp (pred : BitVec 3) (eb2 eb1 : BitVec 1) (vb va : BitVec 4) (fmt : BitVec 3) (vd : BitVec 4) (s : State) : Out :=
  run (do
    noRepeat
    vrcpM pred eb2 eb1 vb va fmt vd) s

/-- 2^a of each lane (R103). -/
def vexp2M (pred : BitVec 3) (eb2 eb1 : BitVec 1) (vb va : BitVec 4) (fmt : BitVec 3) (vd : BitVec 4) : M Unit :=
  vUn .float true lExp2 pred eb1 va fmt vd (encode (.vexp2 pred eb2 eb1 vb va fmt vd))
/-- VEXP2 as an instruction (R103). -/
def execVexp2 (pred : BitVec 3) (eb2 eb1 : BitVec 1) (vb va : BitVec 4) (fmt : BitVec 3) (vd : BitVec 4) (s : State) : Out :=
  run (do
    noRepeat
    vexp2M pred eb2 eb1 vb va fmt vd) s

/-- a = b per lane into a predicate register (R102). -/
def vceqM (pred : BitVec 3) (eb2 eb1 : BitVec 1) (vb va : BitVec 4) (fmt : BitVec 3) (vd : BitVec 4) : M Unit :=
  vCmp lEq pred eb2 eb1 vb va fmt vd (encode (.vceq pred eb2 eb1 vb va fmt vd))
/-- VCEQ as an instruction (R102). -/
def execVceq (pred : BitVec 3) (eb2 eb1 : BitVec 1) (vb va : BitVec 4) (fmt : BitVec 3) (vd : BitVec 4) (s : State) : Out :=
  run (do
    noRepeat
    vceqM pred eb2 eb1 vb va fmt vd) s

/-- a < b per lane into a predicate register (R102). -/
def vcltM (pred : BitVec 3) (eb2 eb1 : BitVec 1) (vb va : BitVec 4) (fmt : BitVec 3) (vd : BitVec 4) : M Unit :=
  vCmp lLt pred eb2 eb1 vb va fmt vd (encode (.vclt pred eb2 eb1 vb va fmt vd))
/-- VCLT as an instruction (R102). -/
def execVclt (pred : BitVec 3) (eb2 eb1 : BitVec 1) (vb va : BitVec 4) (fmt : BitVec 3) (vd : BitVec 4) (s : State) : Out :=
  run (do
    noRepeat
    vcltM pred eb2 eb1 vb va fmt vd) s

/-- a <= b per lane into a predicate register (R102). -/
def vcleM (pred : BitVec 3) (eb2 eb1 : BitVec 1) (vb va : BitVec 4) (fmt : BitVec 3) (vd : BitVec 4) : M Unit :=
  vCmp lLe pred eb2 eb1 vb va fmt vd (encode (.vcle pred eb2 eb1 vb va fmt vd))
/-- VCLE as an instruction (R102). -/
def execVcle (pred : BitVec 3) (eb2 eb1 : BitVec 1) (vb va : BitVec 4) (fmt : BitVec 3) (vd : BitVec 4) (s : State) : Out :=
  run (do
    noRepeat
    vcleM pred eb2 eb1 vb va fmt vd) s

/-- Bitwise and (R99). -/
def vandM (pred : BitVec 3) (eb2 eb1 : BitVec 1) (vb va : BitVec 4) (fmt : BitVec 3) (vd : BitVec 4) : M Unit :=
  vBin .int false false (fun _ x y _ => x &&& y) pred eb2 eb1 vb va fmt vd (encode (.vand pred eb2 eb1 vb va fmt vd))
/-- VAND as an instruction (R99). -/
def execVand (pred : BitVec 3) (eb2 eb1 : BitVec 1) (vb va : BitVec 4) (fmt : BitVec 3) (vd : BitVec 4) (s : State) : Out :=
  run (do
    noRepeat
    vandM pred eb2 eb1 vb va fmt vd) s

/-- Bitwise or (R99). -/
def vorM (pred : BitVec 3) (eb2 eb1 : BitVec 1) (vb va : BitVec 4) (fmt : BitVec 3) (vd : BitVec 4) : M Unit :=
  vBin .int false false (fun _ x y _ => x ||| y) pred eb2 eb1 vb va fmt vd (encode (.vor pred eb2 eb1 vb va fmt vd))
/-- VOR as an instruction (R99). -/
def execVor (pred : BitVec 3) (eb2 eb1 : BitVec 1) (vb va : BitVec 4) (fmt : BitVec 3) (vd : BitVec 4) (s : State) : Out :=
  run (do
    noRepeat
    vorM pred eb2 eb1 vb va fmt vd) s

/-- Bitwise exclusive-or (R99). -/
def vxorM (pred : BitVec 3) (eb2 eb1 : BitVec 1) (vb va : BitVec 4) (fmt : BitVec 3) (vd : BitVec 4) : M Unit :=
  vBin .int false false (fun _ x y _ => x ^^^ y) pred eb2 eb1 vb va fmt vd (encode (.vxor pred eb2 eb1 vb va fmt vd))
/-- VXOR as an instruction (R99). -/
def execVxor (pred : BitVec 3) (eb2 eb1 : BitVec 1) (vb va : BitVec 4) (fmt : BitVec 3) (vd : BitVec 4) (s : State) : Out :=
  run (do
    noRepeat
    vxorM pred eb2 eb1 vb va fmt vd) s

/-- Left shift (R99). -/
def vshlM (pred : BitVec 3) (eb2 eb1 : BitVec 1) (vb va : BitVec 4) (fmt : BitVec 3) (vd : BitVec 4) : M Unit :=
  vBin .int false false (fun t x y _ => lShl t x y) pred eb2 eb1 vb va fmt vd (encode (.vshl pred eb2 eb1 vb va fmt vd))
/-- VSHL as an instruction (R99). -/
def execVshl (pred : BitVec 3) (eb2 eb1 : BitVec 1) (vb va : BitVec 4) (fmt : BitVec 3) (vd : BitVec 4) (s : State) : Out :=
  run (do
    noRepeat
    vshlM pred eb2 eb1 vb va fmt vd) s

/-- Logical right shift (R99). -/
def vshrM (pred : BitVec 3) (eb2 eb1 : BitVec 1) (vb va : BitVec 4) (fmt : BitVec 3) (vd : BitVec 4) : M Unit :=
  vBin .int false false (fun t x y _ => lShr t x y) pred eb2 eb1 vb va fmt vd (encode (.vshr pred eb2 eb1 vb va fmt vd))
/-- VSHR as an instruction (R99). -/
def execVshr (pred : BitVec 3) (eb2 eb1 : BitVec 1) (vb va : BitVec 4) (fmt : BitVec 3) (vd : BitVec 4) (s : State) : Out :=
  run (do
    noRepeat
    vshrM pred eb2 eb1 vb va fmt vd) s

/-- Arithmetic right shift (R99). -/
def vsraM (pred : BitVec 3) (eb2 eb1 : BitVec 1) (vb va : BitVec 4) (fmt : BitVec 3) (vd : BitVec 4) : M Unit :=
  vBin .int false false (fun t x y _ => lSra t x y) pred eb2 eb1 vb va fmt vd (encode (.vsra pred eb2 eb1 vb va fmt vd))
/-- VSRA as an instruction (R99). -/
def execVsra (pred : BitVec 3) (eb2 eb1 : BitVec 1) (vb va : BitVec 4) (fmt : BitVec 3) (vd : BitVec 4) (s : State) : Out :=
  run (do
    noRepeat
    vsraM pred eb2 eb1 vb va fmt vd) s

/-- a where the predicate is 1, else b; every lane written (R99). -/
def vselM (pred : BitVec 3) (eb2 eb1 : BitVec 1) (vb va : BitVec 4) (fmt : BitVec 3) (vd : BitVec 4) : M Unit :=
  do
  needL (encode (.vsel pred eb2 eb1 vb va fmt vd))
  regs [(vr va, ebOn eb1), (vr vb, ebOn eb2)] [vr vd]
  let p ← getP pred.toNat
  let a ← getV va.toNat (ebOn eb1)
  let b ← getV vb.toNat (ebOn eb2)
  setV vd.toNat (merge (vW fmt) p (lanes (vW fmt) a) b)
/-- VSEL as an instruction (R99). -/
def execVsel (pred : BitVec 3) (eb2 eb1 : BitVec 1) (vb va : BitVec 4) (fmt : BitVec 3) (vd : BitVec 4) (s : State) : Out :=
  run (do
    noRepeat
    vselM pred eb2 eb1 vb va fmt vd) s

/-- Lane (b mod lanes) of va (R99). -/
def vpermM (pred : BitVec 3) (eb2 eb1 : BitVec 1) (vb va : BitVec 4) (fmt : BitVec 3) (vd : BitVec 4) : M Unit :=
  do
  needL (encode (.vperm pred eb2 eb1 vb va fmt vd))
  regs ((vr va, ebOn eb1) :: (vr vb, ebOn eb2) :: oldSrc pred false vd) [vr vd]
  let p ← getP pred.toNat
  let a ← getV va.toNat (ebOn eb1)
  let b ← getV vb.toNat (ebOn eb2)
  let d ← oldV pred false vd
  let n := vW fmt
  setV vd.toNat (merge n p ((lanes n b).map fun i => lane n a (i % (256 / n))) d)
/-- VPERM as an instruction (R99). -/
def execVperm (pred : BitVec 3) (eb2 eb1 : BitVec 1) (vb va : BitVec 4) (fmt : BitVec 3) (vd : BitVec 4) (s : State) : Out :=
  run (do
    noRepeat
    vpermM pred eb2 eb1 vb va fmt vd) s

/-- A scalar copied into every lane (R99). -/
def vsplatM (pred : BitVec 3) (eb2 eb1 : BitVec 1) (vb va : BitVec 4) (fmt : BitVec 3) (vd : BitVec 4) : M Unit :=
  do
  needL (encode (.vsplat pred eb2 eb1 vb va fmt vd))
  regs ((scalarReg fmt va, ebOn eb1) :: oldSrc pred false vd) [vr vd]
  let p ← getP pred.toNat
  let a ← getScalar fmt va (ebOn eb1)
  let d ← oldV pred false vd
  setV vd.toNat (merge (vW fmt) p (List.replicate (256 / vW fmt) a.toNat) d)
/-- VSPLAT as an instruction (R99). -/
def execVsplat (pred : BitVec 3) (eb2 eb1 : BitVec 1) (vb va : BitVec 4) (fmt : BitVec 3) (vd : BitVec 4) (s : State) : Out :=
  run (do
    noRepeat
    vsplatM pred eb2 eb1 vb va fmt vd) s

/-- One lane into a scalar register (R101). -/
def vextrM (pred : BitVec 3) (eb2 eb1 : BitVec 1) (vb va : BitVec 4) (fmt : BitVec 3) (vd : BitVec 4) : M Unit :=
  do
  needL (encode (.vextr pred eb2 eb1 vb va fmt vd))
  regs [(vr va, ebOn eb1), (vb.toNat, ebOn eb2)] [scalarReg fmt vd]
  let a ← getV va.toNat (ebOn eb1)
  let i ← getX (vb.setWidth 5)
  let n := vW fmt
  let v := lane n a (i.toNat % (256 / n))
  if vFloat fmt then setF (vd.setWidth 5) (BitVec.ofNat 64 v) else setX (vd.setWidth 5) (sextW n (BitVec.ofNat 64 v))
/-- VEXTR as an instruction (R101). -/
def execVextr (pred : BitVec 3) (eb2 eb1 : BitVec 1) (vb va : BitVec 4) (fmt : BitVec 3) (vd : BitVec 4) (s : State) : Out :=
  run (do
    noRepeat
    vextrM pred eb2 eb1 vb va fmt vd) s

/-- A scalar into one lane of vd (R99). -/
def vinsM (pred : BitVec 3) (eb2 eb1 : BitVec 1) (vb va : BitVec 4) (fmt : BitVec 3) (vd : BitVec 4) : M Unit :=
  do
  needL (encode (.vins pred eb2 eb1 vb va fmt vd))
  regs [(scalarReg fmt va, ebOn eb1), (vb.toNat, ebOn eb2), (vr vd, false)] [vr vd]
  let a ← getScalar fmt va (ebOn eb1)
  let i ← getX (vb.setWidth 5)
  let d ← getV vd.toNat
  let n := vW fmt
  setV vd.toNat (ofLanes n (listSet (lanes n d) (i.toNat % (256 / n)) a.toNat))
/-- VINS as an instruction (R99). -/
def execVins (pred : BitVec 3) (eb2 eb1 : BitVec 1) (vb va : BitVec 4) (fmt : BitVec 3) (vd : BitVec 4) (s : State) : Out :=
  run (do
    noRepeat
    vinsM pred eb2 eb1 vb va fmt vd) s

/-- The tree sum of the lanes into lane 0 (R104). -/
def vrsumM (pred : BitVec 3) (eb2 eb1 : BitVec 1) (vb va : BitVec 4) (fmt : BitVec 3) (vd : BitVec 4) : M Unit :=
  vRed lAdd (some 0) (fun _ => 0) pred eb1 va fmt vd (encode (.vrsum pred eb2 eb1 vb va fmt vd))
/-- VRSUM as an instruction (R104). -/
def execVrsum (pred : BitVec 3) (eb2 eb1 : BitVec 1) (vb va : BitVec 4) (fmt : BitVec 3) (vd : BitVec 4) (s : State) : Out :=
  run (do
    noRepeat
    vrsumM pred eb2 eb1 vb va fmt vd) s

/-- The tree maximum of the lanes into lane 0 (R104). -/
def vrmaxM (pred : BitVec 3) (eb2 eb1 : BitVec 1) (vb va : BitVec 4) (fmt : BitVec 3) (vd : BitVec 4) : M Unit :=
  vRed (lMinMax true) none lLeast pred eb1 va fmt vd (encode (.vrmax pred eb2 eb1 vb va fmt vd))
/-- VRMAX as an instruction (R104). -/
def execVrmax (pred : BitVec 3) (eb2 eb1 : BitVec 1) (vb va : BitVec 4) (fmt : BitVec 3) (vd : BitVec 4) (s : State) : Out :=
  run (do
    noRepeat
    vrmaxM pred eb2 eb1 vb va fmt vd) s

/-- The lanes copied (R99). -/
def vmovM (pred : BitVec 3) (eb2 eb1 : BitVec 1) (vb va : BitVec 4) (fmt : BitVec 3) (vd : BitVec 4) : M Unit :=
  vUn .both false (fun _ x => x) pred eb1 va fmt vd (encode (.vmov pred eb2 eb1 vb va fmt vd))
/-- VMOV as an instruction (R99). -/
def execVmov (pred : BitVec 3) (eb2 eb1 : BitVec 1) (vb va : BitVec 4) (fmt : BitVec 3) (vd : BitVec 4) (s : State) : Out :=
  run (do
    noRepeat
    vmovM pred eb2 eb1 vb va fmt vd) s

/-- The class code of each lane (R102). -/
def vclassM (pred : BitVec 3) (eb2 eb1 : BitVec 1) (vb va : BitVec 4) (fmt : BitVec 3) (vd : BitVec 4) : M Unit :=
  vUn .float false lClass pred eb1 va fmt vd (encode (.vclass pred eb2 eb1 vb va fmt vd))
/-- VCLASS as an instruction (R102). -/
def execVclass (pred : BitVec 3) (eb2 eb1 : BitVec 1) (vb va : BitVec 4) (fmt : BitVec 3) (vd : BitVec 4) (s : State) : Out :=
  run (do
    noRepeat
    vclassM pred eb2 eb1 vb va fmt vd) s

end Sys2Proof.Machine
end

