-- ==== Sys2Proof/Machine/Convert.lean ====
section
/-! DEFINITION. The conversion instructions (R90 to R96). -/

namespace Sys2Proof.Machine

/-- The target and source tags of a conversion pair (R41, R66). -/
def pairOf (b : Nat) : Nat × Nat :=
  ([(2, 1), (3, 1), (4, 1), (5, 1), (6, 1), (7, 1), (8, 1), (1, 2), (1, 3), (1, 4), (1, 5), (1, 6), (1, 7), (1, 8), (4, 2), (5, 2),
    (2, 4), (2, 5), (4, 3), (5, 3), (3, 4), (3, 5), (3, 2), (2, 3), (7, 6), (8, 6), (8, 7), (7, 8), (6, 7), (6, 8), (5, 4), (4, 5)
    ] : List (Nat × Nat)).getD b (1, 1)

/-- The low elements of a register of `wd` bits converted by a pair (R91): the result and the union of the flags. -/
def convRegs (wd b rnd x : Nat) : Nat × Flg :=
  let (t, src) := pairOf b
  let wt := 8 * elemSize t
  let ws := 8 * elemSize src
  let ys := (List.range (wd / max wt ws)).map fun i => elemConv t src (rndOf rnd) (bits x (i * ws) ws)
  (packLanes wt (ys.map (·.1)), ys.foldl (fun f y => f.union y.2) {})

/-- CVT as a repeat body issues it (R91). -/
def cvtM (rnd : BitVec 3) (a b d : BitVec 5) : M Unit := do
  needL (encode (.cvt rnd a b d))
  regs [(vr5 a, false)] [vr5 d]
  let x ← getV a.toNat
  setV d.toNat (BitVec.ofNat 256 (convRegs 256 b.toNat rnd.toNat x.toNat).1)
/-- CVT (R91). -/
def execCvt (rnd : BitVec 3) (a b d : BitVec 5) (s : State) : Out :=
  run (do
    noRepeat
    cvtM rnd a b d) s

/-- FCVTZ as a repeat body issues it (R91): fflags gain the union of the elements' flags. -/
def fcvtzM (rnd : BitVec 3) (a b d : BitVec 5) : M Unit := do
  fLow [a, d] (encode (.fcvtz rnd a b d))
  regs [(fr a, false)] [fr d]
  let x ← getF a
  let v ← withFlags (convRegs 64 b.toNat rnd.toNat x.toNat)
  setF d (BitVec.ofNat 64 v)
/-- FCVTZ (R91). -/
def execFcvtz (rnd : BitVec 3) (a b d : BitVec 5) (s : State) : Out :=
  run (do
    noRepeat
    fcvtzM rnd a b d) s

/-- Consecutive pointers of `n` bytes each. -/
def spanPtrs (p : Word) (n cnt : Nat) : List Word := (List.range cnt).map fun i => ptrAdd p ((i * n : Nat) : Int)

/-- The window checks of R61 step 5 on the units of a span that lie outside global memory. -/
def spanWindows (n : Nat) (k : AKind) : List Word → M Unit
  | [] => pure ()
  | p :: ps => do
    let s ← get
    if 0xFFFE00000000 ≤ addrOf p then do
      let _ ← orTrap p (s.place s.org p n k)
      spanWindows n k ps
    else spanWindows n k ps

/-- The checks of R61 on the decoded pointer of a span of `cnt` units but the translation, and then a tag check (R92, R93). -/
def headCheck (p : Word) (n cnt : Nat) (k : AKind) (tagFits : Bool) : M Unit := do
  trapIf (!tagOk p) .formatReserved p
  trapIf (!blogOk (tagOf p) (blogOf p)) .blockMismatch p
  trapIf (!canonical p) .noncanonical p
  trapIf (addrOf p % n != 0) k.misaligned p
  spanWindows n k (spanPtrs p n cnt)
  trapIf (!tagFits) .vectorFormat p

/-- The translation of every unit of a span (R92 check 5). -/
def spanReach (n : Nat) (k : AKind) : List Word → M (List (Word × Reach))
  | [] => pure []
  | p :: ps => do
    let r ← orTrapS p fun s => s.place s.org p n k
    let rs ← spanReach n k ps
    pure ((p, r) :: rs)

/-- The bytes of a span, on which the pipe waits, and for the die of each unit's home (R358, R365): a line of another package is asked for and then found in the L1. The first failed unit
fails the span. -/
def readSpan (n : Nat) : List (Word × Reach) → M (Except (Cause × Word) (List Byte))
  | [] => pure (.ok [])
  | (p, r) :: rs => do
    let f ← readAt p r n
    match f with
    | .fail c => pure (.error (c, p))
    | .away pkg pa => do
      let id ← sendAccess { dpkg := pkg, va := p, kind := 3, fill := true } (lineAsk p pa r.cnt)
      updCtx fun x => { x with aw := .sent id }
      holdKeep
    | .now bs | .soon bs => do
      let s ← get
      if s.dieHolds r.spot true then (if s.dieLate r.spot true then pure (.error (.crossDieTimeout, p)) else hold)
      else do
        let more ← readSpan n rs
        pure (match more with
          | .ok bs' => .ok (bs ++ bs')
          | .error e => .error e)

/-- The first unit of a span that lies in another package and not in the L1. -/
def State.firstAway (s : State) (rs : List (Word × Reach)) : Word :=
  (rs.findSome? fun e => match e.2.spot with
    | .flat (.remote ..) => if (s.me.l1Find s.org.part s.org.job (addrOf e.1)).isNone then some e.1 else none
    | _ => none).getD 0

/-- A span read by the pipe: what a reply to an earlier line brought stands in the L1 by now; a failed reply fails the read. -/
def pipeRead (n : Nat) (rs : List (Word × Reach)) : M (Except (Cause × Word) (List Byte)) := do
  let x ← ctx
  match x.aw with
  | .sent _ => hold
  | .replied false c _ => do
    let s ← get
    updCtx fun x => { x with aw := .none }
    pure (.error (c, s.firstAway rs))
  | _ => do
    updCtx fun x => { x with aw := .none }
    watchLanes n rs
    readSpan n rs

/-- Store the units of a span, or fail whole. -/
def storeSpan (n : Nat) (parts : List ((Word × Reach) × List Byte)) (done : M Unit) : M Unit := do
  watchStores parts
  let bad ← spanRefused n (parts.map (·.1))
  match bad with
  | some e => targetFails e
  | none => do
    writeLanes parts
    done

/-- PACKB (R92). A pointer whose tag has no element or block size is checked with unit 1 and over 32 bytes (X[a]) or 18 bytes (X[b]) before its tag is refused: the
model's choice (notes/assumptions/144.md). -/
def execPackb (rnd : BitVec 3) (a b d : BitVec 5) (s : State) : Out :=
  run (do
    noRepeat
    regs [(xr a, false), (xr b, false)] [xr d]
    let p ← getX a
    let q ← getX b
    let t := tagOf p
    let u := tagOf q
    let n := elemSize t
    headCheck p n 32 .load (1 ≤ t && t ≤ 3)
    headCheck q 2 (bfpBytes u / 2) .store (u == 9 || u == 10)
    let rs ← spanReach n .load (spanPtrs p n 32)
    let ws ← spanReach 2 .store (spanPtrs q 2 (bfpBytes u / 2))
    let src ← pipeRead n rs
    match src with
    | .error e => targetFails e
    | .ok bs => do
      let blk := bfpPack u (rndOf rnd.toNat) ((List.range 32).map fun i => elemVal t (leNat (bs.drop (i * n) |>.take n)))
      let out := bfpBytesOf u blk
      storeSpan 2 (ws.zip ((List.range ws.length).map fun i => out.drop (2 * i) |>.take 2)) (setX d (BitVec.ofNat 64 (blk.2.1 * 256 + blk.1)))) s

/-- UNPKB (R93). The order of the checks is the model's choice: the block pointer X[a], which is the source, comes first as in PACKB
(notes/assumptions/28.md); a pointer whose tag has no size is checked as in PACKB (notes/assumptions/144.md). -/
def execUnpkb (a b : BitVec 5) (s : State) : Out :=
  run (do
    noRepeat
    regs [(xr a, false), (xr b, false)] []
    let p ← getX a
    let q ← getX b
    let t := tagOf p
    let u := tagOf q
    let n := elemSize u
    headCheck p 2 (bfpBytes t / 2) .load (t == 9 || t == 10)
    headCheck q n 32 .store (1 ≤ u && u ≤ 3)
    let rs ← spanReach 2 .load (spanPtrs p 2 (bfpBytes t / 2))
    let ws ← spanReach n .store (spanPtrs q n 32)
    let src ← pipeRead 2 rs
    match src with
    | .error e => targetFails e
    | .ok bs => storeSpan n (ws.zip ((bfpVals t bs).map fun v => leBytes n (elemOf u .rne v).1)) (pure ())) s

/-- LUTW (R94): the pipe waits for the bytes. -/
def execLutw (a : BitVec 5) (s : State) : Out :=
  run (do
    noRepeat
    needL (encode (.lutw a))
    regs [(xr a, false)] []
    let p ← getX a
    let src ← pipeLoad p 16
    match src with
    | .error c => targetFails (c, p)
    | .ok bs => updLsIn [5] fun l => { l with lut := bs, lutOk := true, zlutbase := p }) s

/-- LUTX as a repeat body issues it (R95). -/
def lutxM (a d : BitVec 5) : M Unit := do
  needL (encode (.lutx a d))
  regs [(vr5 a, false)] [vr5 d]
  let s ← get
  trapIf (!s.ls.lutOk) .lutUnloaded (tvw (encode (.lutx a d)))
  let x ← getV a.toNat
  setV d.toNat (ofLanes 8 ((List.range 32).map fun i => (s.ls.lut.getD (bits x.toNat (4 * i) 4) 0).toNat))
/-- LUTX (R95). -/
def execLutx (a d : BitVec 5) (s : State) : Out :=
  run (do
    noRepeat
    lutxM a d) s

/-- ZPSUB as a repeat body issues it (R96). -/
def zpsubM (a b d : BitVec 5) : M Unit := do
  needL (encode (.zpsub a b d))
  regs [(vr5 a, false), (xr b, false)] [vr5 d]
  let z ← getX b
  let n := bits z.toNat 32 3
  trapIf (n == 0) .blockMismatch z
  let x ← getV a.toNat
  let h := bits z.toNat 35 1
  setV d.toNat (ofLanes 16 ((List.range 16).map fun j =>
    let i := 16 * h + j
    wrapTo 16 ((lane 8 x i : Nat) - (bits z.toNat (8 * (i / 2 ^ (n + 2))) 8 : Nat) : Int)))
/-- ZPSUB (R96). -/
def execZpsub (a b d : BitVec 5) (s : State) : Out :=
  run (do
    noRepeat
    zpsubM a b d) s

end Sys2Proof.Machine
end

