-- ==== Sys2Proof/Machine/Ordering.lean ====
section
/-! DEFINITION. Scopes and the ordering, barrier and join instructions (R139 to R155). -/

namespace Sys2Proof.Machine

/-- The scope value that names the package (R143). -/
def packageScope : Word := 0xFFFFFFFFFFFFFFFE
/-- The scope value that names the domain (R143). -/
def domainScope : Word := 0xFFFFFFFFFFFFFFFF

/-- Whether a scope value is admitted for a core of a partition (R143). -/
def State.scopeOk (s : State) (p k : Nat) (v : Word) : Bool :=
  let n := v.toNat
  let x0 := bits n 0 16
  let y0 := bits n 16 16
  let x1 := bits n 32 16
  let y1 := bits n 48 16
  let me := s.meshWord p k
  v == packageScope || v == domainScope ||
    (decide (x0 ≤ x1) && decide (y0 ≤ y1) && decide (x1 ≤ 127) && decide (y1 ≤ 31)
      && decide (x0 ≤ bits me 0 16) && decide (bits me 0 16 ≤ x1) && decide (y0 ≤ bits me 16 16) && decide (bits me 16 16 ≤ y1)
      && (List.range (x1 + 1 - x0)).all fun i => (List.range (y1 + 1 - y0)).all fun j => (s.coreOf p (x0 + i) (y0 + j)).isSome)

/-- Check a scope; whether it is the domain. -/
def checkScope (v : Word) : M Bool := do
  let s ← get
  trapIf (!s.scopeOk s.fir.part s.cur v) .scopeInvalid v
  pure (v == domainScope)

/-- ORD.ACQ (R148). -/
def execOrdAcq (eb1 : BitVec 1) (a : BitVec 5) (s : State) : Out :=
  run (do
    noRepeat
    regs [(xr a, ebOn eb1)] []
    let v ← getX a
    let _ ← checkScope v
    readsBack
    acquire) s
/-- ORD.REL (R148). -/
def execOrdRel (eb1 : BitVec 1) (a : BitVec 5) (s : State) : Out :=
  run (do
    noRepeat
    regs [(xr a, ebOn eb1)] []
    let v ← getX a
    let dom ← checkScope v
    release dom) s
/-- ORD.FULL (R139, R148). -/
def execOrdFull (eb1 : BitVec 1) (a : BitVec 5) (s : State) : Out :=
  run (do
    noRepeat
    regs [(xr a, ebOn eb1)] []
    let v ← getX a
    let dom ← checkScope v
    fullFence dom) s

/-- LD.ACQ (R149). -/
def execLdAcq (eb2 eb1 : BitVec 1) (b a d : BitVec 5) (s : State) : Out :=
  run (do
    noRepeat
    regs [(xr a, ebOn eb1), (xr b, ebOn eb2)] [xr d]
    let sc ← getX b
    let _ ← checkScope sc
    let p ← getX a
    let v ← pipeLoad p 8
    match v with
    | .ok bs => do
      setX d (BitVec.ofNat 64 (leNat bs))
      acquire
    | .error c => targetFails (c, p)) s
/-- SD.REL (R149). -/
def execSdRel (eb2 eb1 : BitVec 1) (b a d : BitVec 5) (s : State) : Out :=
  run (do
    noRepeat
    regs [(xr a, ebOn eb1), (xr b, ebOn eb2), (xr d, false)] []
    let sc ← getX b
    let dom ← checkScope sc
    let p ← getX a
    let v ← getX d
    let bs := leBytes 8 v.toNat
    let r ← reach p 8 .store
    watch p 8 false true bs
    release dom
    let bad ← spanRefused 8 [(p, r)]
    match bad with
    | some e => targetFails e
    | none => writeTo p r bs) s

/-- Check the address of a release's object before its wait, unless its request is already sent, and wait (R141). -/
def releaseAt (chk : M Reach) : M Unit := do
  let x ← ctx
  if x.aw = .none then do
    let r ← chk
    release (match r.spot with
      | .flat (.remote ..) => true
      | _ => false)

/-- BINIT (R152). -/
def execBinit (eb2 eb1 : BitVec 1) (b a : BitVec 5) (s : State) : Out :=
  run (do
    noRepeat
    regs [(xr a, ebOn eb1), (xr b, ebOn eb2)] []
    let p ← getX a
    let n ← getX b
    trapIf (n.toNat < 1 || 65535 < n.toNat) .reservedField n
    let _ ← engine false p (ownReach p 16) { idx := 13, op := 0, size := 16, data := [n] }
    pure ()) s

/-- The arrival record with an arrival (R151): the latest last, at most 8. -/
def recordArrival (rs : List (Word × Nat)) (p : Word) (g : Nat) : List (Word × Nat) :=
  let rs := rs.filter (·.1 != p) ++ [(p, g)]
  rs.drop (rs.length - 8)

/-- BARR (R152). -/
def execBarr (eb1 : BitVec 1) (a d : BitVec 5) (s : State) : Out :=
  run (do
    noRepeat
    regs [(xr a, ebOn eb1)] [xr d]
    let p ← getX a
    releaseAt (ownReach p 16)
    let x ← ctx
    let mine := (x.arrivals.filter (·.1 == p)).map fun e => BitVec.ofNat 64 e.2
    let r ← engine false p (ownReach p 16) { idx := 13, op := 1, size := 16, data := mine }
    match r with
    | some ws => do
      let g := ws.getD 0 0
      updCtx fun x => { x with arrivals := recordArrival x.arrivals p g.toNat }
      updMe fun c => if c.inH then c else c.touch [if (c.l.arrivals.findIdx (·.1 == p)) < 2 then 6 else 7]
      setX d g
    | none => pure ()) s
/-- BWAIT (R152). -/
def execBwait (eb2 eb1 : BitVec 1) (b a : BitVec 5) (s : State) : Out :=
  run (do
    noRepeat
    needLaunch (encode (.bwait eb2 eb1 b a))
    regs [(xr a, ebOn eb1), (xr b, ebOn eb2)] []
    let p ← getX a
    let g ← getX b
    let r ← engine false p (ownReach p 16) { idx := 13, op := 2, size := 16, data := [g] }
    match r with
    | some _ => acquire
    | none => pure ()) s
/-- BTEST (R152). -/
def execBtest (eb2 eb1 : BitVec 1) (b a d : BitVec 5) (s : State) : Out :=
  run (do
    noRepeat
    regs [(xr a, ebOn eb1), (xr b, ebOn eb2)] [xr d]
    let p ← getX a
    let g ← getX b
    let r ← engine false p (ownReach p 16) { idx := 13, op := 3, size := 16, data := [g] }
    match r with
    | some ws => do
      setX d (ws.getD 0 0)
      if ws.getD 0 0 = 1 then acquire
    | none => pure ()) s

/-- JINIT (R155). -/
def execJinit (eb2 eb1 : BitVec 1) (b a : BitVec 5) (s : State) : Out :=
  run (do
    noRepeat
    regs [(xr a, ebOn eb1), (xr b, ebOn eb2)] []
    let p ← getX a
    let n ← getX b
    trapIf (n.toNat < 1 || 0xFFFFFFFF < n.toNat) .reservedField n
    releaseAt (atomicReach p 32)
    let _ ← engine false p (atomicReach p 32) { idx := 14, op := 0, size := 32, data := [n] }
    pure ()) s

/-- Where a join's continuation goes, or the cause it raises instead (R155). -/
def State.contTarget (s : State) (p : Nat) (w1 w2 : Word) : Except Cause Target :=
  let n := w2.toNat
  let pkg := bits n 48 12
  if bits w1.toNat 0 12 < 16 then .error .handlerTableRange
  else if bitAt n 62 || (!bitAt n 63 && pkg != 0) || 127 < bits n 0 16 || 31 < bits n 16 16 then .error .messageTargetInvalid
  else if bitAt n 63 && pkg != s.pkgId then (if s.domainBit p pkg 61 then .ok (.away pkg) else .error .messageTargetInvalid)
  else match s.coreOf p (bits n 0 16) (bits n 16 16) with
    | some k => .ok (.core k)
    | none => .error .messageTargetInvalid

/-- The continuation of a join that reached zero (R155): sent on the egress held, or its cause raised after the instruction. A release that
waits keeps the answer of the arrival. The model's choice, as no rule says it: a release of domain scope that fails here (R299) is raised precisely at
the JARR, whose count is already zero, so that a JARR executed again raises JOIN_UNDERFLOW (notes/assumptions/29.md). -/
def continuation (e : Egress) (p : Word) (ws : List Word) : M Unit := do
  let s ← get
  let w1 := ws.getD 1 0
  let w2 := ws.getD 2 0
  let h := bits w1.toNat 0 12
  match s.contTarget s.fir.part w1 w2 with
  | .error c => do
    useEgress e
    pendHere c (tgtWord w2 h)
  | .ok dest => do
    updCtx fun x => { x with aw := .replied true .illegalOpcode ws }
    release (match dest with
      | .away _ => true
      | _ => false)
    updCtx fun x => { x with aw := .none }
    sendMsg dest e w2 h 2 (bitAt w1.toNat 12) (bitAt w2.toNat 60) [p, ws.getD 3 0] (tgtWord w2 h)

/-- JARR (R155): it holds an egress slot from its issue. -/
def execJarr (eb1 : BitVec 1) (a d : BitVec 5) (s : State) : Out :=
  run (do
    noRepeat
    regs [(xr a, ebOn eb1)] [xr d]
    let p ← getX a
    let e ← egress
    holdUnless (e != .full)
    releaseAt (atomicReach p 32)
    let r ← engine false p (atomicReach p 32) { idx := 14, op := 1, size := 32 }
    match r with
    | some ws => do
      if ws.getD 0 0 = 0 then do
        acquire
        continuation e p ws
      else useEgress e
      setX d (ws.getD 0 0)
    | none => useEgress e) s

end Sys2Proof.Machine
end

