-- ==== Sys2Proof/Machine/Fetch.lean ====
section
/-! DEFINITION. Fetching instruction words through the instruction cache (R59, R60), and the words that a repeat body may hold
(R127). -/

namespace Sys2Proof.Machine

/-- The line of a core's instruction cache that holds an address of a job (R12, R60). -/
def Core.iFind (c : Core) (job va : Nat) : Option ILine := c.icache.find? fun x => x.job == job && x.va == va / 64 * 64

/-- The core with an instruction-cache line filled; the oldest of 128 gives way (R12; notes/assumptions/19.md). -/
def Core.iFill (c : Core) (x : ILine) : Core :=
  { c with icache := (x :: c.icache.filter fun y => !(y.job == x.job && y.va == x.va)).take Config.icacheLines }

/-- The words of bytes. -/
def words32 (bs : List Byte) (n : Nat) : List (BitVec 32) := (List.range n).map fun i => BitVec.ofNat 32 (leNat (bs.drop (4 * i) |>.take 4))

/-- The word at an address as a firing fetches it (R59, R60, R61). Of a word whose bytes changed since its line was filled, the old one or the new
one comes. A fetch from another package's memory is not cached and gives fresh free bytes: the model's choice, since no rule says how such a line
reaches the instruction cache (notes/assumptions/12.md). -/
def State.fetchWord (s : State) (o : Origin) (p : Word) : Except Cause (BitVec 32 × State) :=
  if !tagOk p then .error .formatReserved
  else if !canonical p then .error .noncanonical
  else if addrOf p % 4 != 0 then .error .misalignedFetch
  else match s.place o p 4 .fetch with
    | .error c => .error c
    | .ok (r, s) =>
      let va := addrOf p
      match r.spot with
      | .flat (.remote ..) =>
        let (bs, s) := s.freeBytes 4
        .ok (BitVec.ofNat 32 (leNat bs), s)
      | sp =>
        let new := BitVec.ofNat 32 (leNat (s.spotBytes sp 4))
        match (s.coreAt o.k).iFind o.job va with
        | none =>
          if s.poisoned sp 4 then .error .memoryPoison
          else .ok (new, (s.counted o r 4).modCore o.k fun c => c.iFill { job := o.job, va := va / 64 * 64, words := words32 (s.spotBytes (sp.line va) 64) 16 })
        | some x =>
          let old := x.words.getD (va % 64 / 4) 0
          if old = new then .ok (new, s)
          else
            let pick := Config.freeValue s.free % 2 = 1
            let s := { s with free := s.free + 1 }
            if pick then .ok (new, s.modCore o.k fun c => c.iFill { x with words := x.words.set (va % 64 / 4) new }) else .ok (old, s)

/-- The other die that a fetch waits for, as its clock is stopped and the line is not in the instruction cache (R358). -/
def State.fetchStuck (s : State) (o : Origin) (p : Word) : Option Nat :=
  if !(List.any s.dies fun e => s.dieStopped e.1) || !tagOk p || !canonical p || ((s.coreAt o.k).iFind o.job (addrOf p)).isSome then none
  else match s.place o p 4 .fetch with
    | .ok (r, _) => (s.needsDie o.k r.spot true).filter s.dieStopped
    | .error _ => none

/-- A fetch from a stopped die waits, up to its deadline (R358, R365). -/
def fetchWait (p : Word) : M Unit := do
  let s ← get
  match s.fetchStuck s.org p, s.ctx.waitAt with
  | some d, some t => if decide (s.deadlineOf t (s.cur / 512) d ≤ s.time.toNat) then late .crossDieTimeout p else hold
  | some _, none => hold
  | none, _ => pure ()

/-- The words of a body from an address up; a failed fetch names its word (R127). -/
def State.fetchWords (s : State) (o : Origin) (p : Word) : Nat → Except (Cause × Word) (List (BitVec 32) × State)
  | 0 => .ok ([], s)
  | n + 1 =>
    match s.fetchWord o p with
    | .error c => .error (c, p)
    | .ok (w, s) =>
      match s.fetchWords o (p + 4) n with
      | .error e => .error e
      | .ok (ws, s) => .ok (w :: ws, s)

/-- Whether an instruction belongs to the legal set of a repeat body (R127); VSPLAT, VEXTR and VINS by their fmt
(notes/assumptions/20.md). -/
def bodyLegal : Instr → Bool
  | .fmaddS .. | .fmsubS .. | .fnmsubS .. | .fnmaddS .. | .faddS .. | .fsubS .. | .fmulS .. | .fdivS .. | .fsqrtS .. => true
  | .fsgnjS .. | .fsgnjnS .. | .fsgnjxS .. | .fminS .. | .fmaxS .. => true
  | .vadd .. | .vsub .. | .vmul .. | .vfma .. | .vfms .. | .vfnma .. | .vmin .. | .vmax .. | .vabs .. | .vneg .. => true
  | .vdiv .. | .vsqrt .. | .vrcp .. | .vexp2 .. | .vceq .. | .vclt .. | .vcle .. | .vand .. | .vor .. | .vxor .. => true
  | .vshl .. | .vshr .. | .vsra .. | .vsel .. | .vperm .. | .vrsum .. | .vrmax .. | .vmov .. | .vclass .. => true
  | .vsplat _ _ _ _ _ fmt _ | .vextr _ _ _ _ _ fmt _ | .vins _ _ _ _ _ fmt _ => fmt.toNat < 5
  | .cvt .. | .fcvtz .. | .lutx .. | .zpsub .. => true
  | _ => false

/-- The cause that a body word raises at RPT, by its major opcode, cell and op number (R127). A word of the major opcodes of the branches and of JALR whose funct3
names none is taken as one: the model's choice (notes/assumptions/145.md). -/
def bodyCause (w : BitVec 32) : Option Cause :=
  let major := (fld w 0 7).toNat
  if major = 111 || major = 103 || major = 99 then some .repeatBranch
  else match pickBody w with
    | .error _ => some .repeatBodyIllegal
    | .ok (.rpt ..) => some .repeatNested
    | .ok (.rpti ..) => some .repeatNested
    | .ok i => if bodyLegal i then none else some .repeatBodyIllegal

/-- A body fetched and classified word by word (R127): the first offending word in body order raises its cause. -/
def fetchBody (p : Word) : Nat → M (List (BitVec 32))
  | 0 => pure []
  | n + 1 => do
    fetchWait p
    let s ← get
    match s.fetchWord s.org p with
    | .error c => trap c p
    | .ok (w, s') => do
      set s'
      match bodyCause w with
      | some c => trap c p
      | none => do
        let ws ← fetchBody (p + 4) n
        pure (w :: ws)

end Sys2Proof.Machine
end

