-- ==== Sys2Proof/Machine/Ports.lean ====
section
/-! DEFINITION. The port and repeat instructions (R114, R116, R123, R126 to R129). -/

namespace Sys2Proof.Machine

/-- SCFGW (R114, R120, R123). -/
def execScfgw (imm7 : BitVec 7) (a d : BitVec 5) (s : State) : Out :=
  run (do
    noRepeat
    needL (encode (.scfgw imm7 a d))
    regs [(xr a, false)] []
    let s ← get
    let p := s.portAt d.toNat
    trapIf p.bnd .streamBindConflict (BitVec.ofNat 64 d.toNat)
    let v ← getX a
    let n := imm7.toNat
    trapIf (n == 1 && v.toNat / 8 != 0) .reservedField v
    trapIf (2 ≤ n && n ≤ 5 && bits v.toNat 16 16 != 0) .reservedField v
    updPort d.toNat fun p => { p with fields := Tab.set p.fields n v, cfg := p.cfg || n == 0 }) s

/-- SCFGR (R123). -/
def execScfgr (imm7 : BitVec 7) (a d : BitVec 5) (s : State) : Out :=
  run (do
    noRepeat
    needL (encode (.scfgr imm7 a d))
    regs [] [xr d]
    let s ← get
    let p := s.portAt a.toNat
    setX d (if imm7 = 7 && p.bnd then BitVec.ofNat 64 p.pos else p.field imm7.toNat)) s

/-- SBIND (R116): the port starts at the position of field 7, and a read port begins to prefetch. DESIGN CHOICE (notes/assumptions/25.md): a
register whose producer is still pending is waited for, since R116 gives no rule for it. -/
def execSbind (b a d : BitVec 5) (s : State) : Out :=
  run (do
    noRepeat
    needL (encode (.sbind b a d))
    let s ← get
    let i := a.toNat
    let k := b.toNat
    let p := s.portAt i
    let r := (if 2 ≤ k then 512 else 256) + d.toNat
    let tv := BitVec.ofNat 64 i
    trapIf (p.bnd || (s.portOf (r / 256) d.toNat).isSome) .streamBindConflict tv
    trapIf (!p.cfg) .streamUnconfigured tv
    match { p with kind := k }.badFormat k with
    | some w => trap .streamFormat w
    | none => do
      holdUnless (!s.ctx.pend.any fun q => q.reg == r)
      updPort i fun p => { p with bnd := true, kind := k, reg := d.toNat, pos := (p.field 7).toNat, pre := [], pushes := [] }
      if k % 2 = 0 then post (.prefetch s.cur i)) s

/-- SFREE (R123). -/
def execSfree (a : BitVec 5) (s : State) : Out :=
  run (do
    noRepeat
    needL (encode (.sfree a))
    let s ← get
    let p := s.portAt a.toNat
    if p.bnd then do
      holdUnless p.pushes.isEmpty
      updPort a.toNat fun p =>
        { fields := Tab.set p.fields 7 (BitVec.ofNat 64 p.pos), cfg := p.cfg, bnd := false, kind := 0, reg := 0, pos := 0, pre := [], pushes := [] }
      upd fun s => s.dropLines (.port s.cur a.toNat)
      updMe fun c => c.setReg false ((if p.isV then 512 else 256) + p.reg) 0) s

/-- The status word of a port (R123). -/
def Port.status (p : Port) : Word :=
  let pos := if p.bnd then p.pos else (p.field 7).toNat
  let ready := if p.isRead then (p.pre.filter fun i => i.fail.isNone).length else p.pushes.length
  let flt := p.isRead && (match p.pre with
    | it :: _ => it.fail.isSome
    | [] => false)
  BitVec.ofNat 64 (pos % 2 ^ 32 * 2 ^ 32 + p.reg * 2 ^ 27 + ready * 2 ^ 15 + b2n flt * 2 ^ 14 + b2n (p.exhaustedAt pos) * 2 ^ 13
    + b2n p.ind * 2 ^ 12 + p.kind * 2 ^ 10 + b2n p.bnd * 2 ^ 9 + b2n p.cfg * 2 ^ 8)

/-- SSTAT (R123). -/
def execSstat (a d : BitVec 5) (s : State) : Out :=
  run (do
    noRepeat
    needL (encode (.sstat a d))
    regs [] [xr d]
    let s ← get
    setX d (s.portAt a.toNat).status) s

/-- SDRAIN (R123). -/
def execSdrain (a : BitVec 5) (s : State) : Out :=
  run (do
    noRepeat
    needL (encode (.sdrain a))
    let s ← get
    holdUnless (s.portAt a.toNat).pushes.isEmpty) s

/-- The body of `len` words after the moving instruction handed to the sequencer for `n` repeats; the pipe goes on past it (R126, R128). -/
def repeatM (len : Nat) (count : M Nat) : M Word := do
  let x ← ctx
  let ws ← fetchBody (x.pc + 4) len
  let n ← count
  let s ← get
  if n ≠ 0 then do
    updMe fun c => { c with ls := { c.ls with rep := { body := x.pc + 4, len := len, count := n, words := ws } } }.touch [5]
    post (.rep s.cur)
  pure (x.pc + BitVec.ofNat 64 (4 * (len + 1)))

/-- RPT (R126, R127): the count is examined once the body has passed. -/
def execRpt (eb1 : BitVec 1) (a d : BitVec 5) (s : State) : Out :=
  runTo (do
    noRepeat
    needL (encode (.rpt eb1 a d))
    regs [(xr a, ebOn eb1)] []
    repeatM (d.toNat + 1) (do
      let v ← getX a
      trapIf (65536 < v.toNat) .reservedField v
      pure v.toNat)) s

/-- RPTI (R126). -/
def execRpti (imm7 : BitVec 7) (a d : BitVec 5) (s : State) : Out :=
  runTo (do
    noRepeat
    needL (encode (.rpti imm7 a d))
    repeatM (d.toNat + 1) (pure (imm7.toNat * 32 + a.toNat + 1))) s

end Sys2Proof.Machine
end

