-- ==== Sys2Proof/Machine/Agents.lean ====
section
/-! DEFINITION. What a core's own agents do (R44, R119, R121, R128, R141, R165, R167, R313): landings, repeat instances, stream items, stores,
imprecise causes, the start of firings. -/

namespace Sys2Proof.Machine

/-- REGISTER_LANDING (R44). -/
def doRegisterLanding (k : Nat) (h : Bool) (reg : Nat) (s : State) : Option State := s.land k h reg

/-- The effect of an instance of a body word that the sequencer performs (R127). -/
def bodyEffect : Instr → Option (M Unit)
  | .fmaddS rs3 rs2 rs1 rm rd => some (fmaddM rs3 rs2 rs1 rm rd)
  | .fmsubS rs3 rs2 rs1 rm rd => some (fmsubM rs3 rs2 rs1 rm rd)
  | .fnmsubS rs3 rs2 rs1 rm rd => some (fnmsubM rs3 rs2 rs1 rm rd)
  | .fnmaddS rs3 rs2 rs1 rm rd => some (fnmaddM rs3 rs2 rs1 rm rd)
  | .faddS rs2 rs1 rm rd => some (faddM rs2 rs1 rm rd)
  | .fsubS rs2 rs1 rm rd => some (fsubM rs2 rs1 rm rd)
  | .fmulS rs2 rs1 rm rd => some (fmulM rs2 rs1 rm rd)
  | .fdivS rs2 rs1 rm rd => some (fdivM rs2 rs1 rm rd)
  | .fsqrtS rs1 rm rd => some (fsqrtM rs1 rm rd)
  | .fsgnjS rs2 rs1 rd => some (fsgnjM rs2 rs1 rd)
  | .fsgnjnS rs2 rs1 rd => some (fsgnjnM rs2 rs1 rd)
  | .fsgnjxS rs2 rs1 rd => some (fsgnjxM rs2 rs1 rd)
  | .fminS rs2 rs1 rd => some (fminM rs2 rs1 rd)
  | .fmaxS rs2 rs1 rd => some (fmaxM rs2 rs1 rd)
  | .vadd p e2 e1 vb va f vd => some (vaddM p e2 e1 vb va f vd)
  | .vsub p e2 e1 vb va f vd => some (vsubM p e2 e1 vb va f vd)
  | .vmul p e2 e1 vb va f vd => some (vmulM p e2 e1 vb va f vd)
  | .vfma p e2 e1 vb va f vd => some (vfmaM p e2 e1 vb va f vd)
  | .vfms p e2 e1 vb va f vd => some (vfmsM p e2 e1 vb va f vd)
  | .vfnma p e2 e1 vb va f vd => some (vfnmaM p e2 e1 vb va f vd)
  | .vmin p e2 e1 vb va f vd => some (vminM p e2 e1 vb va f vd)
  | .vmax p e2 e1 vb va f vd => some (vmaxM p e2 e1 vb va f vd)
  | .vabs p e2 e1 vb va f vd => some (vabsM p e2 e1 vb va f vd)
  | .vneg p e2 e1 vb va f vd => some (vnegM p e2 e1 vb va f vd)
  | .vdiv p e2 e1 vb va f vd => some (vdivM p e2 e1 vb va f vd)
  | .vsqrt p e2 e1 vb va f vd => some (vsqrtM p e2 e1 vb va f vd)
  | .vrcp p e2 e1 vb va f vd => some (vrcpM p e2 e1 vb va f vd)
  | .vexp2 p e2 e1 vb va f vd => some (vexp2M p e2 e1 vb va f vd)
  | .vceq p e2 e1 vb va f vd => some (vceqM p e2 e1 vb va f vd)
  | .vclt p e2 e1 vb va f vd => some (vcltM p e2 e1 vb va f vd)
  | .vcle p e2 e1 vb va f vd => some (vcleM p e2 e1 vb va f vd)
  | .vand p e2 e1 vb va f vd => some (vandM p e2 e1 vb va f vd)
  | .vor p e2 e1 vb va f vd => some (vorM p e2 e1 vb va f vd)
  | .vxor p e2 e1 vb va f vd => some (vxorM p e2 e1 vb va f vd)
  | .vshl p e2 e1 vb va f vd => some (vshlM p e2 e1 vb va f vd)
  | .vshr p e2 e1 vb va f vd => some (vshrM p e2 e1 vb va f vd)
  | .vsra p e2 e1 vb va f vd => some (vsraM p e2 e1 vb va f vd)
  | .vsel p e2 e1 vb va f vd => some (vselM p e2 e1 vb va f vd)
  | .vperm p e2 e1 vb va f vd => some (vpermM p e2 e1 vb va f vd)
  | .vsplat p e2 e1 vb va f vd => some (vsplatM p e2 e1 vb va f vd)
  | .vextr p e2 e1 vb va f vd => some (vextrM p e2 e1 vb va f vd)
  | .vins p e2 e1 vb va f vd => some (vinsM p e2 e1 vb va f vd)
  | .vrsum p e2 e1 vb va f vd => some (vrsumM p e2 e1 vb va f vd)
  | .vrmax p e2 e1 vb va f vd => some (vrmaxM p e2 e1 vb va f vd)
  | .vmov p e2 e1 vb va f vd => some (vmovM p e2 e1 vb va f vd)
  | .vclass p e2 e1 vb va f vd => some (vclassM p e2 e1 vb va f vd)
  | .cvt rnd a b d => some (cvtM rnd a b d)
  | .fcvtz rnd a b d => some (fcvtzM rnd a b d)
  | .lutx a d => some (lutxM a d)
  | .zpsub a b d => some (zpsubM a b d)
  | _ => none

/-- The repeat state after one more instance (R128). -/
def Rep.next (r : Rep) : Rep :=
  if r.pos + 1 < r.len then { r with pos := r.pos + 1 }
  else if r.iter + 1 < r.count then { r with pos := 0, iter := r.iter + 1 }
  else {}

/-- A core whose repetition is over: its pushes are ordered before what the integer pipe does from now on (R122). -/
def Core.repeated (c : Core) : Core :=
  { c with ls := { c.ls with ports := c.ls.ports.map fun e => (e.1, { e.2 with pushes := e.2.pushes.map fun q => { q with inRep := false } }) } }

/-- The state after an instance completed: it counts in instret, and the next one is due (R73, R128). -/
def State.instanceDone (s : State) : State :=
  let s := s.modMe fun c => { c with instret := c.instret + 1, ls := { c.ls with rep := c.ls.rep.next } }.touch [5]
  if s.ls.rep.count = 0 then s.modMe Core.repeated else s.post (.rep s.cur)

/-- Whether a core's L firing may move now: it runs, and nothing suspends it (R167, R315, R324, R372). -/
def State.lMoves (s : State) (k : Nat) : Bool :=
  let c := s.coreAt k
  c.l.fir.active && !c.h.fir.active && c.faultDue.isNone && c.pageWait.isNone && !s.lStopped k

/-- The instance of the moving core's repetition: the body's words are fetched again after a resumption (R128, R130). A fault of an instance waits
until the integer pipe's request has been answered: what that pipe has issued remains done. -/
def State.instanceStep (s : State) : Option State :=
  let r := s.ls.rep
  let busy := s.ctx.aw.busy
  let trapped := fun (s : State) (c : Cause) (tv zp : Word) => if busy then none else some (s.takeTrap c tv (zposOf zp (some r)))
  if r.words.isEmpty && (List.range r.len).any fun i => (s.fetchStuck s.org (r.body + BitVec.ofNat 64 (4 * i))).isSome then none
  else match (if r.words.isEmpty then s.fetchWords s.org r.body r.len else .ok (r.words, s)) with
  | .error (c, p) => trapped s c p 0
  | .ok (ws, s) =>
    let r := { r with words := ws }
    let s := s.modLs fun l => { l with rep := r }
    let w := ws.getD r.pos 0
    match decodeBody w with
    | .error c => trapped s c (tvw w) 0
    | .ok i =>
      match bodyEffect i with
      | none => trapped s .repeatBodyIllegal (r.body + BitVec.ofNat 64 (4 * r.pos)) 0
      | some m =>
        match settle m s with
        | .ok (_, s') => some s'.instanceDone
        | .error (.trap c tv zp) => trapped s c tv zp
        | .error (.report c tv s') => trapped s' c tv 0
        | .error (.late c tv s') => if busy then none else some ((s'.pendCause s'.org c tv).post (.rep s.cur))
        | .error (.hold _) => none
        | .error (.want ask) => if (ask s).awayLines.length = s.awayLines.length then none else some ((ask s).post (.rep s.cur))

/-- REPEAT_INSTANCE_ISSUE (R128, R130). -/
def doRepeatInstanceIssue (k : Nat) (s : State) : Option State :=
  let c := s.coreAt k
  let r := c.ls.rep
  if !s.lMoves k || r.count = 0 || !c.l.causes.isEmpty then none
  else if s.breaks k (r.body + BitVec.ofNat 64 (4 * r.pos)) then
    (if c.l.aw.busy then none else some (s.raiseL k .debugBreakpoint c.l.pc (zposOf 0 (some r)) true))
  else match State.instanceStep { s with cur := k } with
    | none =>
      if c.step = 1 && c.l.waitAt.isNone then some ((s.modCore k fun c => { c with l := { c.l with waitAt := some s.time.toNat } }).post (.rep k)) else none
    | some t =>
      let t := { t with cur := s.cur }
      some (if c.step = 1 && (t.coreAt k).faultDue.isNone && (t.coreAt k).step = 1 then t.stepHalt k else t)

/-- STREAM_PREFETCH (R121). -/
def doStreamPrefetch (k port : Nat) (s : State) : Option State :=
  (s.prefetch k port).map fun s => if (s.coreAt k).mayPrefetch port then s.post (.prefetch k port) else s

/-- A write of a core in another package failed (R299): a release of domain scope that waits raises it precisely; otherwise it is raised imprecisely. -/
def State.writeFailed (s : State) (o : Origin) (c : Cause) (va : Word) : State :=
  if (s.coreAt o.k).l.relWait == some true || (s.coreAt o.k).h.relWait == some true then
    s.modCore o.k fun x => { x with stores := x.stores ++ [{ id := s.nextId, va := va, away := true, bad := some c, fid := o.fid }] }
  else s.pendCause o c va

/-- STREAM_PUSH_PERFORMED (R119, R122, R299): the oldest push of a port performed; none while its value is pending, a command holds its range
(R206), an earlier service write or queue row of the core to it is on its way, or its parts in other packages are not acknowledged. A home that stands still is
waited for until the push's deadline, which withdraws it (R358, R365). The core's L1 copy of the bytes goes. -/
def doStreamPushPerformed (k port : Nat) (s : State) : Option State :=
  let c := s.coreAt k
  let p := Tab.get c.ls.ports port {}
  let f := c.l.fir
  let o : Origin := { k := k, fid := f.fid, gid := f.gid, part := f.part, job := f.job, sup := f.sup }
  let put := fun (s : State) (qs : List Push) => s.modCore k fun c => { c with ls := { c.ls with ports := Tab.set c.ls.ports port { p with pushes := qs, stuck := none } } }
  match p.pushes with
  | [] => none
  | q :: qs =>
    let still := q.dests.findSome? (s.destWaits k)
    if q.gone then match s.outEnded (.push k port) with
      | none => none
      | some bad =>
        let s := put (s.dropOut (.push k port)) qs
        some (match bad with
          | none => s
          | some e => s.writeFailed o e.1 q.addr)
    else if q.pend.isSome || q.spots.any (fun sp => s.stalled sp q.unit true || s.served k sp q.unit) then none
    else if let some d := still then match p.stuck with
      | none => some ((s.modCore k fun c => { c with ls := { c.ls with ports := Tab.set c.ls.ports port { p with stuck := some s.time.toNat } } }).post (.push k port))
      | some t => if s.portLate k d t then some ((put s qs).pendCause o .crossDieTimeout q.addr) else none
    else
      let s := ((s.flush k).applyAll q.dests).modCore k fun c => c.dropLines f.part f.job (addrOf q.addr) p.itemSize
      if q.abroad.isEmpty then some (put s qs)
      else
        let s := put s ({ q with gone := true } :: qs)
        some ((s.unfill k (sameLine q.addr)).startOut (.push k port) o q.abroad |>.post (.push k port))

/-- The runs of bytes that a write touches. -/
def Dest.span : Dest → Loc × Nat
  | .at l bs => (l, bs.length)
  | .packed buf _ off bs => (.hbm (buf + off / 256 * 256), bs.length + 512)

/-- Whether two stores of a core touch a byte in common. -/
def storesMeet (a b : PStore) : Bool := a.parts.any fun x => b.parts.any fun y => spanMeets x.span y.span

/-- Whether an earlier store of a list still to be performed touches what a store writes. -/
def heldBack (x : PStore) : List PStore → Bool
  | [] => false
  | y :: ys => if y.id = x.id then false else (!y.away && storesMeet x y) || heldBack x ys

/-- HOME_WRITE_ACKNOWLEDGEMENT (R141): a store is performed at its home, after the earlier stores of its core to the same bytes. -/
def doHomeWriteAcknowledgement (k id : Nat) (s : State) : Option State :=
  let c := s.coreAt k
  match c.stores.find? fun x => x.id == id && !x.away with
  | none => none
  | some x =>
    if heldBack x c.stores then none
    else some ((s.applyAll x.parts).modCore k fun c => { c with stores := c.stores.filter (·.id != id) })

/-- IMPRECISE_CAUSE_RAISE (R313). -/
def doImpreciseCauseRaise (k : Nat) (h : Bool) (s : State) : Option State := s.raisePending k h

/-- FIRING_START (R165): the core picks its next work in order. -/
def doFiringStart (k : Nat) (s : State) : Option State := (s.startH k).orElse fun _ => if (s.coreAt k).h.fir.active then none else s.startL k

/-- H_FIRING_START (R167). -/
def doHFiringStart (k : Nat) (s : State) : Option State := s.startH k

/-- REGISTER_LANDING (R44). -/
def execRegisterLanding (k : Nat) (h : Bool) (reg : Nat) (s : State) : Out := act (doRegisterLanding k h reg s) s
/-- REPEAT_INSTANCE_ISSUE (R128). -/
def execRepeatInstanceIssue (k : Nat) (s : State) : Out := act (doRepeatInstanceIssue k s) s
/-- STREAM_PREFETCH (R121). -/
def execStreamPrefetch (k port : Nat) (s : State) : Out := act (doStreamPrefetch k port s) s
/-- STREAM_PUSH_PERFORMED (R119). -/
def execStreamPushPerformed (k port : Nat) (s : State) : Out := act (doStreamPushPerformed k port s) s
/-- HOME_WRITE_ACKNOWLEDGEMENT (R141). -/
def execHomeWriteAcknowledgement (k id : Nat) (s : State) : Out := act (doHomeWriteAcknowledgement k id s) s
/-- IMPRECISE_CAUSE_RAISE (R313). -/
def execImpreciseCauseRaise (k : Nat) (h : Bool) (s : State) : Out := act (doImpreciseCauseRaise k h s) s
/-- FIRING_START (R165). -/
def execFiringStart (k : Nat) (s : State) : Out := act (doFiringStart k s) s
/-- H_FIRING_START (R167). -/
def execHFiringStart (k : Nat) (s : State) : Out := act (doHFiringStart k s) s

end Sys2Proof.Machine
end

