-- ==== Sys2Proof/Machine/Array.lean ====
section
/-! DEFINITION. The matrix and chain array: operand formats, exact chunk sums, accumulators, rings, the engine queue and the scoreboard (R89,
R205 to R208, R221 to R230). -/

namespace Sys2Proof.Machine

/-- The element width of an engine operand format in bits; 0 for the others (R221). -/
def opWidth (tag : Nat) : Nat :=
  match tag with
  | 2 | 3 => 16
  | 4 | 5 | 8 | 9 | 12 => 8
  | 10 | 11 => 4
  | _ => 0

/-- The class of an operand format: float or not; none for a format that is no operand (R221). -/
def opFloat (tag : Nat) : Option Bool :=
  match tag with
  | 2 | 3 | 4 | 5 | 9 | 10 => some true
  | 8 | 11 | 12 => some false
  | _ => none

/-- Bytes of an operand row of `k` elements (R221). -/
def rowBytes (tag k : Nat) : Nat :=
  match tag with
  | 2 | 3 => 2 * k
  | 9 => 34 * k / 32
  | 10 => 18 * k / 32
  | 11 => k / 2
  | _ => k

/-- Zero-point bytes of an operand row (R222). -/
def zeroBytes (tag blog k : Nat) : Nat := if tag = 12 then k / 2 ^ (blog + 2) else 0

/-- Bytes of an operand slot (R222). -/
def slotBytes (tag blog k : Nat) : Nat := 64 * (rowBytes tag k + zeroBytes tag blog k)

/-- The values of an operand row (R221 to R223): its bytes, its zero points, the captured LUT4 table. -/
def rowVals (tag blog k : Nat) (lut row zps : List Byte) : List FVal :=
  if tag = 9 || tag = 10 then
    (List.range (k / 32)).flatMap fun b => bfpVals tag (row.drop (b * bfpBytes tag) |>.take (bfpBytes tag))
  else (List.range k).map fun i =>
    if tag = 11 then .ofInt (signed 8 (lut.getD (bits (row.getD (i / 2) 0).toNat (i % 2 * 4) 4) 0).toNat)
    else if tag = 12 then .ofInt (((row.getD i 0).toNat : Int) - ((zps.getD (i / 2 ^ (blog + 2)) 0).toNat : Int))
    else elemVal tag (leNat ((List.range (elemSize tag)).map fun j => row.getD (i * elemSize tag + j) 0))

/-- The 64 rows of an operand slot (R222). -/
def slotRows (tag blog k : Nat) (lut slot : List Byte) : List (List FVal) :=
  let z := zeroBytes tag blog k
  (List.range 64).map fun i =>
    rowVals tag blog k lut (slot.drop (i * rowBytes tag k) |>.take (rowBytes tag k)) (slot.drop (64 * rowBytes tag k + i * z) |>.take z)

/-- The exact sum of a chunk's products (R89): how many there are, whether all are -0, NaN and infinities, and the finite sum `m * 2^e`. -/
structure ChunkSum where
  n : Nat := 0
  negz : Bool := true
  nan : Bool := false
  pinf : Bool := false
  ninf : Bool := false
  m : Int := 0
  e : Int := 0

/-- A chunk sum with one more product (R89). -/
def ChunkSum.add (s : ChunkSum) (x y : FVal) : ChunkSum :=
  let s := { s with n := s.n + 1 }
  match (FVal.mul x y).1 with
  | .nan _ => { s with nan := true, negz := false }
  | .inf neg => { s with pinf := s.pinf || !neg, ninf := s.ninf || neg, negz := false }
  | .fin neg m e =>
    let z : Int := if neg then -(m : Int) else m
    let s := { s with negz := s.negz && neg && m == 0 }
    if m = 0 then s else if s.m = 0 then { s with m := z, e := e }
    else
      let lo := min s.e e
      { s with m := s.m * (2 ^ (s.e - lo).toNat : Nat) + z * (2 ^ (e - lo).toNat : Nat), e := lo }

/-- The value of a chunk sum (R89). -/
def ChunkSum.val (s : ChunkSum) : FVal :=
  if s.nan || (s.pinf && s.ninf) then .nan false
  else if s.pinf then .inf false
  else if s.ninf then .inf true
  else if s.m = 0 then .fin (s.n != 0 && s.negz) 0 0
  else .fin (decide (s.m < 0)) s.m.natAbs s.e

/-- One chunk added to an FP32 element (R89). -/
def addChunk (acc : Nat) (s : ChunkSum) : Nat := (fp32.ofVal .rne (FVal.add .rne (fp32.decode acc) s.val).1).1

/-- One chunk added to an INT32 element: the wrapped sum, and whether it left the range (R89). -/
def addChunkInt (acc : Nat) (s : ChunkSum) : Nat × Bool :=
  let t := signed 32 acc + s.m * (2 ^ s.e.toNat : Nat)
  (wrapTo 32 t, decide (t < -(2 ^ 31 : Nat)) || decide (((2 ^ 31 : Nat) : Int) ≤ t))

/-- A list cut into pieces of `n`, at most `f` of them. -/
def pieces {α : Type} (n : Nat) : Nat → List α → List (List α)
  | 0, _ => []
  | f + 1, xs => if xs.isEmpty then [] else xs.take n :: pieces n f (xs.drop n)

/-- The sum of a chunk of operand pairs; a pruned weight contributes no product (R89, R249). -/
def chunkSum (ps : List (FVal × Option FVal)) : ChunkSum :=
  ps.foldl (fun s p => match p.2 with
    | some y => s.add p.1 y
    | none => s) {}

/-- An element after a contraction, chunk by chunk; and whether an INT32 chunk left the range (R89). -/
def contract (i32 : Bool) (cw : Nat) (ps : List (FVal × Option FVal)) (acc : Nat) : Nat × Bool :=
  (pieces cw ps.length ps).foldl (fun (a : Nat × Bool) c =>
    if i32 then
      let r := addChunkInt a.1 (chunkSum c)
      (r.1, a.2 || r.2)
    else (addChunk a.1 (chunkSum c), false)) (acc, false)

/-- Whether an FP32 code is infinite or NaN. -/
def nonFinite (x : Nat) : Bool := bits x 23 8 == 255

/-- An element of an accumulator (R112). -/
def Acc.at (a : Acc) (i : Nat) : Nat := (Tab.get a.el i 0).toNat

/-- An accumulator after a step on rows of A and rows of B (R231, R249). -/
def Acc.step (a : Acc) (cw : Nat) (as : List (List FVal)) (bs : List (List (Option FVal))) : Acc :=
  let rs := as.zipIdx.flatMap fun r => bs.zipIdx.map fun c =>
    let k := 64 * r.2 + c.2
    (k, contract a.i32 cw (r.1.zip c.1) (a.at k))
  { a with
    el := rs.map fun r => (r.1, BitVec.ofNat 32 r.2.1)
    rows := List.range 64
    steps := a.steps + 1
    ovf := a.ovf || rs.any (·.2.2)
    nonfin := a.nonfin || (!a.i32 && rs.any fun r => nonFinite r.2.1) }

/-- The chunk width of a pair of tags (R89, R223). -/
def chunkWidth (p q : Nat) : Nat := if p = 2 || p = 3 || q = 2 || q = 3 then 16 else 32

/-- Accumulator `n` of a cluster. -/
def Cluster.acc (c : Cluster) (n : Nat) : Acc := if n = 0 then c.acc0 else c.acc1
/-- The cluster with an accumulator changed. -/
def Cluster.setAcc (c : Cluster) (n : Nat) (a : Acc) : Cluster := if n = 0 then { c with acc0 := a } else { c with acc1 := a }
/-- The moving core's accumulator. -/
def State.acc (s : State) (n : Nat) : Acc := (s.clusterAt s.cl).acc n
/-- Change an accumulator of the moving core's cluster. -/
def updAcc (n : Nat) (f : Acc → Acc) : M Unit := upd fun s => s.modCluster s.cl fun c => c.setAcc n (f (c.acc n))

/-- ACCUMULATOR_CONFLICT (R224). -/
def accFree (n : Nat) : M Unit := do
  let s ← get
  trapIf (match (s.acc n).holder with
    | some g => g != s.fir.gid
    | none => false) .accumulatorConflict (BitVec.ofNat 64 n)

/-- Claim an accumulator for the firing's group (R224). -/
def claim (n : Nat) : M Unit := do
  let s ← get
  updAcc n fun a => { a with holder := some s.fir.gid }

/-- A group's ring: its descriptor number and descriptor (R208). -/
def State.ringOf (s : State) (g n : Nat) : Option (Nat × Ring) :=
  let gr := s.groupAt g
  (gr.rings[n]?).map fun d => (d, Tab.get (s.clusterAt gr.cl).rings d {})

/-- The ring that an instruction names, allotted, and configured where it must be (R207). -/
def needRing (n : Nat) (cfg : Bool) : M (Nat × Ring) := do
  let s ← get
  match s.ringOf s.fir.gid n with
  | none => trap .ringUnallotted (BitVec.ofNat 64 n)
  | some (d, r) => do
    trapIf (cfg && !r.cfg) .ringUnallotted (BitVec.ofNat 64 n)
    pure (d, r)

/-- The state of a slot. -/
def Ring.stOf (r : Ring) (k : Nat) : Nat := (r.slots.getD k {}).st
/-- The ring with a slot set. -/
def Ring.setSlot (r : Ring) (k st holder : Nat) : Ring := { r with slots := listSet r.slots k { st := st, holder := holder } }
/-- The ring after a consumer took slot r (R207). -/
def Ring.take (r : Ring) (holder : Nat) : Ring := { r.setSlot r.r 3 holder with r := (r.r + 1) % r.cnt }
/-- The ring after a producer took slot f (R207). -/
def Ring.fill (r : Ring) (holder : Nat) : Ring := { r.setSlot r.f 1 holder with f := (r.f + 1) % r.cnt }
/-- The state with a ring descriptor of a cluster replaced. -/
def State.putRing (s : State) (cl d : Nat) (r : Ring) : State := s.modCluster cl fun c => { c with rings := Tab.set c.rings d r }

/-- The offset of `n` bytes that must lie in the own-cluster window: under R69, which lets a supervisor firing reach all of it, or (`allot`) in
the group's allotment, where the rule names that (R233, R234, R264, R266). -/
def ownRange (p : Word) (n : Nat) (allot : Bool := false) : M Nat := do
  let s ← get
  let off := addrOf p - 0xFFFFE0000000
  trapIf (addrOf p < 0xFFFFE0000000 || 0xFFFFE0080000 ≤ addrOf p || 0x80000 < off + n || !s.scratchOk { s.org with sup := s.fir.sup && !allot } off n) .scratchRange p
  pure off

/-- R61 steps 1 to 3 of a decoding access whose tags its rule admits or names later (R233, R248, R251, R253). -/
def headTag (p : Word) : M Unit := do
  trapIf (!tagOk p) .formatReserved p
  trapIf (!blogOk (tagOf p) (blogOf p)) .blockMismatch p
  trapIf (!canonical p) .noncanonical p

/-- The raw checks of R61 steps 1 and 3. -/
def headRaw (p : Word) : M Unit := do
  trapIf (!tagOk p) .formatReserved p
  trapIf (!canonical p) .noncanonical p

/-- Commands that an engine queue holds (R228). -/
def engSize : Nat := 16
/-- Scoreboard entries of a cluster (R205). -/
def scoreSize : Nat := 32

/-- Put a command of the moving core into the engine queue (R228), with scoreboard entries for the ranges it reads and writes (R205,
R230). -/
def issueCmd (op : EOp) (entries : List (List (Nat × Nat) × List (Nat × Nat))) (outs : List (Nat × Nat)) : M Nat := do
  let s ← get
  let c := s.clusterAt s.cl
  holdUnless (c.eng.length < engSize && c.score.length + entries.length ≤ scoreSize)
  ownServed
  let id ← freshId
  upd fun s => s.modCluster s.cl fun c => { c with
    eng := c.eng ++ [{ id := id, org := s.org, op := op, outs := outs }]
    score := c.score ++ entries.map fun e => { id := id, gid := s.fir.gid, k := s.cur, rd := e.1, wr := e.2 } }
  post (.engArrive s.cl)
  pure id

/-- Whether two ranges of offsets overlap. -/
def meets (a b : Nat × Nat) : Bool := decide (a.1 < b.2) && decide (b.1 < a.2)

/-- Whether an earlier scoreboard entry holds back a command (R205): its reads meet an earlier write, or its writes an earlier access. -/
def conflicts (id : Nat) (rd wr : List (Nat × Nat)) : List Score → Bool
  | [] => false
  | e :: es =>
    if e.id = id then false
    else (rd.any fun r => e.wr.any (meets r)) || (wr.any fun w => e.wr.any (meets w) || e.rd.any (meets w)) || conflicts id rd wr es

/-- The state with the scoreboard entries of a command retired (R205). -/
def State.scoreDone (s : State) (cl id : Nat) : State := s.modCluster cl fun c => { c with score := c.score.filter (·.id != id) }

/-- The accumulator that a command names, if any. -/
def EOp.acc? : EOp → Option Nat
  | .mxa a .. => some a
  | .mxas _ a .. => some a
  | .mxcmp .. => none
  | .mxz a _ => some a
  | .mxrd a .. => some a
  | .mxwr a _ => some a
  | .vaccr a .. => some a
  | .vaccw a .. => some a
  | .sync a _ => some a
  | .walk a .. => some a

/-- Whether a command runs on the array (R229, R252, R271). -/
def EOp.onArray : EOp → Bool
  | .mxa .. => true
  | .mxas .. => true
  | .mxcmp .. => true
  | .walk .. => true
  | _ => false

/-- Whether a command is the marker of an MXSYNC, which does nothing to its accumulator (R237). -/
def EOp.isSync : EOp → Bool
  | .sync .. => true
  | _ => false

/-- Whether a command is a VACCR, which owes a register its value (R113). -/
def EOp.isRead : EOp → Bool
  | .vaccr .. => true
  | _ => false

/-- Whether every earlier command on an accumulator has retired (R229), but for steps that drain from the array; a marker is no such command. -/
def accTurn (drain : List Nat) (id acc : Nat) : List ECmd → Bool
  | [] => true
  | e :: es => if e.id = id then true else (drain.contains e.id || e.op.isSync || e.op.acc? != some acc) && accTurn drain id acc es

/-- Whether a command must be performed before a VACCR of a group in the commands behind it (R229): on its accumulator, or through the array. -/
def ECmd.ahead (gid : Nat) (e : ECmd) : List ECmd → Bool
  | [] => false
  | x :: xs => (((x.op.acc?.isSome && x.op.acc? == e.op.acc?) || (e.op.onArray && x.op.onArray)) && ((x.op.isRead && x.org.gid == gid) || x.ahead gid xs))
      || e.ahead gid xs

end Sys2Proof.Machine
end

