-- ==== Sys2Proof/Machine/Matrix.lean ====
section
/-! DEFINITION. The dense matrix instructions and the accumulator rows (R112, R113, R224 to R239), and what the engine then does. -/

namespace Sys2Proof.Machine

/-- The checks of R231 steps 4 to 6 that a dense step's rings pass: MATRIX_FORMAT, MATRIX_SHAPE, LUT_UNLOADED. -/
def denseCheck (acc p q : Nat) (rp rq : Ring) (w : BitVec 32) : M Unit := do
  let s ← get
  let tp := tagOf rp.base
  let tq := tagOf rq.base
  let pair := BitVec.ofNat 64 (tp * 256 + tq)
  match opFloat tp, opFloat tq with
  | some fp, some fq => trapIf (fp != fq || fp == (s.acc acc).issueI32) .matrixFormat pair
  | _, _ => trap .matrixFormat pair
  let k := 2048 / max (opWidth tp) (opWidth tq)
  let bad := fun (r : Ring) => r.size != slotBytes (tagOf r.base) (blogOf r.base) k || (tagOf r.base == 12 && decide (6 < blogOf r.base))
  trapIf (bad rp) .matrixShape (BitVec.ofNat 64 p)
  trapIf (bad rq) .matrixShape (BitVec.ofNat 64 q)
  trapIf ((tp == 11 || tq == 11) && !s.ls.lutOk) .lutUnloaded (tvw w)

/-- The block log of two ring bases (R231 step 3). -/
def blogCheck (rp rq : Ring) : M Unit := do
  trapIf (!blogOk (tagOf rp.base) (blogOf rp.base)) .blockMismatch rp.base
  trapIf (!blogOk (tagOf rq.base) (blogOf rq.base)) .blockMismatch rq.base

/-- MXA (R231). -/
def execMxa (n : BitVec 1) (p q : BitVec 4) (s : State) : Out :=
  run (do
    let w := encode (.mxa n p q)
    noRepeat
    needL w
    accFree n.toNat
    let (_, rp) ← needRing p.toNat true
    let (_, rq) ← needRing q.toNat true
    blogCheck rp rq
    denseCheck n.toNat p.toNat q.toNat rp rq w
    claim n.toNat
    let s ← get
    let _ ← issueCmd (.mxa n.toNat p.toNat q.toNat s.ls.lut) [([], [])] []
    pure ()) s

/-- MXZ (R232): the issue mode is set at once (R225). -/
def execMxz (a d : BitVec 5) (s : State) : Out :=
  run (do
    noRepeat
    needL (encode (.mxz a d))
    accFree d.toNat
    claim d.toNat
    updAcc d.toNat fun x => { x with issueI32 := a != 0 }
    let _ ← issueCmd (.mxz d.toNat a.toNat) [] []
    pure ()) s

/-- Bytes of an element that MXRD writes under a tag (R233). -/
def mxrdSize (tag : Nat) : Nat := if tag = 0 then 4 else elemSize tag

/-- MXRD (R233). -/
def execMxrd (rnd : BitVec 3) (a d : BitVec 5) (s : State) : Out :=
  run (do
    noRepeat
    needL (encode (.mxrd rnd a d))
    regs [(xr d, false)] []
    let p ← getX d
    accFree a.toNat
    headTag p
    trapIf (8 < tagOf p) .matrixFormat p
    trapIf (addrOf p % 64 != 0) .misalignedStore p
    let n := 4096 * mxrdSize (tagOf p)
    let off ← ownRange p n true
    claim a.toNat
    let _ ← issueCmd (.mxrd a.toNat rnd.toNat p) [([], [(off, off + n)])] [(off, n)]
    pure ()) s

/-- MXWR (R234). -/
def execMxwr (a d : BitVec 5) (s : State) : Out :=
  run (do
    noRepeat
    needL (encode (.mxwr a d))
    regs [(xr a, false)] []
    let p ← getX a
    accFree d.toNat
    headTag p
    let s ← get
    let t := tagOf p
    trapIf (!(t == 0 || (t == 1 && !(s.acc d.toNat).issueI32) || (t == 6 && (s.acc d.toNat).issueI32))) .matrixFormat p
    trapIf (addrOf p % 64 != 0) .misalignedLoad p
    let off ← ownRange p 16384 true
    claim d.toNat
    let _ ← issueCmd (.mxwr d.toNat p) [([(off, off + 16384)], [])] []
    pure ()) s

/-- The MXSTAT word (R235). -/
def Acc.word (a : Acc) (own : Bool) (queued : Nat) : Word :=
  if !own then BitVec.ofNat 64 (b2n a.holder.isSome * 2)
  else BitVec.ofNat 64 (a.steps.toNat * 2 ^ 48 + queued * 2 ^ 32 + b2n a.retry * 32 + b2n a.nonfin * 16 + b2n a.ovf * 8 + b2n a.i32 * 4 + 3)

/-- An accumulator whose check bits show an error that they do not correct kills the group that holds it (R239). -/
def accSound (n : Nat) (x : Acc) : M Unit := do
  let s ← get
  if x.bad then
    match x.holder with
    | some g =>
      if g = s.fir.gid then trap .uncorrectableAccumulator (BitVec.ofNat 64 n)
      else upd fun s => s.killGroup g .uncorrectableAccumulator (BitVec.ofNat 64 n)
    | none => pure ()

/-- MXSTAT (R235, R239). -/
def execMxstat (a d : BitVec 5) (s : State) : Out :=
  run (do
    noRepeat
    needL (encode (.mxstat a d))
    regs [] [xr d]
    let s ← get
    let x := s.acc a.toNat
    accSound a.toNat x
    let q := ((s.clusterAt s.cl).eng.filter fun e => e.op.acc? == some a.toNat && x.holder == some e.org.gid).length
    setX d (x.word (x.holder == some s.fir.gid) q)) s

/-- The placed walk completions of a core on an accumulator that name no handler, in placement order (R268). -/
def Core.walksOn (c : Core) (acc fid : Nat) : List Msg :=
  (c.ca.filterMap (·.msg)).filter fun m => m.src == 7 && m.hdl == 0 && m.fid == fid && bits (m.words.getD 4 0).toNat 37 1 == acc

/-- Dequeue walk completions in order; the first that reports a fault raises it (R268). -/
def dequeueWalks : List Msg → M Unit
  | [] => pure ()
  | m :: ms => do
    upd fun s => s.dequeue m
    let w1 := (m.words.getD 2 0).toNat
    if bitAt w1 8 then report ((Cause.ofCode (bits w1 0 8)).getD .chainTableInvalid) (m.words.getD 3 0)
    else dequeueWalks ms

/-- The end of MXSYNC (R237, R268): its marker's completion dequeued, an acquire of this core. -/
def syncEnd (acc slot : Nat) : M Unit := do
  let s ← get
  match s.me.ca.find? fun x => x.id == slot && x.msg.isSome with
  | none => holdKeep
  | some _ => do
    updMe fun c => c.setArea (c.ca.filter (·.id != slot))
    updCtx fun x => { x with aw := .none }
    acquire
    dequeueWalks (s.me.walksOn acc s.fir.fid)

/-- MXSYNC (R237). -/
def execMxsync (a : BitVec 5) (s : State) : Out :=
  run (do
    let w := encode (.mxsync a)
    noRepeat
    needL w
    needLaunch w
    let x ← ctx
    match x.aw with
    | .synced slot => syncEnd a.toNat slot
    | _ => do
      accFree a.toNat
      let slot ← reserveSlot 0 true
      claim a.toNat
      let _ ← issueCmd (.sync a.toNat slot) [] []
      updCtx fun x => { x with aw := .synced slot }
      holdKeep) s

/-- MXTEST (R236). -/
def execMxtest (a d : BitVec 5) (s : State) : Out :=
  run (do
    noRepeat
    needL (encode (.mxtest a d))
    regs [] [xr d]
    accFree a.toNat
    claim a.toNat
    let s ← get
    setX d (b2w ((s.clusterAt s.cl).eng.all fun e => !(e.org.k == s.cur && e.op.acc? == some a.toNat)))) s

/-- The check of an accumulator row (R112). -/
def rowCheck (b : BitVec 5) (v : Word) : M Nat := do
  accFree b.toNat
  trapIf (v.toNat / 512 != 0) .accRange v
  claim b.toNat
  pure (bits v.toNat 0 6 * 64 + bits v.toNat 6 3 * 8)

/-- VACCR (R112, R113). -/
def execVaccr (eb1 : BitVec 1) (b a d : BitVec 5) (s : State) : Out :=
  run (do
    noRepeat
    needL (encode (.vaccr eb1 b a d))
    regs [(xr a, ebOn eb1)] [vr5 d]
    let v ← getX a
    let e ← rowCheck b v
    let id ← freshId
    markPending { id := id, reg := vr5 d, wait := 1 }
    let _ ← issueCmd (.vaccr b.toNat e id false) [] []
    pure ()) s

/-- VACCW (R112, R113). -/
def execVaccw (eb1 : BitVec 1) (b a d : BitVec 5) (s : State) : Out :=
  run (do
    noRepeat
    needL (encode (.vaccw eb1 b a d))
    regs [(xr a, ebOn eb1), (vr5 d, false)] []
    let v ← getX a
    let x ← getV d.toNat
    let e ← rowCheck b v
    let _ ← issueCmd (.vaccw b.toNat e x) [] []
    pure ()) s

/-- The command with a name in an engine queue. -/
def Cluster.cmd (c : Cluster) (id : Nat) : Option ECmd := c.eng.find? (·.id == id)
/-- The state with a command of an engine changed. -/
def State.modCmd (s : State) (cl id : Nat) (f : ECmd → ECmd) : State :=
  s.modCluster cl fun c => { c with eng := c.eng.map fun e => if e.id == id then f e else e }
/-- The state with a command of an engine retired (R229): its scoreboard entries retire with it (R205). -/
def State.retireCmd (s : State) (cl id : Nat) : State :=
  (s.modCluster cl fun c => { c with
    eng := c.eng.filter (·.id != id)
    array := if c.array == some id then none else c.array
    drain := c.drain.filter (· != id) }).scoreDone cl id

/-- The act that a command owes once it has arrived. -/
def ECmd.act (e : ECmd) (cl : Nat) : Act :=
  match e.op with
  | .mxz a _ => .mxzDone cl a
  | .mxrd a .. => .mxrdDone cl a
  | .mxwr a _ => .mxwrDone cl a
  | .vaccr a .. => .vaccDone cl a
  | .vaccw a .. => .vaccDone cl a
  | .sync .. => .syncDone cl e.id
  | .walk .. => .chainStart cl
  | _ => .stepStart cl

/-- ENGINE_COMMAND_ARRIVAL (R228): the next command reaches the engine; none while the engine tests itself (R238). -/
def doEngineCommandArrival (cl : Nat) (s : State) : Option State :=
  let c := s.clusterAt cl
  if c.selfTest then none
  else (c.eng.find? fun e => !e.arrived).map fun e => (s.modCmd cl e.id fun e => { e with arrived := true }).post (e.act cl)

/-- The ring slots that a step takes: the descriptor and slot of its A and of its B operand, when both are full (R231). -/
def State.stepSlots (s : State) (g p q : Nat) : Option ((Nat × Ring × Nat) × (Nat × Ring × Nat)) :=
  match s.ringOf g p, s.ringOf g q with
  | some (dp, rp), some (dq, rq) =>
    let kq := if p = q then (rq.r + 1) % rq.cnt else rq.r
    if rp.cfg && rq.cfg && rp.stOf rp.r == 2 && rq.stOf kq == 2 && !(p == q && rp.r == kq) then some ((dp, rp, rp.r), (dq, rq, kq)) else none
  | _, _ => none

/-- The die cycles that a step occupies the array (R229, R252). -/
def stepCycles : Nat := 128

/-- The state with a step's slots taken, recorded as reads (R207, R230). -/
def State.takeSlots (s : State) (cl id : Nat) (x : (Nat × Ring × Nat) × (Nat × Ring × Nat)) : State :=
  let ((dp, rp, kp), (dq, rq, kq)) := x
  let s := s.putRing cl dp (rp.take 3)
  let rq' := Tab.get (s.clusterAt cl).rings dq {}
  let s := s.putRing cl dq (rq'.take 3)
  let rd := [(rp.slotOff kp, rp.slotOff kp + rp.size), (rq.slotOff kq, rq.slotOff kq + rq.size)]
  s.modCluster cl fun c => { c with
    array := some id
    score := c.score.map fun e => if e.id == id then { e with rd := rd } else e
    eng := c.eng.map fun e =>
      if e.id == id then { e with started := true, occ := stepCycles, since := s.time.toNat, slots := [(dp, kp), (dq, kq)] } else e }

/-- The started command of an array that retires first (R229). -/
def Cluster.oldest (c : Cluster) : Option ECmd := (c.drain.head?.orElse fun _ => c.array).bind c.cmd

/-- Whether a command is a walk with a step after the one that has started. -/
def ECmd.moreSteps (e : ECmd) : Bool :=
  match e.op with
  | .walk _ steps k .. => decide (k + 1 < steps.length)
  | _ => false

/-- The state of a cluster whose array has gone on from a step that has occupied it for its time, which drains (R229, R271). -/
def State.freeArray (s : State) (cl : Nat) : State :=
  let c := s.clusterAt cl
  match c.array.bind c.cmd with
  | some e =>
    if e.started && !e.moreSteps && decide (e.occ * 20 ≤ (s.time.toNat - e.since) * (s.dieAt (cl / 64)).mult)
    then s.modCluster cl fun c => { c with array := none, drain := c.drain ++ [e.id] } else s
  | none => s

/-- Whether a command of a group that is told to stop may still start: a VACCR behind it owes a register its value (R46, R226). -/
def State.mayStart (s : State) (cl : Nat) (e : ECmd) : Bool :=
  !(s.groupAt e.org.gid).stopping || e.ahead e.org.gid (((s.clusterAt cl).eng.dropWhile (·.id != e.id)).drop 1)

/-- The first array command of an engine queue that has not started, when it may (R229): arrived, the array free, its accumulator's turn. -/
def Cluster.nextStep (c : Cluster) : Option ECmd :=
  match c.eng.find? fun e => e.op.onArray && !c.drain.contains e.id with
  | some e =>
    if e.arrived && c.array.isNone && !c.selfTest && (match e.op.acc? with
        | some a => accTurn c.drain e.id a c.eng
        | none => true) then some e else none
  | none => none

/-- MATRIX_STEP_START (R229): a step takes its slots and the array; MXCMP takes the array alone (R252). -/
def doMatrixStepStart (cl : Nat) (s : State) : Option State :=
  let s := s.freeArray cl
  let c := s.clusterAt cl
  match c.nextStep with
  | none => none
  | some e =>
    if !s.mayStart cl e then none else
    let go := fun (p q : Nat) => match s.stepSlots e.org.gid p q with
      | none => none
      | some x =>
        let rd := [(x.1.2.1.slotOff x.1.2.2, x.1.2.1.slotOff x.1.2.2 + x.1.2.1.size),
          (x.2.2.1.slotOff x.2.2.2, x.2.2.1.slotOff x.2.2.2 + x.2.2.1.size)]
        if conflicts e.id rd [] c.score then none else some ((s.takeSlots cl e.id x).post (.stepRetire cl))
    match e.op with
    | .mxa _ p q _ => go p q
    | .mxas _ _ p q _ _ => go p q
    | .mxcmp .. =>
      let mine := c.score.filter (·.id == e.id)
      if mine.any fun m => conflicts e.id m.rd m.wr c.score then none
      else some ((s.modCluster cl fun c => { c with
        array := some e.id
        eng := c.eng.map fun x => if x.id == e.id then { x with started := true, occ := stepCycles, since := s.time.toNat } else x }).post (.mxcmpDone cl))
    | _ => none

/-- The bytes of a taken slot. -/
def State.slotBytesAt (s : State) (cl : Nat) (sl : Nat × Nat) : List Byte × Ring :=
  let r := Tab.get (s.clusterAt cl).rings sl.1 {}
  (s.bytesAt (.scratch cl (r.slotOff sl.2)) r.size, r)

/-- The state with a retired step's slots free (R207). -/
def State.freeSlots (s : State) (cl : Nat) (sl : List (Nat × Nat)) : State :=
  sl.foldl (fun s x => s.putRing cl x.1 ((Tab.get (s.clusterAt cl).rings x.1 {}).setSlot x.2 0 0)) s

/-- A byte of offset ranges that the model leaves free. -/
def State.freeOffset (s : State) (rs : List (Nat × Nat)) : Word × State :=
  let all := rs.flatMap fun r => (List.range (r.2 - r.1)).map (r.1 + ·)
  (BitVec.ofNat 64 (all.getD (Config.freeValue s.free % max 1 all.length) 0), { s with free := s.free + 1 })

/-- The state after the engine's failures (R238, R239): 1 a residue failure, 2 an uncorrectable accumulator error, 3 an uncorrectable
scratch error, at a byte that the command reads. A first residue failure runs the step again. -/
def State.stepFailed (s : State) (cl : Nat) (e : ECmd) (err : Nat) (again : Act) : State :=
  let tv := BitVec.ofNat 64 ((e.op.acc?).getD 0)
  if err = 1 && !e.retried then
    let s := s.modCmd cl e.id fun x => { x with retried := true, since := s.time.toNat }
    (match e.op.acc? with
      | some a => s.modCluster cl fun c => c.setAcc a { c.acc a with retry := true }
      | none => s).post again
  else if err = 1 then
    ((s.killGroup e.org.gid .engineFailed tv).modCluster cl fun c => { c with selfTest := true }).post (.selfTest cl)
  else if err = 2 then s.killGroup e.org.gid .uncorrectableAccumulator tv
  else
    let (tv, s) := s.freeOffset (((s.clusterAt cl).score.filter (·.id == e.id)).flatMap (·.rd))
    s.killGroup e.org.gid .uncorrectableScratch tv

/-- The B rows of a dense step: no weight is pruned. -/
def denseRows (xs : List (List FVal)) : List (List (Option FVal)) := xs.map fun r => r.map some

/-- Masks of a pattern: N, M, unit height (R244). -/
def patternOf (pat : Nat) : Nat × Nat × Nat :=
  let u := if pat % 2 = 0 then 4 else 8
  match pat / 2 with
  | 0 => (2, 4, u)
  | 1 => (4, 8, u)
  | _ => (2, 8, u)

/-- The kept weights of a mask, spread over its indices, and the compressed elements left (R249). -/
def spread (mask : Nat) : Nat → Nat → List FVal → List (Option FVal) × List FVal
  | 0, _, xs => ([], xs)
  | n + 1, b, xs =>
    if bitAt mask b then
      let (ys, r) := spread mask n (b + 1) (xs.drop 1)
      (xs.head? :: ys, r)
    else
      let (ys, r) := spread mask n (b + 1) xs
      (none :: ys, r)

/-- A compressed row spread over the dense indices by its masks (R249). -/
def spreadRow (m : Nat) : List Nat → List FVal → List (Option FVal)
  | [], _ => []
  | k :: ks, xs =>
    let (ys, r) := spread k m 0 xs
    ys ++ spreadRow m ks r

/-- The B rows of a sparse step (R245, R249). -/
def sparseRows (pat kp : Nat) (masks : List Nat) (xs : List (List FVal)) : List (List (Option FVal)) :=
  let (_, m, u) := patternOf pat
  xs.zipIdx.map fun r => spreadRow m (masks.drop (r.2 / u * (kp / m)) |>.take (kp / m)) r.1

/-- MATRIX_STEP_RETIRE (R231, R238, R239, R249): the results apply whole, the slots are free. `err` 4: the step applies, and an element then holds
an error that its check bits do not correct, for a later reader to find. -/
def doMatrixStepRetire (cl err : Nat) (s : State) : Option State :=
  let c := s.clusterAt cl
  match c.oldest with
  | none => none
  | some e =>
    let done := fun (a : Nat) (sparse : Option (Nat × List Nat)) (lut : List Byte) =>
      let err := if (c.acc a).bad then 2 else err
      if 0 < err && err < 4 then s.stepFailed cl e err (.stepRetire cl)
      else
        let (pb, rp) := s.slotBytesAt cl (e.slots.getD 0 (0, 0))
        let (qb, rq) := s.slotBytesAt cl (e.slots.getD 1 (0, 0))
        let tp := tagOf rp.base
        let tq := tagOf rq.base
        let k := 2048 / (match sparse with
          | none => max (opWidth tp) (opWidth tq)
          | some _ => opWidth tq)
        let ka := match sparse with
          | none => k
          | some (pat, _) => let (n, m, _) := patternOf pat; k * m / n
        let as := slotRows tp (blogOf rp.base) ka lut pb
        let bs := slotRows tq (blogOf rq.base) k lut qb
        let rows := match sparse with
          | none => denseRows bs
          | some (pat, ms) => sparseRows pat ka ms bs
        ((s.modCluster cl fun c => c.setAcc a { (c.acc a).step (chunkWidth tp tq) as rows with bad := err == 4 }).freeSlots cl e.slots).retireCmd cl e.id
    match e.op with
    | .mxa a _ _ lut => some (done a none lut)
    | .mxas pat a _ _ masks lut => some (done a (some (pat, masks)) lut)
    | _ => none

/-- The first arrived command of a kind on an accumulator whose turn it is (R229); none while the engine tests itself (R238). -/
def Cluster.accCmd (c : Cluster) (acc : Nat) (p : EOp → Bool) : Option ECmd :=
  if c.selfTest then none else
  match c.eng.find? fun e => e.op.acc? == some acc && !(match e.op with
      | .sync .. => true
      | _ => false) with
  | some e => if e.arrived && p e.op then some e else none
  | none => none

/-- MXZ_PERFORMED (R232). -/
def doMxzPerformed (cl acc : Nat) (s : State) : Option State :=
  match (s.clusterAt cl).accCmd acc fun o => match o with
      | .mxz .. => true
      | _ => false with
  | some e => match e.op with
    | .mxz a mode => some ((s.modCluster cl fun c => c.setAcc a { c.acc a with
        el := [], i32 := mode != 0, steps := 0, ovf := false, nonfin := false, retry := false, bad := false, rows := List.range 64 }).retireCmd cl e.id)
    | _ => none
  | none => none

/-- The bits that MXRD writes for an element (R233). -/
def mxrdConv (i32 : Bool) (tag rnd x : Nat) : Nat :=
  if tag = 0 || (tag = 1 && !i32) || (tag = 6 && i32) then x else (elemConv tag (if i32 then 6 else 1) (rndOf rnd) x).1

/-- MXRD_PERFORMED (R233, R239). -/
def doMxrdPerformed (cl acc err : Nat) (s : State) : Option State :=
  let c := s.clusterAt cl
  match c.accCmd acc fun o => match o with
      | .mxrd .. => true
      | _ => false with
  | some e => match e.op with
    | .mxrd a rnd p =>
      let mine := c.score.filter (·.id == e.id)
      if mine.any fun m => conflicts e.id m.rd m.wr c.score then none
      else if err ≠ 0 || (c.acc a).bad then some (s.stepFailed cl e 2 (.mxrdDone cl acc))
      else
        let x := c.acc a
        let t := tagOf p
        let n := mxrdSize t
        let bs := (List.range 4096).flatMap fun i => leBytes n (mxrdConv x.i32 t rnd (x.at i))
        some ((s.writeAt (.scratch cl (addrOf p - 0xFFFFE0000000)) bs).retireCmd cl e.id)
    | _ => none
  | none => none

/-- MXWR_PERFORMED (R234, R239): `err` an uncorrectable error in the source. -/
def doMxwrPerformed (cl acc err : Nat) (s : State) : Option State :=
  let c := s.clusterAt cl
  match c.accCmd acc fun o => match o with
      | .mxwr .. => true
      | _ => false with
  | some e => match e.op with
    | .mxwr a p =>
      let mine := c.score.filter (·.id == e.id)
      if mine.any fun m => conflicts e.id m.rd m.wr c.score then none
      else if err ≠ 0 then some (s.stepFailed cl e 3 (.mxwrDone cl acc))
      else
        let off := addrOf p - 0xFFFFE0000000
        let el : Tab (BitVec 32) := (List.range 4096).map fun i => (i, BitVec.ofNat 32 (s.numAt (.scratch cl (off + 4 * i)) 4))
        some ((s.modCluster cl fun c => c.setAcc a { c.acc a with el := el, bad := false, rows := List.range 64 }).retireCmd cl e.id)
    | _ => none
  | none => none

/-- VACC_PERFORMED (R112, R113, R239). -/
def doVaccPerformed (cl acc err : Nat) (s : State) : Option State :=
  let c := s.clusterAt cl
  match c.accCmd acc fun o => match o with
      | .vaccr .. => true
      | .vaccw .. => true
      | _ => false with
  | some e => match e.op with
    | .vaccr a i id h =>
      if err ≠ 0 || (c.acc a).bad then some (s.stepFailed cl e 2 (.vaccDone cl acc))
      else
        let v := packLanes 32 ((List.range 8).map fun j => (c.acc a).at (i + j))
        some ((s.retireCmd cl e.id).feed e.org.k h id v 0)
    | .vaccw a i v =>
      let el := (List.range 8).foldl (fun t j => Tab.set t (i + j) (BitVec.ofNat 32 (lane 32 v j))) (c.acc a).el
      some ((s.modCluster cl fun c => c.setAcc a { c.acc a with el := el, rows := addBlocks (c.acc a).rows [i / 64] }).retireCmd cl e.id)
    | _ => none
  | none => none

/-- Whether an earlier command of a core on an accumulator is still to retire (R237). -/
def earlierOf (id k acc : Nat) : List ECmd → Bool
  | [] => false
  | e :: es => if e.id = id then false else (e.org.k == k && e.op.acc? == some acc) || earlierOf id k acc es

/-- SYNC_MARKER_COMPLETE (R237). -/
def doSyncMarkerComplete (cl id : Nat) (s : State) : Option State :=
  let c := s.clusterAt cl
  match c.cmd id with
  | some e => match e.op with
    | .sync a slot =>
      if !e.arrived || c.selfTest || earlierOf id e.org.k a c.eng then none
      else some ((s.retireCmd cl id).placeCompletion e.org slot 0 6 [BitVec.ofNat 64 (a * 2 ^ 32 + 6), 0, 0, 0, 0])
    | _ => none
  | none => none

/-- ENGINE_COMMAND_ARRIVAL (R228). -/
def execEngineCommandArrival (cl : Nat) (s : State) : Out := act (doEngineCommandArrival cl s) s
/-- MATRIX_STEP_START (R229). -/
def execMatrixStepStart (cl : Nat) (s : State) : Out := act (doMatrixStepStart cl s) s
/-- MATRIX_STEP_RETIRE (R231). -/
def execMatrixStepRetire (cl : Nat) (err : Nat) (s : State) : Out := act (doMatrixStepRetire cl err s) s
/-- MXZ_PERFORMED (R232). -/
def execMxzPerformed (cl : Nat) (acc : Nat) (s : State) : Out := act (doMxzPerformed cl acc s) s
/-- MXRD_PERFORMED (R233). -/
def execMxrdPerformed (cl : Nat) (acc : Nat) (err : Nat) (s : State) : Out := act (doMxrdPerformed cl acc err s) s
/-- MXWR_PERFORMED (R234): an accumulator number from 2 up says that its source holds an uncorrectable error (R239; notes/assumptions/121.md). -/
def execMxwrPerformed (cl : Nat) (acc : Nat) (s : State) : Out := act (doMxwrPerformed cl (acc % 2) (acc / 2) s) s
/-- VACC_PERFORMED (R113). -/
def execVaccPerformed (cl : Nat) (acc : Nat) (err : Nat) (s : State) : Out := act (doVaccPerformed cl acc err s) s
/-- SYNC_MARKER_COMPLETE (R237). -/
def execSyncMarkerComplete (cl : Nat) (id : Nat) (s : State) : Out := act (doSyncMarkerComplete cl id s) s

end Sys2Proof.Machine
end

