-- ==== Sys2Proof/Machine/Chain.lean ====
section
/-! DEFINITION. The chain instructions (R256 to R272) and the chain steps at the engine. -/

namespace Sys2Proof.Machine

/-- BSET (R262). -/
def execBset (a d : BitVec 5) (s : State) : Out :=
  run (do
    noRepeat
    needL (encode (.bset a d))
    regs [(xr a, false)] []
    let v ← getX a
    trapIf (v == 0 || 256 < v.toNat) .bondRange v
    updLsIn [5] fun l => { l with b := Tab.set l.b d.toNat (BitVec.ofNat 16 v.toNat) }) s

/-- BGET (R262). -/
def execBget (a d : BitVec 5) (s : State) : Out :=
  run (do
    noRepeat
    needL (encZM 4 1 0 a 0 d)
    regs [] [xr d]
    let v ← getB a.toNat
    setX d (BitVec.ofNat 64 v)) s

/-- Bytes of a boundary (R257). -/
def ChainSt.bytes (c : ChainSt) (d : Nat) : Nat := c.m * c.u * c.v * d * elemSize c.fmt
/-- The scratch offset of a half of the boundary buffer (R263). -/
def ChainSt.half (c : ChainSt) (h : Nat) : Nat := addrOf c.base - 0xFFFFE0000000 + h * c.hsz * 32
/-- The chain state after a step (R258). -/
def ChainSt.after (c : ChainSt) (st : CStep) : ChainSt :=
  { c with u := c.u * st.o, v := c.v / st.i, bond := st.rb, h := 1 - c.h, nstep := (c.nstep + 1) % 2048 }
/-- Bytes that a step leaves (R264 check 9). -/
def ChainSt.outBytes (c : ChainSt) (st : CStep) : Nat := (c.after st).bytes st.dr

/-- The chain steps of a core not yet retired. -/
def State.chainBusy (s : State) (k : Nat) : Bool := (s.clusterAt (k / 8)).eng.any fun e => e.org.k == k && (match e.op with
  | .walk .. => true
  | _ => false)

/-- The TSTAT word of a chain state (R269). -/
def ChainSt.word (c : ChainSt) (busy : Bool) : Word :=
  if !c.cfg then 0 else
  BitVec.ofNat 64 (c.v % 2 ^ 20 * 2 ^ 44 + c.bond % 16 * 2 ^ 40 + 2 ^ 39 + b2n busy * 2 ^ 38 + c.acc % 2 * 2 ^ 37 + c.h % 2 * 2 ^ 36
    + (c.m - 1) % 64 * 2 ^ 30 + c.u % 2 ^ 19 * 2 ^ 11 + c.nstep % 2048)

/-- TBND (R263). -/
def execTbnd (a b : BitVec 5) (s : State) : Out :=
  run (do
    noRepeat
    needL (encZM 4 2 0 a b 0)
    regs [(xr a, false), (xr b, false)] []
    let p ← getX a
    let v ← getX b
    let n := v.toNat
    let v0 := bits n 44 20
    let hsz := bits n 0 14
    trapIf (v0 == 0 || bits n 38 2 != 0 || bits n 14 16 != 0 || hsz == 0 || 8192 < hsz) .reservedField v
    let t := tagOf p
    trapIf (!tagOk p) .formatReserved p
    trapIf (!(t == 2 || t == 4)) .matrixFormat p
    trapIf (!blogOk t (blogOf p)) .blockMismatch p
    trapIf (!canonical p) .noncanonical p
    trapIf (addrOf p % 32 != 0) .misalignedStore p
    let _ ← ownRange p (2 * hsz * 32)
    let lb := bits n 40 4
    let d ← getB lb
    trapIf (d == 0 || 256 < d) .bondRange (BitVec.ofNat 64 lb)
    let st : ChainSt := {
      cfg := true, base := p, hsz := hsz, fmt := t, acc := bits n 37 1, m := bits n 30 6 + 1, u := 1, v := v0, bond := lb, h := bits n 36 1 }
    trapIf (hsz * 32 < st.bytes d) .boundaryOverflow (BitVec.ofNat 64 (st.bytes d))
    let s ← get
    holdUnless (!s.chainBusy s.cur)
    updLsIn [5] fun l => { l with chainI := st, chainR := st }) s

/-- TSTAT (R269). -/
def execTstat (d : BitVec 5) (s : State) : Out :=
  run (do
    noRepeat
    needL (encZM 4 5 0 0 0 d)
    regs [] [xr d]
    let s ← get
    setX d (s.ls.chainR.word (s.chainBusy s.cur))) s

/-- Bytes of a link of `e` elements (R256). -/
def linkBytes (tag e : Nat) : Nat := if tag = 2 then 2 * e else if tag = 4 then e else if tag = 9 then 34 * ((e + 31) / 32) else (e + 1) / 2
/-- The elements of a link (R256). -/
def CStep.elems (c : CStep) : Nat := c.dl * c.o * c.i * c.dr
/-- The link bytes of a step. -/
def CStep.bytes (c : CStep) : Nat := linkBytes (tagOf c.link) c.elems
/-- Whether a tag is a link format (R256). -/
def linkTag (t : Nat) : Bool := t == 2 || t == 4 || t == 9 || t == 11

/-- A working accumulator that a chain may use (R264 checks 2 and 3); `b` is X[b]. -/
def chainReady (b : Word) : M ChainSt := do
  let s ← get
  let st := s.ls.chainI
  trapIf (!st.cfg) .chainExtentMismatch (b &&& 0xFFFFFFFF)
  accFree st.acc
  trapIf (s.acc st.acc).issueI32 .matrixFormat (BitVec.ofNat 64 st.acc)
  pure st

/-- The extents that a step's registers hold (R259); `k` is the step index in the trap value. -/
def stepRegs (n k : Nat) (link : Word) (rnd : Nat) : M CStep := do
  let tv := fun (r : Nat) => BitVec.ofNat 64 (k * 2 ^ 32 + r)
  let dl ← getB (bits n 0 4)
  trapIf (dl == 0 || 256 < dl) .bondRange (tv (bits n 0 4))
  let dr ← getB (bits n 4 4)
  trapIf (dr == 0 || 256 < dr) .bondRange (tv (bits n 4 4))
  let o ← getB (bits n 8 4)
  trapIf (o == 0 || 64 < o) .bondRange (tv (bits n 8 4))
  let i ← getB (bits n 12 4)
  trapIf (i == 0 || 64 < i) .bondRange (tv (bits n 12 4))
  pure { link := link, rnd := rnd, keep := bitAt n 21, dl := dl, dr := dr, o := o, i := i, rb := bits n 4 4 }

/-- The pieces of a link, its pages translated; or the first failure (R264 check 7). -/
def State.linkPages (s : State) (o : Origin) (p : Word) : Nat → Nat → Except (Cause × Word) (List Piece × State)
  | 0, _ => .ok ([], s)
  | f + 1, len =>
    if len = 0 then .ok ([], s) else
    let n := min len (4096 - addrOf p % 4096)
    match s.place o p n .load with
    | .error c => .error (c, p)
    | .ok (r, s) => match r.spot with
      | .flat (.remote ..) => .error (.remoteDenied, p)
      | _ => match s.linkPages o (ptrAdd p n) f (len - n) with
        | .error e => .error e
        | .ok (ps, s) => .ok ({ va := p, r := r, n := n } :: ps, s)

/-- Whether a link lies in scratch. -/
def CStep.inScratch (st : CStep) : Bool := decide (0xFFFE00000000 ≤ addrOf st.link)

/-- The pieces of a step's link, its pages translated. -/
def State.linkOf (s : State) (o : Origin) (st : CStep) : Except (Cause × Word) (List Piece × State) :=
  if st.inScratch then .ok ([], s) else s.linkPages o st.link (st.bytes / 4096 + 2) st.bytes

/-- Checks 6 and 7 of R264 on a link, with the trap value of each failure; its pieces, when its pages are translated. -/
def linkCheck (st : CStep) (pages : Bool) (tv : Word → Word) : M (List Piece) := do
  let p := st.link
  let t := tagOf p
  trapIf (!tagOk p) .formatReserved (tv p)
  trapIf (!linkTag t) .matrixFormat (tv p)
  trapIf (!blogOk t (blogOf p)) .blockMismatch (tv p)
  trapIf (!canonical p) .noncanonical (tv p)
  trapIf ((t == 2 || t == 9) && addrOf p % 2 != 0) .misalignedLoad (tv p)
  let n := st.bytes
  let a := addrOf p
  trapIf (0xFFFFF0000000 ≤ a && a + n ≤ 0xFFFFF0002000) .privateRange (tv p)
  if !st.inScratch then do
    trapIf (0xFFFE00000000 < a + n) .scratchRange (tv p)
    if pages then do
      let s ← get
      match s.linkOf s.org st with
      | .error (c, va) => trap c (tv va)
      | .ok (ps, s') => do
        set s'
        pure ps
    else pure []
  else do
    let s ← get
    let off := a - 0xFFFFE0000000
    trapIf (a < 0xFFFFE0000000 || 0x80000 < off + n || !(s.groupAt s.fir.gid).holds off n) .scratchRange (tv p)
    pure []

/-- Pieces as an engine command keeps them. -/
def keptLink (ps : List Piece) : List (Word × Spot × Nat × Bool) := ps.map fun p => (p.va, p.r.spot, p.n, p.r.cnt)
/-- The pieces that an engine command keeps. -/
def ECmd.pieces (e : ECmd) : List Piece := (e.link.getD []).map fun x => { va := x.1, r := { spot := x.2.1, cnt := x.2.2.2 }, n := x.2.2.1 }

/-- The scratch ranges that a step reads and the one it writes (R272). -/
def ChainSt.ranges (c : ChainSt) (st : CStep) : List (Nat × Nat) × List (Nat × Nat) :=
  let i := c.half c.h
  let o := c.half (1 - c.h)
  let a := addrOf st.link
  ((i, i + c.bytes st.dl) :: (if 0xFFFFE0000000 ≤ a then [(a - 0xFFFFE0000000, a - 0xFFFFE0000000 + st.bytes)] else []),
    [(o, o + c.outBytes st)])

/-- Put a walk into the engine queue, its issue state advanced through every step, the pages of its first link translated (R264, R266). -/
def issueWalk (st : ChainSt) (link : List Piece) (steps : List CStep) (isWalk ps : Bool) (hdl : Nat) (slots : List Nat) : M Unit := do
  claim st.acc
  let s ← get
  match steps with
  | [] => pure ()
  | x :: _ => do
    let r := st.ranges x
    let id ← issueCmd (.walk st.acc steps 0 isWalk ps hdl slots s.ls.lut st) [r] []
    upd fun s => s.modCmd s.cl id fun e => { e with link := some (keptLink link) }
    updLsIn [5] fun l => { l with chainI := steps.foldl ChainSt.after st }

/-- TCON (R264). -/
def execTcon (rnd : BitVec 3) (a b : BitVec 5) (s : State) : Out :=
  run (do
    let w := encZM 4 3 rnd a b 0
    noRepeat
    needL w
    regs [(xr a, false), (xr b, false)] []
    let p ← getX a
    let v ← getX b
    let n := v.toNat
    trapIf (n / 2 ^ 22 != 0 || bits n 16 5 != 0) .reservedField v
    let st ← chainReady v
    let x ← stepRegs n 0 p rnd.toNat
    trapIf (bits n 0 4 != st.bond || st.v % x.i != 0) .chainExtentMismatch (v &&& 0xFFFFFFFF)
    let link ← linkCheck x true fun w => w
    let s ← get
    trapIf (tagOf p == 11 && !s.ls.lutOk) .lutUnloaded (tvw w)
    trapIf (st.hsz * 32 < st.outBytes x) .boundaryOverflow (BitVec.ofNat 64 (st.outBytes x))
    issueWalk st link [x] false false 0 []) s

/-- The step words that a walk uses (R265): up to the first with last = 1. -/
def walkWords : List Word → List (Word × Nat)
  | w0 :: w1 :: ws => (w0, w1.toNat) :: (if bitAt w1.toNat 20 then [] else walkWords ws)
  | _ => []

/-- Check 4 of R266 on the steps of a walk: their captured form; `bond` and `v` as the earlier steps leave them. -/
def walkSteps (tab : Word) : Nat → Nat → Nat → List (Word × Nat) → M (List CStep)
  | _, _, _, [] => pure []
  | k, bond, v, (link, n) :: ws => do
    let t := tagOf link
    trapIf (n / 2 ^ 22 != 0 || bitAt n 19 || 4 < bits n 16 3 || !linkTag t || !blogOk t (blogOf link)) .chainTableInvalid
      (ptrAdd tab ((16 * k : Nat) : Int))
    let x ← stepRegs n k link (bits n 16 3)
    trapIf (bits n 0 4 != bond || v % x.i != 0) .chainExtentMismatch (BitVec.ofNat 64 (k * 2 ^ 32 + n % 2 ^ 32))
    let xs ← walkSteps tab (k + 1) x.rb (v / x.i) ws
    pure (x :: xs)

/-- Check 5 of R266 on the links of a walk; the pages of step 0 alone are translated: its pieces. -/
def walkLinks (first : Bool) : List CStep → M (List Piece)
  | [] => pure []
  | x :: xs => do
    let ps ← linkCheck x first fun _ => x.link
    let _ ← walkLinks false xs
    pure ps

/-- Reserve several completion slots (R169). -/
def reserveSlots (hdl : Nat) : Nat → M (List Nat)
  | 0 => pure []
  | n + 1 => do
    let i ← reserveSlot hdl false
    let is ← reserveSlots hdl n
    pure (i :: is)

/-- TWALK (R265, R266). -/
def execTwalk (a b : BitVec 5) (s : State) : Out :=
  run (do
    let w := encZM 4 4 0 a b 0
    noRepeat
    needL w
    regs [(xr a, false), (xr b, false)] []
    let p ← getX a
    let v ← getX b
    let n := v.toNat
    let hnd := bits n 12 12
    let cnt := bits n 0 7
    let ps := bitAt n 8
    trapIf (n / 2 ^ 24 != 0 || bits n 9 3 != 0 || bitAt n 7 || (1 ≤ hnd && hnd ≤ 15) || cnt == 0 || 64 < cnt) .reservedField v
    headRaw p
    trapIf (addrOf p % 16 != 0) .misalignedLoad p
    trapIf (0xFFFFF0000000 ≤ addrOf p) .privateRange p
    trapIf (addrOf p < 0xFFFE00000000 && 0xFFFE00000000 < addrOf p + 16 * cnt) .scratchRange p
    if 0xFFFE00000000 ≤ addrOf p then do
      let _ ← ownRange p (16 * cnt) true
    let rs ← spanReach 16 .load (spanPtrs p 16 cnt)
    trapIf (rs.any fun r => match r.2.spot with
      | .flat (.remote ..) => true
      | _ => false) .remoteDenied p
    let tab ← pipeRead 16 rs
    match tab with
    | .error (c, tv) => pendHere c tv
    | .ok bs => do
      let st ← chainReady v
      let steps ← walkSteps p 0 st.bond st.v (walkWords (wordsOfN (2 * cnt) bs))
      let link ← walkLinks true steps
      let s ← get
      trapIf (steps.any (fun x => tagOf x.link == 11) && !s.ls.lutOk) .lutUnloaded (tvw w)
      trapIf (steps.head?.any fun x => decide (st.hsz * 32 < st.outBytes x)) .boundaryOverflow
        (BitVec.ofNat 64 ((steps.head?.map st.outBytes).getD 0))
      let slots ← reserveSlots hnd (if ps then steps.length else 1)
      issueWalk st link steps true ps hnd slots) s
where
  /-- The 8-byte words of bytes. -/
  wordsOfN (n : Nat) (bs : List Byte) : List Word := (List.range n).map fun i => BitVec.ofNat 64 (leNat (bs.drop (8 * i) |>.take 8))

/-- The link's bytes as a step reads them (R272), the core's earlier stores seen; a failure; none while a die that holds some has its clock stopped
(R358, R365). -/
def State.linkRead (s : State) (e : ECmd) (st : CStep) : Option (Except (Cause × Word) (List Byte × State)) :=
  let cl := e.org.k / 8
  if st.inScratch then some (.ok (s.bytesAt (.scratch cl (addrOf st.link - 0xFFFFE0000000)) st.bytes, s))
  else
    let s := s.flush e.org.k
    let ps := e.pieces
    match s.stuckPiece cl ps with
    | some (p, d) => if s.deadlineOf e.since (cl / 64) d ≤ s.time.toNat then some (.error (.crossDieTimeout, p.va)) else none
    | none => match ps.findSome? (s.pieceBad e.org .load) with
      | some b => some (.error b)
      | none => some (.ok (ps.flatMap fun p => s.spotBytes p.r.spot p.n, s.piecesCounted e.org ps))

/-- The values of a link's elements (R256). -/
def linkVals (tag n : Nat) (lut bs : List Byte) : List FVal :=
  if tag = 9 then (List.range ((n + 31) / 32)).flatMap fun b => bfpVals 9 (bs.drop (34 * b) |>.take 34)
  else if tag = 11 then (List.range n).map fun i => .ofInt (signed 8 (lut.getD (bits (bs.getD (i / 2) 0).toNat (i % 2 * 4) 4) 0).toNat)
  else (List.range n).map fun i => elemVal tag (leNat (bs.drop (i * elemSize tag) |>.take (elemSize tag)))

/-- The sums of a step's outputs in boundary order (R258). -/
def chainSums (c : ChainSt) (st : CStep) (bnd link : Array FVal) : List Nat :=
  let vp := c.v / st.i
  let up := c.u * st.o
  let cw := if c.fmt = 2 || tagOf st.link = 2 then 16 else 32
  (List.range (c.m * up * vp * st.dr)).map fun n =>
    let beta := n % st.dr
    let v := n / st.dr % vp
    let u' := n / st.dr / vp % up
    let mm := n / st.dr / vp / up
    let u := u' / st.o
    let oo := u' % st.o
    let ps := (List.range (st.dl * st.i)).map fun kappa =>
      let al := kappa / st.i
      let i := kappa % st.i
      (bnd.getD (((mm * c.u + u) * c.v + (i * vp + v)) * st.dl + al) (.fin false 0 0),
        some (link.getD ((al * st.o * st.i + (oo * st.i + i)) * st.dr + beta) (.fin false 0 0)))
    (contract false cw ps 0).1

/-- The working accumulator after a chain step (R270). -/
def Acc.chained (a : Acc) (keep nonfin : Bool) (sums : List Nat) : Acc :=
  let last := (sums.length - 1) / 4096 * 4096
  { a with
    steps := a.steps + 1
    nonfin := a.nonfin || nonfin
    bad := false
    rows := List.range 64
    el := if keep then (sums.drop last).zipIdx.map fun e => (e.2, BitVec.ofNat 32 e.1) else [] }

/-- The state with completion slots that are not used given back (R169, R267). -/
def State.unreserve (s : State) (o : Origin) (ids : List Nat) : State :=
  (s.kin o).foldl (fun s k => s.modCore k fun c => c.setArea (c.ca.filter fun x => !(ids.contains x.id && x.msg.isNone))) s

/-- The words of a walk's completion (R268). -/
def walkWordsOut (k : Nat) (bad : Option (Cause × Word)) (st : Word) (applied : Nat) : List Word :=
  [BitVec.ofNat 64 (k * 2 ^ 32 + 7), (match bad with
    | some (c, _) => BitVec.ofNat 64 (256 + c.code)
    | none => 0), (match bad with
    | some (_, tv) => tv
    | none => 0), st, BitVec.ofNat 64 applied]

/-- The state with the chain state of the firing that issued a command changed, while that firing runs. -/
def State.modFiring (s : State) (o : Origin) (f : LState → LState) : State :=
  if (s.coreAt o.k).l.fir.fid = o.fid then s.modCore o.k fun c => { c with ls := f c.ls }.touch [5] else s

/-- The chain steps of a core that follow a command in the queue: names and reserved slots (R267). -/
def laterWalks (id k : Nat) : Bool → List ECmd → List (Nat × List Nat)
  | _, [] => []
  | past, e :: es =>
    let rest := laterWalks id k (past || e.id == id) es
    if past && e.org.k == k then (match e.op with
      | .walk _ _ _ _ _ _ slots _ _ => (e.id, slots) :: rest
      | _ => rest) else rest

/-- A walk that fails at step `k` (R267); TCON has no completion, and its cause is raised at a boundary. -/
def State.walkFails (s : State) (cl : Nat) (e : ECmd) (k : Nat) (isWalk ps : Bool) (hdl : Nat) (slots : List Nat) (cur : ChainSt)
    (c : Cause) (tv : Word) : State :=
  let later := laterWalks e.id e.org.k false (s.clusterAt cl).eng
  let s := (e.id :: later.map (·.1)).foldl (fun s i => s.retireCmd cl i) s
  let s := s.modFiring e.org fun l => { l with chainI := cur, chainR := cur }
  let mine := if ps then slots.getD k 0 else slots.getD 0 0
  let s := s.unreserve e.org ((if ps then slots.drop (k + 1) else []) ++ later.flatMap (·.2))
  if isWalk then s.placeCompletion e.org mine hdl 7 (walkWordsOut k (some (c, tv)) (cur.word (s.chainBusy e.org.k)) k)
  else s.pendCause e.org c tv

/-- The die cycles that a step occupies the array (R271). -/
def ChainSt.cycles (c : ChainSt) (st : CStep) : Nat :=
  let up := fun (n d : Nat) => (n + d - 1) / d
  stepCycles * up (c.m * (c.u * st.o) * (c.v / st.i) * st.dr) 4096 * up (st.dl * st.i) (if c.fmt = 2 || tagOf st.link = 2 then 128 else 256)

/-- The state of a chain step that starts (R271, R273): until it retires a kill leaves its output half unspecified. -/
def State.chainGo (s : State) (cl : Nat) (e : ECmd) (cur : ChainSt) (st : CStep) (link : List Piece) : State :=
  let (rd, wr) := cur.ranges st
  (s.modCluster cl fun c => { c with
    array := some e.id
    score := c.score.map fun x => if x.id == e.id then { x with rd := rd, wr := wr } else x
    eng := c.eng.map fun x => if x.id == e.id then { x with
        started := true, occ := cur.cycles st, since := s.time.toNat, outs := [(cur.half (1 - cur.h), cur.hsz * 32)], link := some (keptLink link) } else x
    }).post (.chainRetire cl)

/-- The array command that a chain step's start concerns (R229, R266): the walk on the array between its steps, or the next command. -/
def Cluster.chainNext (c : Cluster) : Option ECmd :=
  if c.array.isSome then (if c.selfTest then none else c.array.bind c.cmd) else c.nextStep

/-- CHAIN_STEP_START (R267, R271, R272): for a later step of a walk, its size and its link's translation are checked first. A first step's pages are
those translated at issue (R264 check 7), unless its group was pre-empted or they were invalidated in between: then they are translated again. -/
def doChainStepStart (cl : Nat) (s : State) : Option State :=
  let s := s.freeArray cl
  let c := s.clusterAt cl
  match c.chainNext with
  | none => none
  | some e => match e.op with
    | .walk _ steps k isWalk ps hdl slots _ cur =>
      match steps[k]? with
      | none => none
      | some st =>
        if e.started || e.page.isSome || !s.mayStart cl e then none
        else
          let n := cur.outBytes st
          if cur.hsz * 32 < n then
            some (s.walkFails cl e k isWalk ps hdl slots cur .boundaryOverflow (BitVec.ofNat 64 (k * 2 ^ 32 + n)))
          else
            let (rd, wr) := cur.ranges st
            let go := fun (s : State) (link : List Piece) => if conflicts e.id rd wr c.score then none else some (s.chainGo cl e cur st link)
            if e.link.isSome then go s e.pieces else
            match s.linkOf e.org st with
            | .ok (link, s) => go s link
            | .error (cs, va) =>
              if cs == .loadPageFault then
                match s.faultNotice e.org cs va with
                | some s => some (s.modCmd cl e.id fun x => { x with page := some (pageOfVa va) })
                | none => (s.holdWalk e.org va).map fun s => s.post (.chainStart cl)
              else some (s.walkFails cl e k isWalk ps hdl slots cur cs va)
    | _ => none

/-- A boundary element: never -0 (R258). -/
def boundaryElem (fmt rnd x : Nat) : Nat :=
  let y := (elemOf fmt (rndOf rnd) (elemVal 1 x)).1
  match elemVal fmt y with
  | .fin true 0 _ => 0
  | _ => y

/-- CHAIN_STEP_RETIRE (R258, R268, R270): the output half is written, the retired state advances. -/
def doChainStepRetire (cl err : Nat) (s : State) : Option State :=
  let c := s.clusterAt cl
  match c.oldest with
  | none => none
  | some e => match e.op with
    | .walk a steps k isWalk ps hdl slots lut cur =>
      match steps[k]? with
      | none => none
      | some st =>
        if !e.started then none
        else if err ≠ 0 then some (s.stepFailed cl e err (.chainRetire cl))
        else match s.linkRead e st with
          | none => none
          | some (.error (cs, va)) => some (s.walkFails cl e k isWalk ps hdl slots cur cs va)
          | some (.ok (lb, s)) =>
            let bnd := (List.range (cur.m * cur.u * cur.v * st.dl)).map fun i =>
              elemVal cur.fmt (s.numAt (.scratch cl (cur.half cur.h + i * elemSize cur.fmt)) (elemSize cur.fmt))
            let sums := chainSums cur st bnd.toArray (linkVals (tagOf st.link) st.elems lut lb).toArray
            let out := sums.map (boundaryElem cur.fmt st.rnd)
            let bs := out.flatMap (leBytes (elemSize cur.fmt))
            let (rd, wr) := cur.ranges st
            let clash := (rd.drop 1).any fun r => wr.any (meets r)
            let (bs, s) := if clash then s.freeBytes bs.length else (bs, s)
            let s := s.writeAt (.scratch cl (cur.half (1 - cur.h))) bs
            let bad := out.any fun x => match elemVal cur.fmt x with
              | .fin .. => false
              | _ => true
            let s := s.modCluster cl fun c => c.setAcc a ((c.acc a).chained st.keep bad sums)
            let cur' := cur.after st
            let s := s.modFiring e.org fun l => { l with chainR := cur' }
            let more := decide (k + 1 < steps.length)
            let s := if more then (s.modCmd cl e.id fun x => { x with
                started := false, retried := false, outs := [], link := none, op := .walk a steps (k + 1) isWalk ps hdl slots lut cur' }).post (.chainStart cl)
              else s.retireCmd cl e.id
            if isWalk && (ps || !more) then
              some (s.placeCompletion e.org (slots.getD (if ps then k else 0) 0) hdl 7
                (walkWordsOut k none (cur'.word (s.chainBusy e.org.k)) (k + 1)))
            else some s
    | _ => none

/-- CHAIN_STEP_START (R271). -/
def execChainStepStart (cl : Nat) (s : State) : Out := act (doChainStepStart cl s) s
/-- CHAIN_STEP_RETIRE (R258). -/
def execChainStepRetire (cl : Nat) (err : Nat) (s : State) : Out := act (doChainStepRetire cl err s) s

end Sys2Proof.Machine
end

