-- ==== Sys2Proof/Machine/Copies.lean ====
section
/-! DEFINITION. The copy and batch instructions (R192 to R204): COPY, CTILE, SEAL, WAITB, TESTB, CSTAGE, and what the dealer then does:
COMMAND_ACCEPTANCE, COPY_COMPLETION, BATCH_COMPLETION, SCOREBOARD_RETIRE. -/

namespace Sys2Proof.Machine

/-- The first of a list of failed checks. -/
def firstBad : List (Bool × Cause × Word) → Option (Cause × Word)
  | [] => none
  | (b, c, tv) :: rs => if b then some (c, tv) else firstBad rs

/-- The first of two possible failures. -/
def orBad (x y : Option (Cause × Word)) : Option (Cause × Word) :=
  match x with
  | none => y
  | some e => some e

/-- Why `n` bytes from an address up, which is not reduced, do not lie whole in one region that a copy may use, if they do not (R199 check 5). -/
def State.regionBad (s : State) (o : Origin) (a n : Nat) : Option Cause :=
  let e := a + n
  let own := fun (off : Nat) => !(s.groupAt o.gid).holds off n
  if n = 0 then none
  else if a < 0xFFFFF0002000 && 0xFFFFF0000000 < e then some .privateRange
  else if 0xFFFFE0000000 ≤ a && a < 0xFFFFE0080000 then (if own (a - 0xFFFFE0000000) then some .scratchRange else none)
  else if 0xFFFE00000000 ≤ a && a < 0xFFFE10000000 then
    match s.clusterOf o.part (bits a 25 3) (bits a 19 6) with
    | none => some .remoteDenied
    | some cl =>
      if 0x80000 < bits a 0 19 + n then some .copyRange
      else if cl = o.k / 8 && own (bits a 0 19) then some .scratchRange else none
  else if e ≤ 0xFFFE00000000 then none
  else some .copyRange

/-- The alignment of a copy's pointer (R199 check 4). -/
def copyAlign (tag : Nat) : Nat := if tag = 9 || tag = 10 then 2 else elemSize tag

/-- Whether a count of elements does not suit a pair of tags (R197, R201): a block format moves by 32, LUT4 by pairs. A CTILE of LUT4 whose rows do not begin and
end at whole bytes is refused: the model's choice (notes/assumptions/75.md). -/
def DCmd.countBad (c : DCmd) : Bool :=
  let st := tagOf c.src
  let dt := tagOf c.dst
  let blk := st == 9 || st == 10 || dt == 9 || dt == 10
  if c.kind = 2 then
    st == 11 && (let t := TileDesc.ofWords c.desc
      let (a, b, u, v) := t.box
      !(decide (b < a) || decide (v < u)) && !(decide ((t.c0 + u) % 2 = 0) && decide (u % 2 = 0) && decide ((v - u + 1) % 2 = 0)))
  else (blk && c.cnt % 32 != 0) || (st == 11 && c.cnt % 2 != 0)

/-- Checks 2 to 5 of R199 on a copy command; `tvb` is the value that names its count, `w` its word. -/
def State.copyCheck (s : State) (c : DCmd) (tvb w : Word) : Option (Cause × Word) :=
  let st := tagOf c.src
  let dt := tagOf c.dst
  let head := fun (p : Word) => [(!tagOk p, Cause.formatReserved, p), (!blogOk (tagOf p) (blogOf p), .blockMismatch, p), (!canonical p, .noncanonical, p)]
  let pair : Option (Cause × Word) := match copyPair (c.kind != 2) c.src c.dst c.rnd with
    | some .copyRounding => some (.copyRounding, w)
    | some x => some (x, BitVec.ofNat 64 (st * 256 + dt))
    | none => none
  let range := fun (a n : Nat) (q : Word) => (s.regionBad c.org a n).map fun x => (x, q)
  orBad (firstBad (head c.src ++ head c.dst)) (orBad pair (orBad (firstBad [
      (c.countBad, .copyRange, tvb),
      (addrOf c.src % copyAlign st != 0, .misalignedLoad, c.src),
      (addrOf c.dst % copyAlign dt != 0, .misalignedStore, c.dst)])
    (orBad (range c.srcRange.1 c.srcRange.2 c.src) (range c.dstRange.1 c.dstRange.2 c.dst))))

/-- The range of a cluster's own scratch that a range of a command touches, if any (R205). -/
def State.ownSpan (s : State) (o : Origin) (a n : Nat) : List (Nat × Nat) :=
  if n = 0 then []
  else if 0xFFFFE0000000 ≤ a && a < 0xFFFFE0080000 then [(a - 0xFFFFE0000000, a - 0xFFFFE0000000 + n)]
  else if 0xFFFE00000000 ≤ a && a < 0xFFFE10000000 && s.clusterOf o.part (bits a 25 3) (bits a 19 6) == some (o.k / 8) then
    [(bits a 0 19, bits a 0 19 + n)]
  else []

/-- The scoreboard entry of a command, when it accesses its cluster's scratch (R205). -/
def State.copyScore (s : State) (c : DCmd) : List Score :=
  let rd := s.ownSpan c.org c.srcRange.1 c.srcRange.2
  let wr := s.ownSpan c.org c.dstRange.1 c.dstRange.2
  if rd.isEmpty && wr.isEmpty then [] else [{ id := c.id, gid := c.org.gid, k := c.org.k, rd := rd, wr := wr }]

/-- Whether a cluster's scoreboard has room for a command's entry. -/
def State.scoreRoom (s : State) (cl n : Nat) : Bool := decide ((s.clusterAt cl).score.length + n ≤ scoreSize)

/-- The state with a command accepted (R192, R198, R205): its scoreboard entry taken, the seed of its STO bits read. -/
def State.acceptCmd (s : State) (cl : Nat) (c : DCmd) : State :=
  let sc := s.copyScore c
  (s.modCluster cl fun x => { x with
    dealer := (x.dealer.filter (·.id != c.id)) ++ [{ c with accepted := true, seed := (s.partAt c.org.part).csr.seed, since := s.time.toNat }]
    score := x.score ++ sc }).post (.copyDone cl c.id)

/-- The open batch of the moving firing, made when it has none (R202). -/
def openBatch : M Batch := do
  let s ← get
  let f := s.fir
  match s.me.batches.find? fun b => b.fid == f.fid && !b.isSealed with
  | some b => pure b
  | none => do
    let id ← freshId
    let b : Batch := { fid := f.fid, bid := id }
    updMe fun c => { c with batches := c.batches ++ [b] }
    pure b

/-- Join the current batch: its name and the command's place in it; 256 commands fill it (R199 check 6). -/
def joinBatch : M (Nat × Nat) := do
  let s ← get
  trapIf (256 ≤ s.ls.batchSize) .batchOverflow 256
  let b ← openBatch
  let n := s.ls.batchSize
  updLs fun l => { l with batchSize := n + 1 }
  pure (b.bid, n)

/-- Issue a checked command (R192, R198, R199 check 6, R205). -/
def issueCopy (c : DCmd) : M Unit := do
  let s ← get
  let slot ← (if c.own then reserveSlot c.hdl false else freshId)
  let (b, n) ← joinBatch
  holdUnless ((s.clusterAt s.cl).dealer.all (·.accepted))
  let c := { c with id := slot, batch := b, place := n, seq := s.ls.copySeq }
  holdUnless (s.scoreRoom s.cl (s.copyScore c).length)
  ownServed
  updLs fun l => { l with copySeq := l.copySeq + 1 }
  upd fun s => s.acceptCmd s.cl c

/-- Raise the first failed check of a command. -/
def copyChecks (c : DCmd) (tvb w : Word) : M Unit := do
  let s ← get
  match s.copyCheck c tvb w with
  | some (x, tv) => trap x tv
  | none => pure ()

/-- COPY (R196 to R199). -/
def execCopy (rnd : BitVec 3) (a b d : BitVec 5) (s : State) : Out :=
  run (do
    let w := encZM 5 0 rnd a b d
    noRepeat
    needL w
    regs [(xr a, false), (xr b, false), (xr d, false)] []
    let src ← getX a
    let v ← getX b
    let dst ← getX d
    let n := v.toNat
    let hdl := bits n 36 12
    trapIf (bits n 48 16 != 0 || bits n 34 2 != 0 || (1 ≤ hdl && hdl ≤ 15)) .reservedField v
    let s ← get
    let c : DCmd := {
      kind := 1, org := s.org, src := src, dst := dst, cnt := bits n 0 32, rnd := rnd.toNat, crc := bitAt n 32,
      own := bitAt n 32 || bitAt n 33 || hdl != 0, hdl := hdl }
    copyChecks c v (tvw w)
    issueCopy c) s

/-- A 32-byte descriptor that a core reads raw at issue (R200, R214): its words. -/
def readDesc (p : Word) : M (List Word) := do
  trapIf (!tagOk p) .formatReserved p
  trapIf (!canonical p) .noncanonical p
  trapIf (addrOf p % 32 != 0) .misalignedLoad p
  trapIf (decide (0xFFFFF0000000 ≤ addrOf p)) .privateRange p
  let bs ← readNow p 32
  pure (wordsOf bs)

/-- CTILE (R200, R201). -/
def execCtile (rnd : BitVec 3) (a b d : BitVec 5) (s : State) : Out :=
  run (do
    let w := encZM 5 1 rnd a b d
    noRepeat
    needL w
    regs [(xr a, false), (xr b, false), (xr d, false)] []
    let src ← getX a
    let p ← getX b
    let dst ← getX d
    let ws ← readDesc p
    trapIf (!tileOk ws (elemSize (tagOf src)) (elemSize (tagOf dst))) .copyRange p
    let s ← get
    let c : DCmd := { kind := 2, org := s.org, src := src, dst := dst, rnd := rnd.toNat, desc := ws, own := true }
    copyChecks c p (tvw w)
    issueCopy c) s

/-- The sealed batches of a firing whose completions are not placed yet (R202). -/
def Core.unplaced (c : Core) (fid : Nat) : List Batch := c.batches.filter fun b => b.fid == fid && b.isSealed

/-- Seal a batch: it takes the next batch number and a completion slot (R202). -/
def sealBatch (b : Batch) (slot count : Nat) : M Word := do
  let s ← get
  let num := s.ls.seals
  updMe fun c => { c with
    batches := c.batches.filter (·.bid != b.bid) ++ [{ b with isSealed := true, id := slot, num := num.toNat, count := count }] }
  updLs fun l => { l with seals := l.seals + 1 }
  post (.batchDone s.cur)
  pure (num.setWidth 64)

/-- SEAL (R202). -/
def execSealB (d : BitVec 5) (s : State) : Out :=
  run (do
    noRepeat
    needL (encZM 5 2 0 0 0 d)
    regs [] [xr d]
    let slot ← reserveSlot 0 false
    let b ← openBatch
    let s ← get
    let n ← sealBatch b slot s.ls.batchSize
    updLs fun l => { l with batchSize := 0 }
    setX d n) s

/-- The placed batch completions of a firing, as WAITB and TESTB find them (R203). -/
def Core.batchesDone (c : Core) (fid : Nat) : List Msg :=
  (c.ca.filterMap fun x => if x.hidden then none else x.msg).filter fun m => m.src == 3 && m.hdl == 0 && m.fid == fid

/-- One pass over the placed batch completions (R203): each is dequeued, an acquire; the first that reports a fault raises it. -/
def batchPass : List Msg → M Unit
  | [] => pure ()
  | m :: ms => do
    upd fun s => s.dequeue m
    acquire
    let w1 := (m.words.getD 2 0).toNat
    if bitAt w1 8 then report ((Cause.ofCode (bits w1 0 8)).getD .copyRange) (m.words.getD 3 0)
    else batchPass ms

/-- WAITB (R203). -/
def execWaitb (a : BitVec 5) (s : State) : Out :=
  run (do
    let w := encZM 5 3 0 a 0 0
    noRepeat
    needL w
    needLaunch w
    regs [(xr a, false)] []
    let v ← getX a
    let s ← get
    let f := s.fir.fid
    batchPass (s.me.batchesDone f)
    if (s.me.unplaced f).length ≤ v.toNat then pure () else holdKeep) s

/-- TESTB (R203): one pass; then how many batches are outstanding. -/
def execTestb (a d : BitVec 5) (s : State) : Out :=
  run (do
    noRepeat
    needL (encZM 5 4 0 a 0 d)
    regs [(xr a, false)] [xr d]
    let s ← get
    let f := s.fir.fid
    batchPass (s.me.batchesDone f)
    setX d (BitVec.ofNat 64 (s.me.unplaced f).length)) s

/-- Words of global memory that the dealer reads for a core at CSTAGE (R145, R204). The model's choice, as R204 names no causes for a bad schedule
pointer: steps 1, 3 and 4 of R61 for 32-byte units with MISALIGNED_LOAD, PRIVATE_RANGE or SCRATCH_RANGE for one outside global memory, and a failed
access raised precisely (notes/assumptions/30.md). -/
def dealerRead (p : Word) (n : Nat) : M (List Word) := do
  trapIf (!tagOk p) .formatReserved p
  trapIf (!canonical p) .noncanonical p
  trapIf (addrOf p % 32 != 0) .misalignedLoad p
  trapIf (decide (0xFFFFF0000000 ≤ addrOf p)) .privateRange p
  trapIf (decide (0xFFFE00000000 < addrOf p + n)) .scratchRange p
  ownServed
  let s ← get
  let o : Origin := { s.org with h := false }
  let own : Owner := .port s.cur 64
  match s.range o .load p n with
  | .error (c, va) => if lateCause c then late c va else trap c va
  | .ok (rs, s1) => do
    holdUnless (!(anyAbroad rs && s.coreAbroad s.cur))
    match s.stuckPiece s.cl rs with
    | some (q, d) =>
      if s.ctx.waitAt.any fun t => decide (s.deadlineOf t (s.cur / 512) d ≤ s.time.toNat) then late .crossDieTimeout q.va else hold
    | none => match s1.piecesBytes own rs with
      | none => want fun s => s.askPieces own o rs
      | some (.error e) => do
        upd fun s => s.dropLines own
        targetFails e
      | some (.ok bs) => do
        set ((s1.piecesCounted o rs).dropLines own)
        pure ((pieces 8 (n / 8 + 1) bs).map fun b => BitVec.ofNat 64 (leNat b))

/-- A schedule entry as a command (R204): its words, its index and its address. -/
def State.entryCmd (s : State) (ws : List Word) (i : Nat) (va : Word) : DCmd :=
  let w := fun j => ws.getD j 0
  let n3 := (w 3).toNat
  let c : DCmd := {
    kind := 3, org := s.org, src := w 0, dst := w 1, cnt := bits (w 2).toNat 0 32, rnd := bits n3 16 3, seq := BitVec.ofNat 32 (0x80000000 + i) }
  let bad : Option (Cause × Word) :=
    if bits (w 2).toNat 32 32 != 0 || bits n3 19 45 != 0 then some (.copyRange, va)
    else if !([0, 1, 4, 5].contains c.rnd) then some (.reservedRounding, va)
    else (s.copyCheck c va va).map fun e => (e.1, va)
  { c with bad := bad }

/-- The entries of a schedule that a stage replays on a rank (R204). -/
def entryMatches (ws : List Word) (stage rank : Nat) : Bool :=
  let n := (ws.getD 3 0).toNat
  bits n 0 12 == stage && (bits n 12 4 == 15 || bits n 12 4 == rank)

/-- Hand the matching entries to the dealer, each with its name and its place in the batch. -/
def queueEntries (bid : Nat) : Nat → List DCmd → M Unit
  | _, [] => pure ()
  | n, c :: cs => do
    let id ← freshId
    upd fun s => (s.modCluster s.cl fun x => { x with dealer := x.dealer ++ [{ c with id := id, batch := bid, place := n }] }).post (.accept s.cl)
    queueEntries bid (n + 1) cs

/-- CSTAGE (R204). The model's choices where the rules leave it open: the entries form a batch of their own, sealed at once, and the firing's current
batch stays as it is, though R202 lets a stage join it (notes/assumptions/31.md); the reserved fields of the schedule's header are ignored
(notes/assumptions/32.md). -/
def execCstage (d : BitVec 5) (s : State) : Out :=
  run (do
    noRepeat
    needL (encZM 5 5 0 0 0 d)
    regs [] [xr d]
    let s ← get
    let sched := (s.launchAt s.grp.launch).sched
    let stage := s.ls.stage
    let tv := BitVec.ofNat 64 (stage + 1)
    trapIf (sched == 0) .stageOverrun tv
    let hd ← dealerRead sched 32
    let h := (hd.getD 0 0).toNat
    trapIf (stage == bits h 16 12) .stageOverrun tv
    let ws ← dealerRead (ptrAdd sched 32) (32 * bits h 0 12)
    let slot ← reserveSlot 0 false
    let bid ← freshId
    let s ← get
    let rank := (s.grp.cores.findIdx? (· == s.cur)).getD 0
    let es := (pieces 4 (bits h 0 12) ws).zipIdx.filter fun e => entryMatches e.1 (stage + 1) rank
    let cs := es.map fun e => s.entryCmd e.1 e.2 (ptrAdd sched ((32 * (e.2 + 1) : Nat) : Int))
    queueEntries bid 0 cs
    let n ← sealBatch { fid := s.fir.fid, bid := bid } slot cs.length
    updLs fun l => { l with stage := stage + 1 }
    setX d (BitVec.ofNat 64 (n.toNat * 2 ^ 32 + stage + 1))) s

/-- COMMAND_ACCEPTANCE (R192, R205): the oldest waiting command of a dealer is accepted once the scoreboard has room. -/
def doCommandAcceptance (cl : Nat) (s : State) : Option State :=
  match (s.clusterAt cl).dealer.find? fun c => !c.accepted with
  | none => none
  | some c =>
    let n := if c.bad.isSome then 0 else (s.copyScore c).length
    if !s.scoreRoom cl n then none
    else some (if c.bad.isSome then (s.modCluster cl fun x => { x with
        dealer := x.dealer.map fun y => if y.id == c.id then { y with accepted := true } else y }).post (.copyDone cl c.id)
      else s.acceptCmd cl c)

/-- A failure recorded in a batch: the first in issue order stands (R202). -/
def Batch.failed (b : Batch) (place : Nat) (e : Option (Cause × Word)) : Batch :=
  match e, b.fail with
  | none, _ => b
  | some (c, tv), none => { b with fail := some (place, c, tv) }
  | some (c, tv), some (q, _, _) => if place < q then { b with fail := some (place, c, tv) } else b

/-- The state with a core's batches changed, in its own list and in its frame slots. -/
def State.modBatches (s : State) (k : Nat) (f : Batch → Batch) : State :=
  s.modCore k fun c => { c with
    batches := c.batches.map f
    slots := c.slots.map fun e => (e.1, { e.2 with batches := e.2.batches.map f }) }

/-- The words of a completion after its first: fault, value, box or tiles, batch count (R194). -/
def complArgs (first : Nat) (bad : Option (Cause × Word)) (v box n : Word) : List Word :=
  match bad with
  | some (c, tv) => [BitVec.ofNat 64 first, BitVec.ofNat 64 (256 + c.code), tv, box, n]
  | none => [BitVec.ofNat 64 first, 0, v, box, n]

/-- The state after a command completed or failed (R193, R194, R202): out of the dealer, its batch told, its own completion placed. -/
def State.copyEnded (s : State) (cl : Nat) (c : DCmd) (bad : Option (Cause × Word)) (crc : Nat) : State :=
  let s := (s.modCluster cl fun x => { x with dealer := x.dealer.filter (·.id != c.id) }).post (.retire cl c.id)
  let ks := s.kin c.org
  let s := ks.foldl (fun s k => s.modBatches k fun b => if b.bid == c.batch then b.failed c.place bad else b) s
  let s := ks.foldl (fun s k => s.post (.batchDone k)) s
  if !c.own then s
  else s.placeCompletion c.org c.id c.hdl c.kind (complArgs (c.seq.toNat * 2 ^ 32 + c.kind) bad (if c.crc then BitVec.ofNat 64 crc else 0)
    (if c.kind = 2 then (TileDesc.ofWords c.desc).boxWord else 0) 0)

/-- A command of a dealer, by its name. -/
def Cluster.dcmd (c : Cluster) (id : Nat) : Option DCmd := c.dealer.find? fun x => x.id == id && x.accepted

/-- The failures that another agent may report of a copy's access (R199, R365, R385). -/
def reportable (err : Nat) : Option Cause :=
  match Cause.ofCode err with
  | some .memoryPoison => some .memoryPoison
  | some .fabricUnreachable => some .fabricUnreachable
  | some .crossDieTimeout => some .crossDieTimeout
  | some .dieOffline => some .dieOffline
  | _ => none

/-- The state with a command that a dealer holds changed. -/
def State.modDCmd (s : State) (cl id : Nat) (f : DCmd → DCmd) : State :=
  s.modCluster cl fun x => { x with dealer := x.dealer.map fun y => if y.id == id then f y else y }

/-- The state after a command failed with a cause that another agent reports: at an address of its ranges that the report does not give (R199). -/
def State.copyReported (s : State) (cl : Nat) (c : DCmd) (e : Cause) (wr : Bool) : State :=
  let (va, s) := if wr then s.freeIn c.dst c.dstRange.2 else s.freeIn (ptrAdd c.src ((c.srcRange.1 : Int) - addrOf c.src)) c.srcRange.2
  (s.clobber c).copyEnded cl c (some (e, va)) 0

/-- Whether pieces touch a line that the cluster's engine holds under lease, so that the engine serves the dealer's access (R179). -/
def Cluster.leased (c : Cluster) (ps : List Piece) : Bool :=
  ps.any fun p => (p.r.spot.spans p.n).any fun x => match x.1 with
    | .hbm pa => c.leases.any fun l => decide (pa / 64 ≤ l) && decide (l * 64 < pa + x.2)
    | _ => false

/-- Whether a cluster's engine serves its dealer's command now (R178): after the incoming requests and the cores, but for one that has waited long and longest. -/
def State.dealerFirst (s : State) (cl id : Nat) : Bool :=
  let rs := (s.clusterAt cl).amoWait.filter (s.amoLives cl)
  match (s.clusterAt cl).amoDeal.filter (fun e => e.1 == id && s.aged cl e.2), s.oldestAged cl rs with
  | some e, some t => e.2 == t && !((s.incoming cl).any fun x => x.2.at_ == t) && rs.all fun x => x.since != t
  | _, some _ => false
  | _, none => (s.incoming cl).isEmpty && rs.isEmpty

/-- The state in which a cluster's dealer waits for its engine with a command. -/
def State.dealerJoin (s : State) (cl id : Nat) : State :=
  s.modCluster cl fun c => { c with amoDeal := some ((c.amoDeal.filter (·.1 == id)).getD (id, s.time.toNat)) }

/-- The pieces that a command reads and writes, when they can all be accessed. -/
def State.copyPieces (s : State) (c : DCmd) : List Piece :=
  match s.rowMoves c c.rows with
  | .ok (ms, _) => ms.flatMap fun m => m.src ++ m.dst
  | .error _ => []

/-- Whether a command waits for its turn at its cluster's engine, which serves the leased lines it touches (R178, R179). -/
def State.dealerHeld (s : State) (cl : Nat) (c : DCmd) : Bool :=
  let ps := if (s.clusterAt cl).leases.isEmpty then [] else s.copyPieces c
  (s.clusterAt cl).leased ps && (s.stuckPiece cl ps).isNone && !s.dealerFirst cl c.id

/-- COPY_COMPLETION (R144, R193, R199, R205): a started command is carried out whole, waits for a page, a stopped die or another package, or fails.
Its writes to other packages are acknowledged before it completes. `err` is the code of a failure that another agent reports of its access, or 0. -/
def doCopyCompletion (cl id err : Nat) (s : State) : Option State :=
  let x := s.clusterAt cl
  match x.dcmd id with
  | none => none
  | some c =>
    let mine := x.score.filter (·.id == id)
    let own : Owner := .copy cl id
    if c.moved then match s.outEnded own with
      | none => none
      | some none => some ((s.dropOut own).copyEnded cl c none c.crcVal)
      | some (some e) => some (((s.dropOut own).clobber c).copyEnded cl c (some e) 0)
    else if c.page.isSome || mine.any fun m => conflicts id m.rd m.wr x.score then none
    else if c.bad.isSome then some (s.copyEnded cl c c.bad 0)
    else match reportable err with
      | some e =>
        let s := s.dropLines own
        some (State.copyReported { s with free := s.free + 1 } cl c e (Config.freeValue s.free % 2 == 1))
      | none =>
        if s.dealerHeld cl c then (if (x.amoDeal.filter (·.1 == id)).isSome then none else some ((s.dealerJoin cl id).post (.copyDone cl id)))
        else
        let s := s.modCluster cl fun y => { y with amoDeal := none }
        match s.runCopy cl c with
        | .done bs todo s' =>
          let crc := if bs.isEmpty then 0 else crc32c bs
          if todo.isEmpty then some (s'.copyEnded cl c none crc)
          else some ((s'.modDCmd cl id fun y => { y with moved := true, crcVal := crc }).startOut own c.agent todo |>.post (.copyDone cl id))
        | .fail e va s' => some ((s'.dropLines own).copyEnded cl c (some (e, va)) 0)
        | .page e va => match s.faultNotice c.org e va with
          | some s => some (s.modDCmd cl id fun y => { y with page := some (pageOfVa va) })
          | none => (s.holdWalk c.org va).map fun s => s.post (.copyDone cl id)
        | .wait s' =>
          if s'.awayLines.length = s.awayLines.length && x.amoDeal.isNone then none else some (s'.post (.copyDone cl id))

/-- Whether every command of a batch has completed or failed. -/
def State.batchIdle (s : State) (o : Origin) (b : Batch) : Bool :=
  (s.clusterAt (o.k / 8)).dealer.all fun c => c.batch != b.bid

/-- The first sealed batch of each firing in a list, when all its commands are done (R202). -/
def State.batchReady (s : State) (k : Nat) (bs : List Batch) : Option Batch :=
  bs.find? fun b => b.isSealed && ((bs.find? fun x => x.fid == b.fid && x.isSealed).map (·.bid) == some b.bid) && s.batchIdle { k := k } b

/-- The state with a batch's completion placed (R202). -/
def State.batchEnded (s : State) (k : Nat) (f : Firing) (b : Batch) : State :=
  let o : Origin := { k := k, fid := b.fid, gid := f.gid, part := f.part, job := f.job }
  let s := s.modCore k fun c => { c with
    batches := c.batches.filter (·.bid != b.bid)
    slots := c.slots.map fun e => (e.1, { e.2 with batches := e.2.batches.filter (·.bid != b.bid) }) }
  (s.placeCompletion o b.id 0 3 (complArgs (b.num * 2 ^ 32 + 3) (b.fail.map fun x => x.2) 0 0 (BitVec.ofNat 64 b.count))).post (.batchDone k)

/-- BATCH_COMPLETION (R202): of a core's firings, running, ended or saved. -/
def doBatchCompletion (k : Nat) (s : State) : Option State :=
  let c := s.coreAt k
  match s.batchReady k c.batches with
  | some b =>
    let g := (c.bound.getD c.l.fir.gid)
    let gr := s.groupAt g
    some (s.batchEnded k { gid := g, part := gr.part, job := gr.job } b)
  | none => c.slots.findSome? fun e => (s.batchReady k e.2.batches).map fun b => s.batchEnded k e.2.fir b

/-- SCOREBOARD_RETIRE (R205): the entries of a command that has ended retire. -/
def doScoreboardRetire (cl id : Nat) (s : State) : Option State :=
  let c := s.clusterAt cl
  if c.score.any (·.id == id) && c.dealer.all (·.id != id) && c.eng.all (·.id != id)
      && List.all c.rings fun e => (e.2.sub.map (·.id)) != some id then some (s.scoreDone cl id)
  else none

/-- COMMAND_ACCEPTANCE (R192). -/
def execCommandAcceptance (cl : Nat) (s : State) : Out := act (doCommandAcceptance cl s) s
/-- COPY_COMPLETION (R193). -/
def execCopyCompletion (cl id err : Nat) (s : State) : Out := act (doCopyCompletion cl id err s) s
/-- BATCH_COMPLETION (R202). -/
def execBatchCompletion (k : Nat) (s : State) : Out := act (doBatchCompletion k s) s
/-- SCOREBOARD_RETIRE (R205). -/
def execScoreboardRetire (cl id : Nat) (s : State) : Out := act (doScoreboardRetire cl id s) s

end Sys2Proof.Machine
end

