-- ==== Sys2Proof/Machine/Launches.lean ====
section
/-! DEFINITION. Launch records, their acceptance, ready queues, cancellation and completion counters (R277 to R290), and the
instructions of the launch cell (R287 to R291). -/

namespace Sys2Proof.Machine

/-- `n` bits of word `i` of a launch record from bit `lo` (R277). -/
def recF (ws : List Word) (i lo n : Nat) : Nat := bits (ws.getD i 0).toNat lo n

/-- Whether the must-be-zero fields of a launch record are zero (R277). -/
def recZeros (ws : List Word) : Bool :=
  recF ws 0 48 2 == 0 && recF ws 0 24 8 == 0 && recF ws 1 48 4 == 0 && recF ws 2 48 8 == 0 && recF ws 4 13 23 == 0
    && recF ws 5 48 16 == 0 && recF ws 6 0 64 == 0 && recF ws 7 0 64 == 0

/-- Whether the allotment fields of a record are in range (R278, R288); cpg is always 1 to 8. -/
def recAllot (lim : Nat) (ws : List Word) : Bool :=
  decide (recF ws 4 0 8 ≤ 128) && decide (recF ws 4 8 5 ≤ 16) && decide (recF ws 4 0 8 ≤ lim)

/-- Whether the other fields of a record are in range (R277, R278). -/
def recFields (ws : List Word) : Bool :=
  let n := recF ws 1 52 12
  let ent := recF ws 0 12 12
  let flt := recF ws 0 0 12
  recZeros ws && decide (recF ws 0 53 4 ≤ 8) && decide (1 ≤ n) && decide (n ≤ 4080) && decide (16 ≤ ent) && decide (ent ≤ 15 + n)
    && decide (16 ≤ flt) && decide (flt ≤ 15 + n) && recF ws 1 0 48 % 8 == 0 && decide (recF ws 2 56 8 ≤ 240)
    && (recF ws 2 56 8 == 0 || recF ws 2 0 48 % 8 == 0)

/-- Whether a launch record is valid (R278). -/
def recValid (lim : Nat) (ws : List Word) : Bool := recF ws 0 60 4 == 1 && recAllot lim ws && recFields ws

/-- Whether a launch id is active in a job (R278). -/
def State.lidActive (s : State) (p job lid : Nat) : Bool :=
  List.any s.launches fun e => e.2.st == 1 && e.2.part == p && e.2.job == job && e.2.lid == lid

/-- Where `n` bytes of a job's memory are, as the dispatcher reads a record or a block (R277): a load with no cluster and no privilege of its own,
through the partition's enabled apertures (R345). -/
def State.jobSpot (s : State) (p job va n : Nat) : Except Cause Spot :=
  if 0xFFFE00000000 ≤ va then .error .loadPermission
  else match s.walkFrom va 3 (s.rootOf p job) with
    | .none => .error .loadPageFault
    | .bad => .error .loadPermission
    | .poison => .error .memoryPoison
    | .leaf size pa pte _ =>
      if !bitAt pte 62 then .error .loadPermission
      else match (s.partAt p).aperOf va with
        | some i =>
          let ap := Tab.get (s.partAt p).apers i {}
          let off := va - ap.vbase
          if ap.xf = 0 then .ok (.flat (.hbm (ap.pbase + off)))
          else if off % ap.unit != 0 || n % ap.unit != 0 then .error .apertureViolation
          else .ok (.view ap off)
        | none => if bitAt pa 51 then .error .remoteDenied else .ok (.flat (.hbm (pa + va % size)))

/-- `n` 8-byte words of a job's memory from an aligned virtual address, as the dispatcher reads them. -/
def State.jobWords (s : State) (p job va : Nat) : Nat → Except (Cause × Word) (List Word)
  | 0 => .ok []
  | n + 1 => match s.jobSpot p job va 8 with
    | .error c => .error (c, BitVec.ofNat 64 va)
    | .ok sp =>
      if s.poisoned sp 8 then .error (.memoryPoison, BitVec.ofNat 64 va)
      else match s.jobWords p job (va + 8) n with
        | .error e => .error e
        | .ok ws => .ok (BitVec.ofNat 64 (leNat (s.spotBytes sp 8)) :: ws)

/-- The constant block of a record (R277, R278). -/
def State.constBlock (s : State) (p job : Nat) (ws : List Word) : Except (Cause × Word) (List Word) :=
  s.jobWords p job (recF ws 2 0 48) (recF ws 2 56 8)

/-- The virtual dies of a partition, rising. -/
def Part.vdieNums (p : Part) : List Nat := p.vdies.map (·.1)

/-- The virtual dies of a partition that a socket carries, rising (R353). -/
def State.vdiesHeld (s : State) (p : Nat) : List Nat := (s.partAt p).vdieNums.filter fun v => (s.sockOf p v).isSome

/-- Whether a job of a partition has a frame pool: without one it cannot start (R315). A base of 0 stands for none (notes/assumptions/33.md). -/
def State.hasPool (s : State) (p job : Nat) : Bool := (Tab.get (s.partAt p).jobs job {}).pool != 0

/-- Groups of a ready queue (R280). -/
def readySize : Nat := 1024

/-- Whether a virtual die of a partition is online and not evacuating (R171, R288). -/
def State.vdieOpen (s : State) (p v : Nat) : Bool :=
  match s.sockOf p v with
  | some sock => s.dieOpen sock
  | none => false

/-- The length of a ready queue. -/
def State.readyLen (s : State) (p v : Nat) (high : Bool) : Nat := (Tab.get s.ready (readyKey p v high) []).length

/-- The shortest of the ready queues of the dies, the lowest number on a tie (R280). -/
def shortest (len : Nat → Nat) : List Nat → Option Nat
  | [] => none
  | v :: vs => match shortest len vs with
    | none => some v
    | some w => if len w < len v then some w else some v

/-- The virtual die whose queue has room for a group of an affinity and priority (R280). -/
def State.roomDie (s : State) (p aff : Nat) (high : Bool) : Option Nat :=
  let vs := if aff < 8 then [aff] else (s.partAt p).vdieNums
  (shortest (fun v => s.readyLen p v high) (vs.filter fun v => s.vdieOpen p v)).filter fun v => s.readyLen p v high < readySize

/-- Launches whose next group waits in the dispatcher for room. -/
def Launch.waiting (l : Launch) : Bool := l.st == 1 && decide (l.handed < l.ngrp)

/-- The state with the next group of a launch in a ready queue of a die (R280). -/
def State.handTo (s : State) (lk v : Nat) : State :=
  let l := s.launchAt lk
  let (g, s) := s.moment
  let gr : Group := { st := 1, launch := lk, num := l.handed, part := l.part, job := l.job, aff := l.aff, vdie := v, since := s.time.toNat }
  let key := readyKey l.part v l.pri
  let s := { s with groups := Tab.set s.groups g gr, ready := Tab.set s.ready key (Tab.get s.ready key [] ++ [g]) }
  let s := (s.modLaunch lk fun l => { l with handed := l.handed + 1 }).post (.placement l.part v)
  if l.handed + 1 < l.ngrp then s.post (.handover lk) else s

/-- Whether the dispatcher serves a launch before another (R279): one of a higher level; of two of host queues at one level, the one that comes first. -/
def Launch.before (e l : Launch) : Bool :=
  decide (l.level < e.level) || (e.level == l.level && e.queue.isSome && l.queue.isSome && decide (e.turn < l.turn))

/-- READY_QUEUE_HANDOVER (R280): the next group of a launch goes to a ready queue with room; launches that the dispatcher serves before it and that could
go on come first (R279). -/
def State.handOver (s : State) (lk : Nat) : Option State :=
  let l := s.launchAt lk
  if !l.waiting then none
  else if List.any s.launches fun e => e.2.waiting && e.2.before l && e.2.part == l.part
      && (s.roomDie e.2.part e.2.aff e.2.pri).isSome then none
  else (s.roomDie l.part l.aff l.pri).map (s.handTo lk)

/-- What a launch takes from elsewhere than its record: affinity, priority, launch id, graph, phase, limit, source, node, queue level and
queue, invocation message. -/
structure LaunchOf where
  part : Nat
  job : Nat
  aff : Nat
  pri : Bool
  lid : Nat
  graph : Nat := 0
  phid : Nat
  lim : Nat
  src : Nat := 0
  node : Nat := 0
  level : Nat := 0
  queue : Option Nat := none
  ngrp : Nat
  inv : Option (List Word) := none

/-- What a record says of its launch (R277). -/
def LaunchOf.ofRec (p job aff : Nat) (ws : List Word) : LaunchOf :=
  { part := p, job := job, aff := aff, pri := recF ws 0 57 1 == 1, lid := recF ws 4 48 16, phid := recF ws 4 36 12, lim := recF ws 5 0 48,
    ngrp := recF ws 0 32 16 + 1 }

/-- The state with a launch accepted (R278, R280, R284, R288, R301): its counters joined, its first group handed over when there is room; for one that
does not come from a host queue that room is reserved. -/
def State.acceptLaunch (s : State) (o : LaunchOf) (ws consts : List Word) : State :=
  let (lk, s) := s.moment
  let l : Launch := {
    st := 1, part := o.part, job := o.job, lid := o.lid, graph := o.graph, phid := o.phid, k15 := s.time.toNat, lim := o.lim, pri := o.pri,
    pre := recF ws 0 58 1 == 1, rty := recF ws 0 59 1 == 1, aff := o.aff, cpg := recF ws 0 50 3 + 1, ngrp := o.ngrp, ent := recF ws 0 12 12,
    flt := recF ws 0 0 12, tab := BitVec.ofNat 64 (recF ws 1 0 48), n := recF ws 1 52 12, consts := consts, sched := ws.getD 3 0,
    rings := recF ws 4 8 5, scr := recF ws 4 0 8, src := o.src, node := o.node, inv := o.inv, level := o.level, queue := o.queue, turn := lk }
  let s := { s with launches := Tab.set s.launches lk l }
  let s := s.modCtr l.key (Counter.join l.ngrp)
  let s := l.uppers.foldl (fun s k => s.modCtr k (Counter.join 1)) s
  (if o.src = 0 then s.handOver lk else (s.roomDie o.part o.aff o.pri).map (s.handTo lk)).getD (s.post (.handover lk))

/-- The state with the groups of a launch that are not yet in a ready queue dropped and counted (R286, R289). -/
def State.dropUnhanded (s : State) (lk : Nat) : State :=
  let l := s.launchAt lk
  let n := l.ngrp - l.handed
  if n = 0 then s
  else
    let s := s.modLaunch lk fun l => { l with handed := l.ngrp, done := l.done + (n - 1) }
    (s.modCtr l.key fun c => { c with out := c.out - (n - 1) }).groupCounted lk

/-- The state with an unplaced group dropped and counted; its debug page is free (R369). -/
def State.dropGroup (s : State) (g : Nat) : State :=
  (((s.unqueue g).modGroup g fun gr => { gr with st := 5 }).pageGone g).groupCounted (s.groupAt g).launch

/-- The groups of a launch. -/
def State.groupsOf (s : State) (lk : Nat) : List (Nat × Group) := List.filter (fun e => e.2.launch == lk) s.groups

/-- The state with a launch ended from outside (R286, R289), with its cause and tval (R329): unplaced groups are dropped, placed ones are killed at their
next boundary. -/
def State.endLaunch (s : State) (lk : Nat) (c : Cause) (tv : Word) : State :=
  let gs := s.groupsOf lk
  let s := gs.foldl (fun s (e : Nat × Group) => if e.2.st = 2 || e.2.st = 3 then s.post (.kill e.1 c tv) else s) s
  let s := s.dropUnhanded lk
  gs.foldl (fun s (e : Nat × Group) => if e.2.st = 0 || e.2.st = 1 then s.dropGroup e.1 else s) s

/-- Whether a counter of a level counts a launch (R284). -/
def Launch.under (l : Launch) (p job lvl id : Nat) : Bool :=
  l.st == 1 && l.part == p && l.job == job && (match lvl with
    | 0 => l.lid == id
    | 1 => l.graph == id
    | 2 => l.phid == id
    | _ => true)

/-- The running graphs that a counter of a level counts: key, graph id. -/
def State.graphsUnder (s : State) (p job lvl id : Nat) : List (Nat × Nat) :=
  s.graphs.filterMap fun e =>
    let gid := e.1 % 4096
    if e.2.running && e.1 / 4096 == p * 65536 + job
        && (match lvl with
          | 0 => false
          | 1 => gid == id
          | 2 => e.2.phid == id
          | _ => true) then some (e.1, gid) else none

/-- The state with the cancel flag set on an active counter. -/
def State.flagCancel (s : State) (key : Nat) : State := s.modCtr key fun c => if c.st = 1 then { c with cnc := true } else c

/-- CANCEL at the dispatcher (R289): the flag on the target and on every counter it contains, walkers stopped, launches ended. -/
def State.cancel (s : State) (p job lvl id : Nat) : State :=
  let key := ctrKey p job lvl id
  if (s.ctr key).st != 1 then s
  else
    let ls := List.filter (fun e => e.2.under p job lvl id) s.launches
    let gs := s.graphsUnder p job lvl id
    let phases := if lvl = 3 then ls.map (fun (e : Nat × Launch) => ctrKey p job 2 e.2.phid)
        ++ gs.map (fun e => ctrKey p job 2 (Tab.get s.graphs e.1 {}).phid) else []
    let keys := key :: ls.map (fun (e : Nat × Launch) => e.2.key) ++ gs.map (fun e => ctrKey p job 1 e.2) ++ phases
    let s := keys.foldl State.flagCancel s
    let s := gs.foldl (fun s e => { s with graphs := Tab.set s.graphs e.1 { Tab.get s.graphs e.1 {} with stopped := true } }) s
    ls.foldl (fun s (e : Nat × Launch) => s.endLaunch e.1 .launchCancelled (BitVec.ofNat 64 (if lvl = 3 then job else id))) s

/-- The status word of a counter (R290). -/
def Counter.word (c : Counter) : Word :=
  BitVec.ofNat 64 (c.st * 2 ^ 62 + b2n c.cnc * 2 ^ 61 + b2n c.tmo * 2 ^ 60 + b2n c.kil * 2 ^ 59 + b2n c.rty * 2 ^ 58 + c.out % 2 ^ 32)

/-- The reach of an address that must lie in global memory of this package (R288, R291, R344); `top` is the cause above the private window. -/
def globalReach (p : Word) (align n : Nat) (k : AKind) (top : Cause := .privateRange) : M Reach := do
  trapIf (!tagOk p) .formatReserved p
  trapIf (!canonical p) .noncanonical p
  trapIf (addrOf p % align != 0) k.misaligned p
  trapIf (decide (0xFFFFF0002000 ≤ addrOf p)) top p
  trapIf (decide (0xFFFFF0000000 ≤ addrOf p)) .privateRange p
  trapIf (decide (0xFFFE00000000 ≤ addrOf p)) .scratchRange p
  let r ← orTrapS p fun s => s.place s.org p n k
  match r.spot with
  | .flat (.remote ..) => trap .remoteDenied p
  | _ => pure r

/-- The wait of an access that is made at issue for its home's die, which fails by its deadline (R358, R365). -/
def homeRuns (p : Word) (r : Reach) : M Unit := do
  let s ← get
  if s.dieHolds r.spot true then (if s.dieLate r.spot true then late .crossDieTimeout p else hold) else pure ()

/-- A read at issue at its home, not through the L1: it waits for the home's die, and fails by its deadline or by poison (R358, R365, R385). -/
def homeRead (p : Word) (r : Reach) (n : Nat) : M Unit := do
  homeRuns p r
  let s ← get
  if s.poisoned r.spot n then late .memoryPoison p else pure ()

/-- SPAWN and SPAWNW (R288): a watchpoint on the record matches after the checks (R371). -/
def spawnM (blocking : Bool) (eb2 eb1 : BitVec 1) (b a d : BitVec 5) (w : BitVec 32) : M Unit := do
  noRepeat
  if blocking then needLaunch w
  regs [(xr a, ebOn eb1), (xr b, ebOn eb2)] [xr d]
  let v ← getX b
  trapIf (8 < v.toNat && v.toNat != 15) .reservedField v
  let p ← getX a
  let r ← globalReach p 64 64 .load
  homeRead p r 64
  let s ← get
  let ws := wordsOf (s.ownView.spotBytes r.spot 64)
  let f := s.fir
  trapIf (recF ws 0 60 4 != 1 || s.lidActive f.part f.job (recF ws 4 48 16) || !s.hasPool f.part f.job) .spawnDenied p
  trapIf (!recAllot s.part.csr.lim ws) .groupAllotment p
  trapIf (!recFields ws) .reservedField p
  let aff := if v.toNat = 15 then recF ws 0 53 4 else v.toNat
  let vs := s.vdiesHeld f.part
  trapIf (aff < 8 && !vs.contains aff) .affinityAbsent (BitVec.ofNat 64 aff)
  watch p 64 true false []
  let o := LaunchOf.ofRec f.part f.job aff ws
  if !((if aff < 8 then [aff] else vs).any fun v => s.vdieOpen f.part v) then setX d 2
  else if (s.roomDie f.part aff o.pri).isNone then do
    if blocking then hold else setX d 1
  else do
    release true
    let s ← get
    match s.constBlock f.part f.job ws with
    | .error (c, tv) => orTrap tv (.error c)
    | .ok cs => do
      upd fun s => s.acceptLaunch { o with src := 1 } ws cs
      setX d 0

/-- SPAWN (R288). -/
def execSpawn (eb2 eb1 : BitVec 1) (b a d : BitVec 5) (s : State) : Out :=
  run (spawnM false eb2 eb1 b a d (encode (.spawn eb2 eb1 b a d))) s
/-- SPAWNW (R288). -/
def execSpawnw (eb2 eb1 : BitVec 1) (b a d : BitVec 5) (s : State) : Out :=
  run (spawnM true eb2 eb1 b a d (encode (.spawnw eb2 eb1 b a d))) s

/-- The counter key that an id names at a level, with the id limits and the job rule (R289); none for a job id beyond 16 bits. -/
def counterOf (lvl : Nat) (v : Word) : M (Option (Nat × Nat)) := do
  let s ← get
  let f := s.fir
  let n := v.toNat
  if lvl = 3 then do
    trapIf (!f.sup && n != f.job) .privilegedOp v
    pure (if n < 65536 then some (n, 0) else none)
  else do
    trapIf (match lvl with
      | 0 => 65535 < n
      | 1 => n < 1 || 4095 < n
      | _ => 4095 < n) .reservedField v
    pure (some (f.job, n))

/-- CANCEL (R289). -/
def execCancel (imm7 : BitVec 7) (a : BitVec 5) (s : State) : Out :=
  run (do
    noRepeat
    regs [(xr a, false)] []
    let v ← getX a
    let t ← counterOf imm7.toNat v
    match t with
    | some (job, id) => upd fun s => s.cancel s.fir.part job imm7.toNat id
    | none => pure ()) s

/-- WSTAT (R290). -/
def execWstat (imm7 : BitVec 7) (a d : BitVec 5) (s : State) : Out :=
  run (do
    noRepeat
    regs [(xr a, false)] [xr d]
    let v ← getX a
    let t ← counterOf imm7.toNat v
    let s ← get
    setX d (match t with
      | some (job, id) => (s.ctr (ctrKey s.fir.part job imm7.toNat id)).word
      | none => 0)) s

/-- GCOND (R291): a release of package scope, then one 8-byte write. -/
def execGcond (eb2 eb1 : BitVec 1) (b a : BitVec 5) (s : State) : Out :=
  run (do
    noRepeat
    regs [(xr a, ebOn eb1), (xr b, ebOn eb2)] []
    let p ← getX a
    let v ← getX b
    let r ← globalReach p 8 8 .store
    watch p 8 false true (leBytes 8 v.toNat)
    release false
    writeTo p r (leBytes 8 v.toNat)) s

end Sys2Proof.Machine
end

