-- ==== Sys2Proof/Machine/System.lean ====
section
/-! DEFINITION. The trap and system instructions TRET, TLBINV, TLBSYNC, HTABW, WFM and DHALT (R321, R328, R341 to R344). -/

namespace Sys2Proof.Machine

/-- The rest of TRET (R321): the image restored in place of the fault handler firing; a page of the image that is absent is waited for. -/
def tretEnd : M Unit := do
  let s ← get
  let f := s.fir
  let s1 := s.modMe fun c => c.dropCompletions f.fid
  match s1.restoreFiring s.cur (s.slotCore f) f.slot true with
  | .ok s2 => set s2
  | .page c va => do
    set (s.waitPage s.org c va)
    holdKeep
  | .dead c va => set (s1.killGroup f.gid c va)

/-- TRET (R321): the return from a fault handler firing. -/
def execTret (s : State) : Out :=
  runEnd (do
    noRepeat
    let x ← ctx
    trapIf (x.fir.kind != 2) .illegalOpcode (tvw (encode .tret))
    endWaits
    let c ← me
    holdUnless c.stores.isEmpty
    let s ← get
    let sl := Tab.get (s.coreAt (s.slotCore s.fir)).slots s.fir.slot {}
    holdUnless (s.egressFits s.cur false sl.fir.prod sl.fir.fid)
    tretEnd) s

/-- TLBINV (R342). -/
def execTlbinv (eb2 eb1 : BitVec 1) (b a : BitVec 5) (s : State) : Out :=
  run (do
    noRepeat
    needSup (encode (.tlbinv eb2 eb1 b a))
    regs [(xr a, ebOn eb1), (xr b, ebOn eb2)] []
    let p ← getX a
    let v ← getX b
    let kind := bits v.toNat 0 2
    let tgt := bits v.toNat 2 2
    trapIf (v.toNat / 16 != 0 || 2 ≤ tgt || kind == 3) .reservedField v
    trapIf (kind == 0 && !canonical p) .noncanonical p
    release false
    let s ← get
    let f := s.fir
    sendInval {
      kind := kind, va := BitVec.ofNat 64 (addrOf p), job := if kind = 1 then bits p.toNat 0 16 else f.job, part := f.part,
      cls := if tgt = 0 then [s.cl] else s.clustersOf f.part }) s

/-- TLBSYNC (R343). -/
def execTlbsync (s : State) : Out :=
  run (do
    noRepeat
    needSup (encode .tlbsync)
    let s ← get
    holdUnless (s.invals.all fun e => e.2.org.k != s.cur)
    holdUnless s.me.csrWait.isEmpty) s

/-- HTABW (R344): the write is performed, and the copies are gone, when it returns. -/
def execHtabw (eb2 eb1 : BitVec 1) (b a : BitVec 5) (s : State) : Out :=
  run (do
    noRepeat
    needSup (encode (.htabw eb2 eb1 b a))
    regs [(xr a, ebOn eb1), (xr b, ebOn eb2)] []
    let p ← getX a
    let v ← getX b
    let bs := leBytes 8 v.toNat
    let r ← globalReach p 8 8 .store .scratchRange
    watch p 8 false true bs
    release false
    homeRuns p r
    writeTo p r bs
    upd fun s => s.flush s.cur) s

/-- WFM (R328). -/
def execWfm (s : State) : Out :=
  run (do
    noRepeat
    let x ← ctx
    let s ← get
    if x.wfm then updCtx fun x => { x with wfm := false, wfmAt := none }
    else do
      updCtx fun x => { x with wfmAt := some (x.wfmAt.getD (s.cycles s.fir.part s.cur).toNat) }
      holdKeep) s

/-- DHALT (R328): a halt request on the group of the firing when a debugger is attached. -/
def execDhalt (s : State) : Out :=
  run (do
    noRepeat
    needSup (encode .dhalt)
    let s ← get
    match s.pageOf s.fir.gid with
    | none => pure ()
    | some (pg, _) => do
      upd fun s => s.haltGroup pg s.fir.gid Cause.debugHaltRequest.code (s.grp.rankOf s.cur)
      upd fun s => if s.me.inH then s else s.modMe fun c => { c with faultDue := some (.debugHaltRequest, 0, 0, false) }) s

end Sys2Proof.Machine
end

