-- ==== Sys2Proof/Machine/WorkQueue.lean ====
section
/-! DEFINITION. The dispatcher (R279, R280, R286, R376) and the graph walker (R292, R293): WORK_QUEUE_ACCEPTANCE, READY_QUEUE_HANDOVER,
GRAPH_LOAD, GRAPH_RUN, GRAPH_UNLOAD, GRAPH_NODE_START, LAUNCH_TIMEOUT. -/

namespace Sys2Proof.Machine

/-- A host work queue (R376). -/
def State.hq (s : State) (qn : Nat) : HQueue := Tab.get s.hostq qn {}
/-- The state with a host work queue changed. -/
def State.modHq (s : State) (qn : Nat) (f : HQueue → HQueue) : State := { s with hostq := Tab.set s.hostq qn (f (s.hq qn)) }
/-- Whether a queue is enabled (R376). -/
def HQueue.en (q : HQueue) : Bool := bitAt q.qcfg.toNat 63
/-- The partition of a queue. -/
def HQueue.part (q : HQueue) : Nat := bits q.qcfg.toNat 58 5
/-- The job of a queue. -/
def HQueue.job (q : HQueue) : Nat := bits q.qcfg.toNat 42 16
/-- The priority level of a queue. -/
def HQueue.lvl (q : HQueue) : Nat := bits q.qcfg.toNat 40 2
/-- The weight of a queue. -/
def HQueue.weight (q : HQueue) : Nat := bits q.qcfg.toNat 36 4 + 1
/-- The entries of a queue's ring. -/
def HQueue.size (q : HQueue) : Nat := 2 ^ (bits q.qcfg.toNat 32 4 + 4)
/-- Whether a queue holds a posted entry. -/
def HQueue.posted (q : HQueue) : Bool := q.en && q.qprod != q.qcons

/-- The state with an error of a queue recorded, unless one stands (R376). -/
def State.queueErr (s : State) (qn idx code : Nat) : State :=
  s.modHq qn fun q => if bitAt q.qerr.toNat 63 then q else { q with qerr := BitVec.ofNat 64 (2 ^ 63 + idx % 2 ^ 32 * 256 + code) }

/-- The words of the entry at a queue's consumer index, if they can be read (R376). -/
def State.entryWords (s : State) (q : HQueue) : Option (List Word) :=
  let at_ := bits q.qbase.toNat 6 46 * 64 + 64 * (q.qcons % q.size)
  if bitAt q.qbase.toNat 63 then
    some ((List.range 8).map fun i => BitVec.ofNat 64 (leNat (Memory.readN s.hostMem (at_ + 8 * i) 8)))
  else if at_ / 2 ^ 39 != 0 || s.poisoned (.flat (.hbm at_)) 64 then none
  else some ((List.range 8).map fun i => BitVec.ofNat 64 (s.numAt (.hbm (at_ + 8 * i)) 8))

/-- The highest level that holds a posted entry (R279). -/
def State.topLevel (s : State) : Option Nat := [3, 2, 1, 0].find? fun l => List.any s.hostq fun (e : Nat × HQueue) => e.2.posted && e.2.lvl == l

/-- The queue to take from next and the queues with their counts of the round (R279): ascending by number, each up to its weight. -/
def State.pickQueue (s : State) : Option (Nat × State) :=
  match s.topLevel with
  | none => none
  | some l =>
    let can := fun (s : State) => List.find? (fun (e : Nat × HQueue) => e.2.posted && e.2.lvl == l && decide (e.2.served < e.2.weight)) s.hostq
    let reset : State := { s with hostq := s.hostq.map fun e => if e.2.lvl == l then (e.1, { e.2 with served := 0 }) else e }
    let r := match can s with
      | some e => some (e, s)
      | none => (can reset).map fun e => (e, reset)
    r.map fun (e, s) => (e.1, { s with hostq := s.hostq.map fun x =>
      (x.1, if x.1 == e.1 then { x.2 with served := x.2.served + 1 }
        else if x.2.lvl == l && decide (x.1 < e.1) then { x.2 with served := x.2.weight } else x.2) })

/-- Whether a graph run is in progress (R292). -/
def State.graphRuns (s : State) (key : Nat) : Bool := (Tab.get s.graphs key {}).running

/-- GRAPH_LOAD (R292): the state, and the error code 1, 4 or 5, or 0. -/
def State.graphLoad (s : State) (p job : Nat) (ws : List Word) : State × Nat :=
  let gid := recF ws 0 0 12
  let n := recF ws 0 12 12
  let key := graphKey p job gid
  if gid = 0 || n = 0 || recF ws 0 24 36 != 0 || recF ws 1 48 16 != 0 || recF ws 1 0 48 % 32 != 0 || (ws.drop 2).any (· != 0) then (s, 1)
  else if s.graphRuns key then (s, 5)
  else match s.jobWords p job (recF ws 1 0 48) (4 * n) with
    | .error _ => (s, 4)
    | .ok img => ({ s with graphs := Tab.set s.graphs key { nodes := pieces 4 n img } }, 0)

/-- GRAPH_RUN (R284, R292): the entry node starts; the run joins its graph, phase and job counters. -/
def State.graphRun (s : State) (p job : Nat) (ws : List Word) : State × Nat :=
  let gid := recF ws 0 0 12
  let key := graphKey p job gid
  if gid = 0 || recF ws 0 12 48 != 0 || [1, 2, 3, 6, 7].any (fun i => ws.getD i 0 != 0) || recF ws 4 0 36 != 0 || recF ws 4 48 16 != 0
      || recF ws 5 48 16 != 0 then (s, 1)
  else match Tab.find? s.graphs key with
    | none => (s, 5)
    | some g =>
      if g.running || g.nodes.isEmpty then (s, 5)
      else
        let phid := recF ws 4 36 12
        let g := { g with running := true, phid := phid, lim := recF ws 5 0 48, joins := [], whiles := [], pending := [], stopped := false }
        let s := { s with graphs := Tab.set s.graphs key g }
        let s := [ctrKey p job 2 phid, ctrKey p job 3 0].foldl (fun s k => s.modCtr k (Counter.join 1)) s
        (s.startNodes p job gid [0], 0)

/-- GRAPH_UNLOAD (R292). -/
def State.graphUnload (s : State) (p job : Nat) (ws : List Word) : State × Nat :=
  let gid := recF ws 0 0 12
  let key := graphKey p job gid
  if gid = 0 || recF ws 0 12 48 != 0 || (ws.drop 1).any (· != 0) then (s, 1)
  else if s.graphRuns key then (s, 5)
  else ({ s with graphs := Tab.erase s.graphs key }, 0)

/-- A launch entry of a queue (R278 to R280): the state, and the error code 1, 2, 4 or 6, or 0. One of a job without a frame pool is refused as
invalid (R315; notes/assumptions/33.md). -/
def State.launchEntry (s : State) (qn : Nat) (q : HQueue) (ws : List Word) : State × Nat :=
  let p := q.part
  let job := q.job
  let aff := recF ws 0 53 4
  if !recValid (s.partAt p).csr.lim ws || !s.hasPool p job then (s, 1)
  else if s.lidActive p job (recF ws 4 48 16) then (s, 6)
  else if aff < 8 && !(s.vdiesHeld p).contains aff then (s, 2)
  else match s.constBlock p job ws with
    | .error _ => (s, 4)
    | .ok cs => (s.acceptLaunch { LaunchOf.ofRec p job aff ws with level := q.lvl, queue := some qn } ws cs, 0)

/-- An entry of a queue by its kind (R277, R292). -/
def State.takeEntry (s : State) (qn : Nat) (q : HQueue) (ws : List Word) : State × Nat :=
  match recF ws 0 60 4 with
  | 1 => s.launchEntry qn q ws
  | 2 => s.graphLoad q.part q.job ws
  | 3 => s.graphRun q.part q.job ws
  | 4 => s.graphUnload q.part q.job ws
  | _ => (s, 1)

/-- The state after a command of a queue, with its error recorded (R376). -/
def State.entryResult (qn idx : Nat) (r : State × Nat) : State := if r.2 = 0 then r.1 else r.1.queueErr qn idx r.2

/-- The state after the entry at a queue's consumer index was taken (R376). -/
def State.takeFrom (s : State) (qn : Nat) : State :=
  let q := s.hq qn
  let s := s.modHq qn fun q => { q with qcons := (q.qcons + 1) % 4294967296 }
  State.entryResult qn q.qcons (match s.entryWords q with
    | none => (s, 4)
    | some ws => s.takeEntry qn q ws)

/-- WORK_QUEUE_ACCEPTANCE (R279, R376): one entry is taken, and accepted or dropped with its error. -/
def doWorkQueueAcceptance (s : State) : Option State :=
  if s.dev.boot = 1 then s.pickQueue.map fun r =>
    let s := r.2.takeFrom r.1
    if s.topLevel.isSome then s.postOnce .queue else s
  else none

/-- A graph command of a host queue on its words (R292). -/
def doGraphCommand (f : State → Nat → Nat → List Word → State × Nat) (qn : Nat) (ws : List Word) (s : State) : Option State :=
  let q := s.hq qn
  some (State.entryResult qn q.qcons (f s q.part q.job ws))

/-- READY_QUEUE_HANDOVER (R280): the next group of launch `g`. -/
def doReadyQueueHandover (g : Nat) (s : State) : Option State := s.handOver g

/-- The state of a run that ends at a launch node which is invalid or refused (R293). -/
def State.graphFails (s : State) (p job gid n : Nat) : State :=
  let g := Tab.get s.graphs (graphKey p job gid) {}
  let s := [graphCtr p job gid, ctrKey p job 2 g.phid, ctrKey p job 3 0].foldl (fun s k => s.modCtr k fun c => { c with kil := true }) s
  ({ s with graphs := Tab.set s.graphs (graphKey p job gid) { g with stopped := true } }).graphLeave p job gid n

/-- The state with a node of a run done and successors of it started (R293). -/
def State.nodeDone (s : State) (p job gid n : Nat) (succs : List Nat) : State := (s.startNodes p job gid succs).graphLeave p job gid n

/-- The address that a node's pointer names, checked raw (R61, R288, R293): a multiple of `n`. -/
def nodeAddr (ptr : Word) (n : Nat) : Option Nat := if !tagOk ptr || !canonical ptr || addrOf ptr % n != 0 then none else some (addrOf ptr)

/-- A launch node (R288, R293): accepted as by SPAWN with affinity 15; none while it waits for room. -/
def State.launchNode (s : State) (p job gid n : Nat) (g : Graph) (ptr : Word) : Option State :=
  let fails := some (s.graphFails p job gid n)
  match nodeAddr ptr 64 with
  | none => fails
  | some a => match s.jobWords p job a 8 with
    | .error _ => fails
    | .ok ws =>
      let aff := recF ws 0 53 4
      let vs := s.vdiesHeld p
      let o := { LaunchOf.ofRec p job aff ws with graph := gid, phid := g.phid, lim := g.lim, src := 2, node := n }
      if !recValid (s.partAt p).csr.lim ws || !s.hasPool p job || s.lidActive p job o.lid || (aff < 8 && !vs.contains aff)
          || !((if aff < 8 then [aff] else vs).any fun v => s.vdieOpen p v) then fails
      else if (s.roomDie p aff o.pri).isNone then none
      else match s.constBlock p job ws with
        | .error _ => fails
        | .ok cs => some ((s.acceptLaunch o ws cs).graphLeave p job gid n)

/-- GRAPH_NODE_START (R293). -/
def doGraphNodeStart (p job gid n : Nat) (s : State) : Option State :=
  let key := graphKey p job gid
  let g := Tab.get s.graphs key {}
  if !g.running || !g.pending.contains n then none
  else if g.stopped then some (s.graphLeave p job gid n)
  else
    let ws := g.nodes.getD n []
    let prm := recF ws 0 0 12
    let ptr := ws.getD 1 0
    let word : Except (Cause × Word) (List Word) := match nodeAddr ptr 8 with
      | none => .error (.misalignedLoad, ptr)
      | some a => s.jobWords p job a 1
    let go := fun (g : Graph) (ks : List Nat) =>
      some (({ s with graphs := Tab.set s.graphs key g }).nodeDone p job gid n (nodeSuccs ws ks))
    if ws.isEmpty || recF ws 0 60 4 > 4 then some (s.graphFails p job gid n)
    else match recF ws 0 60 4, word with
      | 0, _ => go g []
      | 1, _ => s.launchNode p job gid n g ptr
      | 4, _ =>
        let c := Tab.get g.joins n 0 + 1
        if c < prm then go { g with joins := Tab.set g.joins n c } [] else go { g with joins := Tab.set g.joins n 0 } [0, 1, 2, 3]
      | _, .error _ => some (s.graphFails p job gid n)
      | 2, .ok vs => go g [min (vs.getD 0 0).toNat (prm - 1)]
      | _, .ok vs =>
        let c := Tab.get g.whiles n 0
        if vs.getD 0 0 != 0 && c < prm then go { g with whiles := Tab.set g.whiles n (c + 1) } [1] else go g [0]

/-- LAUNCH_TIMEOUT (R286): the limit counts from k15; a halt by a debugger has moved it (R372). -/
def doLaunchTimeout (lk : Nat) (s : State) : Option State :=
  let l := s.launchAt lk
  if l.st != 1 || l.lim = 0 || l.paused.isSome || s.time.toNat ≤ l.k15 + l.lim then none
  else some ((s.flagUp l fun c => { c with tmo := true }).endLaunch lk .launchTimeout (BitVec.ofNat 64 (l.k15 + l.lim)))

/-- WORK_QUEUE_ACCEPTANCE (R279). -/
def execWorkQueueAcceptance (s : State) : Out := act (doWorkQueueAcceptance s) s
/-- READY_QUEUE_HANDOVER (R280). -/
def execReadyQueueHandover (g : Nat) (s : State) : Out := act (doReadyQueueHandover g s) s
/-- LAUNCH_TIMEOUT (R286). -/
def execLaunchTimeout (l : Nat) (s : State) : Out := act (doLaunchTimeout l s) s
/-- GRAPH_LOAD (R292): words 0 and 1 of the entry. -/
def execGraphLoad (qn : Nat) (w0 w1 : Word) (s : State) : Out :=
  act (doGraphCommand State.graphLoad qn [w0, w1, 0, 0, 0, 0, 0, 0] s) s
/-- GRAPH_RUN (R292): words 0, 4 and 5 of the entry. -/
def execGraphRun (qn : Nat) (w0 w4 w5 : Word) (s : State) : Out :=
  act (doGraphCommand State.graphRun qn [w0, 0, 0, 0, w4, w5, 0, 0] s) s
/-- GRAPH_UNLOAD (R292). -/
def execGraphUnload (qn : Nat) (w0 : Word) (s : State) : Out :=
  act (doGraphCommand State.graphUnload qn [w0, 0, 0, 0, 0, 0, 0, 0] s) s
/-- GRAPH_NODE_START (R293). -/
def execGraphNodeStart (p job gid node : Nat) (s : State) : Out := act (doGraphNodeStart p job gid node s) s

end Sys2Proof.Machine
end

