-- ==== Sys2Proof/Machine/Preempt.lean ====
section
/-! DEFINITION. Group images (R324), and with them GROUP_PREEMPTION, GROUP_RESUME, GROUP_COMPLETION and GROUP_KILL (R283, R285, R323); the
kitty (R47). -/

namespace Sys2Proof.Machine

/-- The words k0 to k15 of a core that holds a rank of a group (R47). -/
def State.kittyWords (s : State) (g : Group) (k r : Nat) : List Word :=
  let l := s.launchAt g.launch
  let w := fun (n : Nat) => BitVec.ofNat 64 n
  let lo := 0xFFFFE0000000 + g.base
  [w (s.meshWord g.part k), w (s.k1Word g.part k), w g.num, w r, w l.cpg, w l.lid, w l.graph, w l.phid, w l.job, w l.part, w s.pkgId,
    w lo, w (lo + g.units * 4096), w l.rings, l.tab, w l.k15]

/-- A core bound to a group at placement or resumption (R47, R49, R60, R76, R168, R282): its kitty is filled, its instruction cache is empty. -/
def Core.bindTo (c : Core) (g : Nat) (kitty consts : List Word) : Core :=
  { c with
    bound := some g, constLen := consts.length, icache := []
    priv := Memory.writeN c.priv 0 ((padTo 256 0 (kitty ++ consts)).flatMap fun w => leBytes 8 w.toNat) }

/-- The state with the cores of a group bound to it, by rank, their L1s empty (R168). -/
def State.bindCores (s : State) (gid : Nat) : State :=
  let g := s.groupAt gid
  let l := s.launchAt g.launch
  g.cores.zipIdx.foldl (fun s e => (s.modCore e.1 fun c => c.bindTo gid (s.kittyWords g e.1 e.2) l.consts).coldL1 e.1) s

/-- A ring whose issuer and holding cores have new names. -/
def Ring.via (f : Nat → Nat) (r : Ring) : Ring :=
  { r with slots := r.slots.map fun x => if 1000 ≤ x.holder then { x with holder := f (x.holder - 1000) + 1000 } else x
           sub := r.sub.map fun x => { x with org := { x.org with k := f x.org.k } } }
/-- A dealer command whose issuer has a new name. -/
def DCmd.via (f : Nat → Nat) (d : DCmd) : DCmd := { d with org := { d.org with k := f d.org.k } }
/-- An engine command whose issuer has a new name. -/
def ECmd.via (f : Nat → Nat) (d : ECmd) : ECmd := { d with org := { d.org with k := f d.org.k } }
/-- A scoreboard entry whose core has a new name. -/
def Score.via (f : Nat → Nat) (x : Score) : Score := { x with k := f x.k }
/-- A group record whose cores have new names. -/
def GImage.via (f : Nat → Nat) (im : GImage) : GImage :=
  { im with rings := im.rings.map (Ring.via f), cmds := im.cmds.map (DCmd.via f), eng := im.eng.map (ECmd.via f)
            scores := im.scores.map (Score.via f) }

/-- Whether a reservation belongs to a firing that is parked within a group's image (R353). -/
def GImage.holdsParked (im : GImage) (id : Nat) : Bool :=
  im.ranks.any fun e => e.2.parked.any fun x => x.2.ca.any (·.id == id)

/-- The address of a group slot's image (R315). -/
def State.groupVa (s : State) (p job cl slot : Nat) : Word :=
  (Tab.get (s.partAt p).jobs job {}).pool + BitVec.ofNat 64 (0x8100000 + (s.vdie p cl * 512 + cl % 64 * 8 + slot) * 0xC0000)

/-- What a save keeps of a rank, and its firing image (R324): zero when the L context holds no firing of the group. -/
def State.rankImage (s : State) (gid k : Nat) : RankImg × List Word :=
  let c := s.coreAt k
  let f := c.l.fir
  let live := f.active && f.gid == gid
  let mine := if live then c.ca.filter fun x => x.fid == f.fid && x.hdl == 0 else []
  let zp := zposOf 0 (if c.ls.rep.count = 0 then none else some c.ls.rep)
  let slot : Slot := if live then {
      st := 1, fir := f, cause := 94, ca := mine, batches := c.batches.filter (·.fid == f.fid), npend := c.l.causes.length,
      zcause := c.l.zcause, ztval := c.l.ztval, zpos := c.ls.zpos, aw := c.l.aw.kept } else {}
  ({ live := live, slot := slot, ls := if live then {} else c.ls.fresh true, armed := c.armed, hq := c.hq, lq := c.lq,
     ca := c.ca.filter fun x => !(mine.any (·.id == x.id)), batches := c.batches.filter fun b => !(live && b.fid == f.fid),
     launchDue := c.launchDue, dirty := c.dirty },
   if live then c.image 94 true 0 zp mine else List.replicate 1024 0)

/-- A core whose group has been saved: its slots with parked firings stay, and so do its data areas until another group's firing starts (R68, R324). -/
def Core.vacate (c : Core) : Core :=
  { c with
    l := {}, h := {}, ls := {}, hq := [], lq := [], ca := [], batches := [], armed := false, bound := none, launchDue := none, constLen := 0 }

/-- A block of a group image: the scratch allotment, the accumulators held, the firing images and the mailboxes by rank, and `free` words for the
group record, of which the spec gives no layout (R324; notes/assumptions/13.md). -/
def State.groupBlock (s : State) (g : Group) (held : List Nat) (ranks boxes : List (List Word)) (free n : Nat) : List Word :=
  let c := s.clusterAt g.cl
  if n < accBlock then
    if n < g.units * 16 then (List.range 32).map fun i => BitVec.ofNat 64 (s.numAt (.scratch g.cl (g.base + 256 * n + 8 * i)) 8)
    else List.replicate 32 0
  else if n < rankBlock then
    let a := (n - accBlock) / 64
    if held.contains a then
      (List.range 32).map fun i =>
        let e := (n - accBlock) % 64 * 64 + 2 * i
        BitVec.ofNat 64 ((c.acc a).at (e + 1) * 2 ^ 32 + (c.acc a).at e)
    else List.replicate 32 0
  else if n < boxBlock then blockOf (ranks.getD ((n - rankBlock) / 32) (List.replicate 1024 0)) ((n - rankBlock) % 32)
  else if n < recordBlock then blockOf (boxes.getD ((n - boxBlock) / 24) (List.replicate 768 0)) ((n - boxBlock) % 24)
  else (List.range 32).map fun i => BitVec.ofNat 64 (Config.freeValue (free + 32 * (n - recordBlock) + i))

/-- Whether the machine has written a block of a group image since it was last restored (R316): the allotment's, the accumulators' and the firings' by what
was written there; a mailbox's by the order of placement that its state gives, which every placement and every entry taken changes; the record's always. -/
def State.groupDirty (s : State) (g : Group) (boxes : List (List Word)) (n : Nat) : Bool :=
  if n < accBlock then decide (n < g.units * 16) && (s.clusterAt g.cl).dirty.contains (g.base / 256 + n)
  else if n < rankBlock then ((s.clusterAt g.cl).acc ((n - accBlock) / 64)).rows.contains ((n - accBlock) % 64)
  else if n < boxBlock then
    let c := s.coreAt (g.cores.getD ((n - rankBlock) / 32) 0)
    ((n - rankBlock) % 32 == 0 && c.l.fir.active) || c.dirty.contains ((n - rankBlock) % 32 + 32)
  else if n < recordBlock then
    let r := (n - boxBlock) / 24
    (List.range 4).any fun i => Tab.find? g.clean (boxBlock + 24 * r + 20 + i) != some (blockOf (boxes.getD r (List.replicate 768 0)) (20 + i))
  else true

/-- The accumulators that a group holds. -/
def Cluster.heldBy (c : Cluster) (g : Nat) : List Nat := [0, 1].filter fun a => (c.acc a).holder == some g

/-- The blocks of a group image written under their tags, with the tags (R316). -/
def State.groupWrites (s : State) (o : Origin) (va : Word) (blk : Nat → List Word) (dirty : Nat → Bool) (clean : Tab (List Word)) :
    List Nat → Except (Cause × Word) (State × List Nat)
  | [] => .ok (s, [])
  | n :: ns =>
    let b := blk n
    let t := if !dirty n && Tab.find? clean n == some b then 3 else blockTag b
    match s.frameWrites o (va + BitVec.ofNat 64 (256 * n)) (if t = 2 then b else if t = 1 then b.take 1 else []) with
    | .error e => .error e
    | .ok s => match s.groupWrites o va blk dirty clean ns with
      | .error e => .error e
      | .ok (s, ts) => .ok (s, t :: ts)

/-- Whether an engine command of a group lets it be saved: not started (R226). -/
def ECmd.withdrawable (e : ECmd) : Bool := !e.started

/-- A core at the boundary before an instruction whose cause is raised and not yet delivered, as it is saved (R260, R313, R324): a precise cause comes
about again, an imprecise one is pending again (notes/assumptions/137.md). -/
def Core.undue (c : Core) : Core :=
  match c.faultDue with
  | some (cs, tv, _, false) => { c with faultDue := none, l := { c.l with causes := (cs, tv) :: c.l.causes } }
  | _ => { c with faultDue := none }

/-- Whether a core of a group lets it be saved (R46, R125, R147, R167, R226). -/
def State.coreStops (s : State) (gid k : Nat) : Bool :=
  let c := s.coreAt k
  !c.h.fir.active && c.undue.l.causes.length ≤ 4 && c.pageWait.isNone
    && (!(c.l.fir.active && c.l.fir.gid == gid) ||
      (c.l.pend.isEmpty && c.ls.ports.all (fun e => e.2.pushes.isEmpty) && !s.releasing k
        && (match c.l.aw with
          | .sent _ => false
          | .replied .. => false
          | _ => true)))

/-- Whether every wait of a group's save is over (R324 steps 1 and 2). -/
def State.groupStops (s : State) (gid : Nat) : Bool :=
  let g := s.groupAt gid
  g.cores.all (s.coreStops gid) && (s.clusterAt g.cl).eng.all fun e => !(e.org.gid == gid) || e.withdrawable

/-- A ring as a group image records it (R220): the slot that the outlet holds is full again, the spring's stays filling. -/
def Ring.recorded (r : Ring) : Ring :=
  match r.sub with
  | none => r
  | some x => match x.busy with
    | none => { r with sub := some { x with page := none, moved := false } }
    | some k => if x.out then { r.setSlot k 2 0 with r := k, sub := some { x with busy := none, page := none, moved := false } }
      else { r with sub := some { x with page := none, moved := false } }

/-- An engine command as it is recorded (R226): a link is translated again. -/
def ECmd.recorded (e : ECmd) : ECmd := { e with arrived := false, retried := false, page := none, link := none }

/-- The image record of a group with its ranks (R220, R226, R324). -/
def State.groupRecord (s : State) (gid : Nat) (va : Word) (ranks : List RankImg) : GImage :=
  let g := s.groupAt gid
  let c := s.clusterAt g.cl
  let eng := (c.eng.filter fun e => e.org.gid == gid).map ECmd.recorded
  { va := va
    ranks := ranks.zipIdx.map fun e => (e.2, e.1)
    rings := g.rings.map fun d => (Tab.get c.rings d {}).recorded
    cmds := (c.dealer.filter fun d => d.org.gid == gid).map fun d => { d with accepted := false, page := none, moved := false }
    eng := eng
    scores := c.score.filter fun e => eng.any (·.id == e.id)
    accs := (c.heldBy gid).map fun a => (a, { c.acc a with el := [] }) }

/-- A cluster from which a group was saved: its group slot and its number stay reserved (R283). -/
def Cluster.vacate (c : Cluster) (g : Nat) : Cluster := { c.release g with gslots := c.gslots }

/-- What a save of a group comes to. -/
inductive GSaved where
  | ok (s : State)
  | page (c : Cause) (va : Word)
  | dead (c : Cause) (va : Word)

/-- Whether an agent's accesses to other packages are those of a group that is being saved and run again after it (R220). -/
def State.savesAgent (s : State) (g : Nat) (w : Owner) : Bool :=
  match w with
  | .push .. => false
  | w => s.ownsAgent g w

/-- The image of a group written to its group slot, and the group off its resources (R324). What its commands were to write is unspecified until they
have run again (R220). -/
def State.saveGroup (s : State) (gid : Nat) : GSaved :=
  let g := s.groupAt gid
  let s := g.cores.foldl (fun s k => (s.flush k).modCore k Core.undue) s
  let va := s.groupVa g.part g.job g.cl g.slot
  let o := s.groupOrg gid
  let s := (s.clobberGroup gid).orphan gid (s.savesAgent gid)
  let rs := g.cores.map fun k => s.rankImage gid k
  let held := (s.clusterAt g.cl).heldBy gid
  let boxes := rs.map fun r => r.1.boxWords g.num
  match s.groupWrites o va (s.groupBlock g held (rs.map (·.2)) boxes s.free) (s.groupDirty g boxes) g.clean (List.range groupBlocks) with
  | .error (c, a) => if c == .loadPageFault || c == .storePageFault then .page c a else .dead c a
  | .ok (s, tags) => match s.frameWrites o (va + 0xBFD00) (tagWords tags 96) with
    | .error (c, a) => if c == .loadPageFault || c == .storePageFault then .page c a else .dead c a
    | .ok s =>
      let codes := (tags.zipIdx.filterMap fun e =>
        let x := if e.1 = 3 then Tab.get g.codes e.2 0 else e.1
        if x = 0 then none else some (e.2, x))
      let im := s.groupRecord gid va (rs.map (·.1))
      let s := { s with free := s.free + 32 * (groupBlocks - recordBlock) }
      let s := g.cores.foldl (fun s k => (s.modCore k Core.vacate).coldL1 k) s
      let s := s.modCluster g.cl fun c => c.vacate gid
      .ok (s.modGroup gid fun g => { g with st := 3, stopping := false, page := none, img := some im, codes := codes, clean := [] })

/-- The state in which a group waits for a page of its frame, with its notice (R315); as before while the queue is full. -/
def State.groupWaits (s : State) (gid : Nat) (c : Cause) (va : Word) : Option State :=
  (s.faultNotice (s.groupOrg gid) c va).map fun s => s.modGroup gid fun g => { g with page := some (pageOfVa va) }

/-- GROUP_PREEMPTION (R324): a group that was told to stop is saved once every wait is over. -/
def doGroupPreemption (gid : Nat) (s : State) : Option State :=
  let g := s.groupAt gid
  if !s.clusterIn g.part g.cl || g.st != 2 || !g.stopping || g.page.isSome || g.halted || !s.groupStops gid then none
  else match s.saveGroup gid with
    | .ok s => some (s.freedOn g.part g.vdie)
    | .page c va => s.groupWaits gid c va
    | .dead c va => some (s.killGroup gid c va)

/-- Blocks of a group image read under their codings (R316). -/
def State.groupReads (s : State) (o : Origin) (va : Word) (codes : Tab Nat) : List Nat → Except (Cause × Word) (Tab (List Word))
  | [] => .ok []
  | n :: ns =>
    let t := Tab.get codes n 0
    match s.frameReads o (va + BitVec.ofNat 64 (256 * n)) (if t = 2 then 32 else if t = 1 then 1 else 0) with
    | .error e => .error e
    | .ok ws =>
      let b := if t = 2 then ws else if t = 1 then List.replicate 32 (ws.getD 0 0) else List.replicate 32 0
      match s.groupReads o va codes ns with
      | .error e => .error e
      | .ok rest => .ok ((n, b) :: rest)

/-- The bytes of a block. -/
def blockBytes (b : List Word) : List Byte := b.flatMap fun w => leBytes 8 w.toNat

/-- How the blocks of a saved group image stand, by the tag area in memory (R316): a block tagged clean as before. -/
def groupCodes (ws : List Word) (old : Tab Nat) (ns : List Nat) : Tab Nat :=
  ns.filterMap fun n =>
    let t := bits (ws.getD (n / 32) 0).toNat (2 * (n % 32)) 2
    let x := if t = 3 then Tab.get old n 0 else t
    if x = 0 then none else some (n, x)

/-- The state with the ranks' cores restored (R318, R324): the acts that a restored firing owes become due. -/
def State.restoreRank (s : State) (k r : Nat) (ri : RankImg) (bs : Tab (List Word)) : State :=
  let ws := (List.range 32).flatMap fun i => Tab.get bs (rankBlock + 32 * r + i) (List.replicate 32 0)
  let ri := ri.ofBox ((List.range 24).flatMap fun i => Tab.get bs (boxBlock + 24 * r + i) (List.replicate 32 0))
  let s := s.modCore k fun c =>
    let c := { c with armed := ri.armed, hq := ri.hq, lq := ri.lq, ca := ri.ca, batches := ri.batches, launchDue := ri.launchDue, ls := ri.ls }
    let c := { c with slots := ri.parked.foldl (fun t (e : Nat × Slot) => Tab.set t e.1 e.2) c.slots }
    if ri.live then { c.restore ws ri.slot with dirty := ri.dirty.filter fun n => decide (n < 32) } else { c with l := {}, dirty := [] }
  let s := s.slotFreed k
  let s := s.post (.batchDone k)
  if ri.live then (if (s.coreAt k).ls.rep.count = 0 then s else s.post (.rep k)).wantItems k else s

/-- A group restored from its image onto its resources (R324): `g` holds them; the records are replayed in order. -/
def State.restoreGroup (s : State) (gid : Nat) (im : GImage) : GSaved :=
  let g := s.groupAt gid
  let o := s.groupOrg gid
  let read : Except (Cause × Word) (Tab Nat × Tab (List Word)) := do
    let ts ← s.frameReads o (im.va + 0xBFD00) 96
    let codes := groupCodes ts g.codes (List.range groupBlocks)
    let bs ← s.groupReads o im.va codes (List.range groupBlocks)
    pure (codes, bs)
  match read with
  | .error (c, a) => if c == .loadPageFault || c == .storePageFault then .page c a else .dead c a
  | .ok (codes, bs) =>
    let s := (List.range (g.units * 16)).foldl (fun s n =>
      s.writeAt (.scratch g.cl (g.base + 256 * n)) (blockBytes (Tab.get bs n (List.replicate 32 0)))) s
    let accs : Tab Acc := im.accs.map fun e => (e.1, { e.2 with
      holder := some gid, rows := []
      el := (List.range 64).flatMap fun r =>
        ((Tab.get bs (accBlock + 64 * e.1 + r) []).zipIdx).flatMap fun (w : Word × Nat) =>
          [(64 * r + 2 * w.2, w.1.setWidth 32), (64 * r + 2 * w.2 + 1, (w.1 >>> 32).setWidth 32)] })
    let s := s.modCluster g.cl fun c =>
      let c := accs.foldl (fun c e => c.setAcc e.1 e.2) c
      { c with
        rings := (g.rings.zip im.rings).foldl (fun t e => Tab.set t e.1 { e.2 with owner := some gid }) c.rings
        dealer := c.dealer ++ im.cmds, eng := c.eng ++ im.eng, score := c.score ++ im.scores
        gslots := Tab.set c.gslots g.slot gid
        dirty := c.dirty.filter fun n => !(decide (g.base / 256 ≤ n) && decide (n < g.base / 256 + g.units * 16)) }
    let s := s.bindCores gid
    let s := g.cores.zipIdx.foldl (fun s e => s.restoreRank e.1 e.2 (Tab.get im.ranks e.2 {}) bs) s
    let s := im.cmds.foldl (fun s _ => s.post (.accept g.cl)) s
    let s := im.eng.foldl (fun s _ => s.post (.engArrive g.cl)) s
    let s := (g.rings.zip im.rings).foldl (fun s e => match e.2.sub with
      | some x => s.post (if x.out then .outlet g.cl e.1 else .spring g.cl e.1)
      | none => s) s
    let (t, s) := s.moment
    .ok ((s.modGroup gid fun g => { g with st := 2, img := none, page := none, placed := t, codes := codes, clean := bs }).postOnce (.complete gid))

/-- Whether nothing resident holds what a pre-empted group keeps (R283), and its withdrawn commands, their scoreboard entries and its firings' reserved
egress slots have room (R164, R205, R228; notes/assumptions/136.md). -/
def State.groupFree (s : State) (gid : Nat) (im : GImage) : Bool :=
  let g := s.groupAt gid
  let c := s.clusterAt g.cl
  !c.retired && s.dieOpen (g.cl / 64) && g.cores.all (fun k => (s.coreAt k).bound.isNone)
    && g.rings.all (fun d => (Tab.get c.rings d {}).owner.isNone) && im.accs.all (fun e => (c.acc e.1).holder.isNone)
    && (s.residents g.cl).all (fun e => decide (e.2.base + e.2.units * 4096 ≤ g.base) || decide (g.base + g.units * 4096 ≤ e.2.base))
    && decide (c.eng.length + im.eng.length ≤ engSize) && decide (c.score.length + im.scores.length ≤ scoreSize)
    && g.cores.zipIdx.all fun e =>
        let f := (Tab.get im.ranks e.2 {}).slot.fir
        !f.active || s.egressFits e.1 false f.prod f.fid

/-- GROUP_RESUME (R283, R324): a pre-empted group goes on where it was once all it kept is free. A halt asked for meanwhile comes first
(R372). -/
def doGroupResume (gid : Nat) (s : State) : Option State :=
  let g := s.groupAt gid
  match g.img with
  | none => none
  | some im =>
    if g.st != 3 || g.page.isSome || !s.clusterIn g.part g.cl || !s.groupFree gid im then none
    else match s.restoreGroup gid im with
      | .ok s => some (match s.pageOf gid with
        | some (pg, p) => if p.haltReq then s.haltGroup pg gid Cause.debugHaltRequest.code 0 else s
        | none => s)
      | .page c va => s.groupWaits gid c va
      | .dead c va => some (s.killGroup gid c va)

/-- GROUP_COMPLETION (R168, R285). -/
def doGroupCompletion (gid : Nat) (s : State) : Option State := if s.groupDone gid then some (s.completeGroup gid) else none

/-- GROUP_KILL (R286, R323): a group not yet ended; one of a shadow partition is killed when that resumes. -/
def doGroupKill (gid : Nat) (c : Cause) (tv : Word) (s : State) : Option State :=
  let st := (s.groupAt gid).st
  if (s.partAt (s.groupAt gid).part).shadow || (Tab.find? s.groups gid).isNone || st = 4 || st = 5 then none else some (s.killGroup gid c tv)

/-- GROUP_PREEMPTION (R324). -/
def execGroupPreemption (g : Nat) (s : State) : Out := act (doGroupPreemption g s) s
/-- GROUP_RESUME (R324). -/
def execGroupResume (g : Nat) (s : State) : Out := act (doGroupResume g s) s
/-- GROUP_COMPLETION (R285). -/
def execGroupCompletion (g : Nat) (s : State) : Out := act (doGroupCompletion g s) s
/-- GROUP_KILL (R323). -/
def execGroupKill (g : Nat) (c : Cause) (tv : Word) (s : State) : Out := act (doGroupKill g c tv s) s

end Sys2Proof.Machine
end

