-- ==== Sys2Proof/Machine/Placement.lean ====
section
/-! DEFINITION. The die schedulers (R281 to R283, R303): STEAL_REQUEST, STEAL_ANSWER, GROUP_PLACEMENT, GROUP_BLOCKS_QUEUE,
PREEMPTION_TRIGGER. -/

namespace Sys2Proof.Machine

/-- The neighbours of a socket on the interposer (R281): four columns, two rows. -/
def sockNeighbours (sk : Nat) : List Nat :=
  (List.range 8).filter fun x => (x / 4 == sk / 4 && (x % 4 + 1 == sk % 4 || sk % 4 + 1 == x % 4)) || (x / 4 != sk / 4 && x % 4 == sk % 4)

/-- The clusters of a partition on a socket, rising. -/
def State.clustersOn (s : State) (p sk : Nat) : List Nat := ((List.range 64).map (sk * 64 + ·)).filter fun cl => s.clusterIn p cl

/-- The pre-empted groups, of the partition that holds a cluster now, whose resources a low-priority group may not take (R283, R326). -/
def State.keepers (s : State) (cl : Nat) (low : Bool) : List Group :=
  if low then (List.filter (fun (e : Nat × Group) => e.2.saved && e.2.cl == cl && s.clusterIn e.2.part cl) s.groups).map (·.2) else []

/-- The scratch runs of a cluster that are taken: base and end in units of 4 KiB. -/
def State.takenUnits (s : State) (cl : Nat) (ks : List Group) : List (Nat × Nat) :=
  ((s.residents cl).map (·.2) ++ ks).map fun g => (g.base / 4096, g.base / 4096 + g.units)

/-- The lowest free run of `n` units of a cluster's 128 (R282). -/
def lowestRun (taken : List (Nat × Nat)) (n : Nat) : Option Nat :=
  (List.range (129 - n)).find? fun u => taken.all fun t => decide (t.2 ≤ u) || decide (u + n ≤ t.1)

/-- The resources that a group takes (R282). -/
structure Fit where
  cl : Nat
  cores : List Nat
  base : Nat
  rings : List Nat
  slot : Nat
  free : Nat

/-- The cores of a cluster with no bound group, rising. -/
def State.freeCores (s : State) (cl : Nat) (ks : List Group) : List Nat :=
  ((List.range 8).map (cl * 8 + ·)).filter fun k => (s.coreAt k).bound.isNone && ks.all fun g => !g.cores.contains k

/-- The units that a group needs: its launch's, or those that its image carries (R349). -/
def State.needUnits (s : State) (g : Group) : Nat := if g.img.isSome then g.units else (s.launchAt g.launch).scr

/-- How a group fits a cluster of its partition, if it does (R282, R283). A group with an image also needs its accumulators (R226). -/
def State.fitOn (s : State) (g : Group) (cl : Nat) : Option Fit :=
  let l := s.launchAt g.launch
  let c := s.clusterAt cl
  let ks := s.keepers cl (!l.pri)
  let cores := (s.freeCores cl ks).filter fun k => g.img.isNone || (s.coreAt k).slots.all fun e => e.2.st == 0
  let rings := (List.range Config.ringDescriptors).filter fun d => (Tab.get c.rings d {}).owner.isNone && ks.all fun g => !g.rings.contains d
  let accs := match g.img with
    | some im => im.accs.all fun e => (c.acc e.1).holder.isNone
    | none => true
  if c.retired || g.avoid == some cl || !s.clusterIn g.part cl || !accs || cores.length < l.cpg || rings.length < l.rings then none
  else match lowestRun (s.takenUnits cl ks) (s.needUnits g), (List.range 8).find? fun i => (Tab.find? c.gslots i).isNone with
    | some u, some slot =>
      some { cl := cl, cores := cores.take l.cpg, base := 4096 * u, rings := rings.take l.rings, slot := slot, free := cores.length }
    | _, _ => none

/-- The fit with the most free cores, the lowest cluster number on a tie (R282). -/
def bestFit : List Fit → Option Fit
  | [] => none
  | f :: fs => match bestFit fs with
    | none => some f
    | some g => if f.free < g.free then some g else some f

/-- The cluster that a group takes on a die, if it fits one (R282). -/
def State.fitDie (s : State) (g : Group) (v : Nat) : Option Fit :=
  match s.sockOf g.part v with
  | none => none
  | some sk => if !s.dieOpen sk then none else bestFit ((s.clustersOn g.part sk).filterMap (s.fitOn g))

/-- The state with a group on the resources of a fit (R282). -/
def State.occupy (s : State) (gid v : Nat) (f : Fit) : State :=
  let units := s.needUnits (s.groupAt gid)
  let (t, s) := s.moment
  let s := s.modGroup gid fun g => { g with
    st := 2, cl := f.cl, slot := f.slot, cores := f.cores, base := f.base, units := units, rings := f.rings, vdie := v, placed := t }
  s.modCluster f.cl fun c => { c with
    gslots := Tab.set c.gslots f.slot gid
    rings := f.rings.foldl (fun t d => Tab.set t d { owner := some gid }) c.rings }

/-- The state with a new group's cores filled and armed (R47, R76, R202, R204, R282), its entry read (R161); an unregistered entry kills it. -/
def State.armGroup (s : State) (gid : Nat) : State :=
  let g := s.groupAt gid
  let l := s.launchAt g.launch
  let s := s.bindCores gid
  let s := g.cores.foldl (fun s k => s.modCore k fun c => { c with
    armed := true, launchDue := some gid, ls := { c.ls with zlutbase := 0, zrr := 0, copySeq := 0, stage := 0, lutOk := false } }) s
  let e := match s.groupEntry gid (g.cores.getD 0 0) l.ent with
    | .ok e => e
    | .error _ => 0
  if entOk e false then (s.modGroup gid fun g => { g with entry := BitVec.ofNat 64 e }).postOnce (.complete gid)
  else s.killGroup gid .handlerUnregistered (BitVec.ofNat 64 (l.ent * 2 ^ 36))

/-- The core that holds the rank which a core held before. -/
def reKey (old new : List Nat) (k : Nat) : Nat :=
  match old.findIdx? (· == k) with
  | some i => new.getD i k
  | none => k

/-- The state with a group that fits placed: as new, or from its image (R282, R353); none while a page of its frame is absent. -/
def State.placeGroup (s : State) (gid v : Nat) (f : Fit) : Option State :=
  match (s.groupAt gid).img with
  | none => some ((s.occupy gid v f).armGroup gid)
  | some im =>
    let old := (s.groupAt gid).cores
    match (s.occupy gid v f).restoreGroup gid (im.via (reKey old f.cores)) with
    | .ok s => some { s with flights := s.flights.map fun e => if e.2.gid == gid then (e.1, { e.2 with dst := reKey old f.cores e.2.dst }) else e }
    | .page c va => s.groupWaits gid c va
    | .dead c va => some (s.killGroup gid c va)

/-- The oldest group of a queue that fits, with the older ones passed over; nothing passes a group that blocks the queue (R282). -/
def State.pickGroup (s : State) (v : Nat) : List Nat → List Nat → Option (Nat × Fit × List Nat)
  | _, [] => none
  | past, g :: gs =>
    let gr := s.groupAt g
    match (if gr.page.isSome then none else s.fitDie gr v) with
    | some f => some (g, f, past)
    | none => if gr.blocks then none else s.pickGroup v (past ++ [g]) gs

/-- The state with the inbound entry of an invocation's group free once it is placed (R301). -/
def State.freeInv (s : State) (gid : Nat) : State :=
  let g := s.groupAt gid
  s.modPart g.part fun p => { p with invHigh := p.invHigh.filter (· != g.launch), invLow := p.invLow.filter (· != g.launch) }

/-- The state with a halt that was asked of a group before it became resident in effect (R372). -/
def State.haltAsked (s : State) (gid : Nat) : State :=
  match s.pageOf gid with
  | some (pg, p) => if p.haltReq && (s.groupAt gid).st == 2 then s.haltGroup pg gid Cause.debugHaltRequest.code 0 else s
  | none => s

/-- The state with a group queued on an open die of its partition as affinity any, its affinity reported absent unless that was done (R330, R353). -/
def State.requeue (s : State) (gid : Nat) : State :=
  let g := s.groupAt gid
  let l := s.launchAt g.launch
  let s := s.unqueue gid
  let v := (s.roomDie g.part 8 l.pri).getD g.vdie
  let key := readyKey g.part v l.pri
  let s := ({ s with ready := Tab.set s.ready key (Tab.get s.ready key [] ++ [gid]) }.modGroup gid fun g => { g with
    st := 1, aff := 8, vdie := v, since := s.time.toNat, passed := false, blocks := false, preAsked := none, stopping := false, page := none }).post
      (.placement g.part v)
  if g.aff = 8 && (g.img.isNone || g.st = 1) then s
  else s.reportNotice g.part (s.faultWords { k := g.cores.getD 0 (g.cl * 8), part := g.part, job := g.job } .affinityAbsent 0)

/-- Whether a group that leaves its die can go to another now, or has none to go to (R353, R354): while every open die's queue is full it waits. -/
def State.mayRequeue (s : State) (gid : Nat) : Bool :=
  let g := s.groupAt gid
  (s.roomDie g.part 8 (s.launchAt g.launch).pri).isSome

/-- Whether another die of a group's partition is open to it. -/
def State.elsewhere (s : State) (gid : Nat) : Bool := (s.partAt (s.groupAt gid).part).vdieNums.any fun v => s.vdieOpen (s.groupAt gid).part v

/-- The state with a group that is queued for an absent virtual die handed to a die that is open now (R353). -/
def State.handStranded (s : State) (p v : Nat) : Option State :=
  let q := fun (s : State) (h : Bool) => Tab.get s.ready (readyKey p v h) []
  ((q s true ++ q s false).find? s.mayRequeue).map fun g =>
    let t := s.requeue g
    if (q t true ++ q t false).isEmpty then t else t.postOnce (.placement p v)

/-- GROUP_PLACEMENT (R282): the high queue first; the groups of an absent virtual die go to another (R353). -/
def doGroupPlacement (p v : Nat) (s : State) : Option State :=
  let q := fun (h : Bool) => Tab.get s.ready (readyKey p v h) []
  match (s.pickGroup v [] (q true)).orElse fun _ => s.pickGroup v [] (q false) with
  | none => if (s.sockOf p v).isNone then s.handStranded p v else none
  | some (g, f, past) =>
    let s := past.foldl (fun s x => s.modGroup x fun gr => { gr with passed := true }) s
    (s.placeGroup g v f).map fun t =>
      let t := t.haltAsked g
      let t := if (t.groupAt g).st == 1 then t else t.unqueue g
      let t := t.freeInv g
      if (Tab.get t.ready (readyKey p v true) []).isEmpty && (Tab.get t.ready (readyKey p v false) []).isEmpty then t else t.postOnce (.placement p v)

/-- GROUP_BLOCKS_QUEUE (R282). -/
def doGroupBlocksQueue (g : Nat) (s : State) : Option State :=
  let gr := s.groupAt g
  if gr.st != 1 || gr.blocks || !gr.passed || s.time.toNat < gr.since + 100000 then none
  else some (s.modGroup g fun gr => { gr with blocks := true })

/-- Whether an idle die may ask for a group (R281): its ready queues of the partition are empty and a one-core group would fit. -/
def State.dieIdle (s : State) (p v : Nat) : Bool :=
  s.readyLen p v true == 0 && s.readyLen p v false == 0 && s.vdieOpen p v
    && (match s.sockOf p v with
      | none => false
      | some sk => (s.clustersOn p sk).any fun cl =>
        !(s.clusterAt cl).retired && !(s.freeCores cl (s.keepers cl true)).isEmpty
          && ((List.range 8).any fun i => (Tab.find? (s.clusterAt cl).gslots i).isNone))

/-- The state with the steal flag of a virtual die set. -/
def State.setSteal (s : State) (p v : Nat) (b : Bool) : State :=
  s.modPart p fun pt => { pt with vdies := Tab.set pt.vdies v { Tab.get pt.vdies v {} with steal := b } }

/-- STEAL_REQUEST (R281): a request to the next of the neighbours that the partition holds, at most one outstanding. -/
def doStealRequest (p v : Nat) (s : State) : Option State :=
  let pt := s.partAt p
  if !pt.made || pt.shadow || (Tab.get pt.vdies v {}).steal || !s.dieIdle p v then none
  else match s.sockOf p v with
    | none => none
    | some sk =>
      let vs := (sockNeighbours sk).filterMap fun x => s.vdieOf p x
      if vs.isEmpty then none
      else
        let i := (Tab.get pt.vdies v {}).turn
        let s := (s.setSteal p v true).modPart p fun pt => { pt with vdies := Tab.set pt.vdies v { Tab.get pt.vdies v {} with turn := i + 1 } }
        some (s.post (.answer p (vs.getD (i % vs.length) 0) v))

/-- The oldest group of a die that may be stolen (R281). An evacuating die answers none (R354). -/
def State.stealable (s : State) (p v : Nat) : Option Nat :=
  if !s.vdieOpen p v then none
  else (Tab.get s.ready (readyKey p v false) []).find? fun g => (s.groupAt g).aff == 8

/-- STEAL_ANSWER (R281). -/
def doStealAnswer (p v thief : Nat) (s : State) : Option State :=
  let s := s.setSteal p thief false
  match s.stealable p v with
  | some g =>
    if readySize ≤ s.readyLen p thief false then some s
    else
      let key := readyKey p thief false
      let s := s.unqueue g
      some (({ s with ready := Tab.set s.ready key (Tab.get s.ready key [] ++ [g]) }.modGroup g fun gr => { gr with vdie := thief }).postOnce
        (.placement p thief))
  | none => some s

/-- Whether a resident group may be pre-empted for a waiting one (R283, R303). -/
def State.victimOk (s : State) (g v : Group) : Bool :=
  let l := s.launchAt v.launch
  v.st == 2 && !v.stopping && !v.halted && v.part == g.part && v.job != g.job && v.vdie == g.vdie && !l.pri && l.pre

/-- The state as it would be without a resident group, to see whether another would then fit. -/
def State.without (s : State) (vid : Nat) : State :=
  let v := s.groupAt vid
  (v.cores.foldl (fun s k => s.modCore k fun c => { c with bound := none }) s).modCluster v.cl (·.vacate vid)
    |>.modGroup vid fun g => { g with st := 3 }

/-- The victims of a list, oldest placed first, without whose resources a waiting group fits a cluster only with those that come after them: none of
them can be left out (R283). -/
def State.needed (s : State) (g : Group) (cl : Nat) : List Nat → List Nat → List Nat
  | kept, [] => kept
  | kept, v :: vs => if (((kept ++ vs).foldl State.without s).fitOn g cl).isSome then s.needed g cl kept vs else s.needed g cl (kept ++ [v]) vs

/-- A group put into a list by the time of its placement. -/
def insertPlaced (e : Nat × Group) : List (Nat × Group) → List (Nat × Group)
  | [] => [e]
  | x :: xs => if e.2.placed ≤ x.2.placed then e :: x :: xs else x :: insertPlaced e xs

/-- The groups of a cluster that a waiting group may pre-empt, oldest placed first. -/
def State.victimsOn (s : State) (g : Group) (cl : Nat) : List Nat :=
  ((List.filter (fun (e : Nat × Group) => s.victimOk g e.2 && e.2.cl == cl) s.groups).foldr insertPlaced []).map (·.1)

/-- The groups whose resources a waiting group needs, on every cluster that it would fit without them (R283). -/
def State.victims (s : State) (g : Group) : List Nat :=
  match s.sockOf g.part g.vdie with
  | none => []
  | some sk => (s.clustersOn g.part sk).flatMap fun cl =>
    let vs := s.victimsOn g cl
    if ((vs.foldl State.without s).fitOn g cl).isSome then s.needed g cl [] vs else []

/-- The youngest placed of the groups whose resources a waiting group needs (R283). -/
def State.victim (s : State) (g : Group) : Option Nat :=
  ((s.victims g).foldl (fun (b : Option (Nat × Nat)) v =>
    let t := (s.groupAt v).placed
    match b with
    | some (_, u) => if u < t then some (v, t) else b
    | none => some (v, t)) none).map (·.1)

/-- Whether a group that was pre-empted for another is still being saved (R283). -/
def State.stillSaving (s : State) (v : Option Nat) : Bool := v.any fun v => (s.groupAt v).st == 2 && (s.groupAt v).stopping

/-- PREEMPTION_TRIGGER (R283, R303): a high-priority group that has fitted nowhere for 20 µs; one victim at a time. -/
def doPreemptionTrigger (g : Nat) (s : State) : Option State :=
  let gr := s.groupAt g
  let l := s.launchAt gr.launch
  if gr.st != 1 || s.stillSaving gr.preAsked || !l.pri || s.time.toNat < gr.since + 20000 || (s.fitDie gr gr.vdie).isSome
      || (l.inv.isSome && !bitAt (s.partAt gr.part).icfg0.toNat 62) then none
  else match s.victim gr with
    | none => none
    | some v => some (((s.modGroup v fun x => { x with stopping := true }).modGroup g fun x => { x with preAsked := some v }).post (.preempt v))

/-- GROUP_PLACEMENT (R282). -/
def execGroupPlacement (p v : Nat) (s : State) : Out := act (doGroupPlacement p v s) s
/-- GROUP_BLOCKS_QUEUE (R282). -/
def execGroupBlocksQueue (g : Nat) (s : State) : Out := act (doGroupBlocksQueue g s) s
/-- STEAL_REQUEST (R281). -/
def execStealRequest (p v : Nat) (s : State) : Out := act (doStealRequest p v s) s
/-- STEAL_ANSWER (R281). -/
def execStealAnswer (p v thief : Nat) (s : State) : Out := act (doStealAnswer p v thief s) s
/-- PREEMPTION_TRIGGER (R283). -/
def execPreemptionTrigger (g : Nat) (s : State) : Out := act (doPreemptionTrigger g s) s

end Sys2Proof.Machine
end

