-- ==== Sys2Proof/Machine/Rings.lean ====
section
/-! DEFINITION. The ring instructions (R207 to R216): RCFG, RFREE, RPOP, RPUSH, RSTAT, SUBS, UNSUBS, DRAIN, and what the spring and the
outlet then do. -/

namespace Sys2Proof.Machine

/-- RCFG (R210). -/
def execRcfg (eb2 eb1 : BitVec 1) (b a d : BitVec 5) (s : State) : Out :=
  run (do
    noRepeat
    needL (encZR custom2 6 0 eb2 eb1 b a d)
    regs [(xr a, ebOn eb1), (xr b, ebOn eb2)] []
    let p ← getX a
    let v ← getX b
    let (n, r) ← needRing d.toNat false
    trapIf r.cfg .ringState (BitVec.ofNat 64 d.toNat)
    let sz := bits v.toNat 0 14
    let cnt := bits v.toNat 16 6 + 1
    trapIf (v.toNat / 2 ^ 22 != 0 || bits v.toNat 14 2 != 0) .reservedField v
    trapIf (sz == 0) .ringSlotSize v
    headTag p
    let x := addrOf p
    trapIf (decide (0xFFFFF0000000 ≤ x) && decide (x < 0xFFFFF0002000)) .privateRange p
    trapIf (decide (x < 0xFFFFE0000000) || decide (0xFFFFE0080000 ≤ x)) .scratchRange p
    trapIf (x % 64 != 0 || decide (8191 < sz) || decide (0x80000 < sz * 64 * cnt)) .ringSlotSize p
    let s ← get
    trapIf (!s.grp.holds (x - 0xFFFFE0000000) (sz * 64 * cnt)) .scratchRange p
    upd fun s => s.putRing s.cl n { r with cfg := true, base := p, size := sz * 64, cnt := cnt, f := 0, r := 0, slots := List.replicate cnt {} }) s

/-- RFREE (R211). -/
def execRfree (d : BitVec 5) (s : State) : Out :=
  run (do
    noRepeat
    needL (encZR custom2 6 1 0 0 0 0 d)
    let (n, r) ← needRing d.toNat true
    trapIf (r.sub.isSome || r.slots.any fun x => x.st == 1 || x.st == 3) .ringState (BitVec.ofNat 64 d.toNat)
    upd fun s => s.putRing s.cl n { owner := r.owner }) s

/-- The holder number of a core. -/
def ringHolder (k : Nat) : Nat := k + 1000
/-- The slot of a state that a holder holds, if any (R212). -/
def Ring.heldBy (r : Ring) (st h : Nat) : Option Nat := (List.range r.cnt).find? fun k =>
  let x := r.slots.getD k {}
  x.st == st && x.holder == h

/-- Whether every write of a core into a range of its cluster's scratch is performed (R212): its pushes, service writes, queue rows and
commands, accepted or not. -/
def State.slotQuiet (s : State) (k lo hi : Nat) : Bool :=
  let cl := k / 8
  let c := s.coreAt k
  let within := fun (sp : Spot) (n : Nat) => match sp.home with
    | some (.scratch x off) => x == cl && meets (off, off + n) (lo, hi)
    | _ => false
  c.ls.ports.all (fun e => e.2.pushes.all fun q => !(q.spots.any fun sp => within sp q.unit))
    && List.all s.svcs (fun e => !(e.2.org.k == k && e.2.writes && e.2.cl == cl && meets (e.2.off, e.2.off + e.2.ask.size) (lo, hi)))
    && List.all s.rows (fun e => e.2.done || e.2.org.k != k || !within e.2.spot 8)
    && (s.clusterAt cl).score.all (fun e => e.k != k || !(e.wr.any fun w => meets w (lo, hi)))
    && (s.clusterAt cl).dealer.all fun c => c.org.k != k || c.accepted || c.bad.isSome || !((s.ownSpan c.org c.dstRange.1 c.dstRange.2).any fun w => meets w (lo, hi))

/-- RPUSH (R212). -/
def execRpush (d : BitVec 5) (s : State) : Out :=
  run (do
    noRepeat
    needL (encZR custom2 6 3 0 0 0 0 d)
    let (n, r) ← needRing d.toNat true
    trapIf (match r.sub with
      | some x => !x.out
      | none => false) .ringState (BitVec.ofNat 64 d.toNat)
    let s ← get
    let me := ringHolder s.cur
    let r ← (match r.heldBy 1 me with
      | some k => do
        holdUnless (s.slotQuiet s.cur (r.slotOff k) (r.slotOff k + r.size))
        pure (r.setSlot k 2 0)
      | none => pure r)
    upd fun s => s.putRing s.cl n (if r.stOf r.f = 0 then r.fill me else r)) s

/-- RPOP (R212). -/
def execRpop (a d : BitVec 5) (s : State) : Out :=
  run (do
    noRepeat
    needL (encZR custom2 6 2 0 0 0 a d)
    regs [] [xr d]
    let (n, r) ← needRing a.toNat true
    trapIf (match r.sub with
      | some x => x.out
      | none => false) .ringState (BitVec.ofNat 64 a.toNat)
    let s ← get
    let me := ringHolder s.cur
    let r := match r.heldBy 3 me with
      | some k => r.setSlot k 0 0
      | none => r
    if r.stOf r.r = 2 then do
      upd fun s => s.putRing s.cl n (r.take me)
      setX d (r.slotVa r.r)
    else do
      upd fun s => s.putRing s.cl n r
      setX d (BitVec.allOnes 64)) s

/-- The RSTAT word of a ring for a core (R213). -/
def Ring.word (r : Ring) (k : Nat) : Word :=
  if !r.cfg then 0 else
  let n := fun st => (r.slots.filter fun x => x.st == st).length
  let held := fun st => r.heldBy st (ringHolder k)
  BitVec.ofNat 64 (r.f * 2 ^ 52 + r.r * 2 ^ 46 + n 2 * 2 ^ 39 + n 0 * 2 ^ 32
    + b2n (match r.sub with
      | some x => !x.out
      | none => false) * 2 ^ 27
    + b2n (match r.sub with
      | some x => x.out
      | none => false) * 2 ^ 26
    + b2n (held 1).isSome * 2 ^ 25 + b2n (held 3).isSome * 2 ^ 24 + (held 1).getD 0 * 2 ^ 18 + (held 3).getD 0 * 2 ^ 12
    + (r.cnt - 1) * 64 + 32)

/-- RSTAT of a ring (R213). -/
def execRstatRing (a d : BitVec 5) (s : State) : Out :=
  run (do
    noRepeat
    needL (encZR custom2 6 4 0 0 0 a d)
    regs [] [xr d]
    let (_, r) ← needRing a.toNat false
    let s ← get
    setX d (r.word s.cur)) s

/-- Whether the reserved bits of a tiling word are set (R214). -/
def tilingBad (out : Bool) (t : Word) : Bool :=
  let n := t.toNat
  bits n 40 24 != 0 || bits n 25 7 != 0 || (out && bits n 32 8 != 0)

/-- Whether a tensor descriptor is not admitted (R214 check 5). -/
def State.tensorBad (s : State) (ws : List Word) (t : Word) : Bool :=
  let p := ws.getD 0 0
  let g := tagOf p
  let o := { s.org with h := false }
  !tagOk p || g == 9 || g == 10 || !blogOk g (blogOf p) || !canonical p || decide (0xFFFE00000000 ≤ addrOf p)
    || tenCols ws == 0 || tenRows ws == 0 || bits (ws.getD 2 0).toNat 48 16 != 0
    || addrOf p % elemSize g != 0 || tenStride ws % elemSize g != 0
    || tenRows ws % tileRows t != 0 || tenCols ws % tileCols t != 0
    || (match s.place o p 1 .load with
      | .ok (r, _) => (match r.spot with
        | .flat (.remote ..) => true
        | _ => false)
      | .error _ => false)

/-- Bytes of a tile (R214 check 6). -/
def tileBytes (g : Nat) (t : Word) : Nat := tileRows t * (colBytes g (tileCols t)).toNat

/-- SUBS and DRAIN (R214 to R216): a subscription or a drain of a ring. -/
def subsM (out : Bool) (ring : BitVec 5) (a : BitVec 5) (tiling : Option Word) : M Unit := do
  let p ← getX a
  let (n, r) ← needRing ring.toNat true
  trapIf (r.sub.isSome || (!out && r.slots.any fun x => x.st == 1 && 1000 ≤ x.holder)) .ringState (BitVec.ofNat 64 ring.toNat)
  match tiling with
  | some t => trapIf (tilingBad out t) .reservedField t
  | none => pure ()
  let ws ← readDesc p
  let t := tiling.getD (ws.getD 3 0)
  trapIf (tilingBad out t) .reservedField t
  let s ← get
  trapIf (s.tensorBad ws t) .subscriptionInvalid p
  let g := tagOf (ws.getD 0 0)
  trapIf (tileBytes g t != r.size || (g == 11 && tileCols t % 2 != 0)) .ringSlotSize (BitVec.ofNat 64 ring.toNat)
  let slot ← reserveSlot 0 false
  ownServed
  let sub : Subs := {
    out := out, org := s.org, id := slot, desc := ws, tiling := t, total := gridTiles ws t * (bits t.toNat 32 8 + 1) }
  upd fun s => s.putRing s.cl n { r with sub := some sub }
  post (if out then .outlet s.cl n else .spring s.cl n)

/-- SUBS (R214, R215). -/
def execSubs (eb2 eb1 : BitVec 1) (b a d : BitVec 5) (s : State) : Out :=
  run (do
    noRepeat
    needL (encZR custom2 6 5 eb2 eb1 b a d)
    regs [(xr a, ebOn eb1), (xr b, ebOn eb2)] []
    let t ← getX b
    subsM false d a (some t)) s

/-- DRAIN (R214, R216). -/
def execDrain (eb1 : BitVec 1) (a d : BitVec 5) (s : State) : Out :=
  run (do
    noRepeat
    needL (encZR custom2 6 7 0 eb1 0 a d)
    regs [(xr a, ebOn eb1)] []
    subsM true d a none) s

/-- The state after a subscription or drain of a ring ended: its completion is placed (R194, R215, R216). The tag of word 0 is a free value. -/
def State.subsEnded (s : State) (cl rg : Nat) (bad : Option (Cause × Word)) : State :=
  let r := Tab.get (s.clusterAt cl).rings rg {}
  match r.sub with
  | none => s
  | some x =>
    let tag := Config.freeValue s.free % 2 ^ 32
    let s := { s.putRing cl rg { r with sub := none } with free := s.free + 1 }
    let src := if x.out then 5 else 4
    (s.scoreDone cl x.id).placeCompletion x.org x.id 0 src (complArgs (tag * 2 ^ 32 + src) bad 0 (BitVec.ofNat 64 x.tile) 0)

/-- UNSUBS (R215). -/
def execUnsubs (d : BitVec 5) (s : State) : Out :=
  run (do
    noRepeat
    needL (encZR custom2 6 6 0 0 0 0 d)
    let (n, r) ← needRing d.toNat true
    match r.sub with
    | none => pure ()
    | some x =>
      if x.out then pure ()
      else if x.busy.isSome then do
        upd fun s => s.putRing s.cl n { r with sub := some { x with ending := true } }
        holdKeep
      else upd fun s => s.subsEnded s.cl n none) s

/-- The act by which a ring's tiles move. -/
def tileAct (cl rg : Nat) (out : Bool) : Act := if out then .outlet cl rg else .spring cl rg

/-- The state in which a spring or outlet waits for a page in place, with its notice (R199, R215); none while the queue is full. -/
def State.tileWaits (s : State) (cl rg : Nat) (x : Subs) (c : Cause) (va : Word) : Option State :=
  match s.faultNotice x.org c va with
  | some s =>
    let r := Tab.get (s.clusterAt cl).rings rg {}
    some (s.putRing cl rg { r with sub := some { x with page := some (pageOfVa va) } })
  | none => (s.holdWalk x.org va).map fun s => s.post (tileAct cl rg x.out)

/-- The scoreboard entry of the tile in a slot (R205). -/
def Ring.tileScore (r : Ring) (x : Subs) (k : Nat) : Score :=
  let span := (r.slotOff k, r.slotOff k + r.size)
  { id := x.id, gid := x.org.gid, k := x.org.k, rd := if x.out then [span] else [], wr := if x.out then [] else [span] }

/-- The state with a tile's slot and scoreboard entry taken (R205, R207, R215, R216); none while it cannot be. A tile that is filled again after a
pre-emption takes an entry again (R220). -/
def State.takeTile (s : State) (cl rg : Nat) : Option (State × Subs × Nat) :=
  let r := Tab.get (s.clusterAt cl).rings rg {}
  let enter := fun (s : State) (x : Subs) (k : Nat) => s.modCluster cl fun c => { c with score := c.score ++ [r.tileScore x k] }
  match r.sub with
  | none => none
  | some x =>
    if x.page.isSome then none
    else match x.busy with
      | some k =>
        if (s.clusterAt cl).score.any (·.id == x.id) then some (s, x, k)
        else if s.scoreRoom cl 1 then some (enter s x k, x, k) else none
      | none =>
        let k := if x.out then r.r else r.f
        if x.ending || decide (x.total ≤ x.tile) || r.stOf k != (if x.out then 2 else 0) || !s.scoreRoom cl 1 then none
        else
          let x := { x with busy := some k, since := s.time.toNat }
          some (enter (s.putRing cl rg { (if x.out then r.take 2 else r.fill 1) with sub := some x }) x k, x, k)

/-- The agent that moves a ring's tiles. -/
def tileOwner (cl rg : Nat) (out : Bool) : Owner := if out then .outlet cl rg else .spring cl rg
/-- The state with a tile's slot handed on (R207): the next tile, or the end after the last. -/
def State.tileDone (s : State) (cl rg : Nat) (x : Subs) (k : Nat) : State :=
  let r := Tab.get (s.clusterAt cl).rings rg {}
  let x := { x with busy := none, tile := x.tile + 1, moved := false }
  let s := (s.putRing cl rg { r.setSlot k (if x.out then 0 else 2) 0 with sub := some x }).scoreDone cl x.id
  if x.total ≤ x.tile then s.subsEnded cl rg none else s.post (tileAct cl rg x.out)

/-- The state with a subscription or drain failed: its tile's destination is unspecified, and its slot is given back as it was (R199, R215, R216). -/
def State.tileFailed (s : State) (cl rg : Nat) (x : Subs) (k : Nat) (c : Cause) (va : Word) : State :=
  let r := Tab.get (s.clusterAt cl).rings rg {}
  let s := ((s.clobberTile cl r).dropLines (tileOwner cl rg x.out)).dropOut (tileOwner cl rg x.out)
  let r := if x.out then { r.setSlot k 2 0 with r := k } else { r.setSlot k 0 0 with f := k }
  (s.putRing cl rg r).subsEnded cl rg (some (c, va))

/-- What moving a tile comes to, its slot and entry taken: the tile is done, on its way, failed or waiting; none while it waits for what brings
its own turn again. -/
def State.moveTaken (s : State) (cl rg : Nat) (x : Subs) (k : Nat) : Option State :=
  let r := Tab.get (s.clusterAt cl).rings rg {}
  let own := tileOwner cl rg x.out
  let o := { x.org with h := false }
  let l : Loc := .scratch cl (r.slotOff k)
  if x.moved then match s.outEnded own with
    | none => none
    | some none => some ((s.dropOut own).tileDone cl rg x k)
    | some (some e) => some (s.tileFailed cl rg x k e.1 e.2)
  else if ((s.clusterAt cl).score.filter (·.id == x.id)).any fun m => conflicts x.id m.rd m.wr (s.clusterAt cl).score then none
  else match s.tilePieces o (if x.out then .store else .load) (x.rows x.tile) with
  | .error (c, va) =>
    if c == .loadPageFault || c == .storePageFault then s.tileWaits cl rg x c va else some (s.tileFailed cl rg x k c va)
  | .ok (ps, t) =>
    if anyAbroad ps && s.coreAbroad x.org.k then none
    else match s.stuckPiece cl ps with
    | some (p, d) => if s.deadlineOf x.since (cl / 64) d ≤ s.time.toNat then some (s.tileFailed cl rg x k .crossDieTimeout p.va) else none
    | none =>
      if x.out then
        let bs := t.bytesAt l r.size
        let t := (t.piecesCounted o ps).piecesWrite ps bs
        if (piecesAbroad ps bs).isEmpty then some (t.tileDone cl rg x k)
        else some ((t.putRing cl rg { r with sub := some { x with moved := true } }).startOut own o (piecesAbroad ps bs)
          |>.post (tileAct cl rg x.out))
      else match t.piecesBytes own ps with
        | none =>
          let t := s.askPieces own o ps
          if t.awayLines.length = s.awayLines.length then none else some (t.post (tileAct cl rg x.out))
        | some (.error (c, va)) => some (s.tileFailed cl rg x k c va)
        | some (.ok bs) => some ((((t.piecesCounted o ps).dropLines own).writeAt l bs).tileDone cl rg x k)

/-- A tile moved by the spring or the outlet of a ring (R215, R216): whole, or waiting for a page, or failed. -/
def State.moveTile (s : State) (cl rg : Nat) (out : Bool) : Option State :=
  match s.takeTile cl rg with
  | none => none
  | some (t, x, k) =>
    if x.out != out then none else
    match t.moveTaken cl rg x k with
    | some t => some t
    | none => if (t.clusterAt cl).score.length = (s.clusterAt cl).score.length then none else some (t.post (tileAct cl rg out))

/-- SPRING_TILE (R215). -/
def doSpringTile (cl rg : Nat) (s : State) : Option State := s.moveTile cl rg false
/-- OUTLET_TILE (R216). -/
def doOutletTile (cl rg : Nat) (s : State) : Option State := s.moveTile cl rg true

/-- SPRING_TILE (R215). -/
def execSpringTile (cl rg : Nat) (s : State) : Out := act (doSpringTile cl rg s) s
/-- OUTLET_TILE (R216). -/
def execOutletTile (cl rg : Nat) (s : State) : Out := act (doOutletTile cl rg s) s

end Sys2Proof.Machine
end

