-- ==== Sys2Proof/Machine/Deliver.lean ====
section
/-! DEFINITION. Messages, error replies, service requests, atomic engines, leases, wakes and queue rows on their way (R160 to R163, R170, R178,
R179, R189). -/

namespace Sys2Proof.Machine

/-- The core that owns a scratch byte for a job of a partition (R160), with its group: a resident one, else a pre-empted one (R283). -/
def State.ownerOf (s : State) (p job cl off : Nat) : Option (Nat × Nat) :=
  let held := (List.find? (fun (e : Nat × Group) => e.2.saved && e.2.cl == cl && e.2.part == p && e.2.job == job && e.2.holds off 1) s.groups).map (·.1)
  match (s.holderOf cl p job off 1).orElse fun _ => held with
  | none => none
  | some g =>
    let gr := s.groupAt g
    (gr.cores[(off - gr.base) / 4096 % gr.cores.length]?).map fun k => (k, g)

/-- The pre-empted group of a job that a core belongs to (R283). -/
def State.savedOn (s : State) (k p job : Nat) : Option Nat :=
  (List.find? (fun (e : Nat × Group) => e.2.saved && e.2.part == p && e.2.job == job && e.2.cores.contains k) s.groups).map (·.1)

/-- Where a message is bound for at its target: the core and the group bound there that its sender's job may reach, or the job's group
pre-empted there (R283); `none` is a refusal (R160 step 3, R162 check 1). -/
def State.flightTarget (s : State) (f : Flight) : Except Cause (Nat × Nat) :=
  let o := f.org
  match f.addr with
  | some (cl, off) => match s.ownerOf o.part o.job cl off with
    | some x => .ok x
    | none => .error .serviceRange
  | none =>
    if f.sup then .ok (f.dst, ((s.coreAt f.dst).bound).getD 0)
    else
      let g := ((s.coreAt f.dst).bound).getD 0
      let gr := s.groupAt g
      if (s.coreAt f.dst).bound.isSome && gr.part = o.part && gr.job = o.job && gr.st = 2 then .ok (f.dst, g)
      else match s.savedOn f.dst o.part o.job with
        | some g => .ok (f.dst, g)
        | none => .error .messageTargetInvalid

/-- The entry that a message names, checked (R161, R162 checks 2 and 3). A table that cannot be read registers nothing. -/
def State.flightEntry (s : State) (f : Flight) (k g : Nat) : Except Cause Nat :=
  let n := if f.sup then s.supCount f.org.part else (s.launchAt (s.groupAt g).launch).n
  if f.hdl < 16 || n ≤ f.hdl - 16 then .error .handlerTableRange
  else
    let e := if f.sup then s.supEntry f.org.part f.hdl else match s.groupEntry g k f.hdl with
      | .ok e => e
      | .error _ => 0
    if entOk e f.sup && entAccepts e f.pri then .ok e else .error .handlerUnregistered

/-- The state with a message refused (R162): it is discarded, and its sender gets an error reply. -/
def State.refuse (s : State) (id : Nat) (f : Flight) (c : Cause) : State :=
  let s := { s with flights := Tab.erase s.flights id }
  if f.spkg.isSome then s.acknowledge f.env c.code []
  else { s with errs := Tab.set s.errs s.nextId { org := f.org, cause := c, tval := f.tval, send := true }, nextId := s.nextId + 1 }.post (.errRep s.nextId)

/-- Whether a message of one core goes before another (R163): in the order in which they were accepted; from another package, the earlier one to the
same target that the later one names. -/
def flightBefore (e f : Nat × Flight) : Bool :=
  e.2.st == 0 && e.2.pkg.isNone && e.2.org.k == f.2.org.k && (if f.2.spkg.isSome then envF e.2.env 0 16 12 == envF f.2.env 9 36 12 && envF f.2.env 9 62 1 == 1 else decide (e.1 < f.1))

/-- Whether the earlier message that a message from another package names has yet to come, and its sender has not given it up (R163, R298). -/
def State.flightAwaited (s : State) (f : Flight) : Bool :=
  f.spkg.isSome && envF f.env 9 62 1 == 1 && !(Tab.get s.seqs (seqKey f.env) {}).holds (envF f.env 9 36 12) && decide (s.time.toNat < f.came + 15000)

/-- MESSAGE_VALIDATION (R160, R162): the messages of one core in their order. -/
def doMessageValidation (id : Nat) (s : State) : Option State :=
  match Tab.find? s.flights id with
  | none => none
  | some f =>
    if f.st != 0 || f.pkg.isSome || s.flightAwaited f || (List.any s.flights fun e => flightBefore e (id, f)) then none
    else
      let r : Except Cause (Nat × Nat × Nat) := do
        let (k, g) ← s.flightTarget f
        let e ← s.flightEntry f k g
        pure (k, g, e)
      match r with
      | .error c => some (s.refuse id f c)
      | .ok (k, g, e) =>
        let (t, s) := s.moment
        let f := { f with st := 1, dst := k, gid := g, entry := BitVec.ofNat 64 e, ord := t }
        some ({ s with flights := Tab.set s.flights id f }.post (.place id))

/-- The saved mailbox that a message goes to, when its group is pre-empted (R283): the rank and its image. -/
def State.savedBox (s : State) (f : Flight) : Option (Nat × RankImg) :=
  let gr := s.groupAt f.gid
  if f.sup || gr.st == 2 then none
  else
    let r := (gr.cores.findIdx? (· == f.dst)).getD 0
    gr.img.map fun im => (r, Tab.get im.ranks r {})

/-- Whether a message's queue has room (R163, R283). -/
def State.flightRoom (s : State) (f : Flight) : Bool :=
  match s.savedBox f with
  | some (_, ri) => if f.pri then ri.hq.length < Config.hSlots else ri.lq.length < Config.lSlots
  | none => (s.coreAt f.dst).room f.pri

/-- The state with a message placed in the saved mailbox of a rank of its pre-empted group, which is part of the group's image (R283, R324). An absent page
of the image is waited for, with its notice; an access that is denied kills the group (R315). -/
def State.placeSaved (s : State) (f : Flight) (r : Nat) (ri : RankImg) (m : Msg) : Except (Cause × Word) State :=
  let (t, s) := s.moment
  let m := { m with ord := t }
  s.editBox f.gid r (if f.pri then { ri with hq := ri.hq ++ [m] } else { ri with lq := ri.lq ++ [m] })

/-- MESSAGE_PLACEMENT (R163, R283): in order of arrival, when the queue has room. A message whose group was killed meanwhile is
discarded (R323). One from another package is acknowledged then (R297). -/
def doMessagePlacement (id : Nat) (s : State) : Option State :=
  match Tab.find? s.flights id with
  | none => none
  | some f =>
    if f.st != 1 || !s.flightRoom f || ((s.savedBox f).isNone && !s.clusterIn f.org.part (f.dst / 8))
        || (List.any s.flights fun e => e.2.st == 1 && e.2.dst == f.dst && e.2.gid == f.gid && e.2.pri == f.pri && decide (e.2.ord < f.ord)) then none
    else
      let m : Msg := { words := f.words, entry := f.entry, hdl := f.hdl, sup := f.sup, job := f.org.job, gid := f.gid, fid := f.org.fid }
      let s' := { s with flights := Tab.erase s.flights id }
      let s' := if f.spkg.isSome then s'.acknowledge f.env 0 [] else s'
      match s.savedBox f with
      | some (r, ri) => match s'.placeSaved f r ri m with
        | .ok t => some t
        | .error (c, va) =>
          if c == .loadPageFault || c == .storePageFault then
            if (s.groupAt f.gid).page.isSome then none
            else match s.faultNotice (s.groupOrg f.gid) c va with
              | some s => some ((s.modGroup f.gid fun g => { g with page := some (pageOfVa va) }).post (.place id))
              | none => (s.holdWalk (s.groupOrg f.gid) va).map fun s => s.post (.place id)
          else some (s'.killGroup f.gid c va)
      | none =>
        if !f.sup && (s.coreAt f.dst).bound != some f.gid then some s'
        else some (s'.placeMsg f.dst f.pri m)

/-- ERROR_REPLY_ARRIVAL (R46, R162): a producer fails, and the cause joins its firing's pending list. -/
def doErrorReplyArrival (id : Nat) (s : State) : Option State :=
  match Tab.find? s.errs id with
  | none => none
  | some e =>
    let s := { s with errs := Tab.erase s.errs id }
    let s := match e.pend with
      | some q => s.failPend e.org.k e.org.h q
      | none => s
    some (s.pendCause e.org e.cause e.tval)

/-- The state with a service request changed. -/
def State.putSvc (s : State) (id : Nat) (v : Svc) : State := { s with svcs := Tab.set s.svcs id v }

/-- The state with a service request answered (R170). -/
def State.answer (s : State) (id : Nat) (v : Svc) (ok : Bool) (c : Cause) (ws : List Word) : State :=
  (s.putSvc id { v with st := 2, ok := ok, cause := c, reply := ws }).post (.svcReply id)

/-- SERVICE_REQUEST (R70, R110, R160, R170): requests of one core to one cluster arrive in the order in which they were sent. -/
def doServiceRequest (id : Nat) (s : State) : Option State :=
  match Tab.find? s.svcs id with
  | none => none
  | some v =>
    if v.st != 0 || (List.any s.svcs fun e => decide (e.1 < id) && e.2.st == 0 && e.2.org.k == v.org.k && e.2.cl == v.cl) then none
    else if s.dieLeft (v.cl / 64) then some (s.answer id v false .dieOffline [])
    else if (s.holderOf v.cl v.org.part v.org.job v.off v.ask.size).isNone then
      some (s.answer id v false (if v.await then .scratchRange else .serviceRange) [])
    else
      let s := s.putSvc id { v with st := 1, at_ := s.time.toNat }
      some ((s.modCluster v.cl fun c => { c with amoQ := c.amoQ ++ [id] }).post (.serve v.cl))

/-- The request that a cluster's engine serves among the incoming ones (R178): the oldest that has waited long, unless a core's is older; else the
first. -/
def State.nextIncoming (s : State) (cl : Nat) : Option (Nat × Svc) :=
  let inc := s.incoming cl
  match s.oldestAged cl ((s.clusterAt cl).amoWait.filter (s.amoLives cl)) with
  | some t => inc.find? fun e => e.2.at_ == t
  | none => inc.head?

/-- ATOMIC_ENGINE_SERVE (R177, R178): the engine or the owner's message unit performs one request. -/
def doAtomicEngineServe (cl : Nat) (s : State) : Option State :=
  match s.nextIncoming cl with
  | none => none
  | some (id, v) =>
    let s' := s.modCluster cl fun c => { c with amoQ := c.amoQ.filter (· != id) }
    match s'.perform v.org v.va (.scratch cl v.off) v.ask with
    | .ok (ws, s) => some (s.answer id v true .serviceRange ws)
    | .error (c, tv) => some (s'.answer id v false c [tv])

/-- The state with a wait of an instruction answered, when its firing still waits for that request (R63, R170); the answer for a firing that was killed goes to the
push it had issued (R124, R183). -/
def State.wakeAwait (s : State) (o : Origin) (id : Nat) (a : Await) : State :=
  let x := (s.coreAt o.k).ctxAt o.h
  if x.fir.fid = o.fid && x.aw = .sent id then s.modCtxAt o.k o.h fun x => { x with aw := a }
  else match a with
    | .replied true _ ws => s.feedLast id (ws.getD 0 0).toNat
    | .replied false .. => s.dropLast id
    | _ => s

/-- The state without the record of a vector instruction's lanes once all of them have been answered (R110). -/
def State.batchDone (s : State) (b : Nat) : State :=
  if List.all s.svcs fun e => !(e.2.batch == some b) || decide (3 ≤ e.2.st) then { s with svcs := s.svcs.filter fun e => !(e.2.batch == some b) } else s

/-- The state after a lane of a vector instruction has failed (R110): its producer fails and its cause is raised at the next boundary, once for the
instruction and each cause, with the address of the first lane that has failed by then (notes/assumptions/135.md). -/
def State.laneFails (s : State) (id : Nat) (v : Svc) (b : Nat) : State :=
  let told := List.find? (fun (e : Nat × Svc) => e.2.batch == some b && e.2.st == 3 && e.2.cause == v.cause) s.svcs
  let s := match v.pend with
    | some q => s.failPend v.org.k v.org.h q
    | none => s
  let s := s.putSvc id { v with st := 3 }
  State.batchDone (match told with
    | none => s.pendCause v.org v.cause v.va
    | some (i, t) => if i < id then s else s.modCtxAt v.org.k v.org.h fun x =>
      { x with causes := x.causes.map fun e => if e == (v.cause, t.va) then (v.cause, v.va) else e }) b

/-- Whether what a waiter waits for has come about (R152, R189, R190). -/
def State.waiterReady (s : State) (w : Waiter) : Bool :=
  let w0 := s.wordAt w.obj 0
  let w1 := s.wordAt w.obj 1
  match w.kind with
  | 0 => bits w0 32 32 != w.gen
  | 1 => queueBad w0 w1 || diff32 (bits w0 0 32) (bits w1 32 32) != bits w0 32 32
  | _ => queueBad w0 w1 || bits w1 0 32 != bits w1 32 32

/-- The state in which a context's registered waiter is told again, when its condition has changed already (R170). -/
def State.wakeReady (s : State) (k : Nat) (h : Bool) : State :=
  match s.waiters.find? fun w => w.k == k && w.h == h with
  | some w => if s.waiterReady w then s.post (if w.kind = 0 then .bwake k h else .wake k h) else s
  | none => s

/-- SERVICE_REPLY_ARRIVAL (R63, R70, R110, R170). -/
def doServiceReplyArrival (id : Nat) (s : State) : Option State :=
  match Tab.find? s.svcs id with
  | none => none
  | some v =>
    if v.st != 2 then none
    else
      let gone := { s with svcs := Tab.erase s.svcs id }
      if v.lost then some gone
      else if v.await then
        some (if v.ok && v.reply.isEmpty then (gone.wakeAwait v.org id .asleep).wakeReady v.org.k v.org.h
          else gone.wakeAwait v.org id (.replied v.ok v.cause v.reply))
      else if v.ok then
        let s := match v.pend with
          | some q =>
            let r := v.conv.of (leBytes v.ask.size (v.reply.getD 0 0).toNat)
            gone.feed v.org.k v.org.h q r.1 r.2
          | none => gone
        some (match v.batch with
          | some b => s.batchDone b
          | none => s)
      else match v.batch with
        | some b => some (s.laneFails id v b)
        | none =>
          let s := match v.pend with
            | some q => gone.failPend v.org.k v.org.h q
            | none => gone
          some (s.pendCause v.org v.cause v.va)

/-- The state with a registered waiter of a context told that its condition changed: its instruction repeats its request (R170). One whose empty reply is
still on its way is told when that has come. -/
def State.tell (s : State) (k : Nat) (h barrier : Bool) : Option State :=
  match s.waiters.find? fun w => w.k == k && w.h == h && (w.kind == 0) == barrier with
  | none => none
  | some w =>
    if !s.waiterReady w then none
    else
      let x := (s.coreAt k).ctxAt h
      let s' := { s with waiters := s.waiters.filter (· != w) }
      if x.fir.fid = w.fid && x.aw.isSent then none
      else some (if x.fir.fid = w.fid && x.aw = .asleep then s'.modCtxAt k h fun x => { x with aw := .none } else s')

/-- ENGINE_WAKE (R170). -/
def doEngineWake (k : Nat) (h : Bool) (s : State) : Option State := s.tell k h false
/-- BARRIER_WAKE (R152). -/
def doBarrierWake (k : Nat) (h : Bool) (s : State) : Option State := s.tell k h true

/-- LEASE_GRANT (R179): a line that no CAM holds joins a CAM with room; a home that grants nothing performs the atomic itself. -/
def doLeaseGrant (cl line : Nat) (grant : Bool) (s : State) : Option State :=
  if !grant then some s
  else if (List.any s.clusters fun e => e.2.leases.contains line) || Config.camLines ≤ (s.clusterAt cl).leases.length then none
  else some (s.modCluster cl fun c => { c with leases := line :: c.leases })

/-- LEASE_EVICTION (R179): a full CAM gives back its least recently used line. -/
def doLeaseEviction (cl : Nat) (s : State) : Option State :=
  let c := s.clusterAt cl
  if c.leases.length < Config.camLines then none else some (s.modCluster cl fun c => { c with leases := c.leases.dropLast })

/-- LEASE_RECALL (R179). -/
def doLeaseRecall (line : Nat) (s : State) : Option State :=
  some { s with clusters := s.clusters.map fun e => (e.1, { e.2 with leases := e.2.leases.filter (· != line) }) }

/-- The state with a queue row's write done (R189): performed, or failed with a cause, which its pusher raises. -/
def State.rowDone (s : State) (id : Nat) (r : RowWrite) (bad : Option Cause) : State :=
  let s := match bad with
    | some c => s.writeFailed r.org c r.va
    | none => s
  if r.live then { s with rows := Tab.set s.rows id { r with done := true } }.publish r.hdr s.rows.length
  else { s with rows := Tab.erase s.rows id }

/-- QUEUE_ROW_PERFORMED (R189): the row is written as the pushing core's write; a row that its target refuses counts as done, one of another package
when it is acknowledged or has failed (R299). A row of a stopped die waits (R358), up to its deadline (R365). -/
def doQueueRowPerformed (id : Nat) (s : State) : Option State :=
  match Tab.find? s.rows id with
  | none => none
  | some r =>
    let bs := leBytes 8 r.val.toNat
    if r.done || s.stalled r.spot 8 true then none
    else if r.abroad then match s.outFor (.row id) with
      | none =>
        let s := ((s.flush r.org.k).modCore r.org.k fun c => c.dropLines r.org.part r.org.job (addrOf r.va) 8).unfill r.org.k (sameLine r.va)
        some (s.startOut (.row id) r.org (Reach.abroad { spot := r.spot, cnt := r.cnt } r.va bs) |>.post (.row id))
      | some _ => (s.outEnded (.row id)).map fun bad => (s.dropOut (.row id)).rowDone id r (bad.map (·.1))
    else
      match (s.needsDie r.org.k r.spot false).filter (s.dieWaits r.org.k r.spot) with
      | some d => if s.deadlineOf r.sent (r.org.k / 512) d ≤ s.time.toNat then some (s.rowDone id r (some .crossDieTimeout)) else none
      | none =>
        let bad := match r.spot with
          | .far cl off => s.farBad r.org cl off 8
          | _ => none
        match bad with
        | some c => some (s.rowDone id r (some c))
        | none =>
          let s := s.counted r.org { spot := r.spot, cnt := r.cnt } 8
          some ((((s.flush r.org.k).applyAll (r.spot.dests bs)).modCore r.org.k fun c => c.dropLines r.org.part r.org.job (addrOf r.va) 8).rowDone id r none)

/-- MESSAGE_VALIDATION (R162). -/
def execMessageValidation (id : Nat) (s : State) : Out := act (doMessageValidation id s) s
/-- MESSAGE_PLACEMENT (R163). -/
def execMessagePlacement (id : Nat) (s : State) : Out := act (doMessagePlacement id s) s
/-- ERROR_REPLY_ARRIVAL (R162). -/
def execErrorReplyArrival (id : Nat) (s : State) : Out := act (doErrorReplyArrival id s) s
/-- SERVICE_REQUEST (R170). -/
def execServiceRequest (id : Nat) (s : State) : Out := act (doServiceRequest id s) s
/-- SERVICE_REPLY_ARRIVAL (R110). -/
def execServiceReplyArrival (id : Nat) (s : State) : Out := act (doServiceReplyArrival id s) s
/-- ENGINE_WAKE (R170). -/
def execEngineWake (k : Nat) (h : Bool) (s : State) : Out := act (doEngineWake k h s) s
/-- ATOMIC_ENGINE_SERVE (R178). -/
def execAtomicEngineServe (cl : Nat) (s : State) : Out := act (doAtomicEngineServe cl s) s
/-- LEASE_GRANT (R179). -/
def execLeaseGrant (cl line : Nat) (grant : Bool) (s : State) : Out := act (doLeaseGrant cl line grant s) s
/-- LEASE_EVICTION (R179). -/
def execLeaseEviction (cl : Nat) (s : State) : Out := act (doLeaseEviction cl s) s
/-- LEASE_RECALL (R179). -/
def execLeaseRecall (line : Nat) (s : State) : Out := act (doLeaseRecall line s) s
/-- QUEUE_ROW_PERFORMED (R189). -/
def execQueueRowPerformed (id : Nat) (s : State) : Out := act (doQueueRowPerformed id s) s
/-- BARRIER_WAKE (R152). -/
def execBarrierWake (k : Nat) (h : Bool) (s : State) : Out := act (doBarrierWake k h s) s

end Sys2Proof.Machine
end

