-- ==== Sys2Proof/Machine/Traps.lean ====
section
/-! DEFINITION. Faults as they reach a core (R319, R322, R327, R328, R330, R365): FAULT_DELIVERY, PARK, PARKED_FIRING_RESUME,
COMPLETION_INTO_FRAME, QUARANTINE, WATCHDOG_EXPIRY, WFM_TIMEOUT, CROSS_DIE_DEADLINE. -/

namespace Sys2Proof.Machine

/-- Whether the cause due on a core parks its firing. -/
def Core.parks (c : Core) : Bool :=
  match c.faultDue with
  | some (cs, _) => cs.disposition == .park
  | none => false

/-- FAULT_DELIVERY (R319). -/
def doFaultDelivery (k : Nat) (s : State) : Option State := if (s.coreAt k).parks then none else s.tryFault k
/-- PARK (R322). -/
def doPark (k : Nat) (s : State) : Option State := if (s.coreAt k).parks then s.tryFault k else none

/-- PARKED_FIRING_RESUME (R164, R322): the ready firing that is due on a core whose L context is free and has its egress slots. An absent frame page is
waited for. -/
def doParkedFiringResume (k src slot : Nat) (s : State) : Option State :=
  let c := s.coreAt k
  if c.l.fir.active || c.h.fir.active || c.faultDue.isSome || c.pageWait.isSome || s.lStopped k
      || ((s.dueFiring k).map fun r => (r.1, r.2.1)) != some (src, slot) then none
  else
    let sl := Tab.get (s.coreAt src).slots slot {}
    if !s.egressFits k false sl.fir.prod sl.fir.fid then none else
    match s.restoreFiring k src slot false with
    | .ok s => some s
    | .dead c va => some (s.killGroup sl.fir.gid c va)
    | .page c va =>
      let o : Origin := { k := k, fid := sl.fir.fid, gid := sl.fir.gid, part := sl.fir.part, job := sl.fir.job }
      (s.faultNotice o c va).map fun s => s.modCore src fun x => { x with
        slots := Tab.set x.slots slot { sl with st := 2, page := pageOfVa va } }

/-- A block with a completion's words at one of its four slots. -/
def blockWith (i : Nat) (ws : List Word) (b : List Word) : List Word := b.take (8 * i) ++ ws ++ b.drop (8 * i + 8)

/-- The block of invocation records with the record of a tag answered (R307, R317). -/
def recordsWith (tag code : Nat) (b : List Word) : List Word :=
  (b.zipIdx).map fun e => if 12 ≤ e.2 && e.2 < 20 && bits e.1.toNat 0 18 == 65536 + tag then BitVec.ofNat 64 (code * 2 ^ 24 + 2 * 2 ^ 16 + tag) else e.1

/-- A completion written into an image at a slot, and the invocation record that it answers (R307, R319): the blocks stand as the tag area in memory
says. -/
def State.writeCompl (s : State) (o : Origin) (va tagVa : Word) (nblocks : Nat) (old : List Nat) (b0 i : Nat) (f : FrameCompl) :
    Except (Cause × Word) State := do
  let codes ← s.savedCodes o tagVa nblocks old
  let n := b0 + 28 + i / 4
  let s ← s.editBlock o va tagVa codes n (blockWith (i % 4) f.words)
  if f.src = 8 then
    s.editBlock o va tagVa (listSet codes n 2) (b0 + 7)
      (recordsWith (bits (f.words.getD 1 0).toNat 32 16) (bits (f.words.getD 2 0).toNat 0 8))
  else pure s

/-- The blocks of an image that a completion rewrites. -/
def complBlocks (b0 i src : Nat) : List Nat := (b0 + 28 + i / 4) :: (if src = 8 then [b0 + 7] else [])

/-- The completion slots of an image with a completion placed. -/
def placedIn (ca : List CSlot) (id : Nat) (m : Msg) : List CSlot := ca.map fun x => if x.id == id then { x with msg := some m } else x

/-- The L state with the invocation record of a tag answered (R307). -/
def LState.replied (l : LState) (tag code : Nat) : LState :=
  { l with invs := l.invs.map fun r => if r.tag == tag && r.st == 1 then { r with st := 2, code := code } else r }

/-- The state after a write into an image: done, or waiting for a page, or its group killed (R315, R319). -/
def State.complOutcome (s : State) (id : Nat) (f : FrameCompl) (o : Origin) (r : Except (Cause × Word) State) (done : State → State) : Option State :=
  match r with
  | .ok s => some { done s with frameCompls := Tab.erase s.frameCompls id }
  | .error (c, va) =>
    if c == .loadPageFault || c == .storePageFault then
      (s.faultNotice o c va).map fun s => { s with frameCompls := Tab.set s.frameCompls id { f with page := some (pageOfVa va) } }
    else some ({ s with frameCompls := Tab.erase s.frameCompls id }.killGroup o.gid c va)

/-- The firing slot that holds a reservation: on the core it was last known on, or on a core of its group. -/
def State.slotHolding (s : State) (ks : List Nat) (id : Nat) : Option (Nat × Nat × Slot) :=
  ks.findSome? fun k => (List.find? (fun (e : Nat × Slot) => e.2.st != 0 && e.2.ca.any (·.id == id)) (s.coreAt k).slots).map fun e => (k, e.1, e.2)

/-- COMPLETION_INTO_FRAME (R319): into the image, or to the area of the core on which its firing runs again. One for a firing that is parked
within a group's image waits. -/
def doCompletionIntoFrame (id : Nat) (s : State) : Option State :=
  match Tab.find? s.frameCompls id with
  | none => none
  | some f =>
    if f.page.isSome then none else
    let gid := f.gid
    let g := s.groupAt gid
    let o : Origin := { k := g.cores.getD 0 f.k, gid := gid, part := g.part, job := g.job, sup := true }
    let (t, s) := s.moment
    let m := fun (fid : Nat) => ({ words := f.words, job := g.job, gid := gid, fid := fid, ord := t, src := f.src } : Msg)
    let im := g.img.getD {}
    let ri := Tab.get im.ranks f.slot {}
    match s.slotHolding (f.k :: g.cores) f.id with
    | some (k, n, sl) =>
      let i := (sl.ca.findIdx? (·.id == f.id)).getD 0
      let va := s.imageVa k n
      s.complOutcome id f o (s.writeCompl o va (va + 0x2000) 32 sl.codes 0 i f) fun s => s.modCore k fun c => { c with
        slots := Tab.set c.slots n { sl with
          ca := placedIn sl.ca f.id (m sl.fir.fid), codes := (complBlocks 0 i f.src).foldl (fun cs n => listSet cs n 2) sl.codes } }
    | none =>
      if f.grp.isSome && g.img.isSome && ri.slot.ca.any (·.id == f.id) then
        let i := (ri.slot.ca.findIdx? (·.id == f.id)).getD 0
        let b0 := rankBlock + 32 * f.slot
        let codes := (List.range groupBlocks).map fun n => Tab.get g.codes n 0
        s.complOutcome id f o (s.writeCompl o im.va (im.va + 0xBFD00) groupBlocks codes b0 i f) fun s => s.modGroup gid fun g => { g with
          img := some { im with ranks := Tab.set im.ranks f.slot { ri with slot := { ri.slot with ca := placedIn ri.slot.ca f.id (m ri.slot.fir.fid) } } }
          codes := (complBlocks b0 i f.src).foldl (fun cs n => Tab.set cs n 2) g.codes }
      else if im.holdsParked f.id then none
      else
        let s := { s with frameCompls := Tab.erase s.frameCompls id }
        some (match (f.k :: g.cores).find? fun k => (s.coreAt k).ca.any (·.id == f.id) with
          | some k => s.modCore k fun c =>
              let c := { c with l := { c.l with wfm := true } }.setArea (placedIn c.ca f.id (m c.l.fir.fid))
              if f.src = 8 then { c with ls := c.ls.replied (bits (f.words.getD 1 0).toNat 32 16) (bits (f.words.getD 2 0).toNat 0 8) }.touch [7] else c
          | none => s)

/-- The mesh coordinate word of a core, as a kill by CORE_QUARANTINED reports it (R19, R329). -/
def State.meshTval (s : State) (g : Nat) (k : Nat) : Word := BitVec.ofNat 64 (s.meshWord (s.groupAt g).part k)

/-- The state with a cluster retired for a core of it (R11): its resident groups are killed or run again, and every partition is told (R379 event
3). -/
def State.retireCluster (s : State) (k : Nat) : State :=
  let cl := k / 8
  let s := s.modCluster cl fun c => { c with retired := true }
  let s := (s.residents cl).foldl (fun s e => s.killGroup e.1 .coreQuarantined (s.meshTval e.1 k)) s
  s.packageEvent 3 (cl / 64) (cl % 512)

/-- The groups that have state in a core's private memory or mailbox (R68, R327): the bound one, those of queued messages, the one whose data the H
area keeps. A parked firing's state is in its frame. -/
def State.groupOnCore (s : State) (k : Nat) : List Nat :=
  let c := s.coreAt k
  (c.bound.toList ++ c.dataH.toList ++ ((c.hq ++ c.lq).filter fun m => !m.sup).map (·.gid)).eraseDups

/-- Whether a core's contexts can be read out for a quarantine re-run (R46, R125, R167). -/
def State.rerunReady (s : State) (k : Nat) : Bool :=
  let c := s.coreAt k
  !c.h.fir.active && c.h.pend.isEmpty && s.saveReady k

/-- The state with the contexts of a core restored on its new position (R125, R130, R327): stream items and their failures are read again, and so
is a repeat body. -/
def State.rerunCore (s : State) (k : Nat) : State :=
  let s := (List.range 4).foldl (fun s i => s.dropLines (.port k i)) s
  let s := s.modCore k fun c => { c with
    ls := { c.ls with ports := c.ls.ports.map fun e => (e.1, { e.2 with pre := [] }), rep := { c.ls.rep with words := [] } } }
  s.wantItems k

/-- The group whose firing owns a register of a core: `reg` is the register as for code 6, and 1,024 more in the H bank (R327). -/
def State.regOwner (s : State) (k reg : Nat) : Option Nat :=
  let x := (s.coreAt k).ctxAt (decide (1024 ≤ reg))
  if x.fir.active then some x.fir.gid else none

/-- QUARANTINE (R11, R327): `site` 0 control, 1 a register, 2 private memory or mailbox; `second` a second error during the read-out. The
remap keeps every logical position. -/
def doQuarantine (k site reg : Nat) (second : Bool) (s : State) : Option State :=
  let cl := k / 8
  let row := k % 8 / 4
  if (s.clusterAt cl).spareUsed.contains row then some (s.retireCluster k)
  else if site = 0 && !second && !s.rerunReady k then none
  else
    let s := s.modCluster cl fun c => { c with spareUsed := row :: c.spareUsed }
    let s := s.coldL1 k
    some (if site = 0 && !second then s.rerunCore k
      else if site = 1 then (match s.regOwner k reg with
        | some g => s.killGroup g .uncorrectableRegister (BitVec.ofNat 64 (reg % 1024))
        | none => s)
      else (s.groupOnCore k).foldl (fun s g => s.killGroup g .coreQuarantined (s.meshTval g k)) s)

/-- Whether an instruction is a blocking form (R42). -/
def blockingForm : Instr → Bool
  | .sendw .. | .sendaw .. | .recvw .. | .bwait .. | .qpushw .. | .qpopw .. | .spawnw .. | .invkw .. | .waitb .. | .mxsync .. => true
  | _ => false

/-- Whether a context has waited 1 ms at its instruction (R330, R373). -/
def State.waitedLong (s : State) (k : Nat) (h : Bool) : Bool :=
  match ((s.coreAt k).ctxAt h).waitAt with
  | some t => decide (t + 1000000 ≤ s.time.toNat)
  | none => false

/-- Whether a word is that of a blocking form; WAITB by its cell and op number (R33, R42). -/
def blockingWord (w : BitVec 32) : Bool :=
  match pickBody w with
  | .ok i => blockingForm i
  | .error _ => (fld w 0 7).toNat == 91 && (fld w 12 3).toNat == 5 && (fld w 28 4).toNat == 3

/-- The word at which a context waits (R330). -/
def State.waitingAt (s : State) (k : Nat) (h : Bool) : Option (BitVec 32) :=
  let x := (s.coreAt k).ctxAt h
  match s.fetchWord { k := k, h := h, fid := x.fir.fid, gid := x.fir.gid, part := x.fir.part, job := x.fir.job, sup := x.fir.sup } x.pc with
  | .ok (w, _) => some w
  | .error _ => none

/-- Whether a word may name the register of a port in one of its register fields. -/
def Port.namedBy (p : Port) (w : BitVec 32) : Bool :=
  if p.isV then [7, 15, 20].any fun lo => (fld w lo 4).toNat == p.reg else [7, 15, 20, 27].any fun lo => (fld w lo 5).toNat == p.reg

/-- Whether a pop or a push of a port would wait now (R121, R122). -/
def State.portWaits (s : State) (i : Nat) (p : Port) : Bool :=
  if p.isRead then (match s.nextItem i p with
    | .wait _ | .far .. => true
    | .got .. => false)
  else decide (Config.portDepth ≤ p.pushes.length) || (match (s.itemAddr i s.org p p.pos).1.2 with
    | .wait _ | .far .. => true
    | _ => false)

/-- Whether the instruction of a word waits on a stream in the L context of a core (R330). -/
def State.streamWait (s : State) (k : Nat) (w : BitVec 32) : Bool :=
  let s := { s with cur := k }
  (s.ls.ports.any fun e => e.2.bnd && e.2.namedBy w && s.portWaits e.1 e.2)
    || (match pickBody w with
      | .ok (.sdrain a) => !(s.portAt a.toNat).pushes.isEmpty
      | .ok (.sfree a) => !(s.portAt a.toNat).pushes.isEmpty
      | _ => false)

/-- Whether what waits on a core may wait behind a page service (R330): a command, a chain step or a tile of its cluster waits for a page, or a walk of its die
for a walker that the faults of others hold (R339). -/
def State.behindPage (s : State) (k : Nat) : Bool :=
  let c := s.clusterAt (k / 8)
  c.dealer.any (·.page.isSome) || c.eng.any (·.page.isSome) || s.walkersFull (k / 512)
    || List.any c.rings fun e => match e.2.sub with
      | some x => x.page.isSome
      | none => false

/-- Whether a send of a firing waits at its target for room in a queue, which no rule bounds (R163). -/
def State.sendStuck (s : State) (fid gid : Nat) : Bool := List.any s.flights fun e => e.2.st == 1 && e.2.org.fid == fid && e.2.org.gid == gid

/-- Whether a word ends or returns from a firing, which waits for its sends and its pushes (R168, R321). -/
def endingWord (w : BitVec 32) : Bool :=
  match pickBody w with
  | .ok .endF => true
  | .ok .rearm => true
  | .ok .tret => true
  | _ => false

/-- Whether the save of a core's due fault waits for what no rule bounds (R319, R322): a slot that a resumption frees, a push, room in the notice queue, an
egress slot of a send that its target holds. -/
def State.saveHeld (s : State) (k : Nat) (cs : Cause) : Bool :=
  let c := s.coreAt k
  c.freeSlot.isNone || (c.ls.ports.any fun e => !e.2.pushes.isEmpty) || (cs.disposition == .park && !(s.partAt c.l.fir.part).ntqRoom)
    || List.any s.flights fun e => e.2.st == 1 && e.2.org.k == k

/-- Whether a context's wait is one that the watchdog bounds (R330): not a blocking form, a page service, nor a wait on a stream or a barrier. -/
def State.boundedWait (s : State) (k : Nat) (h : Bool) : Bool :=
  let x := (s.coreAt k).ctxAt h
  if s.behindPage k then false
  else match (if h then none else (s.coreAt k).faultDue) with
    | some (cs, _) => !s.saveHeld k cs
    | none => match s.waitingAt k h with
      | some w => !blockingWord w && !(!h && s.streamWait k w)
          && !(endingWord w && (s.sendStuck x.fir.fid x.fir.gid || (!h && (s.coreAt k).ls.ports.any fun e => !e.2.pushes.isEmpty)))
      | none => false

/-- WATCHDOG_EXPIRY (R330): the group is killed, and the cluster logs it for the driver. A core in a single step is abandoned instead (R373). -/
def doWatchdogExpiry (k : Nat) (h : Bool) (s : State) : Option State :=
  let c := s.coreAt k
  let x := c.ctxAt h
  if !x.fir.active || c.pageWait.isSome || !s.waitedLong k h || (!h && (c.h.fir.active || s.lStopped k || c.step == 1)) || !s.boundedWait k h then none
  else some ((s.modCluster (k / 8) fun c => { c with log := c.log ++ [(s.time.toNat, k, x.pc)] }).killGroup x.fir.gid .watchdog x.pc)

/-- WFM_TIMEOUT (R328): a WFM that has waited 4,096 die cycles completes. -/
def doWfmTimeout (k : Nat) (h : Bool) (s : State) : Option State :=
  let x := (s.coreAt k).ctxAt h
  match x.wfmAt with
  | none => none
  | some t =>
    if !x.fir.active || (s.cycles x.fir.part k).toNat < t + 4096 then none
    else some (s.modCtxAt k h fun x => { x with wfm := true })

/-- The die that a core's access to a global address waits for (R6), if it is another die. -/
def State.farHome (s : State) (o : Origin) (va : Word) : Option Nat :=
  match s.xlate o (addrOf va) .load with
  | .ok (pg, _) => (match pg.loc with
    | .hbm pa => if s.homeOf pa = o.k / 512 then none else some (s.homeOf pa)
    | _ => none)
  | .error _ => none

/-- The first address that a producer reads at its home on another die, and the die. -/
def State.pendHome (s : State) (o : Origin) (q : Pend) : Option (Word × Nat) :=
  (if q.more.isEmpty then [q.addr] else q.more).findSome? fun p => (s.farHome o p).map fun d => (p, d)

/-- A load or a store of a core that still waits for another die, by its name: its issuer, address, die and tick. A load that has lanes from elsewhere to come
waits for a home only while that stands still. -/
def State.farRequest (s : State) (id : Nat) : Option (Origin × Word × Nat × Nat × Bool) :=
  s.cores.findSome? fun (e : Nat × Core) =>
    let org := fun (x : Ctx) (h : Bool) => ({ k := e.1, h := h, fid := x.fir.fid, gid := x.fir.gid, part := x.fir.part, job := x.fir.job, sup := true } : Origin)
    let pend := fun (h : Bool) => ((e.2.ctxAt h).pend.find? (·.id == id)).bind fun q =>
      ((s.pendHome (org (e.2.ctxAt h) h) q).filter fun x => q.wait == 0 || s.dieStopped x.2).map fun x => (org (e.2.ctxAt h) h, x.1, x.2, q.sent, true)
    let store := (e.2.stores.find? fun x => x.id == id && !x.away).bind fun x =>
      (s.farHome (org e.2.l false) x.va).map fun d => ({ org e.2.l false with fid := x.fid }, x.va, d, x.sent, false)
    ((pend false).orElse fun _ => pend true).orElse fun _ => store

/-- The state with a request that its engine holds performed later for nobody: its issuer stops waiting for it (R183, R365). -/
def State.leaveRequest (s : State) (id : Nat) (v : Svc) : State :=
  if v.st != 1 then s
  else
    let n := s.nextId
    ({ s with nextId := n + 1 }.putSvc n { v with await := false, pend := none, batch := none, lost := true }).modCluster v.cl fun c => { c with
      amoQ := c.amoQ.map fun x => if x == id then n else x }

/-- CROSS_DIE_DEADLINE (R365): a request to another die that has had no reply. One that has reached its engine is still performed whole; a write that
is under way may not have been performed. -/
def doCrossDieDeadline (id : Nat) (s : State) : Option State :=
  match Tab.find? s.svcs id with
  | some v =>
    if v.cl / 64 = v.org.k / 512 || 3 ≤ v.st || v.lost || s.time.toNat < s.deadlineOf v.sent (v.org.k / 512) (v.cl / 64) then none
    else
      let s := s.leaveRequest id v
      let gone := { s with svcs := Tab.erase s.svcs id }
      if v.await then some (gone.wakeAwait v.org id (.replied false .crossDieTimeout []))
      else match v.batch with
        | some b => some (s.laneFails id { v with cause := .crossDieTimeout } b)
        | none =>
          let s := match v.pend with
            | some q => gone.failPend v.org.k v.org.h q
            | none => gone
          some (s.pendCause v.org .crossDieTimeout v.va)
  | none => match s.farRequest id with
    | none => none
    | some (o, va, d, sent, rd) =>
      if s.time.toNat < s.deadlineOf sent (o.k / 512) d then none
      else
        let s := if rd then s.failPend o.k o.h id else s.modCore o.k fun c => { c with stores := c.stores.filter (·.id != id) }
        some (s.pendCause o .crossDieTimeout va)

/-- FAULT_DELIVERY (R319). -/
def execFaultDelivery (k : Nat) (s : State) : Out := act (doFaultDelivery k s) s
/-- PARK (R322). -/
def execPark (k : Nat) (s : State) : Out := act (doPark k s) s
/-- PARKED_FIRING_RESUME (R322). -/
def execParkedFiringResume (k src slot : Nat) (s : State) : Out := act (doParkedFiringResume k src slot s) s
/-- COMPLETION_INTO_FRAME (R319). -/
def execCompletionIntoFrame (id : Nat) (s : State) : Out := act (doCompletionIntoFrame id s) s
/-- QUARANTINE (R327). -/
def execQuarantine (k site reg : Nat) (second : Bool) (s : State) : Out := act (doQuarantine k site reg second s) s
/-- WATCHDOG_EXPIRY (R330). -/
def execWatchdogExpiry (k : Nat) (h : Bool) (s : State) : Out := act (doWatchdogExpiry k h s) s
/-- WFM_TIMEOUT (R328). -/
def execWfmTimeout (k : Nat) (h : Bool) (s : State) : Out := act (doWfmTimeout k h s) s
/-- CROSS_DIE_DEADLINE (R365). -/
def execCrossDieDeadline (id : Nat) (s : State) : Out := act (doCrossDieDeadline id s) s

end Sys2Proof.Machine
end

