-- ==== Sys2Proof/Machine/Paging.lean ====
section
/-! DEFINITION. Translation and its system software (R238, R339, R340, R342, R347, R349): ENGINE_SELF_TEST, TLB_WALK,
TLB_INVALIDATION_APPLY, CSR_PROPAGATION, PAGE_READY, GROW_ALLOTMENT. -/

namespace Sys2Proof.Machine

/-- ENGINE_SELF_TEST (R238): commands that waited arrive; a failed test retires the cluster. -/
def doEngineSelfTest (cl : Nat) (ok : Bool) (s : State) : Option State :=
  let c := s.clusterAt cl
  if !c.selfTest then none
  else
    let s := s.modCluster cl fun c => { c with selfTest := false }
    let s := c.eng.foldl (fun s e => s.post (if e.arrived then e.act cl else .engArrive cl)) s
    some (if ok then s else s.retireCluster (cl * 8))

/-- TLB_WALK (R339): a walk that finds a leaf fills the TLB; the access that missed reports a walk that does not (R337, R347). -/
def doTlbWalk (cl job : Nat) (va : Word) (s : State) : Option State :=
  match Tab.find? s.quads (cl / 64 * 4 + quadOf (cl % 64)) with
  | none => none
  | some p =>
    if s.walkersFull (cl / 64) then none else
    let a := addrOf va
    let (w, ws) := s.dieWalk p job a 3 (s.rootOf p job) (s.dieAt (cl / 64)).walks
    let s := s.modDie (cl / 64) fun d => { d with walks := ws }
    match w with
    | .leaf size pa pte mask => some (s.tlbFill cl (s.tlbEntry p job a ((s.partAt p).aperOf a) size pa pte mask))
    | _ => some s

/-- Whether an invalidation removes a TLB entry (R342, R346). -/
def Inval.hits (v : Inval) (e : Tlb) : Bool :=
  let a := v.va.toNat
  e.part == v.part && (match v.kind with
    | 0 => e.job == v.job && decide (e.va ≤ a) && decide (a < e.va + e.size)
    | 1 => e.job == v.job
    | 2 => true
    | _ => decide (e.va < a + v.len) && decide (a < e.va + e.size))

/-- Whether an invalidation covers an address of a job by itself: its page, its job, its partition, its range. -/
def Inval.covers (v : Inval) (p job va : Nat) : Bool :=
  p == v.part && (match v.kind with
    | 0 => job == v.job && va / 4096 == v.va.toNat / 4096
    | 1 => job == v.job
    | 2 => true
    | _ => decide (v.va.toNat ≤ va) && decide (va < v.va.toNat + v.len))

/-- Whether an invalidation removes an entry of a page-walk cache: one on a path to what it names (R339, R342). -/
def Inval.hitsWalk (v : Inval) (e : WalkEnt) : Bool :=
  let a := v.va.toNat
  let size := 2 ^ (12 + 9 * e.lvl)
  e.part == v.part && (match v.kind with
    | 0 => e.job == v.job && decide (e.va ≤ a) && decide (a < e.va + size)
    | 1 => e.job == v.job
    | 2 => true
    | _ => decide (e.va < a + v.len) && decide (a < e.va + size))

/-- Whether an invalidation concerns an address in a cluster: by itself, or as the TLB there holds a run that it removes. -/
def State.removes (s : State) (v : Inval) (cl p job va : Nat) : Bool :=
  v.covers p job va || (s.clusterAt cl).tlb.any fun e => v.hits e && e.part == p && e.job == job && decide (e.va ≤ va) && decide (va < e.va + e.size)

/-- Whether an access that an invalidation concerns is under way in a cluster (R343): one of `underWay`, the link of a chain step that has started, or a
store whose home stands still (R358). -/
def State.usesRun (s : State) (v : Inval) (cl : Nat) : Bool :=
  s.underWay cl (s.removes v cl)
    || ((List.range 8).any fun i => (s.coreAt (cl * 8 + i)).stores.any fun x => !x.away && s.storeWaits (cl * 8 + i) x)
    || (s.clusterAt cl).eng.any fun e => e.started && e.pieces.any fun p => s.removes v cl e.org.part e.org.job (addrOf p.va)

/-- The state with an invalidation applied to a cluster (R342): TLB entries, page-walk cache entries and L1 lines go; the stores under way are
performed (R343). No L1 line outlives the TLB entry of its run (R338). A link that a chain step has yet to read is translated anew. -/
def State.applyInval (s : State) (v : Inval) (cl : Nat) : State :=
  let s := (List.range 8).foldl (fun s i => if (Tab.find? s.cores (cl * 8 + i)).isSome then s.flush (cl * 8 + i) else s) s
  let out := fun (x : L1Line) => s.removes v cl x.part x.job x.va
  let stale := fun (e : ECmd) => e.pieces.any fun p => s.removes v cl e.org.part e.org.job (addrOf p.va)
  let s := s.dropL1 cl out
  let s := s.modDie (cl / 64) fun d => { d with walks := d.walks.filter fun e => !v.hitsWalk e }
  s.modCluster cl fun c => { c with
    tlb := c.tlb.filter fun e => !v.hits e
    eng := c.eng.map fun e => if !e.started && stale e then { e with link := none } else e }

/-- TLB_INVALIDATION_APPLY (R342, R343): at every target, once no access that it concerns is under way there. -/
def doTlbInvalidationApply (id : Nat) (s : State) : Option State :=
  match Tab.find? s.invals id with
  | none => none
  | some v =>
    if v.cls.any (s.usesRun v) then none
    else some { v.cls.foldl (fun s cl => s.applyInval v cl) s with invals := Tab.erase s.invals id }

/-- CSR_PROPAGATION (R340): what was written is in effect in every cluster. -/
def doCsrPropagation (p : Nat) (s : State) : Option State :=
  let s := s.modPart p fun pt => { pt with csr := pt.csrNew }
  some { s with cores := s.cores.map fun e => if s.clusterIn p (e.1 / 8) then (e.1, { e.2 with csrWait := [] }) else e }

/-- The state with the result of a partition command (R378). -/
def State.cmdResult (s : State) (p r : Nat) : State := s.modPart p fun pt => { pt with pstat := r, busy := 0 }

/-- Whether a wait for a page is over. -/
def pageIs (w : Option Word) (pg : Word) : Bool := w == some pg

/-- The firing slots of a core with the parked firings of a job that wait for a page ready (R322, R347). -/
def Core.pageSlots (c : Core) (job : Nat) (pg : Word) (t : Nat) : Tab Slot :=
  c.slots.map fun e => if e.2.st == 2 && e.2.page == pg && e.2.fir.job == job then (e.1, { e.2 with st := 3, ready := t }) else e

/-- A core after a page became ready for a job: what waited for it in place waits anew (R330). -/
def Core.pageReady (c : Core) (job : Nat) (pg : Word) (t : Nat) (now : Nat) : Core :=
  let c := { c with slots := c.pageSlots job pg t }
  if pageIs c.pageWait pg && c.ctx.fir.job == job then
    { c with pageWait := none, l := { c.l with waitAt := c.l.waitAt.map fun _ => now }, h := { c.h with waitAt := c.h.waitAt.map fun _ => now } }
  else c

/-- The cluster's commands, tiles and chain steps that waited for a page go on (R199, R215, R271, R347). -/
def State.pageCluster (s : State) (cl job : Nat) (pg : Word) : State :=
  let c := s.clusterAt cl
  let s := c.dealer.foldl (fun s d => if pageIs d.page pg && d.org.job == job then s.post (.copyDone cl d.id) else s) s
  let s := c.eng.foldl (fun s e => if pageIs e.page pg && e.org.job == job then s.post (.chainStart cl) else s) s
  let s := c.rings.foldl (fun s e => match e.2.sub with
    | some x => if pageIs x.page pg && x.org.job == job then s.post (if x.out then .outlet cl e.1 else .spring cl e.1) else s
    | none => s) s
  s.modCluster cl fun c => { c with
    dealer := c.dealer.map fun d => if pageIs d.page pg && d.org.job == job then { d with page := none } else d
    eng := c.eng.map fun e => if pageIs e.page pg && e.org.job == job then { e with page := none } else e
    rings := c.rings.map fun e => (e.1, { e.2 with sub := e.2.sub.map fun x => if pageIs x.page pg && x.org.job == job then { x with page := none } else x }) }

/-- The groups of a job on a cluster whose frame waited for a page go on (R315). -/
def State.pageGroups (s : State) (cl job : Nat) (pg : Word) : State :=
  (List.filter (fun (e : Nat × Group) => pageIs e.2.page pg && e.2.job == job && s.clusterIn e.2.part cl && (e.2.st == 1 || e.2.cl == cl)) s.groups).foldl (fun s e =>
    let s := s.modGroup e.1 fun g => { g with page := none }
    s.post (if e.2.st = 1 then .placement e.2.part e.2.vdie else if e.2.st = 2 then .preempt e.1 else .resumeGroup e.1)) s

/-- The completions of a job on their way into images of a cluster that waited for a page (R319). -/
def State.pageCompls (s : State) (cl job : Nat) (pg : Word) : State :=
  (List.filter (fun (e : Nat × FrameCompl) =>
      let g := s.groupAt e.2.gid
      pageIs e.2.page pg && g.job == job && s.clusterIn g.part cl && g.cores.getD 0 e.2.k / 8 == cl) s.frameCompls).foldl (fun s e =>
    { s with frameCompls := Tab.set s.frameCompls e.1 { e.2 with page := none } }.post (.frameCompl e.1)) s

/-- The state in which everything of a job on a cluster that waits for a page is ready (R347). -/
def State.pageReadyAt (s : State) (cl job : Nat) (pg : Word) : State :=
  let (t, s) := s.moment
  let s := (List.range 8).foldl (fun s i => match Tab.find? s.cores (cl * 8 + i) with
    | none => s
    | some c => s.putCore (cl * 8 + i) (c.pageReady job pg t s.time.toNat)) s
  ((s.pageCluster cl job pg).pageGroups cl job pg).pageCompls cl job pg

/-- A page-ready notice of a partition (R326, R347): `a` names the cluster, `b` the job and the page. -/
def State.pageNotice (s : State) (p : Nat) (a b : Word) : State :=
  match s.clusterOf p (bits a.toNat 6 3) (bits a.toNat 0 6) with
  | none => s.cmdResult p 2
  | some cl => (s.pageReadyAt cl (bits b.toNat 48 16) (BitVec.ofNat 64 (bits b.toNat 12 36 * 4096))).cmdResult p 0

/-- PAGE_READY (R347, R378): a shadow partition's is held until it resumes (R326). -/
def doPageReady (p : Nat) (s : State) : Option State :=
  let pt := s.partAt p
  if pt.shadow then some ((s.modPart p fun pt => { pt with heldPages := pt.heldPages ++ [(pt.parg0, pt.parg1)] }).cmdResult p 0)
  else some (s.pageNotice p pt.parg0 pt.parg1)

/-- The group that a driver names: job, launch id and group number. -/
def State.namedGroup (s : State) (p job lid num : Nat) : Option (Nat × Group) :=
  List.find? (fun (e : Nat × Group) => e.2.part == p && e.2.job == job && e.2.num == num && decide (e.2.st ≤ 3)
    && (s.launchAt e.2.launch).lid == lid) s.groups

/-- GROW_ALLOTMENT (R326, R349): refused for a group of a shadow partition, which no cluster holds. -/
def doGrowAllotment (p : Nat) (s : State) : Option State :=
  let a := (s.partAt p).parg0.toNat
  let n := bits a 0 16
  match s.namedGroup p (bits a 48 16) (bits a 32 16) (bits a 16 16) with
  | none => some (s.cmdResult p 2)
  | some (gid, g) =>
    let b := g.base / 4096
    let ks := s.keepers g.cl (!(s.launchAt g.launch).pri)
    let others := ((s.residents g.cl).filter fun e => e.1 != gid).map (·.2) ++ ks
    if (s.partAt p).shadow || g.st != 2 || g.stopping || n ≤ g.units || (s.partAt p).csr.lim < n || 128 < b + n
        || others.any fun o => decide (o.base / 4096 < b + n) && decide (b + g.units < o.base / 4096 + o.units) then some (s.cmdResult p 1)
    else
      let s := s.modGroup gid fun g => { g with units := n }
      let hi := 0xFFFFE0000000 + g.base + n * 4096
      some ((g.cores.foldl (fun s k => s.modCore k fun c => { c with priv := Memory.writeN c.priv 96 (leBytes 8 hi) }) s).cmdResult p 0)

/-- ENGINE_SELF_TEST (R238). -/
def execEngineSelfTest (cl : Nat) (ok : Bool) (s : State) : Out := act (doEngineSelfTest cl ok s) s
/-- TLB_WALK (R339). -/
def execTlbWalk (cl job : Nat) (va : Word) (s : State) : Out := act (doTlbWalk cl job va s) s
/-- TLB_INVALIDATION_APPLY (R342). -/
def execTlbInvalidationApply (id : Nat) (s : State) : Out := act (doTlbInvalidationApply id s) s
/-- CSR_PROPAGATION (R340). -/
def execCsrPropagation (p : Nat) (s : State) : Out := act (doCsrPropagation p s) s
/-- PAGE_READY (R347). -/
def execPageReady (p : Nat) (s : State) : Out := act (doPageReady p s) s
/-- GROW_ALLOTMENT (R349). -/
def execGrowAllotment (p : Nat) (s : State) : Out := act (doGrowAllotment p s) s

end Sys2Proof.Machine
end

