-- ==== Sys2Proof/Machine/Rekey.lean ====
section
/-! DEFINITION. A context moved to another socket keeps every virtual number (R18, R352); what names it by socket is named anew here. -/

namespace Sys2Proof.Machine

/-- A move of clusters: from one socket to another, and which clusters move. -/
structure Move where
  src : Nat
  dst : Nat
  quads : List Nat

/-- A cluster key after a move. -/
def Move.cl (m : Move) (cl : Nat) : Nat := if cl / 64 = m.src && m.quads.contains (quadOf (cl % 64)) then m.dst * 64 + cl % 64 else cl
/-- A core key after a move. -/
def Move.k (m : Move) (k : Nat) : Nat := m.cl (k / 8) * 8 + k % 8
/-- An issuer after a move. -/
def Move.org (m : Move) (o : Origin) : Origin := { o with k := m.k o.k }
/-- A place after a move. -/
def Move.loc (m : Move) (l : Loc) : Loc :=
  match l with
  | .scratch cl off => .scratch (m.cl cl) off
  | .priv k off => .priv (m.k k) off
  | l => l
/-- A spot after a move. -/
def Move.spot (m : Move) (sp : Spot) : Spot :=
  match sp with
  | .flat l => .flat (m.loc l)
  | .far cl off => .far (m.cl cl) off
  | sp => sp
/-- An engine command after a move: its issuer and the places of its link. -/
def Move.cmd (m : Move) (e : ECmd) : ECmd :=
  { e.via m.k with link := e.link.map fun l => l.map fun (va, sp, n, cnt) => (va, m.spot sp, n, cnt) }
/-- A cluster's state after a move. -/
def Move.cluster (m : Move) (c : Cluster) : Cluster :=
  { c with rings := c.rings.map fun e => (e.1, e.2.via m.k)
           score := c.score.map (Score.via m.k)
           dealer := c.dealer.map (DCmd.via m.k)
           eng := c.eng.map m.cmd }
/-- Where a write goes after a move. -/
def Move.dest (m : Move) (d : Dest) : Dest :=
  match d with
  | .at l bs => .at (m.loc l) bs
  | d => d
/-- A push after a move. -/
def Move.push (m : Move) (q : Push) : Push := { q with spots := q.spots.map m.spot }
/-- A core after a move, its own or another's: its posted stores and pushes go where the bytes are now. -/
def Move.core (m : Move) (c : Core) : Core :=
  { c with
    stores := c.stores.map fun x => { x with parts := x.parts.map m.dest }
    ls := { c.ls with ports := c.ls.ports.map fun e => (e.1, { e.2 with pushes := e.2.pushes.map m.push }) } }
/-- A group after a move. -/
def Move.group (m : Move) (g : Group) : Group :=
  { g with cl := m.cl g.cl, cores := g.cores.map m.k
           img := g.img.map (GImage.via m.k) }
/-- An agent after a move. -/
def Move.owner (m : Move) (o : Owner) : Owner :=
  match o with
  | .port k i => .port (m.k k) i
  | .push k i => .push (m.k k) i
  | .row id => .row id
  | .copy cl id => .copy (m.cl cl) id
  | .spring cl rg => .spring (m.cl cl) rg
  | .outlet cl rg => .outlet (m.cl cl) rg
/-- An owed act after a move. -/
def Move.act (m : Move) (a : Act) : Act :=
  match a with
  | .land k h reg => .land (m.k k) h reg
  | .ack k id => .ack (m.k k) id
  | .prefetch k port => .prefetch (m.k k) port
  | .push k port => .push (m.k k) port
  | .rep k => .rep (m.k k)
  | .impr k h => .impr (m.k k) h
  | .wake k h => .wake (m.k k) h
  | .bwake k h => .bwake (m.k k) h
  | .serve cl => .serve (m.cl cl)
  | .accept cl => .accept (m.cl cl)
  | .copyDone cl id => .copyDone (m.cl cl) id
  | .batchDone k => .batchDone (m.k k)
  | .retire cl id => .retire (m.cl cl) id
  | .spring cl rg => .spring (m.cl cl) rg
  | .outlet cl rg => .outlet (m.cl cl) rg
  | .engArrive cl => .engArrive (m.cl cl)
  | .stepStart cl => .stepStart (m.cl cl)
  | .stepRetire cl => .stepRetire (m.cl cl)
  | .mxzDone cl acc => .mxzDone (m.cl cl) acc
  | .mxrdDone cl acc => .mxrdDone (m.cl cl) acc
  | .mxwrDone cl acc => .mxwrDone (m.cl cl) acc
  | .vaccDone cl acc => .vaccDone (m.cl cl) acc
  | .syncDone cl id => .syncDone (m.cl cl) id
  | .mxcmpDone cl => .mxcmpDone (m.cl cl)
  | .chainStart cl => .chainStart (m.cl cl)
  | .chainRetire cl => .chainRetire (m.cl cl)
  | .fault k => .fault (m.k k)
  | .park k => .park (m.k k)
  | .resume k src slot => .resume (m.k k) (m.k src) slot
  | .selfTest cl => .selfTest (m.cl cl)
  | .watchdog k h => .watchdog (m.k k) h
  | .wfmEnd k h => .wfmEnd (m.k k) h
  | a => a
/-- A turn after a move. -/
def Move.turn (m : Move) (t : Turn) : Turn :=
  match t with
  | .act a => .act (m.act a)
  | .core k => .core (m.k k)
  | t => t

/-- A table with its keys and entries moved; the keys are put in order again. -/
def Move.tab {α : Type} (f : Nat → Nat) (g : α → α) (t : Tab α) : Tab α := t.foldl (fun t e => Tab.set t (f e.1) (g e.2)) []

/-- The state after a move. -/
def Move.state (m : Move) (s : State) : State :=
  { s with
    cur := m.k s.cur
    turns := s.turns.map m.turn
    cores := Move.tab m.k m.core s.cores
    dies := s.dies.map fun e => (e.1, { e.2 with held := e.2.held.filter fun h => m.k (h.2.1 / 2) == h.2.1 / 2 })
    clusters := Move.tab m.cl m.cluster s.clusters
    groups := s.groups.map fun e => (e.1, m.group e.2)
    flights := s.flights.map fun e => (e.1, { e.2 with
      org := m.org e.2.org, dst := m.k e.2.dst, addr := e.2.addr.map fun a => (m.cl a.1, a.2) })
    svcs := s.svcs.map fun e => (e.1, { e.2 with org := m.org e.2.org, cl := m.cl e.2.cl })
    errs := s.errs.map fun e => (e.1, { e.2 with org := m.org e.2.org })
    invals := s.invals.map fun e => (e.1, { e.2 with org := m.org e.2.org, cls := e.2.cls.map m.cl })
    rows := s.rows.map fun e => (e.1, { e.2 with org := m.org e.2.org, hdr := m.loc e.2.hdr, spot := m.spot e.2.spot })
    waiters := s.waiters.map fun w => { w with obj := m.loc w.obj, k := m.k w.k }
    pkts := s.pkts.map fun e => (e.1, { e.2 with org := m.org e.2.org })
    awayLines := s.awayLines.map fun x => { x with own := m.owner x.own }
    awayOuts := s.awayOuts.map fun x => { x with own := m.owner x.own, org := m.org x.org }
    lastPushes := s.lastPushes.map fun l => { l with org := m.org l.org, push := m.push l.push }
    invReps := s.invReps.map fun e => (e.1, { e.2 with org := m.org e.2.org })
    frameCompls := s.frameCompls.map fun e => (e.1, { e.2 with k := m.k e.2.k }) }

end Sys2Proof.Machine
end

