-- ==== Sys2Proof/Machine/Dies.lean ====
section
/-! DEFINITION. Compute dies (R352 to R357, R363), the reservoir (R15, R326) and partitions (R20): FREQUENCY_STEP, FREQUENCY_STEP_STOP,
FREQUENCY_STEP_RESTART, FIRMWARE_FREQUENCY_STEP, VIRTUAL_DIE_REMAP, PARTITION_SWITCH, DIE_FAULT_OFFLINE, DIE_OFFLINE, DIE_ONLINE,
PARTITION_CREATION. -/

namespace Sys2Proof.Machine

/-- The virtual dies that a socket carries: partition and number. -/
def State.vdiesOn (s : State) (sk : Nat) : List (Nat × Nat) :=
  s.parts.flatMap fun e => (List.filter (fun (d : Nat × VDie) => d.2.sock == some sk) e.2.vdies).map fun d => (e.1, d.1)
/-- A virtual die of a partition. -/
def State.vd (s : State) (p v : Nat) : VDie := Tab.get (s.partAt p).vdies v {}
/-- The state with a virtual die changed. -/
def State.modVd (s : State) (p v : Nat) (f : VDie → VDie) : State :=
  s.modPart p fun pt => { pt with vdies := Tab.set pt.vdies v (f (Tab.get pt.vdies v {})) }

/-- The state with step-log entry `n` of a virtual die written, word 3 last (R363). -/
def State.logEntry (s : State) (p v n ta tb : Nat) : State :=
  let d := s.vd p v
  let at_ := (s.partAt p).steplog.toNat + 512 * v + 32 * (n % 16)
  let mult := (s.dieAt (d.sock.getD 0)).mult
  let s := (s.writeAt (.hbm at_) (leBytes 8 ta ++ leBytes 8 tb ++ leBytes 8 (d.cyc / 20))).writeNum (.hbm (at_ + 24)) 8 (n * 2 ^ 48 + mult)
  s.modVd p v fun d => { d with seq := BitVec.ofNat 16 n }

/-- The state with the next step-log entry of a virtual die written (R363). -/
def State.nextEntry (s : State) (p v ta tb : Nat) : State := s.logEntry p v ((s.vd p v).seq.toNat + 1) ta tb

/-- The state with a step or remap of a die announced (R357, R352): its allowance counts in the deadlines of R365. -/
def State.announce (s : State) (sk allow : Nat) : State :=
  s.modDie sk fun d => { d with anns := (s.time.toNat, allow) :: d.anns.filter fun e => decide (s.time.toNat < e.1 + 200000) }

/-- Whether a step of a die is deferred (R352, R357): another is under way, its last restart is less than 20 µs past, or it takes part in a remap. -/
def State.stepWaits (s : State) (sk : Nat) : Bool :=
  let d := s.dieAt sk
  d.next.isSome || s.socketMoving sk || (match d.restart with
    | some t => decide (s.time.toNat < t + 20000)
    | none => false)

/-- The state with the oldest deferred step of a die announced, when it no longer waits (R357). -/
def State.askedStep (s : State) (sk : Nat) : State :=
  match (s.dieAt sk).asked with
  | [] => s
  | m :: ms =>
    if s.stepWaits sk then s else (s.announce sk 1600).modDie sk fun d => { d with next := some m, ann := some s.time.toNat, asked := ms }

/-- A frequency step asked for (R354, R357): the state, and 0 announced or deferred, 1 refused, 2 invalid. -/
def State.askStep (s : State) (sk mult : Nat) : State × Nat :=
  let d := s.dieAt sk
  if mult < 16 || 50 < mult then (s, 2)
  else if !d.online || d.evac then (s, 1)
  else if s.stepWaits sk then (s.modDie sk fun d => { d with asked := d.asked ++ [mult] }, 0)
  else ((s.announce sk 1600).modDie sk fun d => { d with next := some mult, ann := some s.time.toNat }, 0)

/-- FREQUENCY_STEP (R357, R378). -/
def doFrequencyStep (p : Nat) (s : State) : Option State :=
  let a := (s.partAt p).parg0.toNat
  match s.sockOf p (bits a 0 3) with
  | none => some (s.cmdResult p 2)
  | some sk => let r := s.askStep sk (bits a 8 6)
    some (r.1.cmdResult p r.2)

/-- FIRMWARE_FREQUENCY_STEP (R357). -/
def doFirmwareFrequencyStep (sk mult : Nat) (s : State) : Option State :=
  let r := s.askStep sk mult
  if r.2 = 0 then some r.1 else none

/-- The counter of a die that stops at the first cycle boundary of the `e` ticks since its step fell due, in twentieths of a cycle (R357);
none while it has not come. -/
def stopCount (cyc mult e : Nat) : Option Nat :=
  if 2 < e then some (cyc / 20 * 20)
  else
    let b := (cyc - mult * e + 19) / 20 * 20
    if b ≤ cyc then some b else none

/-- FREQUENCY_STEP_STOP (R357): the stop tick is the tick at or after the stopping edge. -/
def doFrequencyStepStop (sk : Nat) (s : State) : Option State :=
  let d := s.dieAt sk
  match d.ann with
  | none => none
  | some t =>
    let now := s.time.toNat
    let vs := s.vdiesOn sk
    if !d.running || d.next.isNone || now < t + 1000
        || vs.any (fun v => (stopCount (s.vd v.1 v.2).cyc d.mult (now - (t + 1000))).isNone) then none
    else
      let s := vs.foldl (fun s v => s.modVd v.1 v.2 fun x => { x with cyc := (stopCount x.cyc d.mult (now - (t + 1000))).getD x.cyc, stop := now }) s
      some (s.modDie sk fun d => { d with running := false, ta := some now })

/-- FREQUENCY_STEP_RESTART (R357, R363): the log is written before the clock restarts; the counter has run since the restart tick. -/
def doFrequencyStepRestart (sk : Nat) (s : State) : Option State :=
  let d := s.dieAt sk
  match d.ta, d.next with
  | some t, some m =>
    if s.time.toNat < t + 1600 then none
    else
      let s := s.modDie sk fun d => { d with mult := m, running := true, next := none, ann := none, ta := none, restart := some (t + 1600) }
      some (State.settleLast ((s.vdiesOn sk).foldl (fun s v => (s.nextEntry v.1 v.2 t (t + 1600)).modVd v.1 v.2 fun x =>
        { x with cyc := x.cyc + (s.time.toNat - (t + 1600)) * m }) s))
  | _, _ => none

/-- Whether a core stands at an instruction boundary with every wait of R46, R125 and R147 over. -/
def State.coreQuiet (s : State) (k : Nat) : Bool :=
  let c := s.coreAt k
  [c.l, c.h].all (fun x => x.pend.isEmpty && (match x.aw with
      | .sent _ => false
      | .replied .. => false
      | _ => true) && (x.relWait.isNone || s.quiet k && s.quietAbroad k || c.stores.any (·.bad.isSome)))
    && c.stores.all (fun x => if x.away then x.bad.isSome else !s.storeWaits k x) && c.ls.ports.all fun e => e.2.pushes.isEmpty

/-- Whether everything that a halt waits for is over in clusters (R326, R352): started steps retired, messages and requests in flight placed. -/
def State.clustersQuiet (s : State) (cls : List Nat) : Bool :=
  let mine := fun (o : Origin) => cls.contains (o.k / 8)
  cls.all (fun cl => (s.clusterAt cl).eng.all (fun e => !e.started) && (s.clusterAt cl).amoQ.isEmpty
      && (List.range 8).all fun i => s.coreQuiet (cl * 8 + i))
    && List.all s.flights (fun (e : Nat × Flight) => e.2.st != 0 || !(mine e.2.org)) && List.all s.svcs (fun (e : Nat × Svc) => !(mine e.2.org))
    && List.all s.errs (fun (e : Nat × ErrRep) => !(mine e.2.org)) && List.all s.invals (fun (e : Nat × Inval) => !(mine e.2.org))
    && List.all s.rows (fun (e : Nat × RowWrite) => e.2.done || !(mine e.2.org))
    && List.all s.pkts (fun (e : Nat × Packet) => decide (6 ≤ e.2.kind) || !(mine e.2.org))
    && List.all s.frameCompls (fun (e : Nat × FrameCompl) => e.2.page.isSome || !(cls.contains (e.2.k / 8)))

/-- Whether everything that a halt waits for is over in a partition (R326): the messages to it have been placed too, where there is room. -/
def State.partQuiet (s : State) (p : Nat) : Bool :=
  s.clustersQuiet (s.clustersOf p) && List.all s.flights fun (e : Nat × Flight) => e.2.org.part != p || e.2.st != 0

/-- A cluster whose work in flight has become records (R220, R226); a command that is no longer accepted has no scoreboard entry (R205). -/
def Cluster.frozen (c : Cluster) : Cluster :=
  { c with
    rings := c.rings.map fun e => (e.1, e.2.recorded)
    dealer := c.dealer.map fun d => if d.page.isSome then d else { d with accepted := false, moved := false }
    score := c.score.filter fun x => (c.eng.any fun e => e.id == x.id) || c.dealer.any fun d => d.id == x.id && d.page.isSome
    eng := c.eng.map fun e => { e with arrived := false, retried := false, link := none }
    array := none, drain := [], leases := [] }

/-- A context at a halt: an instruction that sleeps issues again when its waiter goes. -/
def Ctx.frozen (x : Ctx) (sleeps : Bool) : Ctx :=
  { x with aw := match x.aw with
      | .sent _ => .none
      | .asleep => if sleeps then .asleep else .none
      | a => a }

/-- The cluster in which an agent works; a row is its header's. -/
def Owner.cluster (o : Owner) : Option Nat :=
  match o with
  | .port k _ | .push k _ => some (k / 8)
  | .row _ => none
  | .copy cl _ | .spring cl _ | .outlet cl _ => some cl

/-- The state with a cluster of a halted partition frozen (R15, R326): stores performed, leases written back, caches invalid. -/
def State.freeze (s : State) (sleeps : Bool) (cl : Nat) : State :=
  let s := (List.range 8).foldl (fun s i => match Tab.find? s.cores (cl * 8 + i) with
    | none => s
    | some _ => ((s.flush (cl * 8 + i)).coldL1 (cl * 8 + i)).modCore (cl * 8 + i) fun c =>
      { c with icache := [], l := c.l.frozen sleeps, h := c.h.frozen sleeps }) s
  let s := ((s.clusterAt cl).dealer.filter fun d => d.accepted && d.page.isNone).foldl State.clobber s
  let s := { s.modCluster cl Cluster.frozen with
    awayLines := s.awayLines.filter fun x => x.own.cluster != some cl
    awayOuts := s.awayOuts.map fun x => if x.own.cluster == some cl then { x with gone := true } else x }
  if sleeps then s else { s with waiters := s.waiters.filter fun w => w.k / 8 != cl }

/-- The state with the records of a cluster replayed (R326). -/
def State.thaw (s : State) (cl : Nat) : State :=
  let c := s.clusterAt cl
  let s := c.dealer.foldl (fun s _ => s.post (.accept cl)) s
  let s := c.eng.foldl (fun s _ => s.post (.engArrive cl)) s
  let s := c.rings.foldl (fun s e => match e.2.sub with
    | some x => s.post (if x.out then .outlet cl e.1 else .spring cl e.1)
    | none => s) s
  let s := s.flights.foldl (fun s e => if e.2.st == 1 && e.2.dst / 8 == cl then s.post (.place e.1) else s) s
  (List.range 8).foldl (fun s i =>
    let k := cl * 8 + i
    match Tab.find? s.cores k with
    | none => s
    | some c => ((if c.ls.rep.count = 0 then s else s.post (.rep k)).post (.batchDone k)).wantItems k) s

/-- The state with the placement of groups on every virtual die of a partition, and the resumption of its pre-empted groups, due. -/
def State.placeAll (s : State) (p : Nat) : State := (s.partAt p).vdieNums.foldl (fun s v => s.freedOn p v) s

/-- What a cluster keeps whatever context it holds: its retirement, its spares in use, its self-test, its watchdog's log (R11, R238, R330). -/
def Cluster.onPhys (c phys : Cluster) : Cluster :=
  { c with retired := phys.retired, spareUsed := phys.spareUsed, selfTest := phys.selfTest, log := phys.log, tlb := [] }

/-- What a core keeps whatever context a switch brings to it: its counters, which run from its leaving reset (R73, R158, R315). -/
def Core.onPhys (c phys : Core) : Core :=
  { c with instret := phys.instret, sendCtr := phys.sendCtr, invCtr := phys.invCtr, accCtr := phys.accCtr }

/-- The clusters of a quadrant of a socket. -/
def quadClusters (qk : Nat) : List Nat := ((List.range 64).filter fun c => quadOf c == qk % 4).map (qk / 4 * 64 + ·)

/-- Whether a quadrant of a socket is free: neither a partition nor a shadow image is there (R20, R326). -/
def State.quadFree (s : State) (qk : Nat) : Bool := (Tab.find? s.quads qk).isNone && (Tab.find? s.shadows qk).isNone

/-- Whether a socket can take over a virtual die (R352, R354): the same quadrants are free there, with no cluster retired that works here. -/
def State.takes (s : State) (p v src sk : Nat) : Bool :=
  let qs := (s.vd p v).quads
  s.dieOpen sk && sk != src && (s.dieAt sk).next.isNone && (s.vdieOf p sk).isNone && qs.all fun q =>
    s.quadFree (sk * 4 + q) && (Tab.find? s.shadows (src * 4 + q)).isNone && (quadClusters (sk * 4 + q)).all fun cl =>
      !(s.clusterAt cl).retired || (s.clusterAt (src * 64 + cl % 64)).retired

/-- Whether a virtual die may be remapped to a socket (R352). -/
def State.mayMove (s : State) (p v src sk : Nat) : Bool :=
  let pt := s.partAt p
  pt.made && !pt.shadow && !pt.halted && (s.dieAt src).next.isNone && !s.socketMoving src && !s.socketMoving sk && s.takes p v src sk

/-- The state with a remap of a virtual die announced and its quadrants on the old socket halted (R352). -/
def State.startMove (s : State) (p v src sk : Nat) : State :=
  ((s.announce src 50000).announce sk 50000).modVd p v fun d => { d with dest := some sk, stop := s.time.toNat }

/-- The state with a virtual die moved to another socket and resumed there (R352, R363). -/
def State.moveDie (s : State) (p v src sk : Nat) : State :=
  let d := s.vd p v
  let m : Move := { src := src, dst := sk, quads := d.quads }
  let cls := d.quads.flatMap fun q => quadClusters (src * 4 + q)
  let old := s.clusters
  let s := cls.foldl (fun s cl => s.freeze true cl) s
  let s := m.state { s with clusters := s.clusters.filter fun e => !(d.quads.any fun q => (quadClusters (sk * 4 + q)).contains e.1) }
  let s := cls.foldl (fun s cl =>
    let s := s.modCluster (m.cl cl) fun c => c.onPhys (Tab.get old (m.cl cl) {})
    s.putCluster cl (({} : Cluster).onPhys (Tab.get old cl {}))) s
  let s := { s with quads := d.quads.foldl (fun t q => Tab.set (Tab.erase t (src * 4 + q)) (sk * 4 + q) p) s.quads }
  let s := s.modVd p v fun d => { d with sock := some sk, dest := none }
  let s := s.nextEntry p v d.stop s.time.toNat
  ((cls.map m.cl).foldl State.thaw s).placeAll p

/-- VIRTUAL_DIE_REMAP (R352): announced and halted first, moved once every wait is over. -/
def doVirtualDieRemap (p v sk : Nat) (s : State) : Option State :=
  let d := s.vd p v
  match d.sock with
  | none => none
  | some src =>
    if d.dest == some sk then (if s.clustersQuiet (d.quads.flatMap fun q => quadClusters (src * 4 + q)) then some (s.moveDie p v src sk) else none)
    else if (s.dieAt src).evac || !s.mayMove p v src sk then none
    else some ((s.startMove p v src sk).post (.remap p v sk))

/-- The state with a quadrant's context and its shadow's exchanged (R15, R326). -/
def State.exchange (s : State) (qk : Nat) : State :=
  let cls := quadClusters qk
  let sh := Tab.get s.shadows qk {}
  let wait := fun (e : Nat × FrameCompl) => e.2.page.isSome && cls.contains (e.2.k / 8)
  let was := s.clusters
  let mine := List.filter (fun (e : Nat × Core) => cls.contains (e.1 / 8)) s.cores
  let kept := List.filter (fun (e : Nat × Core) => !cls.contains (e.1 / 8)) s.cores
  let comps := List.filter (fun (e : Nat × FrameCompl) => !wait e) s.frameCompls
  let out : Shadow := {
    part := Tab.get s.quads qk 0, cls := List.filter (fun (e : Nat × Cluster) => cls.contains e.1) s.clusters, cores := mine
    compls := List.filter wait s.frameCompls }
  { s with
    clusters := cls.foldl (fun t cl => Tab.set t cl { (Tab.get sh.cls cl {}).onPhys (Tab.get was cl {}) with accCtr := (Tab.get was cl {}).accCtr }) s.clusters
    cores := mine.foldl (fun t (e : Nat × Core) => Tab.set t e.1 ((Tab.get t e.1 {}).onPhys e.2)) (sh.cores.foldl (fun t (e : Nat × Core) => Tab.set t e.1 e.2) kept)
    frameCompls := sh.compls.foldl (fun t (e : Nat × FrameCompl) => Tab.set t e.1 e.2) comps
    shadows := if (Tab.find? s.quads qk).isSome then Tab.set s.shadows qk out else Tab.erase s.shadows qk
    quads := if (Tab.find? s.shadows qk).isSome then Tab.set s.quads qk sh.part else Tab.erase s.quads qk }

/-- The one partition of a list of quadrants in a table, if it is the same for all. -/
def onePart (of : Nat → Option Nat) : List Nat → Option (Option Nat)
  | [] => none
  | [q] => some (of q)
  | q :: qs => match onePart of qs with
    | some r => if of q == r then some r else none
    | none => none

/-- The quadrants that a table of partitions gives to one. -/
def quadsOf (t : Tab Nat) (p : Nat) : List Nat := (List.filter (fun (e : Nat × Nat) => e.2 == p) t).map (·.1)

/-- What a partition switch exchanges (R326, R378): the quadrants of the mask, all of them the outgoing partition's and the incoming one's. -/
def State.switchOf (s : State) (p : Nat) : Option (List Nat × Option Nat × Option Nat) :=
  let mask := (s.partAt p).parg0.toNat
  let qs := (List.range 32).filter fun q => bitAt mask q
  let shParts : Tab Nat := s.shadows.map fun (e : Nat × Shadow) => (e.1, e.2.part)
  match onePart (fun q => Tab.find? s.quads q) qs, onePart (fun q => Tab.find? shParts q) qs with
  | some o, some i =>
    let whole := fun (t : Tab Nat) (x : Option Nat) => match x with
      | some x => quadsOf t x == qs
      | none => true
    if decide (mask < 4294967296) && (o == some p || i == some p) && whole s.quads o && whole shParts i then some (qs, o, i) else none
  | _, _ => none

/-- The state with the page-ready notices held for a partition delivered (R326). -/
def State.deliverHeld (s : State) (i : Nat) : State :=
  let pt := s.partAt i
  let s := pt.heldPages.foldl (fun s e => s.pageNotice i e.1 e.2) s
  s.modPart i fun x => { x with heldPages := [], pstat := pt.pstat, busy := pt.busy }

/-- The state with the incoming partition resumed (R326). -/
def State.resumePart (s : State) (i : Nat) : State :=
  let s := s.modPart i fun pt => { pt with shadow := false }
  ((((s.clustersOf i).foldl State.thaw s).deliverHeld i).placeAll i)

/-- The state with the outgoing partition in the reservoir and the incoming one resumed (R326). -/
def State.switchNow (s : State) (qs : List Nat) (o i : Option Nat) : State :=
  let s := match o with
    | some o => ((s.clustersOf o).foldl (fun s cl => s.freeze false cl) s).modPart o fun pt => { pt with shadow := true, halted := false }
    | none => s
  let s := qs.foldl State.exchange s
  match i with
  | some i => s.resumePart i
  | none => s

/-- PARTITION_SWITCH (R326, R378): the outgoing partition halts first. -/
def doPartitionSwitch (p : Nat) (s : State) : Option State :=
  match s.switchOf p with
  | none => some (s.cmdResult p 2)
  | some (qs, o, i) => match o with
    | none => some ((s.switchNow qs none i).cmdResult p 0)
    | some out =>
      let pt := s.partAt out
      if List.any pt.vdies (fun (e : Nat × VDie) => e.2.dest.isSome) then none
      else if !pt.halted then some ((s.modPart out fun pt => { pt with halted := true }).post (.cmd p 5))
      else if !s.partQuiet out then none
      else some ((s.switchNow qs o i).cmdResult p 0)

/-- DIE_FAULT_OFFLINE (R354 stage 1): steps not yet announced are dropped. It waits while the socket takes part in a remap (R352). -/
def doDieFaultOffline (sk : Nat) (s : State) : Option State :=
  let d := s.dieAt sk
  if !d.online || d.evac then none
  else if s.socketMoving sk then some (s.post (.faultOff sk))
  else some ((s.modDie sk fun d => { d with evac := true, halting := false, asked := [] }).post (.dieOff sk))

/-- DIE_OFFLINE (R354, R378): the result comes when the die is off. -/
def doDieOffline (p : Nat) (s : State) : Option State :=
  match s.sockOf p (bits (s.partAt p).parg0.toNat 0 3) with
  | none => some (s.cmdResult p 2)
  | some sk => match doDieFaultOffline sk s with
    | none => some (s.cmdResult p 1)
    | some s => some (s.modPart p fun pt => { pt with busy := 4 + 16 * sk })

/-- The state with the parked firings of a saved group taken into its image, their frames where they are (R353, R354). -/
def State.takeParked (s : State) (gid : Nat) : State :=
  let g := s.groupAt gid
  g.cores.zipIdx.foldl (fun s e =>
    let mine : Tab Slot := (List.filter (fun (x : Nat × Slot) => x.2.st != 0 && x.2.fir.gid == gid) (s.coreAt e.1).slots).map fun x =>
      (x.1, { x.2 with va := some (s.imageVa e.1 x.1) })
    let s := s.modGroup gid fun g => { g with img := g.img.map fun im =>
      { im with ranks := Tab.set im.ranks e.2 { Tab.get im.ranks e.2 {} with parked := mine } } }
    s.modCore e.1 fun c => { c with slots := List.filter (fun (x : Nat × Slot) => !(x.2.fir.gid == gid)) c.slots }) s

/-- The groups of a state on the clusters of a socket: resident, or pre-empted there. -/
def State.groupsOnDie (s : State) (sk st : Nat) : List (Nat × Group) := List.filter (fun (e : Nat × Group) => e.2.st == st && e.2.cl / 64 == sk) s.groups

/-- The groups in the ready queues of a die. -/
def State.queuedOn (s : State) (sk : Nat) : List Nat :=
  (s.vdiesOn sk).flatMap fun v => (Tab.get s.ready (readyKey v.1 v.2 true) [] ++ Tab.get s.ready (readyKey v.1 v.2 false) []).filter fun g => (s.groupAt g).st == 1

/-- The pre-empted groups of a die. -/
def State.savedGroups (s : State) (sk : Nat) : List Nat := ((s.groupsOnDie sk 3).filter fun e => e.2.img.isSome).map (·.1)

/-- Stages 3 and 4 of R354 on what a die holds at rest: queued groups and pre-empted ones go to other dies, as affinity any. A group for which no
other die is open keeps its place until one is (R353: State.handStranded). -/
def State.moveGroups (s : State) (sk : Nat) : State :=
  let s := (s.queuedOn sk).foldl (fun s g => if s.mayRequeue g then s.requeue g else s) s
  let s := { s with launches := s.launches.map fun (e : Nat × Launch) =>
    if (s.vdiesOn sk).contains (e.2.part, e.2.aff) && e.2.st == 1 then (e.1, { e.2 with aff := 8 }) else e }
  (s.savedGroups sk).foldl (fun s g => if s.mayRequeue g || !s.elsewhere g then (s.takeParked g).requeue g else s) s

/-- Whether a group of a die waits for room on another (R354 stages 3 and 4). -/
def State.groupsWait (s : State) (sk : Nat) : Bool := (s.queuedOn sk ++ s.savedGroups sk).any s.elsewhere

/-- Whether a message or a request is on its way to a die and can be placed or performed there (R354 stage 4). -/
def State.inFlightTo (s : State) (sk : Nat) : Bool :=
  List.any s.svcs (fun (e : Nat × Svc) => e.2.cl / 64 == sk && decide (e.2.st ≤ 1))
    || List.any s.flights fun (e : Nat × Flight) => e.2.pkg.isNone && (match e.2.addr with
      | some a => if e.2.st = 0 then a.1 / 64 == sk else e.2.dst / 512 == sk && s.flightRoom e.2
      | none => e.2.dst / 512 == sk && (e.2.st == 0 || s.flightRoom e.2))

/-- The state with a resident group of a die at stage 4 saved, or told to stop; none while it waits (R354). -/
def State.stopGroup (s : State) (gid : Nat) : Option State :=
  let g := s.groupAt gid
  if !g.stopping then some (s.modGroup gid fun g => { g with stopping := true })
  else if g.page.isSome || !s.groupStops gid then none
  else match s.saveGroup gid with
    | .ok s => some s
    | .page c va => s.groupWaits gid c va
    | .dead c va => some (s.killGroup gid c va)

/-- The first group of a list that a die's stage 4 can take further. -/
def State.stopOne (s : State) : List (Nat × Group) → Option State
  | [] => none
  | e :: es => (s.stopGroup e.1).orElse fun _ => s.stopOne es

/-- A quadrant of a die whose shadow image holds resident groups (R326, R354). -/
def State.shadowFull (s : State) (sk : Nat) : Option Nat :=
  ((List.range 4).map (sk * 4 + ·)).find? fun qk => match Tab.find? s.shadows qk with
    | none => false
    | some sh => List.any s.groups fun (e : Nat × Group) => e.2.st == 2 && e.2.part == sh.part && (quadClusters qk).contains e.2.cl

/-- The lowest online die but one. -/
def State.otherDie (s : State) (sk : Nat) : Option Nat := (List.range 8).find? fun d => d != sk && (s.dieAt d).online

/-- Stages 5 and 6 of R354: leases, homes, requests that came while the clusters halted, the clock, the notice; the commands that asked for it end.
A message that found its queue full to the end, and whose group is not saved, is refused. -/
def State.dieGone (s : State) (sk : Nat) : State :=
  let now := s.time.toNat
  let vs := s.vdiesOn sk
  let s := { s with dies := (List.range 8).foldl (fun t d =>
    if s.homeOf (d * 2 ^ 36) = sk then Tab.set t d { Tab.get t d {} with home := s.otherDie sk } else t) s.dies }
  let s := s.modDie sk fun d => { d with online := false, evac := false, running := false, halting := false, next := none, ann := none, ta := none, asked := [] }
  let s := (List.filter (fun (e : Nat × Svc) => e.2.cl / 64 == sk && e.2.st == 1) s.svcs).foldl (fun s e => s.answer e.1 e.2 false .dieOffline []) s
  let s := (List.filter (fun (e : Nat × Flight) => e.2.pkg.isNone && e.2.dst / 512 == sk && (s.savedBox e.2).isNone) s.flights).foldl
    (fun s e => s.refuse e.1 e.2 .messageTargetInvalid) s
  let s := { s with
    clusters := s.clusters.map fun (e : Nat × Cluster) => if e.1 / 64 == sk then (e.1, ({} : Cluster).onPhys e.2) else e
    cores := List.filter (fun (e : Nat × Core) => e.1 / 512 != sk) s.cores
    shadows := List.filter (fun (e : Nat × Shadow) => e.1 / 4 != sk) s.shadows
    quads := List.filter (fun (e : Nat × Nat) => e.1 / 4 != sk) s.quads }
  let s := vs.foldl (fun s v => s.modVd v.1 v.2 fun d => { d with sock := none, stop := now }) s
  let s := s.packageEvent 1 sk 0
  s.parts.foldl (fun s e => if e.2.busy = 4 + 16 * sk then s.cmdResult e.1 0 else s) s

/-- The stages of R354 after the first, one at a time; none while one waits. -/
def State.offlineStep (s : State) (sk : Nat) : Option State :=
  let d := s.dieAt sk
  let vs := s.vdiesOn sk
  if !d.evac || d.next.isSome then none
  else if s.socketMoving sk then none
  else match vs.findSome? fun v => ((List.range 8).find? fun x => s.mayMove v.1 v.2 sk x).map fun x => (v, x) with
    | some (v, x) => some (((s.startMove v.1 v.2 sk x).post (.remap v.1 v.2 x)).post (.dieOff sk))
    | none =>
      if vs.any fun v => (s.partAt v.1).halted then none
      else
        let t := s.moveGroups sk
        if t.groups != s.groups then some (t.post (.dieOff sk))
        else if s.groupsWait sk then none
        else if !d.halting then
          (if s.inFlightTo sk then none else some ((s.modDie sk fun d => { d with halting := true }).post (.dieOff sk)))
        else match (s.groupsOnDie sk 2).filter fun e => s.clusterIn e.2.part e.2.cl with
        | e :: es => (s.stopOne (e :: es)).map fun s => s.post (.dieOff sk)
        | [] => match s.shadowFull sk with
          | some qk => some ((s.exchange qk).post (.dieOff sk))
          | none => some (t.dieGone sk)

/-- The state with an absent virtual die mapped to a socket, when its quadrants are free there (R356, R363). -/
def State.mapAbsent (s : State) (sk p v : Nat) : State :=
  let d := s.vd p v
  let pt := s.partAt p
  if !pt.made || pt.shadow || d.sock.isSome || (s.vdieOf p sk).isSome || d.quads.any fun q => !s.quadFree (sk * 4 + q) then s
  else
    let s := { s with quads := d.quads.foldl (fun t q => Tab.set t (sk * 4 + q) p) s.quads }
    ((s.modVd p v fun d => { d with sock := some sk }).nextEntry p v d.stop s.time.toNat).post (.placement p v)

/-- The state in which the die that holds the home of a stack gives it back: it drops its leases on the stack's lines, written back, first (R356). -/
def State.homeBack (s : State) (sk : Nat) : State :=
  match (s.dieAt sk).home with
  | none => s
  | some h => { s with clusters := s.clusters.map fun (e : Nat × Cluster) =>
      if e.1 / 64 = h then (e.1, { e.2 with leases := e.2.leases.filter fun l => l * 64 / 2 ^ 36 % 8 != sk }) else e }

/-- DIE_ONLINE (R356). -/
def doDieOnline (sk : Nat) (s : State) : Option State :=
  let d := s.dieAt sk
  if d.online || s.dev.power != 2 || 8 ≤ sk then none
  else
    let s := (s.homeBack sk).modDie sk fun d => { d with
      online := true, evac := false, halting := false, running := true, home := none, next := none, ann := none, ta := none, asked := [] }
    let s := s.parts.foldl (fun s e => e.2.vdieNums.foldl (fun s v => s.mapAbsent sk e.1 v) s) s
    let s := s.parts.foldl (fun s e => (e.2.vdieNums.filter fun v => (s.sockOf e.1 v).isNone).foldl (fun s v => s.postOnce (.placement e.1 v)) s) s
    some (s.packageEvent 2 sk 0)

/-- Whether a quadrant may be given to a new partition (R20, R383): one whose reservoir holds the image of a partition that is switched out may, by the model's
choice (notes/assumptions/143.md). -/
def State.quadOffered (s : State) (qk : Nat) : Bool :=
  qk < 32 && (Tab.find? s.quads qk).isNone && s.dieOpen (qk / 4)
    && decide (8 ≤ ((quadClusters qk).filter fun cl => !(s.clusterAt cl).retired).length)

/-- PARTITION_CREATION (R20, R340, R347, R363): virtual dies by ascending socket, counters and indices zero, step-log entry 0. -/
def doPartitionCreation (p : Nat) (quads : List Nat) (s : State) : Option State :=
  let pt := s.partAt p
  if 32 ≤ p || pt.made || quads.isEmpty || !distinct quads || !quads.all s.quadOffered then none
  else
    let sks := (List.range 8).filter fun sk => quads.any fun q => q / 4 == sk
    let vds : Tab VDie := sks.zipIdx.map fun e =>
      (e.2, { sock := some e.1, quads := (quads.filter fun q => q / 4 == e.1).map (· % 4), stop := s.time.toNat })
    let s := { s with quads := quads.foldl (fun t q => Tab.set t q p) s.quads }
    let s := s.modPart p fun pt => { pt with
      made := true, shadow := false, vdies := vds, sel := 0, csr := {}, csrNew := {}, ntqprod := 0, ntqcons := 0, overflow := false, halted := false }
    some (vds.foldl (fun s (e : Nat × VDie) => s.logEntry p e.1 0 s.time.toNat s.time.toNat) s)

/-- FREQUENCY_STEP (R357). -/
def execFrequencyStep (p : Nat) (s : State) : Out := act (doFrequencyStep p s) s
/-- FIRMWARE_FREQUENCY_STEP (R357). -/
def execFirmwareFrequencyStep (sk mult : Nat) (s : State) : Out := act (doFirmwareFrequencyStep sk mult s) s
/-- FREQUENCY_STEP_STOP (R357). -/
def execFrequencyStepStop (sk : Nat) (s : State) : Out := act (doFrequencyStepStop sk s) s
/-- FREQUENCY_STEP_RESTART (R357). -/
def execFrequencyStepRestart (sk : Nat) (s : State) : Out := act (doFrequencyStepRestart sk s) s
/-- VIRTUAL_DIE_REMAP (R352). -/
def execVirtualDieRemap (p v sk : Nat) (s : State) : Out := act (doVirtualDieRemap p v sk s) s
/-- PARTITION_SWITCH (R326). -/
def execPartitionSwitch (p : Nat) (s : State) : Out := act (doPartitionSwitch p s) s
/-- DIE_FAULT_OFFLINE (R354). -/
def execDieFaultOffline (sk : Nat) (s : State) : Out := act (doDieFaultOffline sk s) s
/-- DIE_OFFLINE (R354). -/
def execDieOffline (p : Nat) (s : State) : Out := act (doDieOffline p s) s
/-- DIE_ONLINE (R356). -/
def execDieOnline (sk : Nat) (s : State) : Out := act (doDieOnline sk s) s
/-- PARTITION_CREATION (R20). -/
def execPartitionCreation (p : Nat) (quads : List Nat) (s : State) : Out := act (doPartitionCreation p quads s) s

end Sys2Proof.Machine
end

