-- ==== Sys2Proof/Machine/Debug.lean ====
section
/-! DEFINITION. Debug pages (R368 to R373): DEBUG_ATTACH, DEBUG_DETACH, DEBUG_HALT, DEBUG_RUN, SINGLE_STEP, STEP_ABANDON. -/

namespace Sys2Proof.Machine

/-- A debug page. -/
def State.dpage (s : State) (pg : Nat) : DPage := Tab.get s.dpages pg {}
/-- The state with a debug page changed. -/
def State.modPage (s : State) (pg : Nat) (f : DPage → DPage) : State := { s with dpages := Tab.set s.dpages pg (f (s.dpage pg)) }

/-- The group that a target word names, if it is queued, resident or pre-empted (R368). -/
def State.debugTarget (s : State) (w : Nat) : Option Nat :=
  (List.find? (fun (e : Nat × Group) => decide (1 ≤ e.2.st) && decide (e.2.st ≤ 3) && e.2.job == bits w 48 16
    && (s.launchAt e.2.launch).lid == bits w 32 16 && e.2.num == bits w 16 16) s.groups).map (·.1)

/-- DEBUG_ATTACH (R368, R369). -/
def doDebugAttach (pg : Nat) (s : State) : Option State :=
  if 64 ≤ pg || (s.dpage pg).att then none
  else match s.debugTarget (s.dpage pg).dtgt.toNat with
    | none => none
    | some g =>
      if (s.pageOf g).isSome then none
      else some (s.modPage pg fun p => { p with
        att := true, gid := g, st := 1, cause := 0, crank := 0, stmo := false, gone := false, haltReq := false, stepping := false, dimg := [] })

/-- The firing slot of a core that a debug halt shows: the firing held there, else one that is parked (R372). -/
def Core.shown (c : Core) (gid : Nat) : Option Nat :=
  let of := fun (b : Slot → Bool) => (List.find? (fun (e : Nat × Slot) => b e.2 && e.2.fir.gid == gid) c.slots).map (·.1)
  (of fun x => x.st == 4).orElse fun _ => of fun x => x.st == 2 || x.st == 3

/-- The image addresses of a halted group by rank (R368, R372). -/
def State.shownImages (s : State) (gid : Nat) : Tab Word :=
  (s.groupAt gid).cores.zipIdx.filterMap fun e => ((s.coreAt e.1).shown gid).map fun i => (e.2, s.imageVa e.1 i)

/-- The cause that a held firing's image records: its own D cause, or 0 when it was merely held (R372). -/
def Core.haltCause (c : Core) : Option (Nat × Word × Word × Bool) :=
  match c.faultDue with
  | none => some (0, 0, zposOf 0 (if c.ls.rep.count = 0 then none else some c.ls.rep), true)
  | some (cs, tv, zp, prec) => if cs.disposition == .debug then some (cs.code, tv, zp, prec) else none

/-- The state with the running firing of a core of a halting group saved to a slot; none while it waits (R372). -/
def State.holdFiring (s : State) (gid k : Nat) : Option State :=
  let c := s.coreAt k
  if !c.l.fir.active || c.l.fir.gid != gid || c.h.fir.active || c.pageWait.isSome then none
  else match c.haltCause with
    | none => none
    | some (cs, tv, zp, prec) => match s.saveFiring k cs tv zp prec true 4 with
      | .wait => none
      | .page e va => some (s.waitPage (s.lOrg k) e va)
      | .dead e va => some (s.killGroup gid e va)
      | .ok _ s => some (s.modCore k fun c => { c with faultDue := none })

/-- The state with the images that a page shows named (R368, R372). -/
def State.showImages (s : State) (pg : Nat) : State := s.modPage pg fun p => { p with dimg := s.shownImages p.gid }

/-- The state with one firing of a halting group held. -/
def State.holdOne (s : State) (gid : Nat) : List Nat → Option State
  | [] => none
  | k :: ks => (s.holdFiring gid k).orElse fun _ => s.holdOne gid ks

/-- Whether no firing of a group runs on a core. -/
def Core.stillFor (c : Core) (gid : Nat) : Bool := !c.h.fir.active && !(c.l.fir.active && c.l.fir.gid == gid) && c.faultDue.isNone && c.pageWait.isNone

/-- The rest of a halt, one firing at a time (R372): the group is halted when none of its firings runs. -/
def State.haltStep (s : State) (pg : Nat) : Option State :=
  let p := s.dpage pg
  let g := s.groupAt p.gid
  if !p.att || p.st != 2 || g.st != 2 || !g.halted then none
  else if g.cores.all fun k => (s.coreAt k).stillFor p.gid then
    some (((s.showImages pg).modPage pg fun p => { p with st := 3 }).pauseLimit p.gid)
  else (s.holdOne p.gid g.cores).map fun s => (if (s.dpage pg).att then s.showImages pg else s).post (.halt pg)

/-- DEBUG_HALT (R372): a group that is not resident, or is being pre-empted, halts when it resumes. -/
def doDebugHalt (pg : Nat) (s : State) : Option State :=
  let p := s.dpage pg
  let g := s.groupAt p.gid
  if !p.att then none
  else if p.st = 1 then
    (if g.st = 2 && !g.stopping then some (s.haltGroup pg p.gid Cause.debugHaltRequest.code 0)
     else if p.haltReq then none else some (s.modPage pg fun p => { p with haltReq := true }))
  else s.haltStep pg

/-- What the restoring of held firings comes to. -/
inductive Held where
  | ok (s : State)
  | wait (s : State)
  | dead (s : State)

/-- A held firing of a core restored as TRET restores (R321, R372). -/
def State.restoreHeld (s : State) (gid k : Nat) : Held :=
  match List.find? (fun (e : Nat × Slot) => e.2.st == 4 && e.2.fir.gid == gid) (s.coreAt k).slots with
  | none => .ok s
  | some (i, sl) => match s.restoreFiring k k i true with
    | .ok s => .ok s
    | .dead c va => .dead (s.killGroup gid c va)
    | .page c va => .wait (s.waitPage { k := k, fid := sl.fir.fid, gid := gid, part := sl.fir.part, job := sl.fir.job } c va)

/-- The held firings of cores restored, one after another. -/
def State.restoreAll (s : State) (gid : Nat) : List Nat → Held
  | [] => .ok s
  | k :: ks => match s.restoreHeld gid k with
    | .ok s => s.restoreAll gid ks
    | r => r

/-- The state with a group released from its halt (R372): a fault that still waits on a core is delivered. -/
def State.release (s : State) (pg gid : Nat) : State :=
  let s := (s.modPage pg fun p => { p with st := 1, dimg := [], stepping := false }).modGroup gid fun g => { g with halted := false }
  let s := s.resumeLimit gid
  (s.groupAt gid).cores.foldl (fun s k =>
    let s := s.modCore k fun c => { c with step := 0 }
    if (s.coreAt k).faultDue.isSome then s.post (.fault k) else s) s

/-- The state after a resumption of a halted group, with `again` due when a frame page is absent. -/
def State.resumeHalted (s : State) (pg : Nat) (again : Act) : Option (State × Bool) :=
  let gid := (s.dpage pg).gid
  let ks := (s.groupAt gid).cores
  if ks.any fun k => (s.coreAt k).pageWait.isSome then none
  else match s.restoreAll gid ks with
    | .ok s => some (s.release pg gid, true)
    | .dead s => some (s, true)
    | .wait s => some (s.post again, false)

/-- DEBUG_RUN (R372). -/
def doDebugRun (pg : Nat) (s : State) : Option State :=
  let p := s.dpage pg
  if !p.att || p.st != 3 then none else (s.resumeHalted pg (.run pg)).map (·.1)

/-- DEBUG_DETACH (R369): a group that is halted, or in a step of a halt, is resumed first. -/
def doDebugDetach (pg : Nat) (s : State) : Option State :=
  let p := s.dpage pg
  let off := fun (s : State) => s.modPage pg fun p => { p with att := false, st := 0, haltReq := false, stepping := false, dimg := [] }
  if !p.att then none
  else if (s.groupAt p.gid).halted then (s.resumeHalted pg (.detach pg)).map fun r => if r.2 then off r.1 else r.1
  else some (off s)

/-- SINGLE_STEP (R373): a rank whose firing is not held ignores it. -/
def doSingleStep (pg : Nat) (s : State) : Option State :=
  let p := s.dpage pg
  match p.att && p.st == 3, (s.groupAt p.gid).cores[p.srank]? with
  | true, some k =>
    let c := s.coreAt k
    if c.pageWait.isSome || !(c.slots.any fun e => e.2.st == 4 && e.2.fir.gid == p.gid) then none
    else match s.restoreHeld p.gid k with
      | .dead s => some s
      | .wait s => some (s.post (.step pg))
      | .ok s =>
        let s := s.modPage pg fun p => { p with st := 1, stmo := false, stepping := true, dimg := Tab.erase p.dimg p.srank }
        some ((s.resumeLimit p.gid).modCore k fun c => { c with step := 1 })
  | _, _ => none

/-- STEP_ABANDON (R373): the instruction or instance of a step that has waited 1 ms is not issued; one that has issued a request completes first. -/
def doStepAbandon (pg : Nat) (s : State) : Option State :=
  let p := s.dpage pg
  match p.att && p.stepping, (s.groupAt p.gid).cores[p.srank]? with
  | true, some k =>
    let c := s.coreAt k
    match c.l.waitAt with
    | none => none
    | some t =>
      if c.step != 1 || !c.l.fir.active || c.l.aw.busy || s.time.toNat < t + 1000000 then none
      else
        let s := s.modCore k fun c => { c with l := { c.l with aw := c.l.aw.kept, waitAt := none, relWait := none, passed := 0 } }
        some ((s.stepHalt k).modPage pg fun p => { p with stmo := true })
  | _, _ => none

/-- DEBUG_ATTACH (R369). -/
def execDebugAttach (page : Nat) (s : State) : Out := act (doDebugAttach page s) s
/-- DEBUG_DETACH (R369): a group that is halted, or in a step of a halt, is resumed first. -/
def execDebugDetach (page : Nat) (s : State) : Out := act (doDebugDetach page s) s
/-- DEBUG_HALT (R372). -/
def execDebugHalt (page : Nat) (s : State) : Out := act (doDebugHalt page s) s
/-- DEBUG_RUN (R372). -/
def execDebugRun (page : Nat) (s : State) : Out := act (doDebugRun page s) s
/-- SINGLE_STEP (R373). -/
def execSingleStep (page : Nat) (s : State) : Out := act (doSingleStep page s) s
/-- STEP_ABANDON (R373). -/
def execStepAbandon (page : Nat) (s : State) : Out := act (doStepAbandon page s) s

end Sys2Proof.Machine
end

