-- ==== Sys2Proof/Machine/Invoke.lean ====
section
/-! DEFINITION. The invocation instructions (R304 to R308). -/

namespace Sys2Proof.Machine

/-- Whether the target word of an invocation breaks R305. -/
def invWordBad (n : Nat) : Bool :=
  bits n 62 2 != 0 || bitAt n 60 || bitAt n 35 || bits n 4 12 != 0 || bits n 32 3 == 7 || decide (9 ≤ bits n 0 4)

/-- The state with an invocation's packet sent (R296, R297, R306): to another package, or to this package's own I/O die, for the partition that
the table's entry names (R294). -/
def State.sendInvocation (s : State) (pkg : Nat) (tag aff : Nat) (msg : List Word) (slot : Nat) : State :=
  let o := s.org
  let ep := s.endpoint o
  let seq := s.me.invCtr.toNat
  let w1 := tag * 2 ^ 48 + o.job % 65536 * 2 ^ 32 + aff
  let (id, s) := s.moment
  let s := { s with invReps := Tab.set s.invReps id { org := o, tag := tag, seq := seq, slot := slot, pkg := pkg, sent := s.time.toNat } }
  if pkg = s.pkgId then
    let (n, s) := s.moment
    let w0 := envelope0 pkg pkg (s.rpart o.part pkg) 1 seq 0 ep
    { s with inbound := Tab.set s.inbound n { words := BitVec.ofNat 64 w0 :: BitVec.ofNat 64 w1 :: msg } }.post (.invArr n)
  else s.sendPacket { org := o, cls := 1, dpkg := pkg, seq := seq, kind := 5, tag := id } 0 ep w1 msg

/-- The placed reply to an invocation of a core, by its tag (R307). -/
def Core.replyOf (c : Core) (tag : Nat) : Option Msg :=
  (c.ca.filterMap (·.msg)).find? fun m => m.src == 8 && bits (m.words.getD 1 0).toNat 32 16 == tag

/-- INVKW waiting for its reply (R306): the reply is dequeued, an acquire of this core. -/
def awaitReply (d : BitVec 5) (tag : Nat) : M Unit := do
  let c ← me
  match c.replyOf tag with
  | none => holdKeep
  | some m => do
    upd fun s => s.dequeue m
    acquire
    updCtx fun x => { x with aw := .none }
    setX d (BitVec.ofNat 64 (bits (m.words.getD 2 0).toNat 0 8))

/-- INVK and INVKW (R306). One that waits for a record looks at the paths alone again once there is one; one that waits for its arguments or its release
looks at nothing again. -/
def invokeM (blocking : Bool) (imm7 : BitVec 7) (a d : BitVec 5) (w : BitVec 32) : M Unit := do
  noRepeat
  needL w
  if blocking then needLaunch w
  let x ← ctx
  match x.aw with
  | .invoked tag => awaitReply d tag
  | _ => do
    regs [(xr a, false)] [xr d]
    let t ← getX a
    let h ← selector imm7
    let n := t.toNat
    let tv := tgtWord t h
    let pkg := bits n 48 12
    let tag := bits n 16 16
    trapIf (h < 16) .handlerTableRange tv
    trapIf (invWordBad n) .invokeArguments tv
    let s ← get
    let first := !x.passedAll && x.passed == 0
    let full := decide (8 ≤ s.ls.invs.length)
    trapIf (first && !s.domainBit s.fir.part pkg 62) .invokeDenied tv
    trapIf (first && s.ls.invs.any fun r => r.tag == tag) .invokeArguments tv
    trapIf (first && !s.me.caRoom) .batchOverflow 16
    if !x.passedAll && !(full && !first) && pkg != s.pkgId && (s.workingPaths pkg).isEmpty then setX d 3
    else if full then do
      if blocking then holdPassed 1 else setX d 1
    else do
      argsLanded (bits n 32 3)
      let args ← argWords ((List.range (bits n 32 3)).map (10 + ·))
      if !(pkg == s.pkgId || s.mayIssue s.fir.part 0 (s.endpoint s.org) 1 s.me.invCtr.toNat) || !s.me.caRoom then holdPassed 2 else pure ()
      release true
      updLsIn [7] fun l => { l with invs := l.invs ++ [{ tag := tag, st := 1 }] }
      let slot ← reserveSlot 0 false
      let away := pkg != s.pkgId
      let hd := header s.me.invCtr.toNat (bits n 32 3) away 3 (bitAt n 61) false h (bits (s.meshWord s.fir.part s.cur) 0 32)
      let ws := hd :: padTo 6 0 args ++ [if away then BitVec.ofNat 64 s.pkgId else 0]
      upd fun s => s.sendInvocation pkg tag (bits n 0 4) ws slot
      updMe fun c => { c with invCtr := c.invCtr + 1 }
      if blocking then do
        updCtx fun x => { x with aw := .invoked tag }
        awaitReply d tag
      else setX d 0

/-- INVK (R306). -/
def execInvk (imm7 : BitVec 7) (a d : BitVec 5) (s : State) : Out := run (invokeM false imm7 a d (encode (.invk imm7 a d))) s
/-- INVKW (R306). -/
def execInvkw (imm7 : BitVec 7) (a d : BitVec 5) (s : State) : Out := run (invokeM true imm7 a d (encode (.invkw imm7 a d))) s

/-- RSTAT of an invocation record (R308). -/
def execRstatInvoke (eb1 : BitVec 1) (a d : BitVec 5) (s : State) : Out :=
  run (do
    noRepeat
    needL (encode (.rstatInvoke eb1 a d))
    regs [(xr a, ebOn eb1)] [xr d]
    let v ← getX a
    trapIf (v.toNat / 65536 != 0) .reservedField v
    let s ← get
    setX d (match s.ls.invs.find? fun r => r.tag == v.toNat with
      | none => 0
      | some r => BitVec.ofNat 64 ((if r.st = 2 then r.code * 256 else 0) + r.st))) s

end Sys2Proof.Machine
end

