-- ==== Sys2Proof/Machine/Fabric.lean ====
section
/-! DEFINITION. The scale-up fabric (R294 to R303, R307): FABRIC_PACKET_ARRIVAL, INVOCATION_ARRIVAL, REMOTE_ACCESS_ARRIVAL,
ACKNOWLEDGEMENT_ARRIVAL, INVOCATION_REPLY_ARRIVAL, INVOCATION_REPLY_TIMEOUT, FABRIC_RESEND, FABRIC_GIVE_UP, LINK_FAILURE,
DOMAIN_TABLE_UPDATE. The payloads of accesses and acknowledgements are the model's (notes/assumptions/12.md). -/

namespace Sys2Proof.Machine

/-- Whether a packet is discarded on arrival (R296): not for this package, reserved bits, a class that is never sent. -/
def State.packetBad (s : State) (ws : List Word) : Bool :=
  envF ws 0 52 12 != s.pkgId || envF ws 0 28 4 != 0 || envF ws 1 4 28 != 0 || decide (4 < envF ws 0 32 3)

/-- The state with an inbound message on its way to its target (R162, R295, R302): its target word stands in argument word 6's place, which from now on
holds the sender's package (notes/assumptions/12.md). A message that is refused is discarded and answered with its cause. -/
def State.inboundMessage (s : State) (ws : List Word) : State :=
  let p := envF ws 0 35 5
  let spkg := envF ws 0 40 12
  let t := (ws.getD 9 0).toNat
  let hd := (ws.getD 2 0).toNat
  let pt := s.partAt p
  let dst := if !pt.made || pt.shadow || !s.domainBit p spkg 58 then none else s.coreOf p (bits t 0 16) (bits t 16 16)
  match dst with
  | none => s.acknowledge ws Cause.messageTargetInvalid.code []
  | some k =>
    let o : Origin := { k := 1000000 + spkg * 65536 + envF ws 0 0 16, part := p, job := envF ws 1 32 16 }
    let msg := BitVec.ofNat 64 (setBits hd 48 1 1) :: ((ws.drop 3).take 6 ++ [BitVec.ofNat 64 spkg])
    let f : Flight := {
      org := o, dst := k, words := padTo 8 0 msg, pri := bitAt t 61, sup := bitAt t 60, hdl := bits hd 32 12, spkg := some spkg, env := ws,
      came := s.time.toNat }
    let (id, s) := s.moment
    { s with flights := Tab.set s.flights id f }.post (.validate id)

/-- The invocation that a reply answers: its package, its number and tag, and its issuer's partition and coordinate (R307). One that has been given its reply
0x13 is no longer here: a true reply that comes later is discarded (R306). -/
def State.replyTo (s : State) (part pkg seq tag mesh : Nat) : Option (Nat × InvReply) :=
  List.find? (fun (e : Nat × InvReply) =>
    e.2.org.part == part && e.2.pkg == pkg && e.2.seq == seq && e.2.tag == tag && !e.2.known && bits (s.meshWord e.2.org.part e.2.org.k) 0 32 == mesh) s.invReps

/-- The state with an invocation's reply known (R301, R307). -/
def State.knowReply (s : State) (part pkg seq tag mesh code lid : Nat) (tick : Word) : State :=
  match s.replyTo part pkg seq tag mesh with
  | none => s
  | some (id, r) => { s with invReps := Tab.set s.invReps id { r with known := true, code := code, lid := lid, tick := tick } }.post (.invReply id)

/-- The outbound packet that an acknowledgement answers: its destination and the envelope fields it quotes. -/
def State.ackFor (s : State) (spkg quote : Nat) : Option (Nat × Packet) :=
  List.find? (fun (e : Nat × Packet) => e.2.dpkg == spkg && bits (e.2.words.getD 0 0).toNat 0 40 == quote % 2 ^ 40) s.pkts

/-- The state with an accepted packet acted on by its class (R296). -/
def State.packetIn (s : State) (ws : List Word) : State :=
  match envF ws 0 32 3 with
  | 0 => s.inboundMessage ws
  | 2 =>
    (s.knowReply (envF ws 0 35 5) (envF ws 0 40 12) (envF ws 2 52 12) (envF ws 1 48 16) (envF ws 2 0 32) (envF ws 4 0 8) (envF ws 5 0 16) (ws.getD 6 0)).acknowledge ws 0 []
  | c =>
    let (id, s) := s.moment
    { s with inbound := Tab.set s.inbound id { words := ws, came := s.time.toNat } }.post (if c = 1 then .invArr id else .remArr id)

/-- FABRIC_PACKET_ARRIVAL (R296, R297): a copy of a packet already accepted is only acknowledged. -/
def doFabricPacketArrival (ws : List Word) (s : State) : Option State :=
  if s.packetBad ws then some s
  else if envF ws 0 32 3 = 4 then
    some (match s.ackFor (envF ws 0 40 12) (ws.getD 2 0).toNat with
      | none => s
      | some (id, _) => s.post (.ackArr id (envF ws 3 0 8) ((ws.drop 4).flatMap fun w => leBytes 8 w.toNat)))
  else
    let key := seqKey ws
    let r := Tab.get s.seqs key {}
    let seq := envF ws 0 16 12
    if r.holds seq then some (s.copyAgain ws)
    else some ({ s with seqs := Tab.set s.seqs key (r.add seq) }.packetIn ws)

/-- The lowest free launch id of an invocation (R301). -/
def State.freeLid (s : State) (p job : Nat) : Option Nat := ((List.range 4096).map (61440 + ·)).find? fun l => !s.lidActive p job l

/-- The words of a directory record (R300). -/
def State.dirRecord (s : State) (p h : Nat) : List Word :=
  let dir := bits (s.partAt p).icfg1.toNat 0 48
  (List.range 8).map fun i => BitVec.ofNat 64 (s.numAt (.hbm (dir + 64 * (h - 16) + 8 * i)) 8)

/-- Whether a directory record lies in a poisoned line: it cannot be read, and names no valid handler (R385; notes/assumptions/33.md). -/
def State.dirPoisoned (s : State) (p h : Nat) : Bool := s.poisoned (.flat (.hbm (bits (s.partAt p).icfg1.toNat 0 48 + 64 * (h - 16)))) 64

/-- The checks of an invocation (R301, R326): its refusal code, or its launch as LaunchOf gives it with the record and constants. A job without a frame pool
cannot start (R315): the model's choice of code for it is 0x12 (notes/assumptions/33.md). -/
def State.invocationCheck (s : State) (ws : List Word) : Except Nat (LaunchOf × List Word × List Word) :=
  let p := envF ws 0 35 5
  let spkg := envF ws 0 40 12
  let job := envF ws 1 32 16
  let hd := (ws.getD 2 0).toNat
  let h := bits hd 32 12
  let pt := s.partAt p
  let i0 := pt.icfg0.toNat
  let i1 := pt.icfg1.toNat
  let pri := bitAt hd 45
  if pt.made && pt.shadow then .error 0x10
  else if !pt.made || !bitAt i0 63 || bits i0 48 14 != 0 || (Tab.find? pt.jobs job).isNone || !s.domainBit p spkg 59 || !s.hasPool p job then .error 0x12
  else
    let rec_ := s.dirRecord p h
    if s.dirPoisoned p h || h < 16 || bits i1 52 12 ≤ h - 16 || bits i1 48 4 != 0 || !recValid pt.csr.lim rec_ || recF rec_ 0 32 16 != 0 then .error 0x11
    else
      let aff := if envF ws 1 0 4 = 8 then recF rec_ 0 53 4 else envF ws 1 0 4
      if aff < 8 && !(s.vdiesHeld p).contains aff then .error 0x14
      else
        let room := if pri then pt.invHigh.length < 256 else pt.invLow.length < 1024
        match (if room && (s.roomDie p aff pri).isSome then s.freeLid p job else none), s.constBlock p job rec_ with
        | none, _ => .error 0x10
        | _, .error _ => .error 0x11
        | some lid, .ok cs =>
          .ok ({ LaunchOf.ofRec p job aff rec_ with pri := pri, lid := lid, src := 3, ngrp := 1, inv := some ((ws.drop 2).take 8) }, rec_, cs)

/-- The partition that a reply within the package goes to: the one that the answering partition's entry names, as a packet's dpart would (R294, R296); for want of
such an entry, the one that awaits the reply. -/
def State.replyPart (s : State) (p inv tag mesh : Nat) : Nat :=
  if (s.domainEntry p s.pkgId).isSome then s.rpart p s.pkgId
  else ((List.range 32).find? fun q => (s.replyTo q s.pkgId inv tag mesh).isSome).getD 0

/-- Whether the I/O die may send one more invocation reply (R297). -/
def State.mayReply (s : State) (ws : List Word) : Bool := envF ws 0 40 12 == s.pkgId || s.mayIssue 0 3 s.dev.active 2 s.dev.replySeq

/-- The state with an invocation's reply sent (R301, R307); one from another package is acknowledged. The header of a reply quotes the invocation's
number (the model's choice: notes/assumptions/12.md). -/
def State.sendReply (s : State) (ws : List Word) (code lid : Nat) : State :=
  let spkg := envF ws 0 40 12
  let inv := envF ws 0 16 12
  let tag := envF ws 1 48 16
  let mesh := envF ws 2 0 32
  if spkg = s.pkgId then s.knowReply (s.replyPart (envF ws 0 35 5) inv tag mesh) spkg inv tag mesh code lid s.time
  else
    let p := envF ws 0 35 5
    let msg := [header inv 5 true 2 false false 0 mesh, BitVec.ofNat 64 (tag * 2 ^ 32 + 8), BitVec.ofNat 64 code, BitVec.ofNat 64 (s.pkgId * 2 ^ 52 + lid),
      s.time, 0, 0, 0]
    let seq := s.dev.replySeq
    let s := (s.acknowledge ws 0 []).sendPacket { org := { k := 8 * 64 * s.dev.active, part := p }, cls := 2, dpkg := spkg, seq := seq, kind := 6 } 3 s.dev.active
      (tag * 2 ^ 48 + envF ws 1 32 16 * 2 ^ 32) msg
    { s with dev := { s.dev with replySeq := (seq + 1) % 4096 } }

/-- INVOCATION_ARRIVAL (R301). -/
def doInvocationArrival (id : Nat) (s : State) : Option State :=
  match Tab.find? s.inbound id with
  | none => none
  | some i =>
    if !s.mayReply i.words then none
    else
      let s := { s with inbound := Tab.erase s.inbound id }
      match s.invocationCheck i.words with
      | .error c => some (s.sendReply i.words c 0)
      | .ok (o, rec_, cs) =>
        let lk := s.nextId
        let s := s.acceptLaunch o rec_ cs
        let s := s.modPart o.part fun p => if o.pri then { p with invHigh := p.invHigh ++ [lk] } else { p with invLow := p.invLow ++ [lk] }
        some (s.sendReply i.words 0 o.lid)

/-- Whether an access waits for an earlier one of its endpoint to the same line (R299): one that has not come, unless its endpoint has given it up
meanwhile (R298), or that has come and is not performed. -/
def State.accessWaits (s : State) (id : Nat) (i : Inbound) : Bool :=
  let ws := i.words
  let prev := envF ws 2 48 12
  let mine := s.inbound.filter fun e => e.1 != id && seqKey e.2.words == seqKey ws
  envF ws 2 63 1 == 1
    && (mine.any (fun e => envF e.2.words 0 16 12 == prev)
      || (!(Tab.get s.seqs (seqKey ws) {}).holds prev && decide (s.time.toNat < i.came + 15000)))

/-- The state after an access from another package reached its home: counted when its page says so (R348), and the leases on its lines recalled
(R131, R179). -/
def State.accessCounted (s : State) (p job pa n : Nat) (cnt : Bool) : State :=
  (if cnt then s.countRegion { part := p, job := job } pa else s).recallAt (2 ^ 32) pa n

/-- What an access from another package comes to at its home: the cause with which it is refused, or the words of its answer and the state after
it (R180, R299, R385). -/
def State.accessPerform (s : State) (ws : List Word) : Except Cause (List Word × State) :=
  let p := envF ws 0 35 5
  let pa := envF ws 3 0 48
  let n := envF ws 2 0 32
  let s := s.accessCounted p (envF ws 1 32 16) pa n (envF ws 2 40 1 == 1)
  match envF ws 2 32 8 with
  | 0 => if s.poisoned (.flat (.hbm pa)) n then .error .memoryPoison else .ok (wordsOf (s.spotBytes (.flat (.hbm pa)) n), s)
  | 1 => .ok ([], s.applyAll (Spot.dests (.flat (.hbm pa)) (((ws.drop 4).flatMap fun w => leBytes 8 w.toNat).take n)))
  | 2 =>
    let a := (ws.getD 4 0).toNat
    if bits a 32 32 = 12 || bits a 32 32 = 13 then .error .remoteDenied
    else if s.poisoned (.flat (.hbm pa)) n then .error .memoryPoison
    else (s.perform { k := 1000000, part := p, job := envF ws 1 32 16 } 0 (.hbm pa)
        { idx := bits a 32 32, op := bits a 8 8, fmt := bits a 0 8, size := n, data := ws.drop 5 }).mapError (·.1)
  | _ => .error .remoteDenied

/-- REMOTE_ACCESS_ARRIVAL (R295, R299): performed at its home and acknowledged, or refused with its cause. -/
def doRemoteAccessArrival (id : Nat) (s : State) : Option State :=
  match Tab.find? s.inbound id with
  | none => none
  | some i =>
    if s.accessWaits id i then none
    else
      let ws := i.words
      let p := envF ws 0 35 5
      let pt := s.partAt p
      let s := { s with inbound := Tab.erase s.inbound id }
      if !pt.made || pt.shadow || !s.domainBit p (envF ws 0 40 12) 57 then some (s.acknowledge ws Cause.remoteDenied.code [])
      else some (match s.accessPerform ws with
        | .error c => s.acknowledge ws c.code []
        | .ok (d, s) => s.acknowledge ws 0 d)

/-- The state with a line read from another package in a core's L1 (R132, R299). -/
def State.fillAway (s : State) (o : Origin) (va : Word) (data : List Byte) : State :=
  if data.length < 64 then s
  else s.modCore o.k fun c => c.l1Fill { part := o.part, job := o.job, va := addrOf va / 64 * 64, data := data.take 64 }

/-- The cause that an acknowledgement carries. -/
def ackCause (code : Nat) : Cause := (Cause.ofCode code).getD .fabricUnreachable

/-- Whether a cause of a remote atomic is raised precisely (R155, R181): the rules of the operation itself name it. -/
def ackPrecise (c : Cause) : Bool := c == .joinUnderflow

/-- The state after a packet's outcome is known: code 0 with its data, or the cause of its failure (R297 to R299). -/
def State.packetOutcome (s : State) (id : Nat) (pk : Packet) (code : Nat) (data : List Byte) : State :=
  let o := pk.org
  let c := ackCause code
  let bad := if code = 0 then none else some c
  let fill := fun (s : State) => if pk.fill then s.fillAway o pk.va data else s
  match pk.kind with
  | 1 =>
    if code = 0 then
      let r := pk.conv.of (data.drop (addrOf pk.va % 64) |>.take pk.size)
      (fill s).feed o.k o.h pk.pend r.1 r.2
    else (s.failPend o.k o.h pk.pend).pendCause o c pk.va
  | 2 =>
    let s := s.modCore o.k fun x => { x with stores := x.stores.filter (·.id != pk.store) }
    if code = 0 then s else s.writeFailed o c pk.va
  | 3 =>
    if code = 0 then (fill s).wakeAwait o id (.replied true .illegalOpcode (wordsOf data))
    else s.wakeAwait o id (.replied false c (if ackPrecise c then [pk.va] else []))
  | 4 => match Tab.find? s.flights pk.flight with
    | none => s
    | some f => if code = 0 then { s with flights := Tab.erase s.flights pk.flight } else s.refuse pk.flight f c
  | 7 => s.outAnswered pk.store (bad.map fun c => (c, pk.va))
  | 8 => s.lineAnswered id (if code = 0 then .ok data else .error c)
  | _ => s

/-- The state in which the writes that waited for their endpoint's limit go on (R297). -/
def State.pumpAll (s : State) : State := s.awayOuts.foldl (fun s w => if w.todo.isEmpty then s else s.pump w.id) s

/-- The state after a packet is no longer outstanding. -/
def State.packetEnds (s : State) (id : Nat) (pk : Packet) (code : Nat) (data : List Byte) : State :=
  (State.packetOutcome { s with pkts := Tab.erase s.pkts id } id pk code data).pumpAll

/-- ACKNOWLEDGEMENT_ARRIVAL (R297): the first one is final. -/
def doAcknowledgementArrival (id code : Nat) (data : List Byte) (s : State) : Option State :=
  (Tab.find? s.pkts id).map fun pk => s.packetEnds id pk code data

/-- The state with an invocation's reply placed in its slot and its record answered (R307). -/
def State.placeReply (s : State) (id : Nat) (r : InvReply) (code lid : Nat) (tick : Word) : State :=
  let s := { s with invReps := Tab.erase s.invReps id }
  let s := match s.whereSlot r.org r.slot with
    | .area k => if (s.coreAt k).l.fir.fid = r.org.fid then s.modCore k fun c => { c with ls := c.ls.replied r.tag code }.touch [7] else s
    | _ => s
  s.placeCompletion r.org r.slot 0 8 [BitVec.ofNat 64 (r.tag * 2 ^ 32 + 8), BitVec.ofNat 64 code, BitVec.ofNat 64 (r.pkg * 2 ^ 52 + lid), tick, 0]

/-- Whether the issuer of an invocation is parked within a group's image (R353). -/
def State.parkedAway (s : State) (r : InvReply) : Bool := ((s.groupAt r.org.gid).img.getD {}).holdsParked r.slot

/-- INVOCATION_REPLY_ARRIVAL (R307). -/
def doInvocationReplyArrival (id : Nat) (s : State) : Option State :=
  match Tab.find? s.invReps id with
  | none => none
  | some r => if r.known && !(s.partAt r.org.part).shadow && !s.parkedAway r then some (s.placeReply id r r.code r.lid r.tick) else none

/-- INVOCATION_REPLY_TIMEOUT (R306): 30 µs without a reply. -/
def doInvocationReplyTimeout (id : Nat) (s : State) : Option State :=
  match Tab.find? s.invReps id with
  | none => none
  | some r => if r.known || (s.partAt r.org.part).shadow || s.parkedAway r || s.time.toNat < r.sent + 30000 then none else some (s.placeReply id r 0x13 0 0)

/-- The next working path after a path, in the order of the route tables and around (R298); a path that has left the tables has the first one after it. -/
def State.nextPath (s : State) (pkg path : Nat) : Nat :=
  let ps := s.route pkg
  let i := ((ps.findIdx? (· == path)).map (· + 1)).getD 0
  ((ps.drop i ++ ps.take i).find? s.pathWorks).getD path

/-- FABRIC_RESEND (R298): 4 µs without an acknowledgement. -/
def doFabricResend (id : Nat) (s : State) : Option State :=
  match Tab.find? s.pkts id with
  | none => none
  | some pk =>
    if s.time.toNat < pk.last + 4000 then none
    else some { s with pkts := Tab.set s.pkts id { pk with path := s.nextPath pk.dpkg pk.path, last := s.time.toNat } }

/-- FABRIC_GIVE_UP (R298, R299): 15 µs after it first left. -/
def doFabricGiveUp (id : Nat) (s : State) : Option State :=
  match Tab.find? s.pkts id with
  | none => none
  | some pk => if s.time.toNat < pk.sent + 15000 then none else some (s.packetEnds id pk Cause.fabricUnreachable.code [])

/-- LINK_FAILURE (R298, R379): out of every path. -/
def doLinkFailure (link : Nat) (s : State) : Option State :=
  if s.failedLinks.contains link then none
  else some (State.packageEvent { s with failedLinks := link :: s.failedLinks } 5 (if link < 9 then 16 else 17) 0)

/-- The state with the I/O dies' copy of a domain table read again (R294, R295, R378); an entry in a poisoned line is no valid one (R385). -/
def State.loadDomain (s : State) (p : Nat) : State :=
  let base := bits (s.partAt p).icfg0.toNat 12 36 * 4096
  let es : Tab Word := (List.range 4096).filterMap fun i =>
    let w := s.numAt (.hbm (base + 8 * i)) 8
    if w = 0 || s.poisoned (.flat (.hbm (base + 8 * i))) 8 then none else some (i, BitVec.ofNat 64 w)
  s.modPart p fun pt => { pt with domain := es }

/-- DOMAIN_TABLE_UPDATE (R295). -/
def doDomainTableUpdate (p : Nat) (s : State) : Option State := if (s.partAt p).made then some (s.loadDomain p) else none

/-- FABRIC_PACKET_ARRIVAL (R297). -/
def execFabricPacketArrival (pkt : List Word) (s : State) : Out := act (doFabricPacketArrival pkt s) s
/-- INVOCATION_ARRIVAL (R301). -/
def execInvocationArrival (id : Nat) (s : State) : Out := act (doInvocationArrival id s) s
/-- REMOTE_ACCESS_ARRIVAL (R299). -/
def execRemoteAccessArrival (id : Nat) (s : State) : Out := act (doRemoteAccessArrival id s) s
/-- ACKNOWLEDGEMENT_ARRIVAL (R297). -/
def execAcknowledgementArrival (id code : Nat) (data : List Byte) (s : State) : Out := act (doAcknowledgementArrival id code data s) s
/-- INVOCATION_REPLY_ARRIVAL (R307). -/
def execInvocationReplyArrival (id : Nat) (s : State) : Out := act (doInvocationReplyArrival id s) s
/-- INVOCATION_REPLY_TIMEOUT (R306). -/
def execInvocationReplyTimeout (id : Nat) (s : State) : Out := act (doInvocationReplyTimeout id s) s
/-- FABRIC_RESEND (R298). -/
def execFabricResend (id : Nat) (s : State) : Out := act (doFabricResend id s) s
/-- FABRIC_GIVE_UP (R298). -/
def execFabricGiveUp (id : Nat) (s : State) : Out := act (doFabricGiveUp id s) s
/-- LINK_FAILURE (R298). -/
def execLinkFailure (link : Nat) (s : State) : Out := act (doLinkFailure link s) s
/-- DOMAIN_TABLE_UPDATE (R295). -/
def execDomainTableUpdate (p : Nat) (s : State) : Out := act (doDomainTableUpdate p s) s

end Sys2Proof.Machine
end

