-- ==== Sys2Proof/Machine/Shake.lean ====
section
/-! DEFINITION. SHAKE256 as FIPS 202 defines it (R382 names it; notes/assumptions/21.md). -/

namespace Sys2Proof.Machine

/-- Multiplication by x modulo x^8 + x^6 + x^5 + x^4 + 1 over the field of two elements. -/
def timesX (r : Nat) : Nat := if r < 128 then 2 * r else (2 * r) ^^^ 0x171

/-- The constant of a round: bit 2^j - 1 is the constant term of x^(j + 7 i). -/
def roundConst (i : Nat) : Word :=
  BitVec.ofNat 64 (((List.range 7).map fun j => (Nat.repeat timesX (j + 7 * i) 1 % 2) * 2 ^ (2 ^ j - 1)).sum)

/-- The lane that the walk over all lanes but lane 0 meets after `t` moves from (1, 0), each from (x, y) to (y, 2 x + 3 y). -/
def laneAfter (t : Nat) : Nat :=
  let p := Nat.repeat (fun (p : Nat × Nat) => (p.2 % 5, (2 * p.1 + 3 * p.2) % 5)) t (1, 0)
  p.1 + 5 * p.2

/-- The rotation of lane x + 5 y: a triangular number of its place in the walk; lane 0 is not in it. -/
def keccakRot (lane : Nat) : Nat :=
  match (List.range 24).find? fun t => laneAfter t == lane with
  | some t => (t + 1) * (t + 2) / 2 % 64
  | none => 0

/-- One round on 25 lanes. -/
def keccakRound (a : List Word) (rc : Word) : List Word :=
  let at_ := fun (l : List Word) (x y : Nat) => l.getD (x % 5 + 5 * (y % 5)) 0
  let c := (List.range 5).map fun x => at_ a x 0 ^^^ at_ a x 1 ^^^ at_ a x 2 ^^^ at_ a x 3 ^^^ at_ a x 4
  let t := (List.range 25).map fun i => a.getD i 0 ^^^ c.getD ((i + 4) % 5) 0 ^^^ (c.getD ((i + 1) % 5) 0).rotateLeft 1
  let b := (List.range 25).map fun i =>
    let j := (i % 5 + 3 * (i / 5)) % 5 + 5 * (i % 5)
    (t.getD j 0).rotateLeft (keccakRot j)
  (List.range 25).map fun i =>
    let v := at_ b i (i / 5) ^^^ (~~~(at_ b (i + 1) (i / 5)) &&& at_ b (i + 2) (i / 5))
    if i = 0 then v ^^^ rc else v

/-- The permutation. -/
def keccakF (a : List Word) : List Word := (List.range 24).foldl (fun l i => keccakRound l (roundConst i)) a

/-- `n` blocks of 136 bytes absorbed. -/
def shakeAbsorb : Nat → List Byte → List Word → List Word
  | 0, _, a => a
  | n + 1, bs, a =>
    shakeAbsorb n (bs.drop 136) (keccakF ((List.range 25).map fun i => a.getD i 0 ^^^ (if i < 17 then BitVec.ofNat 64 (leNat (bs.drop (8 * i) |>.take 8)) else 0)))

/-- SHAKE256-512 of bytes: 64 bytes. -/
def shake256 (bs : List Byte) : List Byte :=
  let n := bs.length / 136 + 1
  let pad := 136 * n - bs.length
  let tail : List Byte := if pad = 1 then [0x9F] else 0x1F :: (List.replicate (pad - 2) 0 ++ [0x80])
  ((shakeAbsorb n (bs ++ tail) (List.replicate 25 0)).flatMap fun w => leBytes 8 w.toNat).take 64

end Sys2Proof.Machine
end

