-- ==== Sys2Proof/Machine/Host.lean ====
section
/-! DEFINITION. The host link, boot, power and failures (R30, R374 to R385): HOST_CXL_MEM_ACCESS, DOORBELL_WRITE, QCFG_WRITE, QERR_CLEAR,
ICFG0_WRITE, NTQCONS_WRITE, REGISTER_WRITE, POWER_CAP_WRITE, ATTESTATION_REPORT, POWER_ON_BOOT, POWER_OFF, STANDBY_ENTRY, STANDBY_EXIT,
IO_DIE_FAILOVER, HBM_SCRUB, INSTRUCTION_WORD_FAULT, FIRMWARE_IMAGE_UPDATE. -/

namespace Sys2Proof.Machine

/-- HOST_CXL_MEM_ACCESS (R374, R377): a write is performed at its home; a read changes nothing here. -/
def doHostCxlMemAccess (write : Bool) (pa : Nat) (data : List Byte) (s : State) : Option State :=
  if s.dev.power != 2 || s.dev.boot != 1 || 549755813888 < pa + data.length then none
  else some (if write then s.writeAt (.hbm pa) data else s)

/-- DOORBELL_WRITE (R376): an overrun names no one entry, so its index is free, and qprod keeps its value, since the queue takes no such index: the model's choices
(notes/assumptions/109.md and 142.md). -/
def doDoorbellWrite (qn : Nat) (v : Word) (s : State) : Option State :=
  let q := s.hq qn
  let n := bits v.toNat 0 32
  if q.size < (n + 4294967296 - q.qcons) % 4294967296 then
    let s := { s with free := s.free + 1 }.queueErr qn (Config.freeValue s.free) 3
    some (s.modHq qn fun q => { q with qcfg := BitVec.ofNat 64 (setBits q.qcfg.toNat 63 1 0) })
  else some ((s.modHq qn fun q => { q with qprod := n }).postOnce .queue)

/-- A number inserted into a rising list. -/
def insertUp (x : Nat) : List Nat → List Nat
  | [] => [x]
  | y :: ys => if x ≤ y then x :: y :: ys else y :: insertUp x ys
/-- Numbers in rising order. -/
def sortUp (xs : List Nat) : List Nat := xs.foldr insertUp []

/-- The place of a waiting launch in the rounds of the queues by their weights (R279): its round, its queue, its place in its queue. -/
def State.roundKey (s : State) (l : Launch) : Nat :=
  let qn := l.queue.getD 0
  let idx := (List.filter (fun (e : Nat × Launch) => e.2.queue == l.queue && e.2.waiting && decide (e.2.turn < l.turn)) s.launches).length
  (idx / (s.hq qn).weight * 65536 + qn) * 4294967296 + idx

/-- The state with the accepted launches of a host queue that still have groups to hand over at its level, and those of all queues in rounds by their
weights (R279). Such a round begins with the re-sort (notes/assumptions/139.md). -/
def State.resort (s : State) (qn : Nat) : State :=
  let s := { s with launches := s.launches.map fun (e : Nat × Launch) => if e.2.queue == some qn && e.2.waiting then (e.1, { e.2 with level := (s.hq qn).lvl }) else e }
  let ls := (List.filter (fun (e : Nat × Launch) => e.2.queue.isSome && e.2.waiting) s.launches).map (·.2)
  let keys := sortUp (ls.map s.roundKey)
  let turns := sortUp (ls.map (·.turn))
  { s with launches := s.launches.map fun (e : Nat × Launch) =>
      if e.2.queue.isSome && e.2.waiting then (e.1, { e.2 with turn := turns.getD ((keys.findIdx? (· == s.roundKey e.2)).getD 0) e.2.turn }) else e }

/-- QCFG_WRITE (R279, R376). -/
def doQcfgWrite (qn : Nat) (v : Word) (s : State) : Option State :=
  if bits v.toNat 0 32 != 0 then some s
  else some (((s.modHq qn fun q =>
    { q with qcfg := if q.en then BitVec.ofNat 64 (setBits q.qcfg.toNat 36 6 (bits v.toNat 36 6)) else v }).resort qn).postOnce .queue)

/-- QERR_CLEAR (R376): bit 63 is cleared by writing 1; the field it guards is then free for the next error. -/
def doQerrClear (qn : Nat) (v : Word) (s : State) : Option State :=
  some (if bitAt v.toNat 63 then s.modHq qn fun q => { q with qerr := BitVec.ofNat 64 (setBits q.qerr.toNat 63 1 0) } else s)

/-- ICFG0_WRITE (R295, R378). -/
def doIcfg0Write (p : Nat) (v : Word) (s : State) : Option State := some ((s.modPart p fun pt => { pt with icfg0 := v }).loadDomain p)

/-- The state with package notices that wait for room written, oldest first (R347, R379). -/
def State.drainNotices (s : State) (p : Nat) : List (List Word) → State
  | [] => s.modPart p fun pt => { pt with notices := [] }
  | ws :: rest => if (s.partAt p).ntqRoom then (s.putNotice p ws).drainNotices p rest else s.modPart p fun pt => { pt with notices := ws :: rest }

/-- NTQCONS_WRITE (R347, R378). -/
def doNtqconsWrite (p : Nat) (v : Word) (s : State) : Option State :=
  let s := s.modPart p fun pt => { pt with ntqcons := bits v.toNat 0 32, overflow := pt.overflow && !bitAt v.toNat 63 }
  some (s.drainNotices p (s.partAt p).notices)

/-- A word of the device page. -/
def Device.reg (d : Device) (off : Nat) : Word := Tab.get d.regs off 0
/-- The state with a word of the device page written. -/
def State.setReg (s : State) (off : Nat) (v : Word) : State := { s with dev := { s.dev with regs := Tab.set s.dev.regs off v } }

/-- POWER_CAP_WRITE (R384): a cap outside 400 to 1,700 W is ignored. -/
def doPowerCapWrite (v : Word) (s : State) : Option State :=
  if 400 ≤ v.toNat && v.toNat ≤ 1700 then some (s.setReg 0x40 v) else none

/-- The layout record of R382: the word of each quadrant. -/
def State.layoutRecord (s : State) : List Byte :=
  (List.range 32).flatMap fun qk => leBytes 8 (match Tab.find? s.quads qk with
    | some p => 128 + p + (s.vdieOf p (qk / 4)).getD 0 * 256
    | none => 0)

/-- The report up to its signature (R382). -/
def State.reportBody (s : State) : List Byte :=
  let d := s.dev
  leBytes 8 (1 + d.active * 256 + bits (d.reg 0x10).toNat 0 5 * 65536) ++ leBytes 8 s.time.toNat
    ++ (List.range 4).flatMap (fun i => leBytes 8 (d.reg (0x20 + 8 * i)).toNat)
    ++ shake256 d.image ++ shake256 d.manifest ++ shake256 s.layoutRecord ++ leBytes 8 (Config.firmwareVersion d.image)

/-- The signature of an I/O die over bytes (R382): of 1 to 1,462 bytes, made with the key pair of its seed. -/
def Device.signature (d : Device) (io : Nat) (body : List Byte) : List Byte :=
  let sig := Config.falconSign (d.seeds.getD io []) body
  padTo (max 1 (min 1462 sig.length)) 0 sig

/-- ATTESTATION_REPORT (R382): signed by the active I/O die. -/
def doAttestationReport (s : State) : Option State :=
  let d := s.dev
  if d.reg 8 != 1 || d.boot != 1 then none
  else if !(d.ident.getD (d.active - 16) false) then some (s.setReg 8 0x101)
  else
    let body := s.reportBody
    let sig := d.signature (d.active - 16) body
    let s := s.setReg 8 0x100
    some { s with dev := { s.dev with report := padTo 2048 0 (body ++ leBytes 2 sig.length ++ sig) } }

/-- A command written to a partition's pcmd (R378): dropped while one is busy; a code that names none is invalid. -/
def State.pcmdWrite (s : State) (p code : Nat) : State :=
  if (s.partAt p).busy != 0 then s.modPart p fun pt => { pt with pstat := 3 }
  else if code = 0 || 5 < code then s.modPart p fun pt => { pt with pcmd := code, pstat := 2 }
  else (s.modPart p fun pt => { pt with pcmd := code, busy := code, pstat := 0 }).post (.cmd p code)

/-- The state with the selected job of a partition changed (R378). -/
def State.modJob (s : State) (p : Nat) (f : Job → Job) : State :=
  s.modPart p fun pt => { pt with jobs := Tab.set pt.jobs pt.jsel (f (Tab.get pt.jobs pt.jsel {})) }

/-- A write to a partition configuration page (R378). -/
def State.partWrite (s : State) (p off : Nat) (v : Word) : State :=
  let set := fun (f : Part → Part) => s.modPart p f
  match off with
  | 0x000 => (doIcfg0Write p v s).getD s
  | 0x008 => set fun pt => { pt with icfg1 := v }
  | 0x010 => set fun pt => { pt with ntqbase := v / 131072 * 131072 }
  | 0x020 => (doNtqconsWrite p v s).getD s
  | 0x028 => if 4 ≤ v.toNat && v.toNat ≤ 15 then set fun pt => { pt with mthr := v.toNat } else s
  | 0x030 => set fun pt => { pt with steplog := v / 4096 * 4096 }
  | 0x040 => set fun pt => { pt with jsel := bits v.toNat 0 16 }
  | 0x048 => s.modJob p fun j => { j with root := v }
  | 0x050 => s.modJob p fun j => { j with pool := v / 4096 * 4096 }
  | 0x080 => set fun pt => { pt with parg0 := v }
  | 0x088 => set fun pt => { pt with parg1 := v }
  | 0x090 => s.pcmdWrite p (bits v.toNat 0 8)
  | _ => s

/-- A write to the doorbell page of a queue (R376). -/
def State.queueWrite (s : State) (qn off : Nat) (v : Word) : State :=
  match off with
  | 0x000 => s.modHq qn fun q => { q with qbase := BitVec.ofNat 64 (bits v.toNat 63 1 * 2 ^ 63 + bits v.toNat 6 46 * 64) }
  | 0x008 => (doQcfgWrite qn v s).getD s
  | 0x010 => (doDoorbellWrite qn v s).getD s
  | 0x020 => (doQerrClear qn v s).getD s
  | _ => s

/-- Whether the core of the rank that a step releases holds its firing, so that a step asked of it waits for a page only (R373). -/
def State.stepHeld (s : State) (pg : Nat) : Bool :=
  let p := s.dpage pg
  ((s.groupAt p.gid).cores[p.srank]?).any fun k => (s.coreAt k).slots.any fun e => e.2.st == 4 && e.2.fir.gid == p.gid

/-- A write of dctl (R368); a run, step or detach waits while a frame page of the group is serviced. -/
def State.dctlWrite (s : State) (pg : Nat) (v : Nat) : State :=
  let s := s.modPage pg fun p => { p with srank := bits v 5 3 }
  let p := s.dpage pg
  let go := fun (r : Option State) => r.getD s
  if !p.att then
    let t := if bitAt v 0 then go (doDebugAttach pg s) else s
    if bitAt v 2 && (t.dpage pg).att then (doDebugHalt pg t).getD t else t
  else if !bitAt v 0 then (doDebugDetach pg s).getD (s.postOnce (.detach pg))
  else if bitAt v 2 && p.st = 1 then go (doDebugHalt pg s)
  else if p.st != 3 then s
  else if bitAt v 3 then (doDebugRun pg s).getD (s.postOnce (.run pg))
  else if bitAt v 4 then (doSingleStep pg s).getD (if s.stepHeld pg then s.postOnce (.step pg) else s)
  else s

/-- A write to a debug page (R368). -/
def State.debugWrite (s : State) (pg off : Nat) (v : Word) : State :=
  if off = 0 then s.dctlWrite pg v.toNat
  else if off = 0x10 then s.modPage pg fun p => { p with dtgt := BitVec.ofNat 64 (bits v.toNat 16 48 * 65536) }
  else if 0x40 ≤ off && off < 0x60 then s.modPage pg fun p => { p with bps := Tab.set p.bps ((off - 0x40) / 8) v }
  else if 0x80 ≤ off && off < 0x100 then s.modPage pg fun p => { p with wps := Tab.set p.wps ((off - 0x80) / 8) v }
  else s

/-- A write to the device page (R382, R384). -/
def State.deviceWrite (s : State) (off : Nat) (v : Word) : State :=
  if off = 8 then (if v = 1 && s.dev.boot == 1 then (s.setReg 8 1).post .attest else s)
  else if off = 0x10 || (0x20 ≤ off && off < 0x40) then s.setReg off v
  else if off = 0x40 then (doPowerCapWrite v s).getD s
  else s

/-- What a host read of a queue's doorbell page returns (R376). -/
def State.queueRead (s : State) (qn off : Nat) : Word :=
  let q := s.hq qn
  match off with
  | 0x000 => q.qbase
  | 0x008 => q.qcfg
  | 0x010 => BitVec.ofNat 64 q.qprod
  | 0x018 => BitVec.ofNat 64 q.qcons
  | 0x020 => q.qerr
  | _ => 0

/-- What a host read of a partition configuration page returns (R300, R378): pcmd is write only. -/
def State.partRead (s : State) (p off : Nat) : Word :=
  let pt := s.partAt p
  let j := Tab.get pt.jobs pt.jsel {}
  match off with
  | 0x000 => if bits pt.icfg0.toNat 48 14 = 0 then pt.icfg0 else BitVec.ofNat 64 (setBits pt.icfg0.toNat 63 1 0)
  | 0x008 => pt.icfg1
  | 0x010 => pt.ntqbase
  | 0x018 => BitVec.ofNat 64 (b2n pt.overflow * 2 ^ 63 + pt.ntqprod)
  | 0x020 => BitVec.ofNat 64 pt.ntqcons
  | 0x028 => BitVec.ofNat 64 pt.mthr
  | 0x030 => pt.steplog
  | 0x040 => BitVec.ofNat 64 pt.jsel
  | 0x048 => j.root
  | 0x050 => j.pool
  | 0x080 => pt.parg0
  | 0x088 => pt.parg1
  | 0x098 => BitVec.ofNat 64 (b2n (pt.busy != 0) * 2 ^ 63 + pt.pstat)
  | _ => 0

/-- What a host read of a debug page returns (R368): the bits of dctl that only writes use read zero. -/
def State.debugRead (s : State) (pg off : Nat) : Word :=
  let p := s.dpage pg
  if off = 0 then BitVec.ofNat 64 (p.srank * 32 + b2n p.att)
  else if off = 8 then BitVec.ofNat 64 (p.cause * 65536 + p.crank * 8192 + b2n p.stmo * 4096 + b2n p.gone * 2048 + p.st)
  else if off = 0x10 then p.dtgt
  else if 0x40 ≤ off && off < 0x60 then Tab.get p.bps ((off - 0x40) / 8) 0
  else if 0x80 ≤ off && off < 0x100 then Tab.get p.wps ((off - 0x80) / 8) 0
  else if 0x100 ≤ off && off < 0x140 then Tab.get p.dimg ((off - 0x100) / 8) 0
  else 0

/-- What a host read of the device page returns (R380, R382, R384). The boot status has no offset of its own in the spec: it stands at 0 here
(notes/assumptions/34.md). -/
def State.deviceRead (s : State) (off : Nat) : Word :=
  if off = 0 then BitVec.ofNat 64 s.dev.boot
  else if off = 8 || off = 0x10 || (0x20 ≤ off && off < 0x40) || off = 0x40 then s.dev.reg off
  else if 0x800 ≤ off then BitVec.ofNat 64 (leNat ((s.dev.report.drop (off - 0x800)).take 8))
  else 0

/-- What a host read of 4 or 8 aligned bytes of BAR0 returns (R3, R375); any other read is dropped and returns zero, as is
one of 4 bytes of a debug page (R368). A read changes nothing. -/
def State.hostRead (s : State) (off n : Nat) : Word :=
  let o := off / 8 * 8
  let w :=
    if o < 0x8000000 then s.queueRead (o / 4096) (o % 4096)
    else if o < 0x8020000 then s.partRead ((o - 0x8000000) / 4096) (o % 4096)
    else if o < 0x8060000 then s.debugRead ((o - 0x8020000) / 4096) (o % 4096)
    else if o < 0x8061000 then s.deviceRead (o % 4096)
    else 0
  if s.dev.power = 0 then 0
  else if n = 8 && off % 8 = 0 then w
  else if n = 4 && off % 4 = 0 && !(0x8020000 ≤ off && off < 0x8060000) then BitVec.ofNat 64 (bits w.toNat (off % 8 * 8) 32)
  else 0

/-- The 8-byte word that a host write of 4 or 8 aligned bytes makes of its register (R375): the other half as it reads, but zero where a
written bit acts by itself (qerr, pcmd, the attestation request). -/
def State.writtenWord (s : State) (off n : Nat) (v : Word) : Word :=
  let o := off / 8 * 8
  let acts := (o < 0x8000000 && o % 4096 == 0x20) || (0x8000000 ≤ o && o < 0x8020000 && o % 4096 == 0x90) || o == 0x8060008
  if n = 8 then v
  else BitVec.ofNat 64 (setBits (if acts then 0 else (s.hostRead o 8).toNat) (off % 8 * 8) 32 (v.toNat % 2 ^ 32))

/-- REGISTER_WRITE (R375): a write of 4 or 8 aligned bytes to BAR0; any other write is dropped, one to an unlisted offset has no effect, nor has
one to the upper half of pcmd, where no command code stands, or of 4 bytes to a debug page, which takes 8-byte accesses (R368). -/
def doRegisterWrite (off n : Nat) (v : Word) (s : State) : Option State :=
  let v := s.writtenWord off n v
  let o := off / 8 * 8
  if s.dev.power = 0 || !((n == 8 && off % 8 == 0) || (n == 4 && off % 4 == 0)) then some s
  else if o < 0x8000000 then some (s.queueWrite (o / 4096) (o % 4096) v)
  else if o < 0x8020000 then some (if n = 4 && off % 4096 = 0x94 then s else s.partWrite ((o - 0x8000000) / 4096) (o % 4096) v)
  else if o < 0x8060000 then some (if n = 8 then s.debugWrite ((o - 0x8020000) / 4096) (o % 4096) v else s)
  else if o < 0x8061000 then some (s.deviceWrite (o % 4096) v)
  else some s

/-- What a host read of device memory returns (R377, R385): none where the link carries poison, and while CXL.mem does not answer (R380, R384). -/
def State.hostMemRead (s : State) (pa n : Nat) : Option (List Byte) :=
  if s.dev.power != 2 || s.dev.boot != 1 || s.poisoned (.flat (.hbm pa)) n then none else some (s.spotBytes (.flat (.hbm pa)) n)

/-- The state with the cores that failed a self-test quarantined, a cluster with two failures in a row retired and told (R11, R379, R383). -/
def State.selfTested (s : State) (bad : List Nat) : State :=
  bad.foldl (fun s k =>
    let cl := k / 8
    let row := k % 8 / 4
    if (s.clusterAt cl).retired then s
    else if (s.clusterAt cl).spareUsed.contains row then (s.modCluster cl fun c => { c with retired := true }).packageEvent 3 (cl / 64) (cl % 512)
    else s.modCluster cl fun c => { c with spareUsed := row :: c.spareUsed }) s

/-- Whether a flash object's signature holds: Falcon-1024 over its SHAKE256 digest, under the public key whose digest ROM holds (R380, R381). -/
def flashSigned (bs : List Byte) : Bool :=
  shake256 (Config.flashKey bs) == Config.romDigest && Config.falconHolds (Config.flashKey bs) (shake256 bs) bs

/-- Whether firmware image `i` and the manifest are read and their signatures hold (R380); `read` says whether the flash gives them back. -/
def Device.imageGood (d : Device) (i : Nat) (read : Bool) : Bool := read && flashSigned (d.flash.getD i []) && flashSigned d.manifest

/-- An I/O die's identity at a power-up, 0 or 1 (R381): the helper data's signature is checked first, and `whole` says whether the response is
reconstructed. -/
def Device.identify (d : Device) (io : Nat) (whole : Bool) : Device :=
  let h := d.helper.getD io []
  if whole && flashSigned h then
    { d with ident := listSet d.ident io true, seeds := listSet d.seeds io ((shake256 (Config.pufResponse io h)).take 48) }
  else { d with ident := listSet d.ident io false, seeds := listSet d.seeds io [] }

/-- Whether the certificate in flash of an I/O die binds the public key of its identity (R381). -/
def Device.certified (d : Device) (io : Nat) : Bool :=
  d.ident.getD io false && Config.certBinds (d.certs.getD io []) (Config.falconPublic (d.seeds.getD io []))

/-- The state without the clusters that the manifest withholds (R383): it never adds any. -/
def State.withholding (s : State) : State :=
  if s.dev.manifest.isEmpty then s
  else ((List.range 512).filter (Config.withheld s.dev.manifest)).foldl (fun s cl => s.modCluster cl fun c => { c with retired := true }) s

/-- The route tables of both I/O dies as their firmware writes them at boot (R298). -/
def bootRoutes : Tab (List Nat) :=
  (List.range 8192).filterMap fun k => match Config.route (k / 4096) (k % 4096) with
    | [] => none
    | ps => some (k, ps)

/-- What outlasts a loss of power: flash, the package's number, host memory; the model's own fields go on. -/
def State.unpowered (s : State) : State :=
  { State.reset with
    dev := { flash := s.dev.flash, manifest := s.dev.manifest, helper := s.dev.helper, certs := s.dev.certs }, pkgId := s.pkgId, hostMem := s.hostMem
    nextId := s.nextId, free := s.free, pace := s.pace }

/-- POWER_ON_BOOT (R380, R381, R383): `okA` and `okB` say whether the flash gives each image back with the manifest, `ident` whether I/O die 16 reconstructs its
PUF response; whether die 17 does is free (notes/assumptions/132.md). -/
def doPowerOnBoot (okA okB ident : Bool) (bad : List Nat) (s : State) : Option State :=
  if s.dev.power != 0 then none
  else
    let s := s.unpowered
    let d := ({ s.dev with power := 2, ioUp := [true, true], active := 16 }.identify 0 ident).identify 1 (decide (Config.freeValue s.free % 2 = 1))
    let s := { s with free := s.free + 1 }
    if !d.imageGood 0 okA && !d.imageGood 1 okB then some { s with dev := { d with boot := 2 } }
    else
      let s := { s with
        dev := { d with boot := 1, image := d.flash.getD (if d.imageGood 0 okA then 0 else 1) [] }
        dies := (List.range 8).map fun sk => (sk, { online := true, running := true })
        routes := bootRoutes }
      some (s.selfTested bad).withholding

/-- POWER_OFF (R384). -/
def doPowerOff (s : State) : Option State := some s.unpowered

/-- Whether nothing is resident, queued or pre-empted (R384). -/
def State.idle (s : State) : Bool :=
  List.all s.groups (fun (e : Nat × Group) => e.2.st == 0 || e.2.st == 4 || e.2.st == 5) && List.all s.launches (fun (e : Nat × Launch) => e.2.st != 1)

/-- STANDBY_ENTRY (R384): memory and the timer are kept; what the compute dies hold is lost, the counts of their home slices among it (R348). -/
def doStandbyEntry (s : State) : Option State :=
  if s.dev.power != 2 || !s.idle then none
  else some { s with
    dev := { s.dev with power := 1, slept := ((List.range 8).filter fun sk => (s.dieAt sk).online) }
    migCount := [], migPend := []
    dies := s.dies.map fun (e : Nat × Die) => (e.1, { mult := e.2.mult, home := e.2.home })
    clusters := s.clusters.map fun (e : Nat × Cluster) => (e.1, ({} : Cluster).onPhys e.2)
    cores := [], shadows := [], flights := [], svcs := [], errs := [], invals := [], rows := [], waiters := [], frameCompls := [], awayLines := [], awayOuts := [] }

/-- The numbers below a bound whose bits are set in a free value: what a self-test finds is free (notes/assumptions/132.md). -/
def freeSet (v n : Nat) : List Nat := (List.range n).filter fun i => v.testBit i

/-- STANDBY_EXIT (R384): the dies that were online run their self-test; one that passes is online again, and failed cores of it are quarantined (R356, R383); one
that fails is offline (R354). -/
def doStandbyExit (s : State) : Option State :=
  if s.dev.power != 1 then none
  else
    let up := s.dev.slept
    let dead := up.filter (freeSet (Config.freeValue s.free) 8).contains
    let bad := (freeSet (Config.freeValue (s.free + 1)) 4096).filter fun k => up.contains (k / 512) && !dead.contains (k / 512)
    let s := { s with
      free := s.free + 2
      dev := { s.dev with power := 2, slept := [] }
      dies := s.dies.map fun (e : Nat × Die) => if up.contains e.1 then (e.1, { e.2 with online := true, running := true, home := none }) else e }
    some ((dead.foldl State.dieGone s).selfTested bad)

/-- IO_DIE_FAILOVER (R385, R379): the notice names the die that failed. -/
def doIoDieFailover (s : State) : Option State :=
  let a := s.dev.active
  let b := 33 - a
  if s.dev.power = 0 || !(s.dev.ioUp.getD (b - 16) false) then none
  else some (State.packageEvent { s with dev := { s.dev with active := b, ioUp := listSet s.dev.ioUp (a - 16) false } } 4 a 0)

/-- The 64 KiB regions that lie among poisoned lines whole. -/
def lostRegions (poison : List Nat) (lines : List Nat) : List Nat :=
  ((lines.map (· / 1024)).eraseDups).filter fun r => (List.range 1024).all fun i => poison.contains (r * 1024 + i)

/-- HBM_SCRUB (R385): uncorrectable lines of a stack are marked poisoned; a region that cannot be read at all is told to every partition, with its stack's
socket (R5, R332). -/
def doHbmScrub (stack : Nat) (lines : List Nat) (s : State) : Option State :=
  if s.dev.power != 2 || !(lines.all fun l => l / 2 ^ 30 == stack && stack < 8) then none
  else
    let poison := lines.foldl (fun t l => if t.contains l then t else l :: t) s.poison
    let lost := (lostRegions poison lines).filter fun r => !s.dev.lost.contains r
    let s := { s with poison := poison, dev := { s.dev with lost := lost ++ s.dev.lost } }
    some (lost.foldl (fun s _ => s.packageEvent 6 (8 + stack) 0) s)

/-- INSTRUCTION_WORD_FAULT (R30, R59): the word at the moving core's PC raises its cause. -/
def doInstructionWordFault (c : Cause) (tv : Word) (s : State) : Option State := if s.fir.active then some (s.takeTrap c tv 0) else none

/-- FIRMWARE_IMAGE_UPDATE (R380): in recovery, to image A. -/
def doFirmwareImageUpdate (image : List Byte) (s : State) : Option State :=
  if s.dev.boot = 2 then some { s with dev := { s.dev with flash := listSet s.dev.flash 0 image } } else none

/-- HOST_CXL_MEM_ACCESS (R377). -/
def execHostCxlMemAccess (write : Bool) (pa : Nat) (data : List Byte) (s : State) : Out := act (doHostCxlMemAccess write pa data s) s
/-- DOORBELL_WRITE (R376). -/
def execDoorbellWrite (qn : Nat) (v : Word) (s : State) : Out := act (doDoorbellWrite qn v s) s
/-- QCFG_WRITE (R376). -/
def execQcfgWrite (qn : Nat) (v : Word) (s : State) : Out := act (doQcfgWrite qn v s) s
/-- QERR_CLEAR (R376). -/
def execQerrClear (qn : Nat) (v : Word) (s : State) : Out := act (doQerrClear qn v s) s
/-- ICFG0_WRITE (R378). -/
def execIcfg0Write (p : Nat) (v : Word) (s : State) : Out := act (doIcfg0Write p v s) s
/-- NTQCONS_WRITE (R378). -/
def execNtqconsWrite (p : Nat) (v : Word) (s : State) : Out := act (doNtqconsWrite p v s) s
/-- ATTESTATION_REPORT (R382). -/
def execAttestationReport (s : State) : Out := act (doAttestationReport s) s
/-- POWER_CAP_WRITE (R384). -/
def execPowerCapWrite (v : Word) (s : State) : Out := act (doPowerCapWrite v s) s
/-- REGISTER_WRITE (R375): an offset from 2^32 up names a write of 4 bytes, any other one of 8 (notes/assumptions/99.md). -/
def execRegisterWrite (off : Nat) (v : Word) (s : State) : Out :=
  act (doRegisterWrite (off % 4294967296) (if off < 4294967296 then 8 else 4) v s) s
/-- POWER_ON_BOOT (R380). -/
def execPowerOnBoot (okA okB ident : Bool) (bad : List Nat) (s : State) : Out := act (doPowerOnBoot okA okB ident bad s) s
/-- STANDBY_ENTRY (R384). -/
def execStandbyEntry (s : State) : Out := act (doStandbyEntry s) s
/-- STANDBY_EXIT (R384). -/
def execStandbyExit (s : State) : Out := act (doStandbyExit s) s
/-- IO_DIE_FAILOVER (R385). -/
def execIoDieFailover (s : State) : Out := act (doIoDieFailover s) s
/-- HBM_SCRUB (R385). -/
def execHbmScrub (stack : Nat) (lines : List Nat) (s : State) : Out := act (doHbmScrub stack lines s) s
/-- INSTRUCTION_WORD_FAULT (R30). -/
def execInstructionWordFault (c : Cause) (tv : Word) (s : State) : Out := act (doInstructionWordFault c tv s) s
/-- POWER_OFF (R384). -/
def execPowerOff (s : State) : Out := act (doPowerOff s) s
/-- FIRMWARE_IMAGE_UPDATE (R380). -/
def execFirmwareImageUpdate (image : List Byte) (s : State) : Out := act (doFirmwareImageUpdate image s) s

end Sys2Proof.Machine
end

