-- ==== Sys2Proof/Machine/Sparse.lean ====
section
/-! DEFINITION. The sparse instructions and MXCMP at the engine (R244 to R253). -/

namespace Sys2Proof.Machine

/-- Bytes of a mask array (R246). -/
def maskBytes (m cnt : Nat) : Nat := (cnt * m + 7) / 8
/-- The masks of an array of bytes (R246). -/
def masksOf (m cnt : Nat) (bs : List Byte) : List Nat :=
  (List.range cnt).map fun i => if m = 8 then (bs.getD i 0).toNat else bits (bs.getD (i / 2) 0).toNat (i % 2 * 4) 4
/-- The bits of a mask that are 1. -/
def ones (m x : Nat) : Nat := ((List.range m).filter fun b => bitAt x b).length
/-- The index of the first malformed mask (R246). -/
def badMask (n m : Nat) (ms : List Nat) : Option Nat := ms.findIdx? fun x => ones m x != n

/-- The masks at an address of the own-cluster window, read by the pipe (R248, R253). -/
def readMasks (p : Word) (m cnt : Nat) : M (List Nat) := do
  let n := maskBytes m cnt
  let off ← ownRange p n
  watch p n true false []
  let s ← get
  let sp := Spot.flat (.scratch s.cl off)
  holdUnless (!s.blocked sp n false)
  pure (masksOf m cnt (s.spotBytes sp n))

/-- Whether a tag is a B format of a sparse step (R245). -/
def sparseB (t : Nat) : Bool := 2 ≤ t && t ≤ 5 || t == 8

/-- MXAS (R248). -/
def execMxas (pat : BitVec 3) (n : BitVec 1) (p q : BitVec 4) (d : BitVec 5) (s : State) : Out :=
  run (do
    let w := encode (.mxas pat n p q d)
    noRepeat
    needL w
    regs [(xr d, false)] []
    let x ← getX d
    accFree n.toNat
    let (_, rp) ← needRing p.toNat true
    let (_, rq) ← needRing q.toNat true
    blogCheck rp rq
    let s ← get
    let tp := tagOf rp.base
    let tq := tagOf rq.base
    let pair := BitVec.ofNat 64 (tp * 256 + tq)
    let (kn, m, u) := patternOf pat.toNat
    trapIf (!sparseB tq || (opFloat tp).isNone || opWidth tq < opWidth tp || opFloat tp != opFloat tq) .matrixFormat pair
    trapIf (opFloat tp == some (s.acc n.toNat).issueI32) .matrixFormat pair
    let k := 2048 / opWidth tq
    let kp := k * m / kn
    let badLog := tp == 12 && kp % 2 ^ (blogOf rp.base + 2) != 0
    trapIf (rp.size != slotBytes tp (blogOf rp.base) kp) .matrixShape (BitVec.ofNat 64 p.toNat)
    trapIf (rq.size != slotBytes tq 0 k) .matrixShape (BitVec.ofNat 64 q.toNat)
    trapIf (p == q || badLog) .matrixShape (BitVec.ofNat 64 p.toNat)
    trapIf (tp == 11 && !s.ls.lutOk) .lutUnloaded (tvw w)
    headTag x
    trapIf (addrOf x % 8 != 0) .misalignedLoad x
    let masks ← readMasks x m (64 / u * (kp / m))
    match badMask kn m masks with
    | some i => trap .sparseMetadataMalformed (BitVec.ofNat 64 i)
    | none => do
      claim n.toNat
      let _ ← issueCmd (.mxas pat.toNat n.toNat p.toNat q.toNat masks s.ls.lut) [([], [])] []
      pure ()) s

/-- MXMCHK (R253). -/
def execMxmchk (pat : BitVec 3) (a b d : BitVec 5) (s : State) : Out :=
  run (do
    noRepeat
    needL (encode (.mxmchk pat a b d))
    regs [(xr a, false), (xr b, false)] [xr d]
    let p ← getX a
    let v ← getX b
    let (kn, m, _) := patternOf pat.toNat
    trapIf (2 ^ 20 < v.toNat) .reservedField v
    if v = 0 then setX d (BitVec.allOnes 64)
    else do
      headTag p
      trapIf (addrOf p % 8 != 0) .misalignedLoad p
      let ms ← readMasks p m v.toNat
      setX d (match badMask kn m ms with
        | some i => BitVec.ofNat 64 i
        | none => BitVec.allOnes 64)) s

/-- MXCMP (R251, R252): the pipe waits until it retires. -/
def execMxcmp (pat : BitVec 3) (a b d : BitVec 5) (s : State) : Out :=
  run (do
    noRepeat
    needL (encode (.mxcmp pat a b d))
    let x ← ctx
    let s ← get
    match x.aw with
    | .compared id => if ((s.clusterAt s.cl).cmd id).isSome then hold else updCtx fun x => { x with aw := .none }
    | _ => do
      regs [(xr a, false), (xr b, false), (xr d, false)] []
      let p ← getX a
      let q ← getX b
      let r ← getX d
      headTag p
      headTag q
      headRaw r
      let t := tagOf p
      trapIf (!sparseB t || tagOf q != t) .matrixFormat (BitVec.ofNat 64 (t * 256 + tagOf q))
      trapIf (addrOf p % 64 != 0) .misalignedLoad p
      trapIf (addrOf q % 64 != 0) .misalignedStore q
      trapIf (addrOf r % 64 != 0) .misalignedStore r
      let (kn, m, u) := patternOf pat.toNat
      let k := 2048 / opWidth t
      let kp := k * m / kn
      let e := elemSize t
      let n0 := 64 * kp * e
      let n1 := 64 * k * e
      let n2 := maskBytes m (64 / u * (kp / m))
      let o0 ← ownRange p n0
      let o1 ← ownRange q n1
      let o2 ← ownRange r n2
      let id ← issueCmd (.mxcmp pat.toNat p q r) [([(o0, o0 + n0)], [(o1, o1 + n1)]), ([], [(o2, o2 + n2)])] [(o1, n1)]
      updCtx fun x => { x with aw := .compared id }
      holdKeep) s

/-- A magnitude: finite as `m * 2^e`, or none for infinity (R251). -/
abbrev UnitMag := Option (Nat × Int)

/-- The sum of two magnitudes. -/
def UnitMag.add (a b : UnitMag) : UnitMag :=
  match a, b with
  | some (m, e), some (n, f) =>
    if m = 0 then b else if n = 0 then a else
    let lo := min e f
    some (m * 2 ^ (e - lo).toNat + n * 2 ^ (f - lo).toNat, lo)
  | _, _ => none

/-- Whether a magnitude is smaller than another. -/
def UnitMag.less (a b : UnitMag) : Bool :=
  match a, b with
  | none, _ => false
  | some _, none => true
  | some (m, e), some (n, f) =>
    let lo := min e f
    decide (m * 2 ^ (e - lo).toNat < n * 2 ^ (f - lo).toNat)

/-- The magnitude of one value. -/
def magOf : FVal → UnitMag
  | .fin _ m e => some (m, e)
  | _ => none

/-- The mask that keeps the `n` largest of the magnitudes, the first on a tie (R251). -/
def keepMask (n : Nat) (mags : List UnitMag) : Nat :=
  packLanes 1 (mags.zipIdx.map fun x =>
    b2n (decide ((mags.zipIdx.filter fun y => x.1.less y.1 || (!(y.1.less x.1) && decide (y.2 < x.2))).length < n)))

/-- What MXCMP makes of a source tile: the values and the masks (R251). -/
def prune (pat tag : Nat) (src : List Byte) : List Byte × List Byte :=
  let (n, m, u) := patternOf pat
  let e := elemSize tag
  let kp := 2048 / opWidth tag * m / n
  let el := fun (j k : Nat) => leNat (src.drop ((j * kp + k) * e) |>.take e)
  let masks := (List.range (64 / u)).flatMap fun g => (List.range (kp / m)).map fun k =>
    keepMask n ((List.range m).map fun b =>
      (List.range u).foldl (fun (a : UnitMag) j => a.add (magOf (elemVal tag (el (u * g + j) (m * k + b))))) (some (0, 0)))
  let vals := (List.range 64).flatMap fun j => (List.range kp).flatMap fun k =>
    if bitAt (masks.getD (j / u * (kp / m) + k / m) 0) (k % m) then leBytes e (el j k) else []
  let bs := if m = 8 then masks.map (BitVec.ofNat 8 ·)
    else (List.range (masks.length / 2)).map fun i => BitVec.ofNat 8 (masks.getD (2 * i) 0 + 16 * masks.getD (2 * i + 1) 0)
  (vals, bs)

/-- MXCMP_RETIRE (R252): the values, then the masks; a source that overlaps a destination leaves both unspecified. -/
def doMxcmpRetire (cl : Nat) (s : State) : Option State :=
  let c := s.clusterAt cl
  match c.oldest with
  | some e => match e.op with
    | .mxcmp pat p q r =>
      let off := fun (w : Word) => addrOf w - 0xFFFFE0000000
      let (kn, m, _) := patternOf pat
      let n := 64 * (2048 / opWidth (tagOf p) * m / kn) * elemSize (tagOf p)
      let (vs, ms) := prune pat (tagOf p) (s.bytesAt (.scratch cl (off p)) n)
      let src := (off p, off p + n)
      let clash := meets src (off q, off q + vs.length) || meets src (off r, off r + ms.length)
      let (s, vs, ms) := if clash then
          let (x, s) := s.freeBytes vs.length
          let (y, s) := s.freeBytes ms.length
          (s, x, y)
        else (s, vs, ms)
      some (((s.writeAt (.scratch cl (off q)) vs).writeAt (.scratch cl (off r)) ms).retireCmd cl e.id)
    | _ => none
  | none => none

/-- MXCMP_RETIRE (R252). -/
def execMxcmpRetire (cl : Nat) (s : State) : Out := act (doMxcmpRetire cl s) s

end Sys2Proof.Machine
end

