-- ==== Sys2Proof/Machine/Dispatch.lean ====
section
/-! DEFINITION. The meaning of every instruction and event: one arm per constructor. -/

namespace Sys2Proof.Machine

/-- What an instruction or event does in a state. -/
def exec (i : Instr) (s : State) : Host.Outcome State Fault Refusal :=
  match i with
  | .lui imm20 rd => Sys2Proof.Machine.execLui imm20 rd s
  | .auipc imm20 rd => Sys2Proof.Machine.execAuipc imm20 rd s
  | .jal imm20 rd => Sys2Proof.Machine.execJal imm20 rd s
  | .jalr imm12 rs1 rd => Sys2Proof.Machine.execJalr imm12 rs1 rd s
  | .beq imm12 rs2 rs1 => Sys2Proof.Machine.execBeq imm12 rs2 rs1 s
  | .bne imm12 rs2 rs1 => Sys2Proof.Machine.execBne imm12 rs2 rs1 s
  | .blt imm12 rs2 rs1 => Sys2Proof.Machine.execBlt imm12 rs2 rs1 s
  | .bge imm12 rs2 rs1 => Sys2Proof.Machine.execBge imm12 rs2 rs1 s
  | .bltu imm12 rs2 rs1 => Sys2Proof.Machine.execBltu imm12 rs2 rs1 s
  | .bgeu imm12 rs2 rs1 => Sys2Proof.Machine.execBgeu imm12 rs2 rs1 s
  | .lb imm12 rs1 rd => Sys2Proof.Machine.execLb imm12 rs1 rd s
  | .lh imm12 rs1 rd => Sys2Proof.Machine.execLh imm12 rs1 rd s
  | .lw imm12 rs1 rd => Sys2Proof.Machine.execLw imm12 rs1 rd s
  | .ld imm12 rs1 rd => Sys2Proof.Machine.execLd imm12 rs1 rd s
  | .lbu imm12 rs1 rd => Sys2Proof.Machine.execLbu imm12 rs1 rd s
  | .lhu imm12 rs1 rd => Sys2Proof.Machine.execLhu imm12 rs1 rd s
  | .lwu imm12 rs1 rd => Sys2Proof.Machine.execLwu imm12 rs1 rd s
  | .sb imm12 rs2 rs1 => Sys2Proof.Machine.execSb imm12 rs2 rs1 s
  | .sh imm12 rs2 rs1 => Sys2Proof.Machine.execSh imm12 rs2 rs1 s
  | .sw imm12 rs2 rs1 => Sys2Proof.Machine.execSw imm12 rs2 rs1 s
  | .sd imm12 rs2 rs1 => Sys2Proof.Machine.execSd imm12 rs2 rs1 s
  | .addi imm12 rs1 rd => Sys2Proof.Machine.execAddi imm12 rs1 rd s
  | .slti imm12 rs1 rd => Sys2Proof.Machine.execSlti imm12 rs1 rd s
  | .sltiu imm12 rs1 rd => Sys2Proof.Machine.execSltiu imm12 rs1 rd s
  | .xori imm12 rs1 rd => Sys2Proof.Machine.execXori imm12 rs1 rd s
  | .ori imm12 rs1 rd => Sys2Proof.Machine.execOri imm12 rs1 rd s
  | .andi imm12 rs1 rd => Sys2Proof.Machine.execAndi imm12 rs1 rd s
  | .slli sh6 rs1 rd => Sys2Proof.Machine.execSlli sh6 rs1 rd s
  | .srli sh6 rs1 rd => Sys2Proof.Machine.execSrli sh6 rs1 rd s
  | .srai sh6 rs1 rd => Sys2Proof.Machine.execSrai sh6 rs1 rd s
  | .addiw imm12 rs1 rd => Sys2Proof.Machine.execAddiw imm12 rs1 rd s
  | .slliw sh5 rs1 rd => Sys2Proof.Machine.execSlliw sh5 rs1 rd s
  | .srliw sh5 rs1 rd => Sys2Proof.Machine.execSrliw sh5 rs1 rd s
  | .sraiw sh5 rs1 rd => Sys2Proof.Machine.execSraiw sh5 rs1 rd s
  | .add rs2 rs1 rd => Sys2Proof.Machine.execAdd rs2 rs1 rd s
  | .sll rs2 rs1 rd => Sys2Proof.Machine.execSll rs2 rs1 rd s
  | .slt rs2 rs1 rd => Sys2Proof.Machine.execSlt rs2 rs1 rd s
  | .sltu rs2 rs1 rd => Sys2Proof.Machine.execSltu rs2 rs1 rd s
  | .xor rs2 rs1 rd => Sys2Proof.Machine.execXor rs2 rs1 rd s
  | .srl rs2 rs1 rd => Sys2Proof.Machine.execSrl rs2 rs1 rd s
  | .or rs2 rs1 rd => Sys2Proof.Machine.execOr rs2 rs1 rd s
  | .and rs2 rs1 rd => Sys2Proof.Machine.execAnd rs2 rs1 rd s
  | .sub rs2 rs1 rd => Sys2Proof.Machine.execSub rs2 rs1 rd s
  | .sra rs2 rs1 rd => Sys2Proof.Machine.execSra rs2 rs1 rd s
  | .mul rs2 rs1 rd => Sys2Proof.Machine.execMul rs2 rs1 rd s
  | .mulh rs2 rs1 rd => Sys2Proof.Machine.execMulh rs2 rs1 rd s
  | .mulhsu rs2 rs1 rd => Sys2Proof.Machine.execMulhsu rs2 rs1 rd s
  | .mulhu rs2 rs1 rd => Sys2Proof.Machine.execMulhu rs2 rs1 rd s
  | .div rs2 rs1 rd => Sys2Proof.Machine.execDiv rs2 rs1 rd s
  | .divu rs2 rs1 rd => Sys2Proof.Machine.execDivu rs2 rs1 rd s
  | .rem rs2 rs1 rd => Sys2Proof.Machine.execRem rs2 rs1 rd s
  | .remu rs2 rs1 rd => Sys2Proof.Machine.execRemu rs2 rs1 rd s
  | .addw rs2 rs1 rd => Sys2Proof.Machine.execAddw rs2 rs1 rd s
  | .sllw rs2 rs1 rd => Sys2Proof.Machine.execSllw rs2 rs1 rd s
  | .srlw rs2 rs1 rd => Sys2Proof.Machine.execSrlw rs2 rs1 rd s
  | .subw rs2 rs1 rd => Sys2Proof.Machine.execSubw rs2 rs1 rd s
  | .sraw rs2 rs1 rd => Sys2Proof.Machine.execSraw rs2 rs1 rd s
  | .mulw rs2 rs1 rd => Sys2Proof.Machine.execMulw rs2 rs1 rd s
  | .divw rs2 rs1 rd => Sys2Proof.Machine.execDivw rs2 rs1 rd s
  | .divuw rs2 rs1 rd => Sys2Proof.Machine.execDivuw rs2 rs1 rd s
  | .remw rs2 rs1 rd => Sys2Proof.Machine.execRemw rs2 rs1 rd s
  | .remuw rs2 rs1 rd => Sys2Proof.Machine.execRemuw rs2 rs1 rd s
  | .fence imm12 rs1 rd => Sys2Proof.Machine.execFence imm12 rs1 rd s
  | .ecall => Sys2Proof.Machine.execEcall s
  | .ebreak => Sys2Proof.Machine.execEbreak s
  | .csrrw csr rs1 rd => Sys2Proof.Machine.execCsrrw csr rs1 rd s
  | .csrrs csr rs1 rd => Sys2Proof.Machine.execCsrrs csr rs1 rd s
  | .csrrc csr rs1 rd => Sys2Proof.Machine.execCsrrc csr rs1 rd s
  | .csrrwi csr zimm rd => Sys2Proof.Machine.execCsrrwi csr zimm rd s
  | .csrrsi csr zimm rd => Sys2Proof.Machine.execCsrrsi csr zimm rd s
  | .csrrci csr zimm rd => Sys2Proof.Machine.execCsrrci csr zimm rd s
  | .amoaddW aq rl rs2 rs1 rd => Sys2Proof.Machine.execAmoaddW aq rl rs2 rs1 rd s
  | .amoaddD aq rl rs2 rs1 rd => Sys2Proof.Machine.execAmoaddD aq rl rs2 rs1 rd s
  | .amoswapW aq rl rs2 rs1 rd => Sys2Proof.Machine.execAmoswapW aq rl rs2 rs1 rd s
  | .amoswapD aq rl rs2 rs1 rd => Sys2Proof.Machine.execAmoswapD aq rl rs2 rs1 rd s
  | .amoxorW aq rl rs2 rs1 rd => Sys2Proof.Machine.execAmoxorW aq rl rs2 rs1 rd s
  | .amoxorD aq rl rs2 rs1 rd => Sys2Proof.Machine.execAmoxorD aq rl rs2 rs1 rd s
  | .amoorW aq rl rs2 rs1 rd => Sys2Proof.Machine.execAmoorW aq rl rs2 rs1 rd s
  | .amoorD aq rl rs2 rs1 rd => Sys2Proof.Machine.execAmoorD aq rl rs2 rs1 rd s
  | .amoandW aq rl rs2 rs1 rd => Sys2Proof.Machine.execAmoandW aq rl rs2 rs1 rd s
  | .amoandD aq rl rs2 rs1 rd => Sys2Proof.Machine.execAmoandD aq rl rs2 rs1 rd s
  | .amominW aq rl rs2 rs1 rd => Sys2Proof.Machine.execAmominW aq rl rs2 rs1 rd s
  | .amominD aq rl rs2 rs1 rd => Sys2Proof.Machine.execAmominD aq rl rs2 rs1 rd s
  | .amomaxW aq rl rs2 rs1 rd => Sys2Proof.Machine.execAmomaxW aq rl rs2 rs1 rd s
  | .amomaxD aq rl rs2 rs1 rd => Sys2Proof.Machine.execAmomaxD aq rl rs2 rs1 rd s
  | .amominuW aq rl rs2 rs1 rd => Sys2Proof.Machine.execAmominuW aq rl rs2 rs1 rd s
  | .amominuD aq rl rs2 rs1 rd => Sys2Proof.Machine.execAmominuD aq rl rs2 rs1 rd s
  | .amomaxuW aq rl rs2 rs1 rd => Sys2Proof.Machine.execAmomaxuW aq rl rs2 rs1 rd s
  | .amomaxuD aq rl rs2 rs1 rd => Sys2Proof.Machine.execAmomaxuD aq rl rs2 rs1 rd s
  | .flw imm12 rs1 rd => Sys2Proof.Machine.execFlw imm12 rs1 rd s
  | .fsw imm12 rs2 rs1 => Sys2Proof.Machine.execFsw imm12 rs2 rs1 s
  | .fmaddS rs3 rs2 rs1 rm rd => Sys2Proof.Machine.execFmaddS rs3 rs2 rs1 rm rd s
  | .fmsubS rs3 rs2 rs1 rm rd => Sys2Proof.Machine.execFmsubS rs3 rs2 rs1 rm rd s
  | .fnmsubS rs3 rs2 rs1 rm rd => Sys2Proof.Machine.execFnmsubS rs3 rs2 rs1 rm rd s
  | .fnmaddS rs3 rs2 rs1 rm rd => Sys2Proof.Machine.execFnmaddS rs3 rs2 rs1 rm rd s
  | .faddS rs2 rs1 rm rd => Sys2Proof.Machine.execFaddS rs2 rs1 rm rd s
  | .fsubS rs2 rs1 rm rd => Sys2Proof.Machine.execFsubS rs2 rs1 rm rd s
  | .fmulS rs2 rs1 rm rd => Sys2Proof.Machine.execFmulS rs2 rs1 rm rd s
  | .fdivS rs2 rs1 rm rd => Sys2Proof.Machine.execFdivS rs2 rs1 rm rd s
  | .fsqrtS rs1 rm rd => Sys2Proof.Machine.execFsqrtS rs1 rm rd s
  | .fsgnjS rs2 rs1 rd => Sys2Proof.Machine.execFsgnjS rs2 rs1 rd s
  | .fsgnjnS rs2 rs1 rd => Sys2Proof.Machine.execFsgnjnS rs2 rs1 rd s
  | .fsgnjxS rs2 rs1 rd => Sys2Proof.Machine.execFsgnjxS rs2 rs1 rd s
  | .fminS rs2 rs1 rd => Sys2Proof.Machine.execFminS rs2 rs1 rd s
  | .fmaxS rs2 rs1 rd => Sys2Proof.Machine.execFmaxS rs2 rs1 rd s
  | .fleS rs2 rs1 rd => Sys2Proof.Machine.execFleS rs2 rs1 rd s
  | .fltS rs2 rs1 rd => Sys2Proof.Machine.execFltS rs2 rs1 rd s
  | .feqS rs2 rs1 rd => Sys2Proof.Machine.execFeqS rs2 rs1 rd s
  | .fcvtWS rs1 rm rd => Sys2Proof.Machine.execFcvtWS rs1 rm rd s
  | .fcvtWuS rs1 rm rd => Sys2Proof.Machine.execFcvtWuS rs1 rm rd s
  | .fcvtLS rs1 rm rd => Sys2Proof.Machine.execFcvtLS rs1 rm rd s
  | .fcvtLuS rs1 rm rd => Sys2Proof.Machine.execFcvtLuS rs1 rm rd s
  | .fcvtSW rs1 rm rd => Sys2Proof.Machine.execFcvtSW rs1 rm rd s
  | .fcvtSWu rs1 rm rd => Sys2Proof.Machine.execFcvtSWu rs1 rm rd s
  | .fcvtSL rs1 rm rd => Sys2Proof.Machine.execFcvtSL rs1 rm rd s
  | .fcvtSLu rs1 rm rd => Sys2Proof.Machine.execFcvtSLu rs1 rm rd s
  | .fmvXW rs1 rd => Sys2Proof.Machine.execFmvXW rs1 rd s
  | .fclassS rs1 rd => Sys2Proof.Machine.execFclassS rs1 rd s
  | .fmvWX rs1 rd => Sys2Proof.Machine.execFmvWX rs1 rd s
  | .scfgw imm7 a d => Sys2Proof.Machine.execScfgw imm7 a d s
  | .scfgr imm7 a d => Sys2Proof.Machine.execScfgr imm7 a d s
  | .sbind b a d => Sys2Proof.Machine.execSbind b a d s
  | .sfree a => Sys2Proof.Machine.execSfree a s
  | .sstat a d => Sys2Proof.Machine.execSstat a d s
  | .sdrain a => Sys2Proof.Machine.execSdrain a s
  | .rpt eb1 a d => Sys2Proof.Machine.execRpt eb1 a d s
  | .rpti imm7 a d => Sys2Proof.Machine.execRpti imm7 a d s
  | .send imm7 a d => Sys2Proof.Machine.execSend imm7 a d s
  | .sendw imm7 a d => Sys2Proof.Machine.execSendw imm7 a d s
  | .senda imm7 a d => Sys2Proof.Machine.execSenda imm7 a d s
  | .sendaw imm7 a d => Sys2Proof.Machine.execSendaw imm7 a d s
  | .recv eb1 a d => Sys2Proof.Machine.execRecv eb1 a d s
  | .recvw eb1 a d => Sys2Proof.Machine.execRecvw eb1 a d s
  | .mcount eb1 a d => Sys2Proof.Machine.execMcount eb1 a d s
  | .endF => Sys2Proof.Machine.execEndF s
  | .rearm => Sys2Proof.Machine.execRearm s
  | .get imm7 a d => Sys2Proof.Machine.execGet imm7 a d s
  | .put imm7 a d => Sys2Proof.Machine.execPut imm7 a d s
  | .sadd imm7 a d => Sys2Proof.Machine.execSadd imm7 a d s
  | .ordAcq eb1 a => Sys2Proof.Machine.execOrdAcq eb1 a s
  | .ordRel eb1 a => Sys2Proof.Machine.execOrdRel eb1 a s
  | .ordFull eb1 a => Sys2Proof.Machine.execOrdFull eb1 a s
  | .ldAcq eb2 eb1 b a d => Sys2Proof.Machine.execLdAcq eb2 eb1 b a d s
  | .sdRel eb2 eb1 b a d => Sys2Proof.Machine.execSdRel eb2 eb1 b a d s
  | .binit eb2 eb1 b a => Sys2Proof.Machine.execBinit eb2 eb1 b a s
  | .barr eb1 a d => Sys2Proof.Machine.execBarr eb1 a d s
  | .bwait eb2 eb1 b a => Sys2Proof.Machine.execBwait eb2 eb1 b a s
  | .btest eb2 eb1 b a d => Sys2Proof.Machine.execBtest eb2 eb1 b a d s
  | .jinit eb2 eb1 b a => Sys2Proof.Machine.execJinit eb2 eb1 b a s
  | .jarr eb1 a d => Sys2Proof.Machine.execJarr eb1 a d s
  | .acas eb2 eb1 b a d => Sys2Proof.Machine.execAcas eb2 eb1 b a d s
  | .afadd eb2 eb1 b a d => Sys2Proof.Machine.execAfadd eb2 eb1 b a d s
  | .afmax eb2 eb1 b a d => Sys2Proof.Machine.execAfmax eb2 eb1 b a d s
  | .afmin eb2 eb1 b a d => Sys2Proof.Machine.execAfmin eb2 eb1 b a d s
  | .atkt eb2 eb1 b a d => Sys2Proof.Machine.execAtkt eb2 eb1 b a d s
  | .qpush eb2 eb1 b a d => Sys2Proof.Machine.execQpush eb2 eb1 b a d s
  | .qpushw eb2 eb1 b a d => Sys2Proof.Machine.execQpushw eb2 eb1 b a d s
  | .qpop eb1 a d => Sys2Proof.Machine.execQpop eb1 a d s
  | .qpopw eb1 a d => Sys2Proof.Machine.execQpopw eb1 a d s
  | .qinit eb2 eb1 b a => Sys2Proof.Machine.execQinit eb2 eb1 b a s
  | .spawn eb2 eb1 b a d => Sys2Proof.Machine.execSpawn eb2 eb1 b a d s
  | .spawnw eb2 eb1 b a d => Sys2Proof.Machine.execSpawnw eb2 eb1 b a d s
  | .cancel imm7 a => Sys2Proof.Machine.execCancel imm7 a s
  | .wstat imm7 a d => Sys2Proof.Machine.execWstat imm7 a d s
  | .gcond eb2 eb1 b a => Sys2Proof.Machine.execGcond eb2 eb1 b a s
  | .invk imm7 a d => Sys2Proof.Machine.execInvk imm7 a d s
  | .invkw imm7 a d => Sys2Proof.Machine.execInvkw imm7 a d s
  | .rstatInvoke eb1 a d => Sys2Proof.Machine.execRstatInvoke eb1 a d s
  | .rdref d => Sys2Proof.Machine.execRdref d s
  | .rddcyc d => Sys2Proof.Machine.execRddcyc d s
  | .rdratio d => Sys2Proof.Machine.execRdratio d s
  | .tret => Sys2Proof.Machine.execTret s
  | .tlbinv eb2 eb1 b a => Sys2Proof.Machine.execTlbinv eb2 eb1 b a s
  | .tlbsync => Sys2Proof.Machine.execTlbsync s
  | .htabw eb2 eb1 b a => Sys2Proof.Machine.execHtabw eb2 eb1 b a s
  | .aperw imm7 a => Sys2Proof.Machine.execAperw imm7 a s
  | .wfm => Sys2Proof.Machine.execWfm s
  | .dhalt => Sys2Proof.Machine.execDhalt s
  | .padd k8 eb1 a d => Sys2Proof.Machine.execPadd k8 eb1 a d s
  | .paddi k8 eb1 a d => Sys2Proof.Machine.execPaddi k8 eb1 a d s
  | .psetf k8 eb1 a d => Sys2Proof.Machine.execPsetf k8 eb1 a d s
  | .pgetf eb1 a d => Sys2Proof.Machine.execPgetf eb1 a d s
  | .kld k8 d => Sys2Proof.Machine.execKld k8 d s
  | .kldf k8 d => Sys2Proof.Machine.execKldf k8 d s
  | .vadd pred eb2 eb1 vb va fmt vd => Sys2Proof.Machine.execVadd pred eb2 eb1 vb va fmt vd s
  | .vsub pred eb2 eb1 vb va fmt vd => Sys2Proof.Machine.execVsub pred eb2 eb1 vb va fmt vd s
  | .vmul pred eb2 eb1 vb va fmt vd => Sys2Proof.Machine.execVmul pred eb2 eb1 vb va fmt vd s
  | .vfma pred eb2 eb1 vb va fmt vd => Sys2Proof.Machine.execVfma pred eb2 eb1 vb va fmt vd s
  | .vfms pred eb2 eb1 vb va fmt vd => Sys2Proof.Machine.execVfms pred eb2 eb1 vb va fmt vd s
  | .vfnma pred eb2 eb1 vb va fmt vd => Sys2Proof.Machine.execVfnma pred eb2 eb1 vb va fmt vd s
  | .vmin pred eb2 eb1 vb va fmt vd => Sys2Proof.Machine.execVmin pred eb2 eb1 vb va fmt vd s
  | .vmax pred eb2 eb1 vb va fmt vd => Sys2Proof.Machine.execVmax pred eb2 eb1 vb va fmt vd s
  | .vabs pred eb2 eb1 vb va fmt vd => Sys2Proof.Machine.execVabs pred eb2 eb1 vb va fmt vd s
  | .vneg pred eb2 eb1 vb va fmt vd => Sys2Proof.Machine.execVneg pred eb2 eb1 vb va fmt vd s
  | .vdiv pred eb2 eb1 vb va fmt vd => Sys2Proof.Machine.execVdiv pred eb2 eb1 vb va fmt vd s
  | .vsqrt pred eb2 eb1 vb va fmt vd => Sys2Proof.Machine.execVsqrt pred eb2 eb1 vb va fmt vd s
  | .vrcp pred eb2 eb1 vb va fmt vd => Sys2Proof.Machine.execVrcp pred eb2 eb1 vb va fmt vd s
  | .vexp2 pred eb2 eb1 vb va fmt vd => Sys2Proof.Machine.execVexp2 pred eb2 eb1 vb va fmt vd s
  | .vceq pred eb2 eb1 vb va fmt vd => Sys2Proof.Machine.execVceq pred eb2 eb1 vb va fmt vd s
  | .vclt pred eb2 eb1 vb va fmt vd => Sys2Proof.Machine.execVclt pred eb2 eb1 vb va fmt vd s
  | .vcle pred eb2 eb1 vb va fmt vd => Sys2Proof.Machine.execVcle pred eb2 eb1 vb va fmt vd s
  | .vand pred eb2 eb1 vb va fmt vd => Sys2Proof.Machine.execVand pred eb2 eb1 vb va fmt vd s
  | .vor pred eb2 eb1 vb va fmt vd => Sys2Proof.Machine.execVor pred eb2 eb1 vb va fmt vd s
  | .vxor pred eb2 eb1 vb va fmt vd => Sys2Proof.Machine.execVxor pred eb2 eb1 vb va fmt vd s
  | .vshl pred eb2 eb1 vb va fmt vd => Sys2Proof.Machine.execVshl pred eb2 eb1 vb va fmt vd s
  | .vshr pred eb2 eb1 vb va fmt vd => Sys2Proof.Machine.execVshr pred eb2 eb1 vb va fmt vd s
  | .vsra pred eb2 eb1 vb va fmt vd => Sys2Proof.Machine.execVsra pred eb2 eb1 vb va fmt vd s
  | .vsel pred eb2 eb1 vb va fmt vd => Sys2Proof.Machine.execVsel pred eb2 eb1 vb va fmt vd s
  | .vperm pred eb2 eb1 vb va fmt vd => Sys2Proof.Machine.execVperm pred eb2 eb1 vb va fmt vd s
  | .vsplat pred eb2 eb1 vb va fmt vd => Sys2Proof.Machine.execVsplat pred eb2 eb1 vb va fmt vd s
  | .vextr pred eb2 eb1 vb va fmt vd => Sys2Proof.Machine.execVextr pred eb2 eb1 vb va fmt vd s
  | .vins pred eb2 eb1 vb va fmt vd => Sys2Proof.Machine.execVins pred eb2 eb1 vb va fmt vd s
  | .vrsum pred eb2 eb1 vb va fmt vd => Sys2Proof.Machine.execVrsum pred eb2 eb1 vb va fmt vd s
  | .vrmax pred eb2 eb1 vb va fmt vd => Sys2Proof.Machine.execVrmax pred eb2 eb1 vb va fmt vd s
  | .vmov pred eb2 eb1 vb va fmt vd => Sys2Proof.Machine.execVmov pred eb2 eb1 vb va fmt vd s
  | .vclass pred eb2 eb1 vb va fmt vd => Sys2Proof.Machine.execVclass pred eb2 eb1 vb va fmt vd s
  | .vld imm7 a d => Sys2Proof.Machine.execVld imm7 a d s
  | .vst imm7 a d => Sys2Proof.Machine.execVst imm7 a d s
  | .vlds eb2 eb1 b a d => Sys2Proof.Machine.execVlds eb2 eb1 b a d s
  | .vsts eb2 eb1 b a d => Sys2Proof.Machine.execVsts eb2 eb1 b a d s
  | .vgath eb2 eb1 b a d => Sys2Proof.Machine.execVgath eb2 eb1 b a d s
  | .vscat eb2 eb1 b a d => Sys2Proof.Machine.execVscat eb2 eb1 b a d s
  | .vsadd eb2 eb1 b a d => Sys2Proof.Machine.execVsadd eb2 eb1 b a d s
  | .vaccr eb1 b a d => Sys2Proof.Machine.execVaccr eb1 b a d s
  | .vaccw eb1 b a d => Sys2Proof.Machine.execVaccw eb1 b a d s
  | .vldp imm7 a d => Sys2Proof.Machine.execVldp imm7 a d s
  | .cvt rnd a b d => Sys2Proof.Machine.execCvt rnd a b d s
  | .fcvtz rnd a b d => Sys2Proof.Machine.execFcvtz rnd a b d s
  | .packb rnd a b d => Sys2Proof.Machine.execPackb rnd a b d s
  | .unpkb a b => Sys2Proof.Machine.execUnpkb a b s
  | .lutw a => Sys2Proof.Machine.execLutw a s
  | .lutx a d => Sys2Proof.Machine.execLutx a d s
  | .zpsub a b d => Sys2Proof.Machine.execZpsub a b d s
  | .mxa n p q => Sys2Proof.Machine.execMxa n p q s
  | .mxz a d => Sys2Proof.Machine.execMxz a d s
  | .mxrd rnd a d => Sys2Proof.Machine.execMxrd rnd a d s
  | .mxwr a d => Sys2Proof.Machine.execMxwr a d s
  | .mxstat a d => Sys2Proof.Machine.execMxstat a d s
  | .mxsync a => Sys2Proof.Machine.execMxsync a s
  | .mxtest a d => Sys2Proof.Machine.execMxtest a d s
  | .mxas pat n p q d => Sys2Proof.Machine.execMxas pat n p q d s
  | .mxcmp pat a b d => Sys2Proof.Machine.execMxcmp pat a b d s
  | .mxmchk pat a b d => Sys2Proof.Machine.execMxmchk pat a b d s
  | .bset a d => Sys2Proof.Machine.execBset a d s
  | .bget a d => Sys2Proof.Machine.execBget a d s
  | .tbnd a b => Sys2Proof.Machine.execTbnd a b s
  | .tcon rnd a b => Sys2Proof.Machine.execTcon rnd a b s
  | .twalk a b => Sys2Proof.Machine.execTwalk a b s
  | .tstat d => Sys2Proof.Machine.execTstat d s
  | .copy rnd a b d => Sys2Proof.Machine.execCopy rnd a b d s
  | .ctile rnd a b d => Sys2Proof.Machine.execCtile rnd a b d s
  | .sealB d => Sys2Proof.Machine.execSealB d s
  | .waitb a => Sys2Proof.Machine.execWaitb a s
  | .testb a d => Sys2Proof.Machine.execTestb a d s
  | .cstage d => Sys2Proof.Machine.execCstage d s
  | .rcfg eb2 eb1 b a d => Sys2Proof.Machine.execRcfg eb2 eb1 b a d s
  | .rfree d => Sys2Proof.Machine.execRfree d s
  | .rpop a d => Sys2Proof.Machine.execRpop a d s
  | .rpush d => Sys2Proof.Machine.execRpush d s
  | .rstatRing a d => Sys2Proof.Machine.execRstatRing a d s
  | .subs eb2 eb1 b a d => Sys2Proof.Machine.execSubs eb2 eb1 b a d s
  | .unsubs d => Sys2Proof.Machine.execUnsubs d s
  | .drain eb1 a d => Sys2Proof.Machine.execDrain eb1 a d s
  | .registerLanding k h reg => Sys2Proof.Machine.execRegisterLanding k h reg s
  | .repeatInstanceIssue k => Sys2Proof.Machine.execRepeatInstanceIssue k s
  | .streamPrefetch k port => Sys2Proof.Machine.execStreamPrefetch k port s
  | .streamPushPerformed k port => Sys2Proof.Machine.execStreamPushPerformed k port s
  | .messageValidation id => Sys2Proof.Machine.execMessageValidation id s
  | .messagePlacement id => Sys2Proof.Machine.execMessagePlacement id s
  | .errorReplyArrival id => Sys2Proof.Machine.execErrorReplyArrival id s
  | .impreciseCauseRaise k h => Sys2Proof.Machine.execImpreciseCauseRaise k h s
  | .firingStart k => Sys2Proof.Machine.execFiringStart k s
  | .hFiringStart k => Sys2Proof.Machine.execHFiringStart k s
  | .serviceRequest id => Sys2Proof.Machine.execServiceRequest id s
  | .serviceReplyArrival id => Sys2Proof.Machine.execServiceReplyArrival id s
  | .engineWake k h => Sys2Proof.Machine.execEngineWake k h s
  | .atomicEngineServe cl => Sys2Proof.Machine.execAtomicEngineServe cl s
  | .leaseGrant cl line grant => Sys2Proof.Machine.execLeaseGrant cl line grant s
  | .leaseEviction cl => Sys2Proof.Machine.execLeaseEviction cl s
  | .leaseRecall line => Sys2Proof.Machine.execLeaseRecall line s
  | .queueRowPerformed id => Sys2Proof.Machine.execQueueRowPerformed id s
  | .barrierWake k h => Sys2Proof.Machine.execBarrierWake k h s
  | .commandAcceptance cl => Sys2Proof.Machine.execCommandAcceptance cl s
  | .copyCompletion cl id err => Sys2Proof.Machine.execCopyCompletion cl id err s
  | .batchCompletion k => Sys2Proof.Machine.execBatchCompletion k s
  | .scoreboardRetire cl id => Sys2Proof.Machine.execScoreboardRetire cl id s
  | .springTile cl rg => Sys2Proof.Machine.execSpringTile cl rg s
  | .outletTile cl rg => Sys2Proof.Machine.execOutletTile cl rg s
  | .engineCommandArrival cl => Sys2Proof.Machine.execEngineCommandArrival cl s
  | .matrixStepStart cl => Sys2Proof.Machine.execMatrixStepStart cl s
  | .matrixStepRetire cl err => Sys2Proof.Machine.execMatrixStepRetire cl err s
  | .engineSelfTest cl ok => Sys2Proof.Machine.execEngineSelfTest cl ok s
  | .mxzPerformed cl acc => Sys2Proof.Machine.execMxzPerformed cl acc s
  | .mxrdPerformed cl acc err => Sys2Proof.Machine.execMxrdPerformed cl acc err s
  | .mxwrPerformed cl acc => Sys2Proof.Machine.execMxwrPerformed cl acc s
  | .vaccPerformed cl acc err => Sys2Proof.Machine.execVaccPerformed cl acc err s
  | .syncMarkerComplete cl id => Sys2Proof.Machine.execSyncMarkerComplete cl id s
  | .mxcmpRetire cl => Sys2Proof.Machine.execMxcmpRetire cl s
  | .chainStepStart cl => Sys2Proof.Machine.execChainStepStart cl s
  | .chainStepRetire cl err => Sys2Proof.Machine.execChainStepRetire cl err s
  | .tlbWalk cl job va => Sys2Proof.Machine.execTlbWalk cl job va s
  | .tlbInvalidationApply id => Sys2Proof.Machine.execTlbInvalidationApply id s
  | .csrPropagation p => Sys2Proof.Machine.execCsrPropagation p s
  | .workQueueAcceptance => Sys2Proof.Machine.execWorkQueueAcceptance s
  | .readyQueueHandover g => Sys2Proof.Machine.execReadyQueueHandover g s
  | .stealRequest p v => Sys2Proof.Machine.execStealRequest p v s
  | .stealAnswer p v thief => Sys2Proof.Machine.execStealAnswer p v thief s
  | .groupPlacement p v => Sys2Proof.Machine.execGroupPlacement p v s
  | .groupBlocksQueue g => Sys2Proof.Machine.execGroupBlocksQueue g s
  | .preemptionTrigger g => Sys2Proof.Machine.execPreemptionTrigger g s
  | .groupPreemption g => Sys2Proof.Machine.execGroupPreemption g s
  | .groupResume g => Sys2Proof.Machine.execGroupResume g s
  | .groupCompletion g => Sys2Proof.Machine.execGroupCompletion g s
  | .launchTimeout l => Sys2Proof.Machine.execLaunchTimeout l s
  | .groupKill g c tv => Sys2Proof.Machine.execGroupKill g c tv s
  | .graphLoad qn w0 w1 => Sys2Proof.Machine.execGraphLoad qn w0 w1 s
  | .graphRun qn w0 w4 w5 => Sys2Proof.Machine.execGraphRun qn w0 w4 w5 s
  | .graphUnload qn w0 => Sys2Proof.Machine.execGraphUnload qn w0 s
  | .graphNodeStart p job gid node => Sys2Proof.Machine.execGraphNodeStart p job gid node s
  | .faultDelivery k => Sys2Proof.Machine.execFaultDelivery k s
  | .park k => Sys2Proof.Machine.execPark k s
  | .parkedFiringResume k src slot => Sys2Proof.Machine.execParkedFiringResume k src slot s
  | .completionIntoFrame id => Sys2Proof.Machine.execCompletionIntoFrame id s
  | .quarantine k site reg second => Sys2Proof.Machine.execQuarantine k site reg second s
  | .watchdogExpiry k h => Sys2Proof.Machine.execWatchdogExpiry k h s
  | .wfmTimeout k h => Sys2Proof.Machine.execWfmTimeout k h s
  | .crossDieDeadline id => Sys2Proof.Machine.execCrossDieDeadline id s
  | .virtualDieRemap p v sk => Sys2Proof.Machine.execVirtualDieRemap p v sk s
  | .dieFaultOffline sk => Sys2Proof.Machine.execDieFaultOffline sk s
  | .dieOnline sk => Sys2Proof.Machine.execDieOnline sk s
  | .frequencyStepStop sk => Sys2Proof.Machine.execFrequencyStepStop sk s
  | .frequencyStepRestart sk => Sys2Proof.Machine.execFrequencyStepRestart sk s
  | .fabricPacketArrival pkt => Sys2Proof.Machine.execFabricPacketArrival pkt s
  | .invocationArrival id => Sys2Proof.Machine.execInvocationArrival id s
  | .remoteAccessArrival id => Sys2Proof.Machine.execRemoteAccessArrival id s
  | .acknowledgementArrival id code data => Sys2Proof.Machine.execAcknowledgementArrival id code data s
  | .invocationReplyArrival id => Sys2Proof.Machine.execInvocationReplyArrival id s
  | .invocationReplyTimeout id => Sys2Proof.Machine.execInvocationReplyTimeout id s
  | .fabricResend id => Sys2Proof.Machine.execFabricResend id s
  | .fabricGiveUp id => Sys2Proof.Machine.execFabricGiveUp id s
  | .linkFailure link => Sys2Proof.Machine.execLinkFailure link s
  | .domainTableUpdate p => Sys2Proof.Machine.execDomainTableUpdate p s
  | .hostCxlMemAccess write pa data => Sys2Proof.Machine.execHostCxlMemAccess write pa data s
  | .doorbellWrite qn v => Sys2Proof.Machine.execDoorbellWrite qn v s
  | .qcfgWrite qn v => Sys2Proof.Machine.execQcfgWrite qn v s
  | .qerrClear qn v => Sys2Proof.Machine.execQerrClear qn v s
  | .icfg0Write p v => Sys2Proof.Machine.execIcfg0Write p v s
  | .ntqconsWrite p v => Sys2Proof.Machine.execNtqconsWrite p v s
  | .pageReady p => Sys2Proof.Machine.execPageReady p s
  | .growAllotment p => Sys2Proof.Machine.execGrowAllotment p s
  | .frequencyStep p => Sys2Proof.Machine.execFrequencyStep p s
  | .dieOffline p => Sys2Proof.Machine.execDieOffline p s
  | .partitionSwitch p => Sys2Proof.Machine.execPartitionSwitch p s
  | .attestationReport => Sys2Proof.Machine.execAttestationReport s
  | .powerCapWrite v => Sys2Proof.Machine.execPowerCapWrite v s
  | .registerWrite off v => Sys2Proof.Machine.execRegisterWrite off v s
  | .debugAttach page => Sys2Proof.Machine.execDebugAttach page s
  | .debugDetach page => Sys2Proof.Machine.execDebugDetach page s
  | .debugHalt page => Sys2Proof.Machine.execDebugHalt page s
  | .debugRun page => Sys2Proof.Machine.execDebugRun page s
  | .singleStep page => Sys2Proof.Machine.execSingleStep page s
  | .stepAbandon page => Sys2Proof.Machine.execStepAbandon page s
  | .powerOnBoot okA okB ident bad => Sys2Proof.Machine.execPowerOnBoot okA okB ident bad s
  | .standbyEntry => Sys2Proof.Machine.execStandbyEntry s
  | .standbyExit => Sys2Proof.Machine.execStandbyExit s
  | .ioDieFailover => Sys2Proof.Machine.execIoDieFailover s
  | .hbmScrub stack lines => Sys2Proof.Machine.execHbmScrub stack lines s
  | .instructionWordFault c tv => Sys2Proof.Machine.execInstructionWordFault c tv s
  | .homeWriteAcknowledgement k id => Sys2Proof.Machine.execHomeWriteAcknowledgement k id s
  | .partitionCreation p quads => Sys2Proof.Machine.execPartitionCreation p quads s
  | .firmwareFrequencyStep sk mult => Sys2Proof.Machine.execFirmwareFrequencyStep sk mult s
  | .powerOff => Sys2Proof.Machine.execPowerOff s
  | .firmwareImageUpdate image => Sys2Proof.Machine.execFirmwareImageUpdate image s

end Sys2Proof.Machine
end

