-- ==== Sys2Proof/Machine/Clock.lean ====
section
/-! DEFINITION. Whose turn it is: owed acts, core turns, reference ticks (R358, R359, R363, R365; notes/assumptions/7.md and 8.md); fetching
an instruction's bytes; how an instruction is placed at the head of the machine. -/

namespace Sys2Proof.Machine

/-- The dies whose clocks an owed act needs (R358). -/
def State.actDies (s : State) (a : Act) : List Nat :=
  let home := fun (o : Origin) (va : Word) => (s.farHome o va).toList
  match a with
  | .land k h reg => k / 512 :: (match ((s.coreAt k).ctxAt h).pend.find? (·.reg == reg) with
    | some q => (if q.more.isEmpty then [q.addr] else q.more).flatMap (home { s.lOrg k with h := h, sup := true })
    | none => [])
  | .ack k id => k / 512 :: (match (s.coreAt k).stores.find? (·.id == id) with
    | some x => home { s.lOrg k with sup := true } x.va
    | none => [])
  | .prefetch k _ | .push k _ | .rep k | .impr k _ | .wake k _ | .bwake k _ | .batchDone k | .fault k | .park k | .resume k _ _
  | .watchdog k _ | .wfmEnd k _ => [k / 512]
  | .serve cl | .accept cl | .copyDone cl _ | .retire cl _ | .spring cl _ | .outlet cl _ | .engArrive cl | .stepStart cl | .stepRetire cl
  | .mxzDone cl _ | .mxrdDone cl _ | .mxwrDone cl _ | .vaccDone cl _ | .syncDone cl _ | .mxcmpDone cl | .chainStart cl | .chainRetire cl
  | .selfTest cl => [cl / 64]
  | .validate id => match Tab.find? s.flights id with
    | some f => (if f.spkg.isSome then [] else [f.org.k / 512])
        ++ (if f.pkg.isSome then [] else [(f.addr.map (·.1 / 64)).getD (f.dst / 512)]).filter s.dieStopped
    | none => []
  | .remArr id => match Tab.find? s.inbound id with
    | some i => [s.homeOf (envF i.words 3 0 48)].filter s.dieStopped
    | none => []
  | .place id => match Tab.find? s.flights id with
    | some f => [f.dst / 512]
    | none => []
  | .errRep id => match Tab.find? s.errs id with
    | some e => [e.org.k / 512]
    | none => []
  | .svcReq id => match Tab.find? s.svcs id with
    | some v => if s.dieStopped (v.cl / 64) then [v.cl / 64] else []
    | none => []
  | .svcReply id => match Tab.find? s.svcs id with
    | some v => [v.org.k / 512]
    | none => []
  | .row id => match Tab.find? s.rows id with
    | some r => [r.org.k / 512]
    | none => []
  | .frameCompl id => match Tab.find? s.frameCompls id with
    | some f => [f.k / 512]
    | none => []
  | .inval id => match Tab.find? s.invals id with
    | some v => (v.cls.map (· / 64)).filter s.dieStopped
    | none => []
  | .placement p v | .steal p v | .answer p v _ => (match s.sockOf p v with
    | some sk => [sk]
    | none => []).filter s.dieStopped
  | .complete g | .kill g _ _ | .preempt g | .resumeGroup g => [(s.groupAt g).cl / 64].filter s.dieStopped
  | _ => []

/-- Whether an owed act waits at the routers for a cluster that is being remapped, from outside it (R352). -/
def State.actHeld (s : State) (a : Act) : Bool :=
  let msg := fun (f : Flight) => s.clMoving (match f.addr with
      | some x => if f.st = 0 then x.1 else f.dst / 8
      | none => f.dst / 8) && (f.spkg.isSome || !s.clMoving (f.org.k / 8))
  match a with
  | .svcReq id => match Tab.find? s.svcs id with
    | some v => s.clMoving v.cl && !s.clMoving (v.org.k / 8)
    | none => false
  | .validate id | .place id => match Tab.find? s.flights id with
    | some f => msg f
    | none => false
  | _ => false

/-- The outcome of an engine's self-test is free (R238). -/
def State.runSelfTest (s : State) (cl : Nat) : Option State :=
  doEngineSelfTest cl (decide (Config.freeValue s.free % 2 = 0)) { s with free := s.free + 1 }

/-- A partition command by its code (R378). -/
def State.runCmd (s : State) (p code : Nat) : Option State :=
  match code with
  | 1 => doPageReady p s
  | 2 => doGrowAllotment p s
  | 3 => doFrequencyStep p s
  | 4 => doDieOffline p s
  | _ => doPartitionSwitch p s

/-- Whether a step from a state to another made a walk in a die's walker (R339): a new TLB entry, a new entry of its page-walk cache, a new page fault. -/
def State.walked (s t : State) (d : Nat) : Bool :=
  let due := fun (c : Core) => c.pageWait.isSome || (match c.faultDue with
    | some (cs, _) => cs.disposition == .park
    | none => false)
  ((t.dieAt d).walks.any fun w => !(s.dieAt d).walks.contains w)
    || decide ((s.heldWalks d).length < (t.heldWalks d).length)
    || List.any t.clusters (fun e => e.1 / 64 == d && e.2.tlb.any fun x => !(s.clusterAt e.1).tlb.contains x)
    || List.any t.cores (fun e => e.1 / 512 == d && due e.2 && !due (s.coreAt e.1))

/-- Whether a step needs a walk of a die whose walker has no room for one, so that it waits (R339). -/
def State.missWaits (s t : State) : Bool := List.any s.dies fun e => s.walkersFull e.1 && s.walked t e.1

/-- What an owed act does: the meaning of the event of its name; none while it is not enabled. -/
def State.actNext (s : State) (a : Act) : Option State :=
  match a with
  | .land k h reg => doRegisterLanding k h reg s
  | .ack k id => doHomeWriteAcknowledgement k id s
  | .prefetch k port => doStreamPrefetch k port s
  | .push k port => doStreamPushPerformed k port s
  | .rep k => doRepeatInstanceIssue k s
  | .validate id => doMessageValidation id s
  | .place id => doMessagePlacement id s
  | .errRep id => doErrorReplyArrival id s
  | .impr k h => doImpreciseCauseRaise k h s
  | .svcReq id => doServiceRequest id s
  | .svcReply id => doServiceReplyArrival id s
  | .wake k h => doEngineWake k h s
  | .bwake k h => doBarrierWake k h s
  | .serve cl => doAtomicEngineServe cl s
  | .row id => doQueueRowPerformed id s
  | .accept cl => doCommandAcceptance cl s
  | .copyDone cl id => doCopyCompletion cl id 0 s
  | .batchDone k => doBatchCompletion k s
  | .retire cl id => doScoreboardRetire cl id s
  | .spring cl rg => doSpringTile cl rg s
  | .outlet cl rg => doOutletTile cl rg s
  | .engArrive cl => doEngineCommandArrival cl s
  | .stepStart cl => doMatrixStepStart cl s
  | .stepRetire cl => doMatrixStepRetire cl 0 s
  | .mxzDone cl acc => doMxzPerformed cl acc s
  | .mxrdDone cl acc => doMxrdPerformed cl acc 0 s
  | .mxwrDone cl acc => doMxwrPerformed cl acc 0 s
  | .vaccDone cl acc => doVaccPerformed cl acc 0 s
  | .syncDone cl id => doSyncMarkerComplete cl id s
  | .mxcmpDone cl => doMxcmpRetire cl s
  | .chainStart cl => doChainStepStart cl s
  | .chainRetire cl => doChainStepRetire cl 0 s
  | .inval id => doTlbInvalidationApply id s
  | .csr p => doCsrPropagation p s
  | .handover g => doReadyQueueHandover g s
  | .placement p v => doGroupPlacement p v s
  | .complete g => doGroupCompletion g s
  | .kill g c tv => doGroupKill g c tv s
  | .node p job gid n => doGraphNodeStart p job gid n s
  | .fault k => doFaultDelivery k s
  | .park k => doPark k s
  | .resume k src slot => doParkedFiringResume k src slot s
  | .frameCompl id => doCompletionIntoFrame id s
  | .packet ws => doFabricPacketArrival ws s
  | .invArr id => doInvocationArrival id s
  | .remArr id => doRemoteAccessArrival id s
  | .ackArr id code data => doAcknowledgementArrival id code data s
  | .invReply id => doInvocationReplyArrival id s
  | .queue => doWorkQueueAcceptance s
  | .resumeGroup g => doGroupResume g s
  | .preempt g => doGroupPreemption g s
  | .halt pg => s.haltStep pg
  | .selfTest cl => s.runSelfTest cl
  | .steal p v => doStealRequest p v s
  | .answer p v thief => doStealAnswer p v thief s
  | .blocks g => doGroupBlocksQueue g s
  | .trigger g => doPreemptionTrigger g s
  | .timeout l => doLaunchTimeout l s
  | .watchdog k h => doWatchdogExpiry k h s
  | .wfmEnd k h => doWfmTimeout k h s
  | .deadline id => doCrossDieDeadline id s
  | .resend id => doFabricResend id s
  | .giveUp id => doFabricGiveUp id s
  | .invTimeout id => doInvocationReplyTimeout id s
  | .domain p => doDomainTableUpdate p s
  | .remap p v sk => doVirtualDieRemap p v sk s
  | .dieOff sk => s.offlineStep sk
  | .faultOff sk => if s.socketMoving sk then none else doDieFaultOffline sk s
  | .cmd p code => s.runCmd p code
  | .stepAbandon pg => doStepAbandon pg s
  | .run pg => doDebugRun pg s
  | .detach pg => doDebugDetach pg s
  | .attest => doAttestationReport s
  | .step pg => doSingleStep pg s

/-- What an owed act comes to: none while a die it needs is stopped, a cluster it goes to is being remapped, or its walk has no room (R339, R352, R358):
no instruction of a stopped die issues (R367). -/
def State.runAct (s : State) (a : Act) : Option State :=
  if ((s.actDies a).any fun d => !(s.dieAt d).running) || s.actHeld a then none
  else (s.actNext a).filter fun t => !s.missWaits t

/-- Whether an act that is not enabled may still come about; one that may not is forgotten. -/
def State.alive (s : State) (a : Act) : Bool :=
  let c := s.coreAt
  let u := s.clusterAt
  match a with
  | .land k h reg => ((c k).ctxAt h).pend.any (·.reg == reg)
  | .ack k id => (c k).stores.any fun x => x.id == id && !x.away
  | .prefetch k port => (c k).mayPrefetch port
  | .push k port => !(Tab.get (c k).ls.ports port {}).pushes.isEmpty
  | .rep k => (c k).ls.rep.count != 0 && (c k).l.fir.active
  | .validate id => match Tab.find? s.flights id with
    | some f => f.st == 0
    | none => false
  | .place id => (Tab.find? s.flights id).isSome
  | .errRep id => (Tab.find? s.errs id).isSome
  | .impr k h => !((c k).ctxAt h).causes.isEmpty
  | .svcReq id | .svcReply id => (Tab.find? s.svcs id).isSome
  | .wake k h => !(s.dieAt (k / 512)).running && s.waiters.any fun w => w.k == k && w.h == h && w.kind != 0
  | .bwake k h => !(s.dieAt (k / 512)).running && s.waiters.any fun w => w.k == k && w.h == h && w.kind == 0
  | .serve cl => !(u cl).amoQ.isEmpty
  | .row id => match Tab.find? s.rows id with
    | some r => !r.done
    | none => false
  | .accept cl => (u cl).dealer.any fun d => !d.accepted
  | .copyDone cl id => (u cl).dealer.any fun d => d.id == id && d.page.isNone
  | .batchDone k => !(c k).batches.isEmpty
  | .retire cl id => (u cl).score.any fun x => x.id == id
  | .spring cl rg | .outlet cl rg => match (Tab.get (u cl).rings rg {}).sub with
    | some x => x.page.isNone
    | none => false
  | .engArrive cl | .stepStart cl | .stepRetire cl | .mxzDone cl _ | .mxrdDone cl _ | .mxwrDone cl _ | .vaccDone cl _ | .mxcmpDone cl
  | .chainStart cl | .chainRetire cl => !(u cl).eng.isEmpty
  | .syncDone cl id => (u cl).eng.any fun e => e.id == id
  | .inval id => (Tab.find? s.invals id).isSome
  | .handover g => (s.launchAt g).waiting
  | .placement p v => s.readyLen p v true != 0 || s.readyLen p v false != 0
  | .complete g => (s.groupAt g).st == 2
  | .kill g .. => (Tab.find? s.groups g).isSome && decide ((s.groupAt g).st ≤ 3)
  | .node p job gid n => (Tab.get s.graphs (graphKey p job gid) {}).pending.contains n
  | .fault k | .park k => (c k).faultDue.isSome
  | .frameCompl id => match Tab.find? s.frameCompls id with
    | some f => f.page.isNone
    | none => false
  | .invArr id | .remArr id => (Tab.find? s.inbound id).isSome
  | .invReply id => (Tab.find? s.invReps id).isSome
  | .resumeGroup g => (s.groupAt g).st == 3
  | .preempt g => (s.groupAt g).stopping
  | .halt pg => (s.dpage pg).att && (s.dpage pg).st == 2
  | .selfTest cl => (u cl).selfTest
  | .remap p v sk => (s.vd p v).dest == some sk
  | .dieOff sk => (s.dieAt sk).evac
  | .faultOff sk => s.socketMoving sk
  | .cmd p code => (s.partAt p).busy != 0 || (code == 5 && (s.switchOf p).isSome)
  | .detach pg => (s.dpage pg).att
  | .run pg | .step pg => (s.dpage pg).att && (s.dpage pg).st == 3
  | _ => false

/-- The state after the turn of an owed act: done; put back behind the others with a turn of the moving core before it; or forgotten. -/
def State.actTurn (s : State) (a : Act) : State :=
  match s.runAct a with
  | some t => t
  | none => if s.alive a then { s with turns := s.turns ++ [.core s.cur, .act a] } else s

/-- The acts that fall due in a tick for launches, groups and idle dies (R281 to R283, R286). -/
def State.dueGroups (s : State) : List Act :=
  let now := s.time.toNat
  (List.filter (fun (e : Nat × Launch) => e.2.st == 1 && e.2.lim != 0 && e.2.paused.isNone && decide (e.2.k15 + e.2.lim < now)) s.launches).map
    (fun e => .timeout e.1)
  ++ (List.filter (fun (e : Nat × Group) => e.2.st == 1 && !e.2.blocks && e.2.passed && decide (e.2.since + 100000 ≤ now)) s.groups).map (fun e => .blocks e.1)
  ++ (List.filter (fun (e : Nat × Group) => e.2.st == 1 && !s.stillSaving e.2.preAsked && decide (e.2.since + 20000 ≤ now)) s.groups).map (fun e => .trigger e.1)
  ++ (s.parts.flatMap fun e => (e.2.vdieNums.filter fun v => !(Tab.get e.2.vdies v {}).steal && s.dieIdle e.1 v
      && e.2.vdieNums.any fun w => w != v && (s.stealable e.1 w).isSome).map fun v => Act.steal e.1 v)

/-- The acts that fall due in a tick on cores (R328, R330, R365, R373). -/
def State.dueCores (s : State) : List Act :=
  let now := s.time.toNat
  let late := fun (t : Option Nat) (n : Nat) => match t with
    | some t => decide (t + n ≤ now)
    | none => false
  (s.cores.flatMap fun e => [false, true].flatMap fun h =>
    let x := e.2.ctxAt h
    (if late x.waitAt 1000000 then [Act.watchdog e.1 h] else []) ++ (if x.wfmAt.isSome then [Act.wfmEnd e.1 h] else [])
      ++ (x.pend.filter fun q => decide (q.sent + 4000 ≤ now)).map fun q => .deadline q.id)
  ++ (s.cores.flatMap fun e => (e.2.stores.filter fun x => !x.away && decide (x.sent + 4000 ≤ now)).map fun x => .deadline x.id)
  ++ (List.filter (fun (e : Nat × Svc) => !e.2.lost && decide (e.2.st < 3) && decide (e.2.sent + 4000 ≤ now)) s.svcs).map (fun e => .deadline e.1)
  ++ (List.filter (fun (e : Nat × DPage) => e.2.stepping) s.dpages).map fun e => .stepAbandon e.1

/-- The acts that fall due in a tick on the fabric (R298, R306). -/
def State.dueLinks (s : State) : List Act :=
  let now := s.time.toNat
  (List.filter (fun (e : Nat × Packet) => decide (e.2.sent + 15000 ≤ now)) s.pkts).map (fun e => .giveUp e.1)
  ++ (List.filter (fun (e : Nat × Packet) => decide (e.2.last + 4000 ≤ now)) s.pkts).map (fun e => .resend e.1)
  ++ (List.filter (fun (e : Nat × InvReply) => !e.2.known && decide (e.2.sent + 30000 ≤ now)) s.invReps).map (fun e => .invTimeout e.1)

/-- The counters of a partition's virtual dies after one tick (R363): a die that runs counts its cycles, in twentieths, so that a relock adds none (R358, R367). -/
def State.countCycles (s : State) : State :=
  { s with parts := s.parts.map fun e => (e.1, { e.2 with vdies := e.2.vdies.map fun d => (d.1, match d.2.sock with
      | some sk => if (s.dieAt sk).running && d.2.dest.isNone then { d.2 with cyc := d.2.cyc + (s.dieAt sk).mult } else d.2
      | none => d.2) }) }

/-- The state after the clocks of the dies that step stop or start in this tick, and deferred steps are announced (R357). -/
def State.clockDies (s : State) : State :=
  s.dies.foldl (fun s e =>
    let s := (doFrequencyStepStop e.1 s).getD s
    let s := (doFrequencyStepRestart e.1 s).getD s
    s.askedStep e.1) s

/-- The state one reference tick later (R359); the timer stands still without power. -/
def State.tick (s : State) : State :=
  if s.dev.power = 0 then s
  else
    let s := State.clockDies { s.countCycles with time := s.time + 1 }
    (s.dueGroups ++ s.dueCores ++ s.dueLinks).foldl State.postOnce s

/-- The state `n` ticks later. -/
def State.ticks (s : State) : Nat → State
  | 0 => s
  | n + 1 => s.tick.ticks n

/-- The state after a core's turn: the next core is to move, and time passes. -/
def State.passTurn (s : State) : State := State.ticks { s with cur := s.nextCore s.cur } s.pace

/-- The state after the moving core's instruction: a step that completed halts its firing again (R373). -/
def State.afterInstr (s : State) (k : Nat) (stepping : Bool) : State :=
  let c := s.coreAt k
  if stepping && c.step == 1 && c.faultDue.isNone && c.l.waitAt.isNone then s.stepHalt k else s

/-- Whether the instruction at the moving context's PC is stopped by a breakpoint (R370): not once it has issued. -/
def State.atBreak (s : State) : Bool := !s.me.inH && !s.ctx.aw.busy && s.breaks s.cur s.ctx.pc

/-- The moving core's instruction: fetched, decoded and executed (R30, R42, R59, R60); a fetch from a stopped die waits (R358, R365); a poisoned line is
raised at the next boundary (R329, code 31). -/
noncomputable def instrStep (s : State) : Out :=
  let pc := s.ctx.pc
  if s.atBreak then .next (s.takeTrap .debugBreakpoint pc 0)
  else match fetchWait pc s with
    | .error (.trap c tv zp) => .next (s.takeTrap c tv zp)
    | .error (.late c tv s') => .next (s'.pendCause s'.org c tv).waited
    | .error _ => .next s.waited
    | .ok _ => match s.fetchWord s.org pc with
      | .error .memoryPoison => .next (s.pendCause s.org .memoryPoison pc)
      | .error c => .next (s.takeTrap c pc 0)
      | .ok (w, s) => match decode w with
        | .error c => .next (s.takeTrap c (tvw w) 0)
        | .ok i => exec i s

/-- What the moving core does in place of an instruction: nothing, or a step of the machine. -/
inductive CoreMove where
  | idle
  | go (s : State)
  | instr

/-- What the L context of the moving core does (R165, R313, R314, R319, R322, R372, R373). -/
def State.moveL (s : State) : CoreMove :=
  let k := s.cur
  let c := s.me
  let or := fun (r : Option State) (m : CoreMove) => match r with
    | some s => .go s
    | none => m
  if c.faultDue.isSome then or (s.tryFault k) .idle
  else if !c.l.fir.active then
    if c.step != 0 then .go (s.stepHalt k)
    else match s.dueFiring k with
      | some (src, slot, _) => or (doParkedFiringResume k src slot s) .idle
      | none => or (s.startL k) .idle
  else if c.step == 2 && c.l.fir.kind != 2 then .go (s.stepHalt k)
  else if c.l.aw.busy then .instr
  else or (s.raisePending k false) (if s.lStopped k || !c.l.causes.isEmpty || (c.step == 1 && c.ls.rep.count != 0) then .idle else .instr)

/-- What the moving core does (R165, R167): its H firing, an H queue entry, its L context. -/
def State.move (s : State) : CoreMove :=
  let k := s.cur
  let c := s.me
  if !(s.dieAt (k / 512)).running || c.pageWait.isSome then .idle
  else if c.h.fir.active then
    if c.h.aw.busy then .instr
    else if s.coreHeld k then .idle
    else match s.raisePending k true with
      | some s => .go s
      | none => .instr
  else if s.coreHeld k && !c.l.aw.busy then .idle
  else match (if c.l.aw.busy then none else s.startH k) with
    | some s => .go s
    | none => s.moveL

/-- The turn of the moving core. -/
noncomputable def coreStep (s : State) : Out :=
  match s.move with
  | .idle => .next s.passTurn
  | .go t => .next (if s.missWaits t then s else t).passTurn
  | .instr => match instrStep s with
    | .next t => .next (if s.missWaits t then s.waited else t.afterInstr s.cur (s.me.step == 1)).passTurn
    | .fault r => .fault r
    | .refused r => .refused r

/-- The state after a stretch of ticks loses one: what falls due comes first. -/
def State.timeTurn (s : State) (n : Nat) : State :=
  match n with
  | 0 => s
  | n + 1 => let s := s.tick
    if n = 0 then s else { s with turns := s.turns ++ [.time n] }

/-- One step of the machine: the next turn, or the moving core when no turn is due. -/
noncomputable def turnStep (s : State) : Out :=
  match s.turns with
  | [] => coreStep s
  | .event i :: rest => exec i { s with turns := rest }
  | .act a :: rest => .next (State.actTurn { s with turns := rest } a)
  | .core k :: rest => coreStep { s with turns := rest, cur := k }
  | .time n :: rest => .next (State.timeTurn { s with turns := rest } n)

/-- Where a placed word stands. -/
def placedPc : Nat := 0x100000
/-- The tables that map the first gigabyte of a job one to one, for every access of a user. -/
def placedTables : List (Nat × Nat) :=
  [(0x10000, 2 ^ 63 + 0x12000), (0x12000, 2 ^ 63 + 2 ^ 62 + 2 ^ 61 + 2 ^ 60 + 2 ^ 59), (0x12008, 2 ^ 64 - 1)]

/-- The state with an instruction placed where the next step fetches (notes/assumptions/22.md): a package that is up, with a partition of one
quadrant, a job with the tables above, and a launch firing of a one-core group on core 0 at the word. -/
def State.placeWord (s : State) (bs : List Byte) : State :=
  let g := s.nextId
  let s := { s with turns := [], cur := 0, nextId := s.nextId + 2, dev := { s.dev with power := 2, boot := 1 } }
  let s := placedTables.foldl (fun s e => s.writeNum (.hbm e.1) 8 e.2) s
  let s := (s.writeAt (.hbm placedPc) bs).modDie 0 fun d => { d with online := true, running := true, next := none }
  let s := s.modPart 0 fun p => { p with
    made := true, shadow := false, halted := false, vdies := Tab.set p.vdies 0 { sock := some 0, quads := [0] }, apers := []
    jobs := Tab.set p.jobs 0 { root := 0x10000, pool := 0x20000000 } }
  let s := { s with quads := Tab.set s.quads 0 0, poison := s.poison.filter fun l => l != placedPc / 64 }
  let s := (s.modLaunch (g + 1) fun l => { l with st := 1, part := 0, job := 0, cpg := 1, ngrp := 1, handed := 1, ent := 16, flt := 17 }).modGroup g fun _ =>
    { st := 2, launch := g + 1, part := 0, job := 0, cl := 0, slot := 0, cores := [0], units := 1 }
  let s := s.modCluster 0 fun c => { c with tlb := [], gslots := Tab.set c.gslots 0 g }
  s.modCore 0 fun _ => {
    l := { pc := BitVec.ofNat 64 placedPc, fir := { active := true, fid := g, gid := g } }
    bound := some g, armed := true, dataL := some g }

end Sys2Proof.Machine
end

