-- ==== Sys2Proof/Safety.lean ====
section
/-! DEFINITION. What counts as a safe run: no step of it stops, and every memory keeps its canonical form, so that equal memories are equal
data. -/

namespace Sys2Proof

open Sys2Proof.Machine

/-- Every byte memory of the machine is in canonical form: addresses strictly rising, no byte listed that equals what an unlisted one reads
as. -/
def MemoryCanonical (s : State) : Prop :=
  s.hbm.wf = true ∧ s.hostMem.wf = true
    ∧ (∀ e ∈ s.clusters, Memory.wf e.2.scratch = true) ∧ (∀ e ∈ s.cores, Memory.wf e.2.priv = true)
    ∧ ∀ e ∈ s.shadows, (∀ c ∈ e.2.cls, Memory.wf c.2.scratch = true) ∧ ∀ c ∈ e.2.cores, Memory.wf c.2.priv = true

/-- A step that goes on. -/
def Goes (o : Host.Outcome State Fault Refusal) : Prop := ∃ t, o = .next t

/-- A run of `n` steps that neither faults nor is refused. -/
noncomputable def SafeFor (n : Nat) (s : State) : Prop := Goes (core.run n s)

end Sys2Proof
end

