-- ==== Sys2Proof/Claims.lean ====
section
/-! DEFINITION. The words that the statements are written in: what a register reads as, when a register may be read or written, what an
instruction leaves unchanged, and how an instruction completes. -/

namespace Sys2Proof.Claims

open Sys2Proof.Machine

/-- X[r] of the moving firing (R43). -/
def X (s : State) (r : BitVec 5) : Word := if r = 0 then 0 else Tab.get s.ctx.x r.toNat 0
/-- F[r] of the moving firing. -/
def F (s : State) (r : BitVec 5) : Word := Tab.get s.ctx.f r.toNat 0
/-- V[n] of the moving core. -/
def V (s : State) (n : Nat) : VWord := Tab.get s.ls.v n 0
/-- P[n] of the moving core: p0 reads all ones (R43). -/
def P (s : State) (n : Nat) : BitVec 32 := if n = 0 then BitVec.allOnes 32 else Tab.get s.ls.p n 0

/-- A source that is no stream and is full: its read neither waits nor raises a cause (R42 step 9, R44). -/
def Readable (s : State) (r : Nat) : Prop := r = 0 ∨ (s.portOf (r / 256) (r % 256) = none ∧ r ∉ s.ctx.empty)
/-- A destination that is no stream and awaits no producer (R45). -/
def Writable (s : State) (r : Nat) : Prop :=
  r = 0 ∨ (s.portOf (r / 256) (r % 256) = none ∧ ∀ q ∈ s.ctx.pend, q.reg = r → q.port.isSome = true)
/-- Every register of two lists may be read, or written. -/
def Ready (s : State) (srcs dsts : List Nat) : Prop := (∀ r ∈ srcs, Readable s r) ∧ ∀ r ∈ dsts, Writable s r
/-- The f registers that the moving context has: an H firing names f0 to f7 only (R43). -/
def Named (s : State) (fs : List (BitVec 5)) : Prop := s.me.inH = true → ∀ r ∈ fs, r.toNat < 8
/-- No repetition is active (R129). -/
def Idle (s : State) : Prop := s.repeating = false
/-- No debugger is attached to the group of the moving firing (R369): no watchpoint can match. -/
def Unwatched (s : State) : Prop := s.pageOf s.fir.gid = none

/-- The registers that an instruction leaves alone: every x, f and v register outside the list keeps its value and its full or empty
state; the given fflags are raised and no other bit of fcsr changes; the trap registers, the predicates, the bonds, the repeat, chain
and copy state and every other special register stay. -/
def Regs0 (s t : State) (rs : List Nat) (fl : BitVec 8) : Prop :=
  t.cur = s.cur ∧ (∀ r, xr r ∉ rs → X t r = X s r) ∧ (∀ r, fr r ∉ rs → F t r = F s r) ∧ (∀ n, 512 + n ∉ rs → V t n = V s n)
    ∧ (∀ r, r ∉ rs → (r ∈ t.ctx.empty ↔ r ∈ s.ctx.empty)) ∧ t.ctx.fcsr = s.ctx.fcsr ||| fl
    ∧ t.ctx.zcause = s.ctx.zcause ∧ t.ctx.ztval = s.ctx.ztval ∧ t.ctx.causes = s.ctx.causes
    ∧ { t.ls with v := s.ls.v, ports := s.ls.ports } = s.ls

/-- The same, and the firing, the ports and the arrival record too. -/
def Regs (s t : State) (rs : List Nat) (fl : BitVec 8) : Prop :=
  Regs0 s t rs fl ∧ t.fir = s.fir ∧ t.ls.ports = s.ls.ports ∧ t.ctx.arrivals = s.ctx.arrivals

/-- Every byte of memory reads as before. -/
def Bytes (s t : State) : Prop := ∀ l, t.byteAt l = s.byteAt l

/-- A core without what the frame of an instruction names one by one. -/
def plain (c : Core) : Core :=
  { c.putCtx c.inH { c.ctx with x := [], f := [], empty := [], fcsr := 0, pc := 0, waitAt := none, passed := 0 } with
    instret := 0, dirty := [], ls := { c.ls with v := [] } }

/-- The whole frame: the registers of `Regs`; every byte of memory; every other part of the moving core but the program counter and the
count of instructions; every other core; and everything outside the cores. -/
def Keeps (s t : State) (rs : List Nat) (fl : BitVec 8) : Prop :=
  Regs s t rs fl ∧ Bytes s t ∧ plain t.me = plain s.me ∧ (∀ k, k ≠ s.cur → t.coreAt k = s.coreAt k) ∧ { t with cores := s.cores } = s

/-- An instruction of the moving context has completed and goes on at `pc` (R73). -/
def Retired (s t : State) (pc : Word) : Prop := t.ctx.pc = pc ∧ t.me.instret = s.me.instret + 1
/-- An instruction has completed and goes on at the next word. -/
def Next (s t : State) : Prop := Retired s t (s.ctx.pc + 4)

/-- The instruction completes in a state of which `Q` holds. -/
def Runs (i : Instr) (s : State) (Q : State → Prop) : Prop := ∃ t, exec i s = .next t ∧ Q t

/-- The instruction raises a cause with a value and has no other effect: as a precise trap from the state it began in or, of a cause that R329 makes
imprecise, as a pending cause of its firing, at whose next boundary it is taken. -/
def Raised (i : Instr) (s : State) (c : Cause) (tv : Word) : Prop :=
  exec i s = .next (if lateCause c then (s.pendCause s.org c tv).waited else s.takeTrap c tv 0)

/-- X[d] := v, and nothing else but the program counter: x0 keeps reading zero (R43). -/
def SetsX (s : State) (d : BitVec 5) (v : Word) (pc : Word) (t : State) : Prop :=
  X t d = (if d = 0 then 0 else v) ∧ (d ≠ 0 → xr d ∉ t.ctx.empty) ∧ Keeps s t [xr d] 0 ∧ Retired s t pc
/-- X[d] := v with fflags raised, at the next word. -/
def SetsXFl (s : State) (d : BitVec 5) (v : Word) (fl : Nat) (t : State) : Prop :=
  X t d = (if d = 0 then 0 else v) ∧ (d ≠ 0 → xr d ∉ t.ctx.empty) ∧ Keeps s t [xr d] (BitVec.ofNat 8 fl) ∧ Next s t
/-- F[d] := v with fflags raised, at the next word. -/
def SetsF (s : State) (d : BitVec 5) (v : Word) (fl : Nat) (t : State) : Prop :=
  F t d = v ∧ fr d ∉ t.ctx.empty ∧ Keeps s t [fr d] (BitVec.ofNat 8 fl) ∧ Next s t
/-- V[d] := v, at the next word. -/
def SetsV (s : State) (d : BitVec 4) (v : VWord) (fl : Nat) (t : State) : Prop :=
  V t d.toNat = v ∧ vr d ∉ t.ctx.empty ∧ Keeps s t [vr d] (BitVec.ofNat 8 fl) ∧ Next s t

/-- A register has become empty and a producer with the given value, flags and address will land in it (R44); register 0 awaits nothing. -/
def Awaits (s t : State) (r v fl : Nat) (div : Bool) (addr : Word) : Prop :=
  (∃ id g, t.ctx.pend = s.ctx.pend ++ [{ id := id, reg := r, val := v, fl := fl, addr := addr, div := div, glob := g, sent := s.time.toNat }])
    ∧ (r ≠ 0 → r ∈ t.ctx.empty) ∧ Turn.act (.land s.cur s.me.inH r) ∈ t.turns

/-- The mode of an F form: rm, or frm when rm is 111; none for the codes that R64 reserves. -/
def Rounding (s : State) (rm : BitVec 3) : Option Rnd :=
  match (if rm = 7 then s.ctx.fcsr.extractLsb' 5 3 else rm).toNat with
  | 0 => some .rne
  | 1 => some .rtz
  | 2 => some .rdn
  | 3 => some .rup
  | _ => none

/-- The access of `n` bytes at `p` passes every check and reaches `sp`; translation leaves the state `s1` (R61). -/
def Reached (s : State) (p : Word) (n : Nat) (k : AKind) (sp : Spot) (s1 : State) : Prop :=
  ∃ c, s.reach s.org p n k = .ok ({ spot := sp, cnt := c }, s1)

/-- Byte `i` of a number, the least significant first (R1). -/
def byteOf (v i : Nat) : Byte := BitVec.ofNat 8 (v / 256 ^ i)

/-- `n` bytes from `l` up hold the bytes of `v`, and every other byte reads as before. -/
def Stored (s t : State) (l : Loc) (n v : Nat) : Prop :=
  (∀ i, i < n → t.byteAt (l.plus i) = byteOf v i) ∧ ∀ l', (∀ i, i < n → l' ≠ l.plus i) → t.byteAt l' = s.byteAt l'

/-- The moving core may have one more global read outstanding: it has fewer than 48 (R12). -/
def Room (s : State) : Prop := ((s.me.l.pend ++ s.me.h.pend).filter (·.glob)).length < 48

/-- A place in a private memory or in a scratchpad: read and written at once (R62). -/
def AtOnce : Loc → Prop
  | .priv _ _ => True
  | .scratch _ _ => True
  | _ => False

/-- The state in which the engine of the moving core's cluster performs an operation of `n` bytes at a checked place: the core's own stores are
performed (R62), the core served and the use of the lease are noted (R178, R179). -/
def engineState (s1 : State) (r : Reach) (n : Nat) : State := ((s1.flush s1.cur).counted s1.org r n).amoServed r.spot

/-- An operation of `n` bytes at `p` is performed at once at the place `l` of this package, which it finds as `m` shows it: its address passes
the checks, no command in flight and no earlier access of the core holds the place, the die of its home runs, the engine turns to this core next,
the line is not poisoned, and the instruction has no request out. -/
def Performs (s : State) (p : Word) (n : Nat) (l : Loc) (m : State) : Prop :=
  ∃ s1 c, s.reach s.org p n .amo = .ok ({ spot := .flat l, cnt := c }, s1) ∧ (∀ k a, l ≠ .remote k a)
    ∧ s1.blocked (.flat l) n true = false ∧ s1.dieHolds (.flat l) true = false ∧ s1.amoFirst s1.cl s1.amoMine = true
    ∧ s1.poisoned (.flat l) n = false ∧ s.ctx.aw = .none ∧ m = engineState s1 { spot := .flat l, cnt := c } n

/-- X[d] := v, the registers otherwise and the program counter as after an atomic operation. -/
def Answers (s : State) (d : BitVec 5) (v : Word) (t : State) : Prop :=
  X t d = (if d = 0 then 0 else v) ∧ (d ≠ 0 → xr d ∉ t.ctx.empty) ∧ Regs s t [xr d] 0 ∧ Next s t

/-- X[d] := v and the program counter; the registers of `Regs0`. -/
def Answers0 (s : State) (d : BitVec 5) (v : Word) (t : State) : Prop :=
  X t d = (if d = 0 then 0 else v) ∧ (d ≠ 0 → xr d ∉ t.ctx.empty) ∧ Regs0 s t [xr d] 0 ∧ Next s t

/-- Every write the moving core has issued within the package is performed (R141). -/
def Released (s : State) : Prop := s.quiet s.cur = true
/-- No read the core has issued, in either context, is still on its way (R148). -/
def ReadsBack (s : State) : Prop := ∀ q ∈ s.me.l.pend ++ s.me.h.pend, q.div = true
/-- The L1 and the unconsumed prefetched items of the moving core are discarded (R122, R132). -/
def Acquired (s t : State) : Prop :=
  t.me.l1 = [] ∧ t.ls.ports = s.ls.ports.map fun e => (e.1, { e.2 with pre := [] })

/-- The handler index `h` that a selector names: its low six bits, or bits 11:0 of a loaded kitty word (R38, R49). -/
def Selects (s : State) (imm7 : BitVec 7) (h : Nat) : Prop :=
  if imm7.toNat < 64 then h = imm7.toNat
  else imm7.toNat % 64 < s.me.constLen ∧ h = s.numAt (.priv s.cur (8 * (16 + imm7.toNat % 64))) 8 % 2 ^ 12

/-- A pointer whose address passes the tag and canonical checks and routes to an offset of a cluster's scratchpad (R61, R160). -/
def Routed (s : State) (p : Word) (cl off : Nat) : Prop :=
  tagOk p = true ∧ canonical p = true ∧
    let a := p.toNat % 2 ^ 48
    (0xFFFE00000000 ≤ a ∧ a < 0xFFFE10000000 ∧ s.clusterOf s.fir.part (a / 2 ^ 25 % 8) (a / 2 ^ 19 % 64) = some cl ∧ off = a % 2 ^ 19)
      ∨ (0xFFFFE0000000 ≤ a ∧ a < 0xFFFFE0080000 ∧ cl = s.cur / 8 ∧ off = a - 0xFFFFE0000000)

/-- A target word that names core `k` of this package (R159). -/
def Targets (s : State) (n k : Nat) : Prop :=
  n / 2 ^ 62 % 2 = 0 ∧ n / 2 ^ 48 % 2 ^ 12 = (if n / 2 ^ 63 = 1 then s.pkgId else 0) ∧ n % 2 ^ 16 ≤ 127 ∧ n / 2 ^ 16 % 2 ^ 16 ≤ 31
    ∧ s.coreOf s.fir.part (n % 2 ^ 16) (n / 2 ^ 16 % 2 ^ 16) = some k

/-- The moving firing has an egress slot: a reserved one, or in a launch firing a free unreserved one (R164). -/
def Egressed (s : State) : Prop := 0 < s.fir.resv ∨ (s.fir.kind = 0 ∧ s.egressFree s.cur s.me.inH ≠ 0)

/-- The eight words of a message of the moving core (R157). -/
def messageOf (s : State) (argc : Nat) (pri sup : Bool) (h : Nat) : List Word :=
  padTo 8 0 (BitVec.ofNat 64 (s.me.sendCtr.toNat * 2 ^ 52 + argc * 2 ^ 49 + b2n pri * 2 ^ 45 + b2n sup * 2 ^ 44 + h * 2 ^ 32
    + s.meshWord s.fir.part s.cur % 2 ^ 32) :: (List.range argc).map fun i => X s (BitVec.ofNat 5 (10 + i)))

/-- A message has been handed to egress: it is in flight and its validation is owed; one reserved slot is used, the count of sends advances
(R158, R164, R171). -/
def Posted (s t : State) (f : Flight) : Prop :=
  t.flights = Tab.set s.flights s.nextId { f with unres := decide (s.fir.resv = 0) } ∧ Turn.act (.validate s.nextId) ∈ t.turns
    ∧ t.fir = { s.fir with resv := s.fir.resv - 1 } ∧ t.me.sendCtr = s.me.sendCtr + 1

/-- Lane `i` of width `w` of V[d] becomes `g i` where `on i` holds and keeps its value elsewhere; nothing else changes (R98). -/
def SetsLanes (s : State) (d : BitVec 4) (w : Nat) (on : Nat → Bool) (g : Nat → Nat) (t : State) : Prop :=
  (∀ i, i < 256 / w → lane w (V t d.toNat) i = if on i then g i % 2 ^ w else lane w (V s d.toNat) i) ∧ vr d ∉ t.ctx.empty
    ∧ Keeps s t [vr d] 0 ∧ Next s t

/-- The same as lanes of a register that is empty until they land (R105). -/
def AwaitsLanes (s : State) (d : BitVec 4) (w : Nat) (on : Nat → Bool) (g : Nat → Nat) (t : State) : Prop :=
  (∃ v : VWord, (∀ i, i < 256 / w → lane w v i = if on i then g i % 2 ^ w else lane w (V s d.toNat) i)
      ∧ Awaits s t (vr d) v.toNat 0 false 0) ∧ Regs s t [vr d] 0 ∧ Bytes s t ∧ Next s t

/-- P[d] := v (p0 keeps reading all ones), and nothing else but the program counter (R43, R102). -/
def SetsP (s : State) (d : Nat) (v : BitVec 32) (t : State) : Prop :=
  P t d = (if d = 0 then BitVec.allOnes 32 else v) ∧ (∀ n, n ≠ d → P t n = P s n) ∧ t.cur = s.cur ∧ { t.ls with p := s.ls.p } = s.ls
    ∧ { t.ctx with pc := s.ctx.pc, waitAt := s.ctx.waitAt, passed := s.ctx.passed } = s.ctx ∧ Bytes s t ∧ Next s t

/-- Lane result of an element format: the float operation of its format, or the integer one on signed values, of which the low bits stay
(R100, R101). -/
def laneOp (fmt : BitVec 3) (fl : FFmt → Nat) (int : (Nat → Int) → Int) : Nat :=
  match floatFmt (fmt.toNat + 1) with
  | some f => fl f
  | none => (int (signed (vW fmt)) % (2 ^ vW fmt : Nat)).toNat

/-- No other group holds an accumulator of the moving core's cluster (R224). -/
def AccOpen (s : State) (n : Nat) : Prop := ∀ g, (s.acc n).holder = some g → g = s.fir.gid

/-- No service write, no queue row and no stream push within the package of the moving core is on its way: a command that it issues has no earlier
write of the core's to wait for but its stores, which are performed before it (R145). -/
def Settled (s : State) : Prop :=
  (∀ e ∈ s.me.ls.ports, ∀ x ∈ e.2.pushes, x.gone = true) ∧ (∀ e ∈ s.svcs, ¬ (e.2.org.k = s.cur ∧ e.2.writes = true ∧ e.2.await = false)) ∧ ∀ e ∈ s.rows, e.2.done = true ∨ e.2.org.k ≠ s.cur

/-- The engine queue of the moving core's cluster has room for one more command and its scoreboard for `k` more entries (R205, R228), and the core's
service writes and rows are performed. -/
def EngineRoom (s : State) (k : Nat) : Prop :=
  Settled s ∧ (s.clusterAt (s.cur / 8)).eng.length < 16 ∧ (s.clusterAt (s.cur / 8)).score.length + k ≤ 32

/-- A command of the moving firing is the last of its cluster's engine queue, with the translated pieces of its link, if it has one, and its
scoreboard entries, and its arrival is owed (R205, R228). -/
def Queued (s t : State) (op : EOp) (entries : List (List (Nat × Nat) × List (Nat × Nat))) (outs : List (Nat × Nat))
    (link : Option (List Piece) := none) : Prop :=
  ∃ id, (t.clusterAt (s.cur / 8)).eng = (s.clusterAt (s.cur / 8)).eng ++ [{ id := id, org := s.org, op := op, outs := outs, link := link.map keptLink }]
    ∧ (t.clusterAt (s.cur / 8)).score = (s.clusterAt (s.cur / 8)).score
      ++ entries.map (fun e => { id := id, gid := s.fir.gid, k := s.cur, rd := e.1, wr := e.2 })
    ∧ Turn.act (.engArrive (s.cur / 8)) ∈ t.turns

/-- The same, the core's stores within the package performed (R145), the accumulator claimed for the firing's group, and nothing else changed but the
program counter (R224). -/
def Issues (s t : State) (n : Nat) (op : EOp) (entries : List (List (Nat × Nat) × List (Nat × Nat))) (outs : List (Nat × Nat)) : Prop :=
  Queued s t op entries outs ∧ t.acc n = { s.acc n with holder := some s.fir.gid } ∧ Regs s t [] 0 ∧ Bytes (s.flush s.cur) t ∧ Next s t

/-- `n` bytes from `p` up lie in the own-cluster window, from offset `off`. -/
def InWindow (p : Word) (n off : Nat) : Prop := p.toNat % 2 ^ 48 = 0xFFFFE0000000 + off ∧ off + n ≤ 0x80000 ∧ off < 0x80000
/-- The same, in the group's allotment (R233). -/
def GroupRange (s : State) (p : Word) (n off : Nat) : Prop := InWindow p n off ∧ (s.groupAt s.fir.gid).holds off n = true
/-- The same, in the group's allotment or, in a supervisor firing, anywhere in the window (R69). -/
def OwnRange (s : State) (p : Word) (n off : Nat) : Prop := InWindow p n off ∧ (s.fir.sup = true ∨ (s.groupAt s.fir.gid).holds off n = true)

/-- A pointer with a tag and a block log that fit and a canonical address (R61, R83). -/
def Sound (p : Word) : Prop := tagOk p = true ∧ blogOk (p.toNat / 2 ^ 59) (p.toNat / 2 ^ 56 % 8) = true ∧ canonical p = true

/-- `n` bytes from an address up, which is not reduced, lie whole in one region that a copy may use (R199): below the windows, in the group's allotment
in the own-cluster window, or in the window of one cluster's scratchpad (of the own one, in the allotment). -/
def Within (s : State) (a n : Nat) : Prop :=
  let own := fun (off : Nat) => (s.groupAt s.fir.gid).holds off n = true
  n = 0 ∨ a + n ≤ 0xFFFE00000000 ∨ (∃ off, a = 0xFFFFE0000000 + off ∧ off < 0x80000 ∧ off + n ≤ 0x80000 ∧ own off)
    ∨ (0xFFFE00000000 ≤ a ∧ a < 0xFFFE10000000 ∧ a % 2 ^ 19 + n ≤ 0x80000 ∧
      ∃ cl, s.clusterOf s.fir.part (a / 2 ^ 25 % 8) (a / 2 ^ 19 % 64) = some cl ∧ (cl = s.cur / 8 → own (a % 2 ^ 19)))

/-- The tag pairs that a copy moves or converts (R197); `block` where it handles the block formats. -/
def Convertible (src dst : Word) (rnd : Nat) (block : Bool) : Prop :=
  let f := src.toNat / 2 ^ 59
  let g := dst.toNat / 2 ^ 59
  (f = g ∧ (f = 0 ∨ src.toNat / 2 ^ 56 = dst.toNat / 2 ^ 56) ∧ (block = true ∨ f ∉ [9, 10])) ∨ (f ∈ [1, 2, 3, 4, 5, 6, 7, 8] ∧ g ∈ [1, 2, 3, 4, 5, 6, 7, 8])
    ∨ (block = true ∧ f ∈ [1, 2, 3] ∧ g ∈ [9, 10] ∧ rnd ≠ 5) ∨ (block = true ∧ f ∈ [9, 10] ∧ g ∈ [1, 2, 3, 4, 5, 6, 7, 8])

/-- A copy command whose pointers, tags, count, alignment and ranges pass the checks of R199. -/
def CopySound (s : State) (c : DCmd) : Prop :=
  Sound c.src ∧ Sound c.dst ∧ Convertible c.src c.dst c.rnd (c.kind != 2) ∧ c.countBad = false
    ∧ c.src.toNat % 2 ^ 48 % copyAlign (tagOf c.src) = 0 ∧ c.dst.toNat % 2 ^ 48 % copyAlign (tagOf c.dst) = 0
    ∧ Within s c.srcRange.1 c.srcRange.2 ∧ Within s c.dstRange.1 c.dstRange.2

/-- A command of the moving firing has been accepted by its cluster's dealer, the last of it, in the firing's open batch and under the
firing's next sequence number; its completion is owed, and the core's stores within the package are performed before it (R145). Nothing else of
the core changes but the program counter and, for a command with a completion of its own, the completion area (R192, R194, R198, R202, R205). -/
def Accepted (s t : State) (c : DCmd) : Prop :=
  ∃ id bid,
    let c' : DCmd := { c with
      id := id, batch := bid, place := s.ls.batchSize, seq := s.ls.copySeq, accepted := true, since := s.time.toNat
      seed := (s.partAt s.fir.part).csr.seed }
    (t.clusterAt (s.cur / 8)).dealer = (s.clusterAt (s.cur / 8)).dealer.filter (fun x => x.id != id) ++ [c']
      ∧ (t.clusterAt (s.cur / 8)).score = (s.clusterAt (s.cur / 8)).score ++ s.copyScore c'
      ∧ (∃ b ∈ t.me.batches, b.bid = bid ∧ b.fid = s.fir.fid ∧ b.isSealed = false)
      ∧ t.me.ca = (if c.own then s.me.ca ++ [{ id := id, fid := s.fir.fid, hdl := c.hdl }] else s.me.ca)
      ∧ Turn.act (.copyDone (s.cur / 8) id) ∈ t.turns ∧ t.ls = { s.ls with copySeq := s.ls.copySeq + 1, batchSize := s.ls.batchSize + 1 }
      ∧ { t.ctx with pc := s.ctx.pc, waitAt := s.ctx.waitAt, passed := s.ctx.passed } = s.ctx ∧ Bytes (s.flush s.cur) t ∧ Next s t

/-- A ring descriptor of the moving core's cluster becomes `r`, and nothing else but the program counter. -/
def SetsRing (s t : State) (n : Nat) (r : Ring) : Prop :=
  (t.clusterAt (s.cur / 8)).rings = Tab.set (s.clusterAt (s.cur / 8)).rings n r ∧ Regs s t [] 0 ∧ Bytes s t ∧ Next s t

/-- No push of a killed firing awaits a producer of this name (R124). -/
def Unowed (s : State) (id : Nat) : Prop := ∀ x ∈ s.lastPushes, ∀ q, x.pend = some q → q.id ≠ id
/-- A group that was neither complete nor killed has been killed by a cause with its value: it is counted as killed or, once, queued again where its
launch has its groups run again and the cause allows it (R286, R323). -/
def Killed (s t : State) (g : Nat) (c : Cause) (tv : Word) : Prop :=
  ∀ gr, Tab.find? s.groups g = some gr → gr.st ≠ 4 → gr.st ≠ 5 → (t.groupAt g).killed = some (c, tv)
    ∧ ((t.groupAt g).st = 1 ↔ c ∈ [Cause.engineFailed, .coreQuarantined, .uncorrectableRegister] ∧ (s.launchAt gr.launch).rty = true ∧ gr.rerun = false)
    ∧ ((t.groupAt g).st = 1 ∨ (t.groupAt g).st = 5)
/-- The completion slot `id` is reserved in the area of its issuer's core, whose L firing is still the issuer (R169). -/
def Reserved (s : State) (o : Origin) (id : Nat) : Prop :=
  (∃ x ∈ (s.coreAt o.k).ca, x.id = id) ∧ (s.coreAt o.k).l.fir.active = true ∧ (s.coreAt o.k).l.fir.fid = o.fid
/-- A completion of a source class that names no handler stands in its slot, with five argument words (R157, R194). -/
def Reported (t : State) (o : Origin) (id src : Nat) (args : List Word) : Prop :=
  (∃ x ∈ (t.coreAt o.k).ca, x.id = id) ∧ ∀ x ∈ (t.coreAt o.k).ca, x.id = id →
    ∃ m, x.msg = some m ∧ m.hdl = 0 ∧ m.src = src ∧ m.fid = o.fid ∧ ∀ i, i < 5 → m.words.getD (1 + i) 0 = args.getD i 0

/-- The oldest command of an engine queue on an accumulator, sync markers apart, and it has arrived (R228, R229). -/
def OldestOn (c : Cluster) (acc : Nat) (e : ECmd) : Prop :=
  e.arrived = true ∧ e.op.acc? = some acc ∧ ∃ pre post, c.eng = pre ++ e :: post
    ∧ ∀ x ∈ pre, x.op.acc? = some acc → ∃ a slot, x.op = .sync a slot
/-- A command has left its engine's queue with its scoreboard entries (R205, R229). -/
def Left (t : State) (cl id : Nat) : Prop := (∀ x ∈ (t.clusterAt cl).eng, x.id ≠ id) ∧ ∀ x ∈ (t.clusterAt cl).score, x.id ≠ id
/-- No earlier entry of a cluster's scoreboard holds a command back (R205). -/
def Unhindered (s : State) (cl id : Nat) : Prop :=
  ∀ m ∈ (s.clusterAt cl).score, m.id = id → conflicts id m.rd m.wr (s.clusterAt cl).score = false
/-- The bytes `bs` stand from an offset of a cluster's scratch up, and every other byte is as in `s`. -/
def Filled (s t : State) (cl off : Nat) (bs : List Byte) : Prop :=
  (∀ i, i < bs.length → t.byteAt (.scratch cl (off + i)) = bs.getD i 0)
    ∧ ∀ l, (∀ i, i < bs.length → l ≠ .scratch cl (off + i)) → t.byteAt l = s.byteAt l

end Sys2Proof.Claims
end

