-- ==== Sys2Proof/Certificates/Slice0/Obligations.lean ====
section
/-! DEFINITION. The statements about this machine, one definition each; OBLIGATIONS.json lists them. -/

open Sys2Proof Sys2Proof.Machine Sys2Proof.Claims

/-- For every state in which the source register is readable and the destination writable, each of LUI, AUIPC, ADDI, SLTI, SLTIU, XORI, ORI,
ANDI, SLLI, SRLI, SRAI, ADDIW, SLLIW, SRLIW and SRAIW completes: X[rd] holds the RV64 result (the W forms sign-extend their 32-bit result;
x0 keeps reading zero), rd is full, the pc goes on at the next word, instret counts one, and every other register, flag, special register
and byte of memory is unchanged. For every state in which both sources are readable and the destination writable, each of ADD, SUB, SLL,
SLT, SLTU, XOR, SRL, SRA, OR, AND, MUL, MULH, MULHSU, MULHU, ADDW, SUBW, SLLW, SRLW, SRAW and MULW completes with the RV64 result in X[rd]
(x0 keeps reading zero), the pc at the next word, instret one higher, and every other register, flag, special register and byte of memory
unchanged. For every state in which both sources are readable and the destination writable, DIV, DIVU, REM, REMU and their W forms
complete. The quotient of a zero divisor is all ones and its remainder the dividend; the most negative dividend divided by -1 gives the
dividend and remainder zero; otherwise the quotient is rounded toward zero and the remainder has the dividend's sign. Nothing but X[rd],
the pc and instret changes. (03_scalar.md R56.) -/
def Obligations.IntegerArithmetic : Prop :=
  (∀ (s : State) (imm : BitVec 12) (up : BitVec 20) (sh : BitVec 6) (shw : BitVec 5) (rs1 rd : BitVec 5),
    let a := X s rs1
    let i := imm.signExtend 64
    let u := (up ++ (0 : BitVec 12)).signExtend 64
    let gives := fun (ins : Instr) (v : Word) => Ready s [xr rs1] [xr rd] → Runs ins s (SetsX s rd v (s.ctx.pc + 4))
    let upper := fun (ins : Instr) (v : Word) => Ready s [] [xr rd] → Runs ins s (SetsX s rd v (s.ctx.pc + 4))
    upper (.lui up rd) u
      ∧ upper (.auipc up rd) (s.ctx.pc + u)
      ∧ gives (.addi imm rs1 rd) (a + i)
      ∧ gives (.slti imm rs1 rd) (if a.toInt < i.toInt then 1 else 0)
      ∧ gives (.sltiu imm rs1 rd) (if a.toNat < i.toNat then 1 else 0)
      ∧ gives (.xori imm rs1 rd) (a ^^^ i)
      ∧ gives (.ori imm rs1 rd) (a ||| i)
      ∧ gives (.andi imm rs1 rd) (a &&& i)
      ∧ gives (.slli sh rs1 rd) (a <<< sh.toNat)
      ∧ gives (.srli sh rs1 rd) (a >>> sh.toNat)
      ∧ gives (.srai sh rs1 rd) (a.sshiftRight sh.toNat)
      ∧ gives (.addiw imm rs1 rd) (((a + i).setWidth 32).signExtend 64)
      ∧ gives (.slliw shw rs1 rd) ((a.setWidth 32 <<< shw.toNat).signExtend 64)
      ∧ gives (.srliw shw rs1 rd) ((a.setWidth 32 >>> shw.toNat).signExtend 64)
      ∧ gives (.sraiw shw rs1 rd) (((a.setWidth 32).sshiftRight shw.toNat).signExtend 64))
  ∧ (∀ (s : State) (rs2 rs1 rd : BitVec 5), Ready s [xr rs1, xr rs2] [xr rd] →
    let a := X s rs1
    let b := X s rs2
    let aw := a.setWidth 32
    let bw := b.setWidth 32
    let high := fun (z : Int) => (BitVec.ofInt 128 z).extractLsb' 64 64
    let gives := fun (ins : Instr) (v : Word) => Runs ins s (SetsX s rd v (s.ctx.pc + 4))
    gives (.add rs2 rs1 rd) (a + b) ∧ gives (.sub rs2 rs1 rd) (a - b)
      ∧ gives (.sll rs2 rs1 rd) (a <<< (b.toNat % 64))
      ∧ gives (.slt rs2 rs1 rd) (if a.toInt < b.toInt then 1 else 0)
      ∧ gives (.sltu rs2 rs1 rd) (if a.toNat < b.toNat then 1 else 0)
      ∧ gives (.xor rs2 rs1 rd) (a ^^^ b)
      ∧ gives (.srl rs2 rs1 rd) (a >>> (b.toNat % 64))
      ∧ gives (.sra rs2 rs1 rd) (a.sshiftRight (b.toNat % 64))
      ∧ gives (.or rs2 rs1 rd) (a ||| b) ∧ gives (.and rs2 rs1 rd) (a &&& b)
      ∧ gives (.mul rs2 rs1 rd) (a * b)
      ∧ gives (.mulh rs2 rs1 rd) (high (a.toInt * b.toInt))
      ∧ gives (.mulhsu rs2 rs1 rd) (high (a.toInt * b.toNat))
      ∧ gives (.mulhu rs2 rs1 rd) (high (a.toNat * b.toNat))
      ∧ gives (.addw rs2 rs1 rd) ((aw + bw).signExtend 64) ∧ gives (.subw rs2 rs1 rd) ((aw - bw).signExtend 64)
      ∧ gives (.sllw rs2 rs1 rd) ((aw <<< (bw.toNat % 32)).signExtend 64)
      ∧ gives (.srlw rs2 rs1 rd) ((aw >>> (bw.toNat % 32)).signExtend 64)
      ∧ gives (.sraw rs2 rs1 rd) ((aw.sshiftRight (bw.toNat % 32)).signExtend 64)
      ∧ gives (.mulw rs2 rs1 rd) ((aw * bw).signExtend 64))
  ∧ (∀ (s : State) (rs2 rs1 rd : BitVec 5), Ready s [xr rs1, xr rs2] [xr rd] →
    let a := X s rs1
    let b := X s rs2
    let aw := a.setWidth 32
    let bw := b.setWidth 32
    let gives := fun (ins : Instr) (v : Word) => Runs ins s (SetsX s rd v (s.ctx.pc + 4))
    gives (.div rs2 rs1 rd) (if b = 0 then BitVec.allOnes 64 else a.sdiv b)
      ∧ gives (.divu rs2 rs1 rd) (if b = 0 then BitVec.allOnes 64 else a.udiv b)
      ∧ gives (.rem rs2 rs1 rd) (if b = 0 then a else a.srem b)
      ∧ gives (.remu rs2 rs1 rd) (if b = 0 then a else a.umod b)
      ∧ gives (.divw rs2 rs1 rd) ((if bw = 0 then BitVec.allOnes 32 else aw.sdiv bw).signExtend 64)
      ∧ gives (.divuw rs2 rs1 rd) ((if bw = 0 then BitVec.allOnes 32 else aw.udiv bw).signExtend 64)
      ∧ gives (.remw rs2 rs1 rd) ((if bw = 0 then aw else aw.srem bw).signExtend 64)
      ∧ gives (.remuw rs2 rs1 rd) ((if bw = 0 then aw else aw.umod bw).signExtend 64)
      ∧ (a = BitVec.intMin 64 → b = -1 → a.sdiv b = a ∧ a.srem b = 0)
      ∧ (aw = BitVec.intMin 32 → bw = -1 → aw.sdiv bw = aw ∧ aw.srem bw = 0))

/-- The target of JAL and of a taken branch is the pc plus the offset; that of JALR is X[rs1] plus the offset with bit 0 and bits 63:56
cleared. When bit 1 of the target is clear, JAL and JALR write the address of the next word to X[rd] and go on at the target, and a taken
branch goes on at it, with everything else unchanged. When bit 1 is set the instruction takes MISALIGNED_FETCH with the target as tval,
from the state it began in. A branch not taken goes on at the next word whatever its offset. (03_scalar.md R59.) -/
def Obligations.JumpForms : Prop :=
  ∀ (s : State) (joff : BitVec 20) (off : BitVec 12) (rs2 rs1 rd : BitVec 5),
    let jt := s.ctx.pc + (joff ++ (0 : BitVec 1)).signExtend 64
    let rt := (X s rs1 + off.signExtend 64) &&& 0x00FFFFFFFFFFFFFE
    let bt := s.ctx.pc + (off ++ (0 : BitVec 1)).signExtend 64
    let next := s.ctx.pc + 4
    let bad := fun (i : Instr) (t : Word) => exec i s = .next (s.takeTrap .misalignedFetch t 0)
    let jumps := fun (i : Instr) (srcs : List Nat) (t : Word) => Ready s srcs [xr rd] →
      (t.getLsbD 1 = false → Runs i s (SetsX s rd next t)) ∧ (t.getLsbD 1 = true → bad i t)
    let goes := fun (i : Instr) (t : Word) => Runs i s fun u => Keeps s u [] 0 ∧ Retired s u t
    let branches := fun (i : Instr) (c : Bool) => Ready s [xr rs1, xr rs2] [] →
      (c = true → bt.getLsbD 1 = false → goes i bt) ∧ (c = true → bt.getLsbD 1 = true → bad i bt) ∧ (c = false → goes i next)
    jumps (.jal joff rd) [] jt ∧ jumps (.jalr off rs1 rd) [xr rs1] rt
      ∧ branches (.beq off rs2 rs1) (X s rs1 = X s rs2) ∧ branches (.bne off rs2 rs1) (X s rs1 ≠ X s rs2)
      ∧ branches (.blt off rs2 rs1) ((X s rs1).toInt < (X s rs2).toInt)
      ∧ branches (.bge off rs2 rs1) ((X s rs2).toInt ≤ (X s rs1).toInt)
      ∧ branches (.bltu off rs2 rs1) ((X s rs1).toNat < (X s rs2).toNat)
      ∧ branches (.bgeu off rs2 rs1) ((X s rs2).toNat ≤ (X s rs1).toNat)

/-- For every state with no active repetition, registers readable and writable (f0 to f7 in an H firing) and a rounding mode that the rm field
or frm gives: FADD.S, FSUB.S, FMUL.S and the fused forms complete with the rounded binary32 result of bits 31:0 of the sources in F[rd],
bits 63:32 zero, and the exception flags of that result added to fflags; every other register, special register and byte of memory is
unchanged. When rm and frm give no mode, the form takes RESERVED_ROUNDING with its word as tval and has no other effect. (That the mode is
checked before the registers is the model's choice: notes/assumptions/35.md.) Under the same conditions FDIV.S and FSQRT.S complete with
F[rd] empty and a pending producer that holds the rounded result and its flags; fflags and every other register and byte of memory are
unchanged until it lands. When that landing happens (REGISTER_LANDING), the register holds the value, is full, and the flags are added to
fflags. A generated NaN is canonical: whatever the operands and the rounding mode, when the result of an F addition, subtraction,
multiplication, fused multiply-add, division or square root is a NaN it is 0x7FC0_0000; and FMIN.S and FMAX.S of a NaN and another value
return that other value. (03_scalar.md R64, 03_scalar.md R74, 02_instruction_words.md R44.) -/
def Obligations.FloatArithmetic : Prop :=
  (∀ (s : State) (rs3 rs2 rs1 rd : BitVec 5) (rm : BitVec 3), Idle s →
    let a := f32 (F s rs1)
    let b := f32 (F s rs2)
    let c := f32 (F s rs3)
    let gives := fun (i : Instr) (srcs : List (BitVec 5)) (r : Rnd → Nat × Flg) =>
      (∀ md, Rounding s rm = some md → Named s (rd :: srcs) → Ready s (srcs.map fr) [fr rd] →
          Runs i s (SetsF s rd (BitVec.ofNat 64 ((r md).1 % 2 ^ 32)) (r md).2.toNat))
        ∧ (Rounding s rm = none → exec i s = .next (s.takeTrap .reservedRounding ((encode i).setWidth 64) 0))
    gives (.faddS rs2 rs1 rm rd) [rs1, rs2] (fp32.fadd · a b)
      ∧ gives (.fsubS rs2 rs1 rm rd) [rs1, rs2] (fp32.fsub · a b)
      ∧ gives (.fmulS rs2 rs1 rm rd) [rs1, rs2] (fp32.fmul · a b)
      ∧ gives (.fmaddS rs3 rs2 rs1 rm rd) [rs1, rs2, rs3] (fp32.ffma · false a b false c)
      ∧ gives (.fmsubS rs3 rs2 rs1 rm rd) [rs1, rs2, rs3] (fp32.ffma · false a b true c)
      ∧ gives (.fnmsubS rs3 rs2 rs1 rm rd) [rs1, rs2, rs3] (fp32.ffma · true a b false c)
      ∧ gives (.fnmaddS rs3 rs2 rs1 rm rd) [rs1, rs2, rs3] (fp32.ffma · true a b true c))
  ∧ ((∀ (s : State) (rs2 rs1 rd : BitVec 5) (rm : BitVec 3) (md : Rnd), Idle s → Rounding s rm = some md →
      let a := f32 (F s rs1)
      let b := f32 (F s rs2)
      let later := fun (i : Instr) (srcs : List (BitVec 5)) (r : Nat × Flg) =>
        Named s (rd :: srcs) → Ready s (srcs.map fr) [fr rd] → Runs i s fun t => Awaits s t (fr rd) r.1 r.2.toNat true 0 ∧ Regs s t [fr rd] 0 ∧ Bytes s t ∧ Next s t
      later (.fdivS rs2 rs1 rm rd) [rs1, rs2] (fp32.fdiv md a b) ∧ later (.fsqrtS rs1 rm rd) [rs1] (fp32.fsqrt md a))
    ∧ ∀ (s : State) (h : Bool) (q : Pend) (d : BitVec 5), q.reg = fr d → q.port = none →
      ((s.coreAt s.cur).ctxAt h).pend.find? (fun p => p.reg == fr d && p.wait == 0) = some q →
      Runs (.registerLanding s.cur h (fr d)) s fun t =>
        let x := (t.coreAt s.cur).ctxAt h
        let x0 := (s.coreAt s.cur).ctxAt h
        Tab.get x.f d.toNat 0 = BitVec.ofNat 64 q.val ∧ fr d ∉ x.empty ∧ x.fcsr = x0.fcsr ||| BitVec.ofNat 8 (q.fl % 32)
          ∧ x.pend = x0.pend.filter (·.id != q.id) ∧ x.x = x0.x ∧ x.pc = x0.pc)
  ∧ ((∀ (md : Rnd) (a b c : Nat) (np nc : Bool),
      let canonical := fun (r : Nat × Flg) => (∃ q, fp32.decode r.1 = .nan q) → r.1 = 0x7FC00000
      canonical (fp32.fadd md a b) ∧ canonical (fp32.fsub md a b) ∧ canonical (fp32.fmul md a b)
        ∧ canonical (fp32.ffma md np a b nc c) ∧ canonical (fp32.fdiv md a b) ∧ canonical (fp32.fsqrt md a))
    ∧ ∀ (mx : Bool) (a b : Nat), (∃ q, fp32.decode a = .nan q) → (∀ q, fp32.decode b ≠ .nan q) →
      (fp32.fminmax mx a b).1 = b ∧ (fp32.fminmax mx b a).1 = b)

/-- With no active repetition and registers readable and writable (f0 to f7 in an H firing): FSGNJ.S, FSGNJN.S and FSGNJX.S join the magnitude
of rs1 with the sign they name; FMIN.S and FMAX.S, FLE.S, FLT.S and FEQ.S give the value and flags of the binary32 operation, a comparison
giving 1 or 0 in X[rd]; FMV.X.W sign-extends bits 31:0 into X[rd]; FMV.W.X writes the low word; FCLASS.S sets the one bit of its class.
Nothing else changes. Under the conditions of the F forms and a rounding mode that rm or frm gives: FCVT.S.W, .WU, .L and .LU write the
rounded value of the integer in X[rs1] with its flags; FCVT.W.S, .WU.S, .L.S and .LU.S write the rounded integer of F[rs1] with its flags
to X[rd] (a 32-bit result sign-extended: notes/assumptions/15.md says so for the unsigned one, the model's choice). Any NaN gives the
largest positive value of the target with NV alone; a value whose rounded integer is beyond the range, and an infinity, give the bound on
their side with NV alone; any other value gives its rounded integer, with NX when it was inexact. Nothing else changes. (03_scalar.md
R64.) -/
def Obligations.FloatPlain : Prop :=
  (∀ (s : State) (rs2 rs1 rd : BitVec 5), Idle s →
    let a := f32 (F s rs1)
    let b := f32 (F s rs2)
    let sign := fun (n : Nat) => n / 2 ^ 31 % 2
    let f := fun (i : Instr) (v : Nat) (fl : Nat) =>
      Named s [rs1, rs2, rd] → Ready s [fr rs1, fr rs2] [fr rd] → Runs i s (SetsF s rd (BitVec.ofNat 64 (v % 2 ^ 32)) fl)
    let x := fun (i : Instr) (srcs : List (BitVec 5)) (v : Word) (fl : Nat) =>
      Named s srcs → Ready s (srcs.map fr) [xr rd] → Runs i s (SetsXFl s rd v fl)
    f (.fsgnjS rs2 rs1 rd) (a % 2 ^ 31 + sign b * 2 ^ 31) 0
      ∧ f (.fsgnjnS rs2 rs1 rd) (a % 2 ^ 31 + (1 - sign b) * 2 ^ 31) 0
      ∧ f (.fsgnjxS rs2 rs1 rd) (a % 2 ^ 31 + (if sign a = sign b then 0 else 1) * 2 ^ 31) 0
      ∧ f (.fminS rs2 rs1 rd) (fp32.fminmax false a b).1 (fp32.fminmax false a b).2.toNat
      ∧ f (.fmaxS rs2 rs1 rd) (fp32.fminmax true a b).1 (fp32.fminmax true a b).2.toNat
      ∧ x (.fleS rs2 rs1 rd) [rs1, rs2] (if (fp32.fle a b).1 then 1 else 0) (fp32.fle a b).2.toNat
      ∧ x (.fltS rs2 rs1 rd) [rs1, rs2] (if (fp32.flt a b).1 then 1 else 0) (fp32.flt a b).2.toNat
      ∧ x (.feqS rs2 rs1 rd) [rs1, rs2] (if (fp32.feq a b).1 then 1 else 0) (fp32.feq a b).2.toNat
      ∧ x (.fmvXW rs1 rd) [rs1] (((F s rs1).setWidth 32).signExtend 64) 0
      ∧ (Named s [rd] → Ready s [xr rs1] [fr rd] →
        Runs (.fmvWX rs1 rd) s (SetsF s rd (BitVec.ofNat 64 ((X s rs1).toNat % 2 ^ 32)) 0))
      ∧ x (.fclassS rs1 rd) [rs1] (BitVec.ofNat 64 (2 ^ fp32.classCode a)) 0)
  ∧ (∀ (s : State) (rs1 rd : BitVec 5) (rm : BitVec 3) (md : Rnd), Idle s → Rounding s rm = some md →
    let a := f32 (F s rs1)
    let n := X s rs1
    let toF := fun (i : Instr) (z : Int) =>
      let r := fp32.ofVal md (.fin (decide (z < 0)) z.natAbs 0)
      Named s [rd] → Ready s [xr rs1] [fr rd] → Runs i s (SetsF s rd (BitVec.ofNat 64 (r.1 % 2 ^ 32)) r.2.toNat)
    let toX := fun (i : Instr) (w : Nat) (sgn : Bool) =>
      let r := fcvtToInt w sgn md a
      Named s [rs1] → Ready s [fr rs1] [xr rd] →
        Runs i s (SetsXFl s rd (if w = 32 then (BitVec.ofInt 32 r.1).signExtend 64 else BitVec.ofInt 64 r.1) r.2.toNat)
    toF (.fcvtSW rs1 rm rd) (n.setWidth 32).toInt ∧ toF (.fcvtSWu rs1 rm rd) (n.setWidth 32).toNat
      ∧ toF (.fcvtSL rs1 rm rd) n.toInt ∧ toF (.fcvtSLu rs1 rm rd) n.toNat
      ∧ toX (.fcvtWS rs1 rm rd) 32 true ∧ toX (.fcvtWuS rs1 rm rd) 32 false
      ∧ toX (.fcvtLS rs1 rm rd) 64 true ∧ toX (.fcvtLuS rs1 rm rd) 64 false
      ∧ ∀ (w : Nat) (sgn : Bool), w = 32 ∨ w = 64 →
        let lo : Int := if sgn then -(2 ^ (w - 1) : Nat) else 0
        let hi : Int := if sgn then ((2 ^ (w - 1) : Nat) : Int) - 1 else ((2 ^ w : Nat) : Int) - 1
        let nv : Flg := { nv := true }
        (∀ q, fp32.decode a = .nan q → fcvtToInt w sgn md a = (hi, nv))
          ∧ (∀ g, fp32.decode a = .inf g → fcvtToInt w sgn md a = (if g then lo else hi, nv))
          ∧ ∀ g m e, fp32.decode a = .fin g m e →
            let z := roundInt md g ⟨m, e, false⟩
            (z.1 < lo → fcvtToInt w sgn md a = (lo, nv)) ∧ (hi < z.1 → fcvtToInt w sgn md a = (hi, nv))
              ∧ (lo ≤ z.1 → z.1 ≤ hi → fcvtToInt w sgn md a = (z.1, { nx := z.2 })))

/-- When the base register is readable, the destination writable, no watchpoint can match, and the access reaches a byte place of the core's
private memory or of its cluster's scratchpad that no command in flight is writing, LB, LH, LW and LD sign-extend and LBU, LHU and LWU
zero-extend the little-endian bytes there into X[rd] at once; a load to x0 discards the value. Nothing else changes. When nothing earlier
of the core holds the place and (for global memory) fewer than 48 global reads are out: a load that translates to this package's memory,
and one that reaches another cluster's scratch there, completes with its destination empty and a pending producer that holds the extended
bytes (a load to x0 awaits nothing), its landing owed; a load of another package's memory that no L1 line answers completes with its
destination empty and its read packet sent, which names the producer. Every other register, flag and special register is unchanged; every
byte of memory reads as the read of the line leaves it (a counted access may write a migration notice, R348), and the next instruction
follows. That another cluster's scratch is read at issue and that its loads do not count among the 48 are the model's choices
(notes/assumptions/43.md, notes/assumptions/44.md). For an access that stays inside its 64-byte line: when the L1 holds the job's line the
read answers that line's bytes and changes nothing; when it does not and the line is not poisoned, the access is counted at its home, the
read answers the bytes of memory with the core's own stores that are not yet performed laid over them, the line is filled with them, and
no byte of memory changes beyond the counting. An access that is not counted, or stays on its die, leaves every byte as it was.
(03_scalar.md R61, 03_scalar.md R62, 01_machine.md R12, 02_instruction_words.md R44, 03_scalar.md R70, 16_remote.md R299,
07_memory_ordering.md R132, 18_translation.md R348.) -/
def Obligations.Loads : Prop :=
  (∀ (s : State) (off : BitVec 12) (rs1 rd : BitVec 5) (l : Loc), Ready s [xr rs1] [xr rd] → Unwatched s → AtOnce l →
    let p := X s rs1 + off.signExtend 64
    let gives := fun (i : Instr) (n : Nat) (v : Nat → Word) =>
      Reached s p n .load (.flat l) s → s.blocked (.flat l) n false = false → Runs i s (SetsX s rd (v (s.numAt l n)) (s.ctx.pc + 4))
    gives (.lb off rs1 rd) 1 (fun x => (BitVec.ofNat 8 x).signExtend 64)
      ∧ gives (.lh off rs1 rd) 2 (fun x => (BitVec.ofNat 16 x).signExtend 64)
      ∧ gives (.lw off rs1 rd) 4 (fun x => (BitVec.ofNat 32 x).signExtend 64)
      ∧ gives (.ld off rs1 rd) 8 (fun x => BitVec.ofNat 64 x)
      ∧ gives (.lbu off rs1 rd) 1 (fun x => (BitVec.ofNat 8 x).setWidth 64)
      ∧ gives (.lhu off rs1 rd) 2 (fun x => (BitVec.ofNat 16 x).setWidth 64)
      ∧ gives (.lwu off rs1 rd) 4 (fun x => (BitVec.ofNat 32 x).setWidth 64))
  ∧ (∀ (s s1 s2 : State) (off : BitVec 12) (rs1 rd : BitVec 5) (r : Reach) (bs : List Byte), Ready s [xr rs1] [xr rd] → Unwatched s →
    let p := X s rs1 + off.signExtend 64
    let gives := fun (i : Instr) (n : Nat) (v : Nat → Word) =>
      s.reach s.org p n .load = .ok (r, s1) → s1.blocked r.spot n false = false →
      (∀ pa, r.spot = .flat (.hbm pa) → Room s → s1.readGlobal s.org p r n = (.soon bs, s2) →
          Runs i s fun t => Awaits s t (xr rd) (v (leNat bs)).toNat 0 false p ∧ Regs s t [xr rd] 0 ∧ Bytes s2 t ∧ Next s t)
        ∧ (∀ cl at', r.spot = .far cl at' → s1.dieHolds r.spot false = false → s1.farBad s.org cl at' n = none →
          Runs i s fun t => Awaits s t (xr rd) (v (s.numAt (.scratch cl at') n)).toNat 0 false p ∧ Regs s t [xr rd] 0 ∧ Bytes s t ∧ Next s t)
        ∧ ∀ pkg pa, r.spot = .flat (.remote pkg pa) → Room s → s1.me.l1Find s.org.part s.org.job (p.toNat % 2 ^ 48) = none →
          s1.mayIssue s.org.part 0 (s1.endpoint s.org) 3 s.me.accCtr.toNat = true →
          Runs i s fun t => (∃ q e, t.ctx.pend = s.ctx.pend ++ [q] ∧ q.reg = xr rd ∧ q.wait = 1 ∧ e ∈ t.pkts ∧ e.2.kind = 1
              ∧ e.2.pend = q.id ∧ e.2.dpkg = pkg ∧ e.2.va = p ∧ e.2.size = n) ∧ (rd ≠ 0 → xr rd ∈ t.ctx.empty)
            ∧ Regs s t [xr rd] 0 ∧ Bytes s t ∧ Next s t
    gives (.lb off rs1 rd) 1 (fun x => (BitVec.ofNat 8 x).signExtend 64)
      ∧ gives (.lh off rs1 rd) 2 (fun x => (BitVec.ofNat 16 x).signExtend 64)
      ∧ gives (.lw off rs1 rd) 4 (fun x => (BitVec.ofNat 32 x).signExtend 64)
      ∧ gives (.ld off rs1 rd) 8 (fun x => BitVec.ofNat 64 x)
      ∧ gives (.lbu off rs1 rd) 1 (fun x => BitVec.ofNat 64 x)
      ∧ gives (.lhu off rs1 rd) 2 (fun x => BitVec.ofNat 64 x)
      ∧ gives (.lwu off rs1 rd) 4 (fun x => BitVec.ofNat 64 x))
  ∧ (∀ (s : State) (o : Origin) (p : Word) (n pa : Nat) (cnt : Bool), p.toNat % 2 ^ 48 % 64 + n ≤ 64 → p.toNat % 64 = pa % 64 →
    let a := p.toNat % 2 ^ 48
    let r : Reach := { spot := .flat (.hbm pa), cnt := cnt }
    let m := s.counted o r n
    (∀ x, s.me.l1Find o.part o.job a = some x → s.readGlobal o p r n = (.soon ((x.data.drop (a % 64)).take n), s))
      ∧ (s.me.l1Find o.part o.job a = none → s.poisoned (.flat (.hbm (pa / 64 * 64))) 64 = false →
        ∃ s2, s.readGlobal o p r n = (.soon (m.ownView.bytesAt (.hbm pa) n), s2) ∧ Bytes m s2
          ∧ s2.me.l1Find o.part o.job a
            = some { part := o.part, job := o.job, va := a / 64 * 64, data := m.ownView.bytesAt (.hbm (pa / 64 * 64)) 64 })
      ∧ (cnt = false ∨ s.homeOf pa = o.k / 512 → Bytes s m))

/-- Registers readable, no watchpoint, the place held by no command and no earlier access of the core: SB, SH, SW and SD to the core's private
memory, its cluster's scratchpad or (check passed, die running; at issue: notes/assumptions/43.md) another cluster's write the low bytes
of X[rs2] there, least significant first; every other byte, register, flag and special register is unchanged. In global memory they are
issued at once: in this package the write is queued last among the core's stores and its acknowledgement owed, memory being as the
counting of the access leaves it (R348); in another package its packet is sent and awaited. HOME_WRITE_ACKNOWLEDGEMENT of a store of this
package, before which no store to a byte of it is unperformed, writes exactly those bytes and removes the store; behind such a store it
waits. FLW (no active repetition) reads the element that the pointer's tag names and writes its conversion to binary32 by RNE (tags 0 and
1 keep the bits) with its flags: at once from the private memory or own scratchpad, when it lands from another cluster's (read at issue,
not counted: notes/assumptions/43.md, notes/assumptions/44.md), from global memory or from another package (asked by a packet that names
the producer, size and conversion). FSW writes the conversion by RNE of the low 32 bits of F[rs2], whatever frm holds, and raises its
flags: at once in the private memory and in a scratchpad, by its acknowledgement in global memory and another package. A tag of 0x09 or
above takes FORMAT_RESERVED, then a block log that the tag forbids BLOCK_MISMATCH, then bits 55:48 not zero NONCANONICAL, then a
misaligned address, then the windows' and the translation's cause, each with the pointer as tval (a poisoned table entry MEMORY_POISON,
imprecise). (03_scalar.md R61, 03_scalar.md R62, 03_scalar.md R70, 07_memory_ordering.md R134, 07_memory_ordering.md R141, 16_remote.md
R299, 03_scalar.md R65.) -/
def Obligations.Stores : Prop :=
  (∀ (s : State) (off : BitVec 12) (rs2 rs1 : BitVec 5) (sp : Spot) (l : Loc), Ready s [xr rs1, xr rs2] [] → Unwatched s →
    let p := X s rs1 + off.signExtend 64
    let gives := fun (i : Instr) (n : Nat) =>
      (sp = .flat l ∧ AtOnce l) ∨ (∃ cl at', sp = .far cl at' ∧ l = .scratch cl at' ∧ s.dieHolds sp false = false ∧ s.farBad s.org cl at' n = none) →
      Reached s p n .store sp s → s.blocked sp n true = false →
      Runs i s fun t => Stored s t l n (X s rs2).toNat ∧ Regs s t [] 0 ∧ Next s t
    gives (.sb off rs2 rs1) 1 ∧ gives (.sh off rs2 rs1) 2 ∧ gives (.sw off rs2 rs1) 4 ∧ gives (.sd off rs2 rs1) 8)
  ∧ ((∀ (s s1 : State) (off : BitVec 12) (rs2 rs1 : BitVec 5) (r : Reach), Ready s [xr rs1, xr rs2] [] → Unwatched s →
      let p := X s rs1 + off.signExtend 64
      let gives := fun (i : Instr) (n : Nat) => s.reach s.org p n .store = .ok (r, s1) → s1.blocked r.spot n true = false →
        (∀ pa, r.spot = .flat (.hbm pa) →
            Runs i s fun t => (∃ x : PStore, t.me.stores = s.me.stores ++ [x] ∧ x.va = p ∧ x.away = false
                ∧ x.parts = [.at (.hbm pa) ((List.range n).map (byteOf (X s rs2).toNat))] ∧ Turn.act (.ack s.cur x.id) ∈ t.turns)
              ∧ Regs s t [] 0 ∧ Bytes (s1.counted s.org r n) t ∧ Next s t)
          ∧ ∀ pkg pa, r.spot = .flat (.remote pkg pa) → s1.mayIssue s.org.part 0 (s1.endpoint s.org) 3 s.me.accCtr.toNat = true →
            Runs i s fun t => (∃ (x : PStore) (e : Nat × Packet), t.me.stores = s.me.stores ++ [x] ∧ x.va = p ∧ x.away = true ∧ e ∈ t.pkts
                ∧ e.2.kind = 2 ∧ e.2.store = x.id ∧ e.2.dpkg = pkg ∧ e.2.va = p)
              ∧ Regs s t [] 0 ∧ Bytes s t ∧ Next s t
      gives (.sb off rs2 rs1) 1 ∧ gives (.sh off rs2 rs1) 2 ∧ gives (.sw off rs2 rs1) 4 ∧ gives (.sd off rs2 rs1) 8)
    ∧ ∀ (s : State) (k n v pa : Nat) (x : PStore) (pre rest : List PStore), (s.coreAt k).stores = pre ++ x :: rest → x.away = false →
      (∀ y ∈ pre, y.id ≠ x.id) → x.parts = [.at (.hbm pa) ((List.range n).map (byteOf v))] →
      ((∀ y ∈ pre, y.away = true ∨ storesMeet x y = false) →
          Runs (.homeWriteAcknowledgement k x.id) s fun t => Stored s t (.hbm pa) n v
            ∧ (t.coreAt k).stores = (s.coreAt k).stores.filter (·.id != x.id)
            ∧ ∀ h, (t.coreAt k).ctxAt h = (s.coreAt k).ctxAt h)
        ∧ ((∃ y ∈ pre, y.away = false ∧ storesMeet x y = true) → exec (.homeWriteAcknowledgement k x.id) s = .next s))
  ∧ (∀ (s s1 s2 : State) (off : BitVec 12) (rs2 rs1 rd : BitVec 5) (l : Loc) (cnt : Bool) (pa cl at' pkg : Nat) (bs : List Byte), Idle s → Unwatched s →
    let p := X s rs1 + off.signExtend 64
    let tag := (p.extractLsb' 59 5).toNat
    let n := if tag = 0 ∨ tag = 1 ∨ tag = 6 then 4 else if tag = 2 ∨ tag = 3 ∨ tag = 7 then 2 else 1
    let ld := fun (x : Nat) => if tag ≤ 1 then (x, ({} : Flg)) else elemConv 1 tag .rne x
    let st : Nat × Flg := if tag ≤ 1 then (f32 (F s rs2), {}) else elemConv tag 1 .rne (f32 (F s rs2))
    let loads := Named s [rd] ∧ Ready s [xr rs1] [fr rd]
    let stores := Named s [rs2] ∧ Ready s [xr rs1, fr rs2] []
    let g : Reach := { spot := .flat (.hbm pa), cnt := cnt }
    let far : Reach := { spot := .far cl at', cnt := cnt }
    let abroad : Reach := { spot := .flat (.remote pkg pa), cnt := cnt }
    let checks := fun (k : AKind) (traps : Cause → Prop) =>
      (9 ≤ tag → traps .formatReserved) ∧ (tag < 9 → blogOk tag (p.toNat / 2 ^ 56 % 8) = false → traps .blockMismatch)
        ∧ (tag < 9 → blogOk tag (p.toNat / 2 ^ 56 % 8) = true → p.extractLsb' 48 8 ≠ 0 → traps .noncanonical)
        ∧ (tag < 9 → blogOk tag (p.toNat / 2 ^ 56 % 8) = true → p.extractLsb' 48 8 = 0 → p.toNat % n ≠ 0 → traps k.misaligned)
        ∧ ∀ c, tag < 9 → blogOk tag (p.toNat / 2 ^ 56 % 8) = true → p.extractLsb' 48 8 = 0 → p.toNat % n = 0 →
          s.place s.org p n k = .error c → traps c
    (loads → AtOnce l → s.reachF s.org p .load = .ok ({ spot := .flat l, cnt := cnt }, s) → s.blocked (.flat l) n false = false →
        Runs (.flw off rs1 rd) s (SetsF s rd (BitVec.ofNat 64 (ld (s.numAt l n)).1) (ld (s.numAt l n)).2.toNat))
      ∧ (loads → s.reachF s.org p .load = .ok (g, s1) → s1.blocked g.spot n false = false → Room s →
        s1.readGlobal s.org p g n = (.soon bs, s2) →
        Runs (.flw off rs1 rd) s fun t => Awaits s t (fr rd) (ld (leNat bs)).1 (ld (leNat bs)).2.toNat false p ∧ Regs s t [fr rd] 0
          ∧ Bytes s2 t ∧ Next s t)
      ∧ (loads → s.reachF s.org p .load = .ok (far, s1) → s1.blocked far.spot n false = false → s1.dieHolds far.spot false = false →
        s1.farBad s.org cl at' n = none →
        Runs (.flw off rs1 rd) s fun t =>
          Awaits s t (fr rd) (ld (s.numAt (.scratch cl at') n)).1 (ld (s.numAt (.scratch cl at') n)).2.toNat false p ∧ Regs s t [fr rd] 0
            ∧ Bytes s t ∧ Next s t)
      ∧ (loads → s.reachF s.org p .load = .ok (abroad, s1) → s1.blocked abroad.spot n false = false → Room s →
        s1.me.l1Find s.org.part s.org.job (p.toNat % 2 ^ 48) = none → s1.mayIssue s.org.part 0 (s1.endpoint s.org) 3 s.me.accCtr.toNat = true →
        Runs (.flw off rs1 rd) s fun t => (∃ q e, t.ctx.pend = s.ctx.pend ++ [q] ∧ q.reg = fr rd ∧ q.wait = 1 ∧ e ∈ t.pkts ∧ e.2.kind = 1
            ∧ e.2.pend = q.id ∧ e.2.dpkg = pkg ∧ e.2.va = p ∧ e.2.size = n ∧ e.2.conv = .toF32 tag) ∧ fr rd ∈ t.ctx.empty
          ∧ Regs s t [fr rd] 0 ∧ Bytes s t ∧ Next s t)
      ∧ (stores → AtOnce l → s.reachF s.org p .store = .ok ({ spot := .flat l, cnt := cnt }, s) → s.blocked (.flat l) n true = false →
        Runs (.fsw off rs2 rs1) s fun t => Stored s t l n st.1 ∧ Regs s t [] (BitVec.ofNat 8 st.2.toNat) ∧ Next s t)
      ∧ (stores → s.reachF s.org p .store = .ok (g, s1) → s1.blocked g.spot n true = false →
        Runs (.fsw off rs2 rs1) s fun t => (∃ x : PStore, t.me.stores = s.me.stores ++ [x] ∧ x.va = p ∧ x.away = false
            ∧ x.parts = [.at (.hbm pa) ((List.range n).map (byteOf st.1))] ∧ Turn.act (.ack s.cur x.id) ∈ t.turns)
          ∧ Regs s t [] (BitVec.ofNat 8 st.2.toNat) ∧ Bytes (s1.counted s.org g n) t ∧ Next s t)
      ∧ (stores → s.reachF s.org p .store = .ok (far, s1) → s1.blocked far.spot n true = false → s1.dieHolds far.spot false = false →
        s1.farBad s.org cl at' n = none →
        Runs (.fsw off rs2 rs1) s fun t => Stored s t (.scratch cl at') n st.1 ∧ Regs s t [] (BitVec.ofNat 8 st.2.toNat) ∧ Next s t)
      ∧ (stores → s.reachF s.org p .store = .ok (abroad, s1) → s1.blocked abroad.spot n true = false →
        s1.mayIssue s.org.part 0 (s1.endpoint s.org) 3 s.me.accCtr.toNat = true →
        Runs (.fsw off rs2 rs1) s fun t => (∃ (x : PStore) (e : Nat × Packet), t.me.stores = s.me.stores ++ [x] ∧ x.va = p ∧ x.away = true ∧ e ∈ t.pkts
            ∧ e.2.kind = 2 ∧ e.2.store = x.id ∧ e.2.dpkg = pkg ∧ e.2.va = p)
          ∧ Regs s t [] (BitVec.ofNat 8 st.2.toNat) ∧ Bytes s t ∧ Next s t)
      ∧ (loads → checks .load fun c => Raised (.flw off rs1 rd) s c p)
      ∧ (stores → checks .store fun c => Raised (.fsw off rs2 rs1) s c p))

/-- For every load and store of the base set and every AMO with its registers readable and writable: a reserved tag takes FORMAT_RESERVED;
then bits 55:48 not zero NONCANONICAL; then an address that is not a multiple of the access size MISALIGNED_LOAD, MISALIGNED_STORE or
ATOMIC_MISALIGNED; then whatever cause the windows and the translation give. The trap is taken from the state the instruction began in,
with the whole pointer as tval; a poisoned table entry alone raises its cause, MEMORY_POISON, as an imprecise one of the firing (R329).
For a load, store or AMO at an address from 0xFFFE_0000_0000 up: the two holes below and above the scratch window raise SCRATCH_RANGE and
the hole above the private window PRIVATE_RANGE; the own-cluster window reaches scratch offset va - 0xFFFF_E000_0000, in a user firing
only where every byte lies in the group's allotment; the private window reaches the accessing core's own memory: the kitty and the
context's own message window for loads only, the context's own data area for loads and stores, everything else PRIVATE_RANGE, and AMOs
nowhere. No window access changes the state. (03_scalar.md R61, 17_traps.md R329, 03_scalar.md R67, 03_scalar.md R68, 03_scalar.md R69.) -/
def Obligations.AddressChecks : Prop :=
  (∀ (s : State) (off : BitVec 12) (rs2 rs1 rd : BitVec 5) (aq rl : BitVec 1), s.ctx.aw = .none →
    let checks := fun (i : Instr) (srcs dsts : List Nat) (p : Word) (n : Nat) (k : AKind) (mis : Cause) => Ready s srcs dsts →
      let traps := fun (c : Cause) => Raised i s c p
      let tag := (p.extractLsb' 59 5).toNat
      (13 ≤ tag → traps .formatReserved)
        ∧ (tag < 13 → p.extractLsb' 48 8 ≠ 0 → traps .noncanonical)
        ∧ (tag < 13 → p.extractLsb' 48 8 = 0 → p.toNat % n ≠ 0 → traps mis)
        ∧ ∀ c, tag < 13 → p.extractLsb' 48 8 = 0 → p.toNat % n = 0 → s.place s.org p n k = .error c → traps c
    let q := X s rs1 + off.signExtend 64
    (∀ i n, (i, n) ∈ [(Instr.lb off rs1 rd, 1), (.lh off rs1 rd, 2), (.lw off rs1 rd, 4), (.ld off rs1 rd, 8), (.lbu off rs1 rd, 1),
        (.lhu off rs1 rd, 2), (.lwu off rs1 rd, 4)] → checks i [xr rs1] [xr rd] q n .load .misalignedLoad)
      ∧ (∀ i n, (i, n) ∈ [(Instr.sb off rs2 rs1, 1), (.sh off rs2 rs1, 2), (.sw off rs2 rs1, 4), (.sd off rs2 rs1, 8)] →
        checks i [xr rs1, xr rs2] [] q n .store .misalignedStore)
      ∧ ∀ i n, (i, n) ∈ [(Instr.amoaddW aq rl rs2 rs1 rd, 4), (.amoswapW aq rl rs2 rs1 rd, 4), (.amoxorW aq rl rs2 rs1 rd, 4),
        (.amoorW aq rl rs2 rs1 rd, 4), (.amoandW aq rl rs2 rs1 rd, 4), (.amominW aq rl rs2 rs1 rd, 4), (.amomaxW aq rl rs2 rs1 rd, 4),
        (.amominuW aq rl rs2 rs1 rd, 4), (.amomaxuW aq rl rs2 rs1 rd, 4), (.amoaddD aq rl rs2 rs1 rd, 8), (.amoswapD aq rl rs2 rs1 rd, 8),
        (.amoxorD aq rl rs2 rs1 rd, 8), (.amoorD aq rl rs2 rs1 rd, 8), (.amoandD aq rl rs2 rs1 rd, 8), (.amominD aq rl rs2 rs1 rd, 8),
        (.amomaxD aq rl rs2 rs1 rd, 8), (.amominuD aq rl rs2 rs1 rd, 8), (.amomaxuD aq rl rs2 rs1 rd, 8)] →
        checks i [xr rs1, xr rs2] [xr rd] (X s rs1) n .amo .atomicMisaligned)
  ∧ (∀ (s : State) (o : Origin) (p : Word) (n : Nat) (k : AKind), k ≠ .fetch →
    let a := p.toNat % 2 ^ 48
    let at' := fun (sp : Spot) => s.place o p n k = .ok ({ spot := sp }, s)
    let refuses := fun (c : Cause) => s.place o p n k = .error c
    (0xFFFE10000000 ≤ a → a < 0xFFFFE0000000 → refuses .scratchRange)
      ∧ (0xFFFFE0080000 ≤ a → a < 0xFFFFF0000000 → refuses .scratchRange)
      ∧ (0xFFFFF0002000 ≤ a → refuses .privateRange)
      ∧ (0xFFFFE0000000 ≤ a → a < 0xFFFFE0080000 →
        let off := a - 0xFFFFE0000000
        let g := s.groupAt o.gid
        if o.sup = true ∨ (g.base ≤ off ∧ off + n ≤ g.base + g.units * 4096) then at' (.flat (.scratch (o.k / 8) off))
        else refuses .scratchRange)
      ∧ (0xFFFFF0000000 ≤ a → a < 0xFFFFF0002000 →
        let off := a - 0xFFFFF0000000
        let readable := off < 0x800 ∨ (0x800 ≤ off ∧ off < 0xA00 ∧ o.h = false) ∨ (0xA00 ≤ off ∧ off < 0xC00 ∧ o.h = true)
        let data := (0xC00 ≤ off ∧ off < 0xE00 ∧ o.h = true) ∨ (0xE00 ≤ off ∧ o.h = false)
        if (readable ∧ k = .load) ∨ (data ∧ k ≠ .amo) then at' (.flat (.priv o.k off)) else refuses .privateRange))

/-- PADD and PADDI keep bits 63:56 of the pointer and add the offset modulo 2^56; PSETF replaces bits 63:56 by format and block log; PGETF
gives bits 63:56; KLD and KLDF write all 64 bits of the private word at byte 8K, or take CONSTANT_UNLOADED with K as tval beyond the
loaded length; each completes with nothing else changed. The operand limits hold: k8[7:5] set in PADD or a format of 0x0D or above in
PSETF raises RESERVED_FIELD, and KLDF of f8 to f31 in an H firing HIGH_CONTEXT_ILLEGAL; PGETF and KLD have no word with k8 or a set.
(03_scalar.md R72.) -/
def Obligations.PointersAndConstants : Prop :=
  ∀ (s : State) (k8 : BitVec 8) (k5 : BitVec 5) (f5 : BitVec 5) (l3 : BitVec 3) (eb1 : BitVec 1) (a d : BitVec 5),
    let p := X s a
    let keep := fun (off : Word) => (p.extractLsb' 56 8 ++ (p + off).extractLsb' 0 56 : Word)
    let K := k8.toNat
    let word := leNat (Memory.readN s.me.priv (8 * K) 8)
    let loaded := K < 16 ∨ K - 16 < s.me.constLen
    (Ready s [xr a, xr k5] [xr d] → Runs (.padd (k5.setWidth 8) eb1 a d) s (SetsX s d (keep (X s k5)) (s.ctx.pc + 4)))
      ∧ (Ready s [xr a] [xr d] → Runs (.paddi k8 eb1 a d) s (SetsX s d (keep (k8.signExtend 64)) (s.ctx.pc + 4)))
      ∧ (Ready s [xr a] [xr d] → Runs (.psetf (l3 ++ f5) eb1 a d) s (SetsX s d (f5 ++ l3 ++ p.extractLsb' 0 56) (s.ctx.pc + 4)))
      ∧ (Ready s [xr a] [xr d] → Runs (.pgetf eb1 a d) s (SetsX s d ((p.extractLsb' 56 8).setWidth 64) (s.ctx.pc + 4)))
      ∧ (Ready s [] [xr d] → loaded → Runs (.kld k8 d) s (SetsX s d (BitVec.ofNat 64 word) (s.ctx.pc + 4)))
      ∧ (Idle s → Named s [d] → Ready s [] [fr d] → loaded → Runs (.kldf k8 d) s (SetsF s d (BitVec.ofNat 64 word) 0))
      ∧ (Ready s [] [xr d] → ¬ loaded → exec (.kld k8 d) s = .next (s.takeTrap .constantUnloaded (BitVec.ofNat 64 K) 0))
      ∧ (Idle s → Named s [d] → Ready s [] [fr d] → ¬ loaded →
        exec (.kldf k8 d) s = .next (s.takeTrap .constantUnloaded (BitVec.ofNat 64 K) 0))
      ∧ (Idle s → s.me.inH = true → 8 ≤ d.toNat →
        exec (.kldf k8 d) s = .next (s.takeTrap .highContextIllegal ((encode (.kldf k8 d)).setWidth 64) 0))
      ∧ (32 ≤ k8.toNat → decode (encode (.padd k8 eb1 a d)) = .error .reservedField)
      ∧ (13 ≤ f5.toNat → decode (encode (.psetf (l3 ++ f5) eb1 a d)) = .error .reservedField)
      ∧ (k8 ≠ 0 → decode (encZK 7 k8 3 eb1 a d) = .error .reservedField)
      ∧ (a ≠ 0 → decode (encZK 7 k8 4 0 a d) = .error .reservedField ∧ decode (encZK 7 k8 5 0 a d) = .error .reservedField)

/-- When the registers are ready, no watchpoint can match, and the operation is performed at once at a place of this package (own scratch or
global memory), each AMO completes: X[rd] holds the old value, sign-extended for .W; the bytes of the place hold the result of the
operation and no other byte changes from what the engine found; aq and rl have no effect; every other register and flag is unchanged and
the destination is full. When the address of an AMO, ACAS or ATKT checks out in another cluster's scratchpad, the instruction sends one
service request that names its operation, operands and place, owes its going, and waits at its own pc with no register changed (it waits
first while an earlier access of the core to those bytes is on its way); in another package it sends one packet of its core that carries
the operation and operands (by a layout of the model's: notes/assumptions/12.md) and waits in the same way. When the reply stands with the
instruction it completes with the replied word in its destination (sign-extended for .W), and a failure reply with a value takes its cause
with that value. A failure at its target without one, FABRIC_UNREACHABLE, REMOTE_DENIED, CROSS_DIE_TIMEOUT, DIE_OFFLINE and MEMORY_POISON
among them, leaves an AMO completed with X[rd] as it was and the cause pending with the address as tval; ACAS and ATKT do not complete,
and the cause is pending where R329 makes it imprecise or the other package refused the access, else taken as a precise trap
(notes/assumptions/48.md). (03_scalar.md R63, 09_atomics_queues.md R177, 09_atomics_queues.md R181, 03_scalar.md R70, 08_messages.md R170,
09_atomics_queues.md R183, 16_remote.md R299, 17_traps.md R329.) -/
def Obligations.StandardAtomics : Prop :=
  (∀ (s m : State) (aq rl : BitVec 1) (rs2 rs1 rd : BitVec 5) (l : Loc), Ready s [xr rs1, xr rs2] [xr rd] → Unwatched s →
    let p := X s rs1
    let amoW := fun (i : Instr) (f : BitVec 32 → BitVec 32 → BitVec 32) => Performs s p 4 l m →
      let old := BitVec.ofNat 32 (m.numAt l 4)
      Runs i s fun t => Answers s rd (old.signExtend 64) t ∧ Stored m t l 4 (f old ((X s rs2).setWidth 32)).toNat
    let amoD := fun (i : Instr) (f : Word → Word → Word) => Performs s p 8 l m →
      let old := BitVec.ofNat 64 (m.numAt l 8)
      Runs i s fun t => Answers s rd old t ∧ Stored m t l 8 (f old (X s rs2)).toNat
    amoW (.amoaddW aq rl rs2 rs1 rd) (fun a b => a + b) ∧ amoD (.amoaddD aq rl rs2 rs1 rd) (fun a b => a + b)
      ∧ amoW (.amoswapW aq rl rs2 rs1 rd) (fun _ b => b) ∧ amoD (.amoswapD aq rl rs2 rs1 rd) (fun _ b => b)
      ∧ amoW (.amoxorW aq rl rs2 rs1 rd) (fun a b => a ^^^ b) ∧ amoD (.amoxorD aq rl rs2 rs1 rd) (fun a b => a ^^^ b)
      ∧ amoW (.amoorW aq rl rs2 rs1 rd) (fun a b => a ||| b) ∧ amoD (.amoorD aq rl rs2 rs1 rd) (fun a b => a ||| b)
      ∧ amoW (.amoandW aq rl rs2 rs1 rd) (fun a b => a &&& b) ∧ amoD (.amoandD aq rl rs2 rs1 rd) (fun a b => a &&& b)
      ∧ amoW (.amominW aq rl rs2 rs1 rd) (fun a b => if a.slt b then a else b)
      ∧ amoD (.amominD aq rl rs2 rs1 rd) (fun a b => if a.slt b then a else b)
      ∧ amoW (.amomaxW aq rl rs2 rs1 rd) (fun a b => if a.slt b then b else a)
      ∧ amoD (.amomaxD aq rl rs2 rs1 rd) (fun a b => if a.slt b then b else a)
      ∧ amoW (.amominuW aq rl rs2 rs1 rd) (fun a b => if a.ult b then a else b)
      ∧ amoD (.amominuD aq rl rs2 rs1 rd) (fun a b => if a.ult b then a else b)
      ∧ amoW (.amomaxuW aq rl rs2 rs1 rd) (fun a b => if a.ult b then b else a)
      ∧ amoD (.amomaxuD aq rl rs2 rs1 rd) (fun a b => if a.ult b then b else a))
  ∧ (∀ (s : State) (aq rl eb2 eb1 : BitVec 1) (rs2 rs1 rd : BitVec 5), Unwatched s →
    let p := X s rs1
    let v := X s rs2
    let stays := fun (t : State) => t.ctx.pc = s.ctx.pc ∧ t.me.instret = s.me.instret ∧ Regs s t [] 0 ∧ Bytes s t
    let asks := fun (i : Instr) (srcs : List Nat) (a : AOp) (ext : Word → Word) =>
      (∀ s1 cl off, Ready s srcs [xr rd] → Reached s p a.size .amo (.far cl off) s1 → s.owes s.cur (.far cl off) a.size true = false → s.ctx.aw = .none →
          Runs i s fun t => stays t ∧ ∃ id q, t.ctx.aw = .sent id ∧ Tab.find? t.svcs id = some q ∧ q.ask = a ∧ q.cl = cl ∧ q.off = off
            ∧ q.va = p ∧ q.org = s.org ∧ q.await = true ∧ Turn.act (.svcReq id) ∈ t.turns)
        ∧ (∀ s1 pkg pa, Ready s srcs [xr rd] → Reached s p a.size .amo (.flat (.remote pkg pa)) s1 →
          s.owes s.cur (.flat (.remote pkg pa)) a.size true = false → s.ctx.aw = .none →
          s1.mayIssue s.org.part 0 (s1.endpoint s.org) 3 s.me.accCtr.toNat = true →
          Runs i s fun t => stays t ∧ ∃ id k, t.ctx.aw = .sent id ∧ Tab.find? t.pkts id = some k ∧ k.org = s.org ∧ k.kind = 3 ∧ k.dpkg = pkg ∧ k.va = p
            ∧ k.words.drop 3 = [BitVec.ofNat 64 pa, BitVec.ofNat 64 (a.idx * 2 ^ 32 + a.op * 256 + a.fmt)] ++ a.data)
        ∧ (∀ w ws c, Ready s srcs [xr rd] → s.ctx.aw = .replied true c (w :: ws) → Runs i s fun t =>
          Answers s rd (ext w) t ∧ Bytes s t ∧ t.ctx.aw = .none)
        ∧ (∀ tv ws c, Ready s srcs [xr rd] → s.ctx.aw = .replied false c (tv :: ws) →
          exec i s = .next (if lateCause c then ((s.modCtx fun x => { x with aw := .none }).pendCause s.org c tv).waited else s.takeTrap c tv 0))
    let fails := fun (i : Instr) (srcs : List Nat) => ∀ c, Ready s srcs [xr rd] → s.ctx.aw = .replied false c [] →
      exec i s = .next (if lateCause c ∨ c = .remoteDenied then ((s.modCtx fun x => { x with aw := .none }).pendCause s.org c p).waited
        else s.takeTrap c p 0)
    let pends := fun (i : Instr) => ∀ c, Ready s [xr rs1, xr rs2] [xr rd] → s.ctx.aw = .replied false c [] → s.fir.active = true →
      s.ctx.causes.length < 4 →
      Runs i s fun t => t.ctx.causes = s.ctx.causes ++ [(c, p)] ∧ t.ctx.aw = .none ∧ X t rd = X s rd ∧ Bytes s t ∧ Next s t
    let amo := fun (w d : Instr) (idx op : Nat) =>
      asks w [xr rs1, xr rs2] { idx := idx, op := op, size := 4, data := [v] } (fun x => (x.setWidth 32).signExtend 64)
        ∧ asks d [xr rs1, xr rs2] { idx := idx, op := op, size := 8, data := [v] } id ∧ pends w ∧ pends d
    amo (.amoaddW aq rl rs2 rs1 rd) (.amoaddD aq rl rs2 rs1 rd) 2 0 ∧ amo (.amoorW aq rl rs2 rs1 rd) (.amoorD aq rl rs2 rs1 rd) 2 1
      ∧ amo (.amoandW aq rl rs2 rs1 rd) (.amoandD aq rl rs2 rs1 rd) 2 2 ∧ amo (.amoxorW aq rl rs2 rs1 rd) (.amoxorD aq rl rs2 rs1 rd) 2 3
      ∧ amo (.amominW aq rl rs2 rs1 rd) (.amominD aq rl rs2 rs1 rd) 3 0 ∧ amo (.amominuW aq rl rs2 rs1 rd) (.amominuD aq rl rs2 rs1 rd) 3 1
      ∧ amo (.amomaxW aq rl rs2 rs1 rd) (.amomaxD aq rl rs2 rs1 rd) 4 0 ∧ amo (.amomaxuW aq rl rs2 rs1 rd) (.amomaxuD aq rl rs2 rs1 rd) 4 1
      ∧ amo (.amoswapW aq rl rs2 rs1 rd) (.amoswapD aq rl rs2 rs1 rd) 5 0
      ∧ (Idle s → asks (.acas eb2 eb1 rs2 rs1 rd) [xr rs1, xr rs2, xr rd] { idx := 6, data := [X s rd, v] } id
        ∧ fails (.acas eb2 eb1 rs2 rs1 rd) [xr rs1, xr rs2, xr rd])
      ∧ (Idle s → asks (.atkt eb2 eb1 rs2 rs1 rd) [xr rs1, xr rs2] { idx := 11, data := [v] } id
        ∧ fails (.atkt eb2 eb1 rs2 rs1 rd) [xr rs1, xr rs2]))

/-- With no active repetition, registers ready and the operation performed at once at a place of this package: ACAS stores X[b] when the old 8
bytes equal X[d] and nothing otherwise, and X[d] becomes the old value (discarded for x0); ATKT stores the counter plus one and answers it
when it is below X[b] and answers all ones without a write otherwise, so that a bound of 0 always gives all ones; AFADD, AFMAX and AFMIN
store the sum by RNE, the larger or the smaller element and write the old element to F[d] with the bits above it zero. No flag and no
other register changes. (09_atomics_queues.md R184, 09_atomics_queues.md R185, 09_atomics_queues.md R186.) -/
def Obligations.CompareTicketFloat : Prop :=
  (∀ (s m : State) (eb2 eb1 : BitVec 1) (b a d : BitVec 5) (l : Loc), Idle s → Unwatched s → Performs s (X s a) 8 l m →
      let old := m.numAt l 8
      (Ready s [xr a, xr b, xr d] [xr d] → Runs (.acas eb2 eb1 b a d) s fun t => Answers s d (BitVec.ofNat 64 old) t
          ∧ (if old = (X s d).toNat then Stored m t l 8 (X s b).toNat else Bytes m t))
        ∧ (Ready s [xr a, xr b] [xr d] → Runs (.atkt eb2 eb1 b a d) s fun t =>
          if old < (X s b).toNat then Answers s d (BitVec.ofNat 64 old) t ∧ Stored m t l 8 (old + 1)
          else Answers s d (BitVec.allOnes 64) t ∧ Bytes m t)
        ∧ (Ready s [xr a, xr b] [xr d] → X s b = 0 → Runs (.atkt eb2 eb1 b a d) s (Answers s d (BitVec.allOnes 64))))
    ∧ ∀ (s m : State) (eb2 eb1 : BitVec 1) (b a d : BitVec 5) (l : Loc), Idle s → Unwatched s → Named s [b, d] →
      Ready s [xr a, fr b] [fr d] →
      let tag := ((X s a).extractLsb' 59 5).toNat
      let n := if tag = 1 then 4 else 2
      let fmt := if tag = 1 then fp32 else bf16
      tag = 1 ∨ tag = 2 → (X s a).extractLsb' 56 3 = 0 → Performs s (X s a) n l m →
      let old := m.numAt l n
      let v := (F s b).toNat % 2 ^ (8 * n)
      let gives := fun (i : Instr) (new : Nat) => Runs i s fun t => F t d = BitVec.ofNat 64 old ∧ fr d ∉ t.ctx.empty
        ∧ Regs s t [fr d] 0 ∧ Next s t ∧ Stored m t l n new
      gives (.afadd eb2 eb1 b a d) (fmt.fadd .rne old v).1 ∧ gives (.afmax eb2 eb1 b a d) (fmt.fminmax true old v).1
        ∧ gives (.afmin eb2 eb1 b a d) (fmt.fminmax false old v).1

/-- With no active repetition, registers ready and a header performed at once at a place of this package: QPUSH and QPUSHW (in a launch
firing) on a queue that is not full return the ticket, count it in the header and owe the row's write with X[b]; QPUSH on a full queue
returns all ones and writes nothing; QPOP and QPOPW (in a launch firing) on a queue with a published row return its index and count the
pop; QPOP on one without returns all ones and writes nothing; QPUSHW on a full queue and QPOPW on one with no published row register their
firing as a waiter at the queue and sleep at their own pc; a row that fails a check of its address takes that cause with the row's pointer
(a poisoned table entry MEMORY_POISON, imprecisely); a corrupt header takes QUEUE_CORRUPT with the header address; QINIT with a limit from
1 to 2^31 and a good row pointer sets the counters to 0, the limit and the row base, and with any other limit takes RESERVED_FIELD.
(09_atomics_queues.md R187, 09_atomics_queues.md R188, 09_atomics_queues.md R189, 09_atomics_queues.md R190.) -/
def Obligations.TicketQueues : Prop :=
  ∀ (s m : State) (eb2 eb1 : BitVec 1) (b a d : BitVec 5) (l : Loc), Idle s → Unwatched s → Performs s (X s a) 32 l m →
    let p := X s a
    let w0 := m.numAt l 8
    let w1 := m.numAt (l.plus 8) 8
    let lim := w0 / 2 ^ 32
    let tkt := w0 % 2 ^ 32
    let pop := w1 / 2 ^ 32
    let pub := w1 % 2 ^ 32
    let taken := (tkt + 2 ^ 32 - pop) % 2 ^ 32
    let ready := (pub + 2 ^ 32 - pop) % 2 ^ 32
    let corrupt := lim = 0 ∨ 2 ^ 31 < lim ∨ lim < taken ∨ taken < ready
    let launch := s.fir.kind = 0
    let r := ptrAdd (BitVec.ofNat 64 (m.numAt (l.plus 24) 8)) ((8 * (tkt % lim) : Nat) : Int)
    let all1 := BitVec.allOnes 64
    let push := fun (i : Instr) => Ready s [xr a, xr b] [xr d] →
      (corrupt → exec i s = .next (s.takeTrap .queueCorrupt p 0))
        ∧ (¬ corrupt → taken < lim → ∀ rc m1, m.rowReach s.org r = .ok (rc, m1) →
          Runs i s fun t => Answers s d (BitVec.ofNat 64 tkt) t ∧ Stored m t l 8 (lim * 2 ^ 32 + (tkt + 1) % 2 ^ 32)
            ∧ ∃ id row, Tab.find? t.rows id = some row ∧ Turn.act (.row id) ∈ t.turns ∧ row.hdr = l ∧ row.tkt = tkt ∧ row.va = r
              ∧ row.spot = rc.spot ∧ row.val = X s b ∧ row.done = false ∧ row.live = true)
        ∧ (¬ corrupt → taken < lim → ∀ c, m.rowReach s.org r = .error c →
          exec i s = .next (if lateCause c then (m.pendCause s.org c r).waited else s.takeTrap c r 0))
    let pops := fun (i : Instr) => Ready s [xr a] [xr d] →
      (corrupt → exec i s = .next (s.takeTrap .queueCorrupt p 0))
        ∧ (¬ corrupt → pop ≠ pub → Runs i s fun t => Answers s d (BitVec.ofNat 64 (pop % lim)) t
          ∧ Stored m t (l.plus 8) 8 ((pop + 1) % 2 ^ 32 * 2 ^ 32 + pub))
    let sleeps := fun (i : Instr) (kind : Nat) => Runs i s fun t => t.ctx.aw = .asleep ∧ t.ctx.pc = s.ctx.pc ∧ t.me.instret = s.me.instret
      ∧ { kind := kind, obj := l, gen := 0, k := s.cur, h := s.me.inH, fid := s.fir.fid } ∈ t.waiters ∧ Regs s t [] 0 ∧ Bytes m t
    push (.qpush eb2 eb1 b a d) ∧ (launch → push (.qpushw eb2 eb1 b a d))
      ∧ (Ready s [xr a, xr b] [xr d] → ¬ corrupt → taken = lim →
        Runs (.qpush eb2 eb1 b a d) s fun t => Answers s d all1 t ∧ Bytes m t)
      ∧ (Ready s [xr a, xr b] [xr d] → launch → ¬ corrupt → taken = lim → sleeps (.qpushw eb2 eb1 b a d) 1)
      ∧ (Ready s [xr a] [xr d] → launch → ¬ corrupt → pop = pub → sleeps (.qpopw eb1 a d) 2)
      ∧ pops (.qpop eb1 a d) ∧ (launch → pops (.qpopw eb1 a d))
      ∧ (Ready s [xr a] [xr d] → ¬ corrupt → pop = pub → Runs (.qpop eb1 a d) s fun t => Answers s d all1 t ∧ Bytes m t)
      ∧ (Ready s [xr a, xr b] [] → 1 ≤ (X s b).toNat → (X s b).toNat ≤ 2 ^ 31 →
        m.rowBaseBad s.org (BitVec.ofNat 64 (m.numAt (l.plus 16) 8)) = none →
        Runs (.qinit eb2 eb1 b a) s fun t => Answers s 0 0 t ∧ t.numAt l 8 = (X s b).toNat * 2 ^ 32 ∧ t.numAt (l.plus 8) 8 = 0
          ∧ t.numAt (l.plus 16) 8 = m.numAt (l.plus 16) 8 ∧ t.numAt (l.plus 24) 8 = m.numAt (l.plus 16) 8
          ∧ ∀ l', (∀ i, i < 32 → l' ≠ l.plus i) → t.byteAt l' = m.byteAt l')
      ∧ (Ready s [xr a, xr b] [] → (X s b = 0 ∨ 2 ^ 31 < (X s b).toNat) →
        exec (.qinit eb2 eb1 b a) s = .next (s.takeTrap .reservedField (X s b) 0))

/-- With no active repetition, registers ready and the 16-byte object performed at once at a place of this package: BINIT with a count of 1 to
65,535 sets the count, clears the arrivals and marks the object initialised, keeping the generation of one in use, and with any other
count takes RESERVED_FIELD; BARR, once its release is done, answers the generation, records it and counts the arrival, moving the
generation on when the count is full, unless the record holds that generation (BARRIER_DOUBLE_ARRIVAL); BWAIT (in a launch firing) whose
generation has gone completes and acquires, and else registers its firing as a waiter at the object and sleeps at its own pc; BTEST
answers 1 and acquires then, and 0 otherwise; an object that is not initialised takes BARRIER_UNINITIALISED. With no active repetition,
registers ready, releases done and the 32-byte counter performed at once at a place of this package: JINIT with a count of 1 to 2^32 - 1
writes it and nothing else, and with any other count takes RESERVED_FIELD; JARR of a firing with an egress slot counts down and answers
the new count, keeping the slot used only when it reached zero; a counter of zero takes JOIN_UNDERFLOW with the address as tval; in a
handler firing with no reserved slot left JARR takes PRODUCTION_BOUND with the bound as tval. (07_memory_ordering.md R150,
07_memory_ordering.md R151, 07_memory_ordering.md R152, 07_memory_ordering.md R154, 07_memory_ordering.md R155.) -/
def Obligations.BarrierForms : Prop :=
  (∀ (s m : State) (eb2 eb1 : BitVec 1) (b a d : BitVec 5) (l : Loc), Idle s → Unwatched s → Performs s (X s a) 16 l m →
    let p := X s a
    let w0 := m.numAt l 8
    let w1 := m.numAt (l.plus 8) 8
    let gen := w0 / 2 ^ 32
    let arr := w0 / 2 ^ 16 % 2 ^ 16
    let cnt := w0 % 2 ^ 16
    let good := w1 = 1 ∧ cnt ≠ 0
    let word := fun (g n c : Nat) => g * 2 ^ 32 + n * 2 ^ 16 + c
    let g64 := BitVec.ofNat 64 gen
    let gone := gen ≠ (X s b).toNat % 2 ^ 32
    let frame := fun (t : State) (v : Word) (e : BitVec 5) => Answers0 s e v t ∧ t.fir = s.fir
    let bad := fun (i : Instr) => exec i s = .next (s.takeTrap .barrierUninitialised p 0)
    (Ready s [xr a, xr b] [] → 1 ≤ (X s b).toNat → (X s b).toNat ≤ 65535 →
        Runs (.binit eb2 eb1 b a) s fun t => Answers s 0 0 t
          ∧ t.numAt l 8 = word (if w1 % 2 = 1 then gen else 0) 0 (X s b).toNat ∧ t.numAt (l.plus 8) 8 = 1
          ∧ ∀ l', (∀ i, i < 16 → l' ≠ l.plus i) → t.byteAt l' = m.byteAt l')
      ∧ (Ready s [xr a, xr b] [] → (X s b = 0 ∨ 65535 < (X s b).toNat) →
        exec (.binit eb2 eb1 b a) s = .next (s.takeTrap .reservedField (X s b) 0))
      ∧ (Ready s [xr a] [xr d] → Released s → good → (∀ e ∈ s.ctx.arrivals, e.1 = p → e.2 % 2 ^ 64 ≠ gen) →
        Runs (.barr eb1 a d) s fun t => frame t g64 d ∧ t.ls.ports = s.ls.ports ∧ t.ctx.arrivals = recordArrival s.ctx.arrivals p gen
          ∧ Stored m t l 8 (if (arr + 1) % 2 ^ 16 = cnt then word ((gen + 1) % 2 ^ 32) 0 cnt else word gen ((arr + 1) % 2 ^ 16) cnt))
      ∧ (Ready s [xr a] [xr d] → Released s → good → (p, gen) ∈ s.ctx.arrivals →
        exec (.barr eb1 a d) s = .next (s.takeTrap .barrierDoubleArrival p 0))
      ∧ (Ready s [xr a] [xr d] → Released s → ¬ good → bad (.barr eb1 a d))
      ∧ (Ready s [xr a, xr b] [] → s.fir.kind = 0 → good → gone →
        Runs (.bwait eb2 eb1 b a) s fun t => frame t 0 0 ∧ Acquired s t ∧ t.ctx.arrivals = s.ctx.arrivals ∧ Bytes m t)
      ∧ (Ready s [xr a, xr b] [] → s.fir.kind = 0 → good → ¬ gone →
        Runs (.bwait eb2 eb1 b a) s fun t => t.ctx.aw = .asleep ∧ t.ctx.pc = s.ctx.pc ∧ t.me.instret = s.me.instret
          ∧ { kind := 0, obj := l, gen := gen, k := s.cur, h := s.me.inH, fid := s.fir.fid } ∈ t.waiters ∧ Regs s t [] 0 ∧ Bytes m t)
      ∧ (Ready s [xr a, xr b] [] → s.fir.kind = 0 → ¬ good → bad (.bwait eb2 eb1 b a))
      ∧ (Ready s [xr a, xr b] [xr d] → good → gone →
        Runs (.btest eb2 eb1 b a d) s fun t => frame t 1 d ∧ Acquired s t ∧ t.ctx.arrivals = s.ctx.arrivals ∧ Bytes m t)
      ∧ (Ready s [xr a, xr b] [xr d] → good → ¬ gone → Runs (.btest eb2 eb1 b a d) s fun t => Answers s d 0 t ∧ Bytes m t)
      ∧ (Ready s [xr a, xr b] [xr d] → ¬ good → bad (.btest eb2 eb1 b a d)))
  ∧ (∀ (s m : State) (eb2 eb1 : BitVec 1) (b a d : BitVec 5) (l : Loc), Idle s → Unwatched s → Released s →
    Performs s (X s a) 32 l m →
    let p := X s a
    let w0 := m.numAt l 8
    let count := w0 % 2 ^ 32
    let w1 := m.numAt (l.plus 8) 8
    let w2 := BitVec.ofNat 64 (m.numAt (l.plus 16) 8)
    let w3 := BitVec.ofNat 64 (m.numAt (l.plus 24) 8)
    (Ready s [xr a, xr b] [] → 1 ≤ (X s b).toNat → (X s b).toNat < 2 ^ 32 →
        Runs (.jinit eb2 eb1 b a) s fun t => Answers s 0 0 t ∧ Stored m t l 8 (w0 / 2 ^ 32 * 2 ^ 32 + (X s b).toNat))
      ∧ (Ready s [xr a, xr b] [] → (X s b = 0 ∨ 2 ^ 32 ≤ (X s b).toNat) →
        exec (.jinit eb2 eb1 b a) s = .next (s.takeTrap .reservedField (X s b) 0))
      ∧ (Ready s [xr a] [xr d] → Egressed s → 1 < count →
        Runs (.jarr eb1 a d) s fun t => Answers0 s d (BitVec.ofNat 64 (count - 1)) t
          ∧ Stored m t l 8 (w0 / 2 ^ 32 * 2 ^ 32 + (count - 1)) ∧ t.fir = { s.fir with resv := s.fir.resv - 1 } ∧ t.ls.ports = s.ls.ports)
      ∧ (Ready s [xr a] [xr d] → Egressed s → count = 0 → exec (.jarr eb1 a d) s = .next (s.takeTrap .joinUnderflow p 0))
      ∧ (Ready s [xr a] [xr d] → Egressed s → count = 1 → 16 ≤ w1 % 2 ^ 12 →
        ∀ k, s.contTarget s.fir.part (BitVec.ofNat 64 w1) w2 = .ok (.core k) →
        Runs (.jarr eb1 a d) s fun t => Answers0 s d 0 t ∧ Acquired s t ∧ Stored m t l 8 (w0 / 2 ^ 32 * 2 ^ 32)
          ∧ ∃ id f, Tab.find? t.flights id = some f ∧ Turn.act (.validate id) ∈ t.turns ∧ f.dst = k ∧ f.hdl = w1 % 2 ^ 12
            ∧ f.pri = decide (w1 / 2 ^ 12 % 2 = 1) ∧ (f.words.drop 1).take 2 = [p, w3])
      ∧ (Ready s [xr a] [xr d] → s.fir.resv = 0 → s.fir.kind ≠ 0 →
        exec (.jarr eb1 a d) s = .next (s.takeTrap .productionBound (BitVec.ofNat 64 s.fir.prod) 0)))

/-- With no active repetition and a scope that is admitted: ORD.ACQ, once every earlier read is back, completes with the L1 and the unconsumed
prefetches discarded; ORD.REL completes once every write issued within the package is performed, for the domain also those to other
packages; ORD.FULL does both; a scope that is not admitted takes SCOPE_INVALID with the scope as tval, and a release of the domain that
finds a write to another package failed takes that write's cause with its address. Each changes no register and no byte. A FENCE word
completes as ORD.FULL of the domain does, and steps exactly as ORD.FULL with the domain scope, whatever its fields hold. With no active
repetition, registers ready, an admitted scope, no watchpoint that can match and the place held by no command and no earlier access of the
core: LD.ACQ at a place of the core's private memory, of its cluster's scratchpad or of another running cluster's writes the 8 bytes to
X[d] and discards the L1 and the unconsumed prefetches; a read of global memory whose home's die runs and that is answered, and the reply
with the line of another package's memory, give their bytes in the same way. SD.REL, when the writes of its scope are performed, writes
the 8 bytes of X[d] at a private or own scratch place and nothing else, and queues the write of them last among the core's stores at a
place of global memory. A scope that is not admitted takes SCOPE_INVALID before the address is looked at. (03_scalar.md R57,
07_memory_ordering.md R139, 07_memory_ordering.md R141, 07_memory_ordering.md R143, 07_memory_ordering.md R148, 07_memory_ordering.md
R149, 16_remote.md R299.) -/
def Obligations.OrderingForms : Prop :=
  ((∀ (s : State) (eb1 : BitVec 1) (a : BitVec 5) (imm : BitVec 12) (rs1 rd : BitVec 5), Idle s →
      let v := X s a
      let dom := v = 0xFFFFFFFFFFFFFFFF
      let ok := s.scopeOk s.fir.part s.cur v = true
      let domRel := Released s ∧ s.quietAbroad s.cur = true
      let rel := Released s ∧ (dom → s.quietAbroad s.cur = true)
      let done := fun (t : State) => Regs0 s t [] 0 ∧ Bytes s t ∧ Next s t ∧ t.fir = s.fir ∧ t.ctx.arrivals = s.ctx.arrivals
      let bad := fun (i : Instr) => exec i s = .next (s.takeTrap .scopeInvalid v 0)
      (Ready s [xr a] [] →
        (ok → ReadsBack s → Runs (.ordAcq eb1 a) s fun t => done t ∧ Acquired s t)
          ∧ (ok → rel → Runs (.ordRel eb1 a) s fun t => done t ∧ t.ls.ports = s.ls.ports ∧ t.me.l1 = s.me.l1)
          ∧ (ok → rel → ReadsBack s → Runs (.ordFull eb1 a) s fun t => done t ∧ Acquired s t)
          ∧ (¬ ok → bad (.ordAcq eb1 a) ∧ bad (.ordRel eb1 a) ∧ bad (.ordFull eb1 a))
          ∧ ∀ x c, dom → s.me.stores.find? (·.bad.isSome) = some x → x.bad = some c →
            exec (.ordRel eb1 a) s = .next (s.takeTrap c x.va 0) ∧ exec (.ordFull eb1 a) s = .next (s.takeTrap c x.va 0))
        ∧ (domRel → ReadsBack s → Runs (.fence imm rs1 rd) s fun t => done t ∧ Acquired s t))
    ∧ ∀ (s : State) (imm : BitVec 12) (rs1 rd a : BitVec 5) (eb1 : BitVec 1), Ready s [xr a] [] → X s a = 0xFFFFFFFFFFFFFFFF →
      exec (.fence imm rs1 rd) s = exec (.ordFull eb1 a) s)
  ∧ (∀ (s : State) (eb2 eb1 : BitVec 1) (b a d : BitVec 5) (l : Loc), Idle s → Unwatched s →
    let p := X s a
    let sc := X s b
    let ok := s.scopeOk s.fir.part s.cur sc = true
    let rel := Released s ∧ (sc = 0xFFFFFFFFFFFFFFFF → s.quietAbroad s.cur = true)
    let loaded := fun (m : State) (v : Nat) (t : State) => Answers0 s d (BitVec.ofNat 64 v) t ∧ Bytes m t ∧ Acquired s t
    (ok → s.ctx.aw = .none → Ready s [xr a, xr b] [xr d] →
        (AtOnce l → Reached s p 8 .load (.flat l) s → s.blocked (.flat l) 8 false = false →
          Runs (.ldAcq eb2 eb1 b a d) s (loaded s (s.numAt l 8)))
        ∧ (∀ cl off, Reached s p 8 .load (.far cl off) s → s.blocked (.far cl off) 8 false = false → s.dieHolds (.far cl off) false = false →
          s.farBad s.org cl off 8 = none → Runs (.ldAcq eb2 eb1 b a d) s (loaded s (s.numAt (.scratch cl off) 8)))
        ∧ ∀ s1 s2 pa r bs, r.spot = .flat (.hbm pa) → s.reach s.org p 8 .load = .ok (r, s1) → s1.blocked r.spot 8 false = false →
          s1.dieHolds r.spot true = false → s1.readGlobal s.org p r 8 = (.soon bs, s2) → Runs (.ldAcq eb2 eb1 b a d) s (loaded s2 (leNat bs)))
      ∧ (∀ c ws, ok → Ready s [xr a, xr b] [xr d] → s.ctx.aw = .replied true c ws → Runs (.ldAcq eb2 eb1 b a d) s
        (loaded s (leNat (((ws.flatMap fun w => leBytes 8 w.toNat).drop (p.toNat % 2 ^ 48 % 64)).take 8))))
      ∧ (ok → rel → Ready s [xr a, xr b, xr d] [] →
        (AtOnce l → Reached s p 8 .store (.flat l) s → s.blocked (.flat l) 8 true = false →
          Runs (.sdRel eb2 eb1 b a d) s fun t => Stored s t l 8 (X s d).toNat ∧ Regs s t [] 0 ∧ Next s t)
        ∧ ∀ s1 pa r, r.spot = .flat (.hbm pa) → s.reach s.org p 8 .store = .ok (r, s1) → s1.blocked r.spot 8 true = false →
          Runs (.sdRel eb2 eb1 b a d) s fun t => (∃ x : PStore, t.me.stores = s.me.stores ++ [x] ∧ x.va = p ∧ x.away = false
              ∧ x.parts = [.at (.hbm pa) ((List.range 8).map (byteOf (X s d).toNat))] ∧ Turn.act (.ack s.cur x.id) ∈ t.turns)
            ∧ Regs s t [] 0 ∧ Bytes (s1.counted s.org r 8) t ∧ Next s t)
      ∧ (¬ ok → Ready s [xr a, xr b, xr d] [xr d] → exec (.ldAcq eb2 eb1 b a d) s = .next (s.takeTrap .scopeInvalid sc 0)
        ∧ exec (.sdRel eb2 eb1 b a d) s = .next (s.takeTrap .scopeInvalid sc 0)))

/-- With no active repetition and registers ready: for fcsr, fflags and frm (once FDIV.S and FSQRT.S have landed) each Zicsr form answers the
old field and leaves the field that CSRRW, CSRRS or CSRRC gives, the other bits of fcsr unchanged, writing nothing for rs1 = x0 or a zero
immediate in the set and clear forms; zrrstate keeps bits 11:0 and zlutbase all bits; the read-only addresses cycle, time, instret,
zcause, ztval and zpos read as the state holds them and ignore writes; a reserved address takes RESERVED_FIELD, a supervisor address in a
user firing PRIVILEGED_OP, and zlutbase, zrrstate and zpos in an H firing HIGH_REGISTER_RANGE, each with the word as tval. When the
destination is writable RDREF writes the reference tick count, RDDCYC the cycle counter of the virtual die of the core (whole cycles) and
RDRATIO the sequence number of its newest step-log entry with the multiplier in force, each with nothing else changed. With power, one
reference tick adds one to the tick count and, while no frequency step is under way or deferred, to the counter of each virtual die whose
socket runs, a twentieth of a cycle for every unit of its multiplier; without power nothing moves. (02_instruction_words.md R50,
03_scalar.md R73, 03_scalar.md R74, 03_scalar.md R75, 03_scalar.md R76, 20_dies_time.md R361, 20_dies_time.md R362.) -/
def Obligations.ControlRegisters : Prop :=
  (∀ (s : State) (csr : BitVec 12) (r rd : BitVec 5), Idle s →
    let src := X s r
    let z := r.setWidth 64
    let n := csr.toNat
    let forms : List (Instr × Word × Bool × (Word → Word → Word) × List Nat) :=
      [(.csrrw csr r rd, src, true, fun _ v => v, [xr r]), (.csrrs csr r rd, src, r != 0, fun o v => o ||| v, [xr r]),
        (.csrrc csr r rd, src, r != 0, fun o v => o &&& ~~~v, [xr r]), (.csrrwi csr r rd, z, true, fun _ v => v, []),
        (.csrrsi csr r rd, z, r != 0, fun o v => o ||| v, []), (.csrrci csr r rd, z, r != 0, fun o v => o &&& ~~~v, [])]
    ∀ i v w f srcs, (i, v, w, f, srcs) ∈ forms →
      let bad := fun (c : Cause) => exec i s = .next (s.takeTrap c ((encode i).setWidth 64) 0)
      let gives := fun (old : Word) (Q : State → Prop) => Ready s srcs [xr rd] → Runs i s fun t =>
        X t rd = (if rd = 0 then 0 else old) ∧ Next s t ∧ Bytes s t ∧ (∀ q, q ≠ rd → X t q = X s q) ∧ (∀ q, F t q = F s q) ∧ Q t
      let fcsr := fun (lo len : Nat) => (∀ q ∈ s.ctx.pend, q.div = false) →
        let old := BitVec.ofNat 64 (s.ctx.fcsr.toNat / 2 ^ lo % 2 ^ len)
        gives old fun t => t.ctx.fcsr.toNat = (if w then s.ctx.fcsr.toNat - old.toNat * 2 ^ lo + (f old v).toNat % 2 ^ len * 2 ^ lo else s.ctx.fcsr.toNat)
      let reads := fun (old : Word) => gives old fun t => t.ctx.fcsr = s.ctx.fcsr ∧ t.ls = s.ls ∧ t.ctx.zcause = s.ctx.zcause
        ∧ t.ctx.ztval = s.ctx.ztval ∧ { t with cores := s.cores } = s
      (n = 0x001 → fcsr 0 5) ∧ (n = 0x002 → fcsr 5 3) ∧ (n = 0x003 → fcsr 0 8)
        ∧ (n = 0x8C0 → s.me.inH = false → gives s.ls.zlutbase fun t => t.ls = { s.ls with zlutbase := if w then f s.ls.zlutbase v else s.ls.zlutbase })
        ∧ (n = 0x8C1 → s.me.inH = false → gives (s.ls.zrr.setWidth 64) fun t =>
          t.ls = { s.ls with zrr := if w then (f (s.ls.zrr.setWidth 64) v).setWidth 12 else s.ls.zrr })
        ∧ (n = 0xC00 → reads (s.cycles s.fir.part s.cur)) ∧ (n = 0xC01 → reads s.time) ∧ (n = 0xC02 → reads s.me.instret)
        ∧ (n = 0xCC0 → reads (s.ctx.zcause.setWidth 64)) ∧ (n = 0xCC1 → reads s.ctx.ztval)
        ∧ (n = 0xCC2 → s.me.inH = false → reads s.ls.zpos)
        ∧ (csrReserved n = true → bad .reservedField)
        ∧ ((0x5C0 ≤ n ∧ n ≤ 0x5C3 ∨ 0x5D0 ≤ n ∧ n ≤ 0x5DF) → s.fir.sup = false → bad .privilegedOp)
        ∧ (n = 0x8C0 ∨ n = 0x8C1 ∨ n = 0xCC2 → s.me.inH = true → bad .highRegisterRange))
  ∧ ((∀ (s : State) (d : BitVec 5), Ready s [] [xr d] →
      let vd := Tab.get (s.partAt s.fir.part).vdies (s.vdie s.fir.part (s.cur / 8)) {}
      let gives := fun (i : Instr) (v : Word) => Runs i s (SetsX s d v (s.ctx.pc + 4))
      gives (.rdref d) s.time ∧ gives (.rddcyc d) (BitVec.ofNat 64 (vd.cyc / 20))
        ∧ gives (.rdratio d) (BitVec.ofNat 64 (vd.seq.toNat * 2 ^ 48 + (s.dieAt (s.cur / 512)).mult % 64)))
    ∧ (∀ s : State, s.dev.power = 0 → s.tick = s)
    ∧ ∀ s : State, s.dev.power ≠ 0 → s.tick.time = s.time + 1 ∧ ((∀ e ∈ s.dies, e.2.next = none ∧ e.2.asked = []) → s.tick.parts = s.parts.map fun e =>
      (e.1, { e.2 with vdies := e.2.vdies.map fun d => (d.1, match d.2.sock with
        | some sk => if (s.dieAt sk).running = true ∧ d.2.dest = none then { d.2 with cyc := d.2.cyc + (s.dieAt sk).mult } else d.2
        | none => d.2) })))

/-- In a supervisor firing (no active repetition, registers ready) each Zicsr form of zhtab, zscratchlim and zseed answers the last value
written; a write is recorded, leaves the value in effect and owes CSR_PROPAGATION (bits 63:8 of zscratchlim drop before the clamp at 128,
an n of zhtab above 4,080 stays: notes/assumptions/150.md). zgrpmap answers the selected cluster with its group as last written; a write
selects the cluster of bits 14:6 and, inside the partition, records bits 5:0 as its group and owes CSR_PROPAGATION (outside:
notes/assumptions/56.md). zaper0 to zaper15 answer word 0 of their aperture, and a write is an APERW of word 0 (notes/assumptions/55.md).
CSR_PROPAGATION makes the written values of its partition the ones in effect and releases its cores' waits on them. APERW of word 1, 2 or
3 records the word and changes no enabled aperture; of word 0 disabled, or valid beside the other enabled apertures, it installs the four
words and sends an invalidation of the old range where it was enabled and of the new one where it is, to every cluster of the partition;
of word 0 enabled and not valid it takes RESERVED_FIELD with the word. TLBSYNC completes when no invalidation or propagation of the core
is out. In a user firing APERW, TLBSYNC, TLBINV, HTABW and DHALT take PRIVILEGED_OP with their word. TLBINV in a supervisor firing with a
legal kind and target and every write performed completes with that invalidation under way; a reserved value takes RESERVED_FIELD with
X[b], a non-canonical address of kind 0 NONCANONICAL with X[a]. WFM completes when an entry has been placed since the firing's start or
its previous WFM, which it uses up, and else waits at its own pc. DHALT in a supervisor firing does nothing without a debugger; with one
it completes with the group halted and its cores' stop owed. (02_instruction_words.md R50, 18_translation.md R340, 18_translation.md R343,
18_translation.md R345, 18_translation.md R346, 17_traps.md R328, 18_translation.md R342.) -/
def Obligations.SupervisorForms : Prop :=
  (let aper := fun (s : State) (p n : Nat) => Tab.get (s.partAt p).apers n {}
let next := fun (s : State) (p n : Nat) (v : Word) => ({ w := v :: (aper s p n).reced, reced := (aper s p n).reced } : Aper)
let apOk := fun (s : State) (p n : Nat) (v : Word) => v.getLsbD 63 = false
  ∨ (next s p n v).ok (((s.partAt p).apers.filter fun e => e.1 != n && (e.2.w.getD 0 0).getLsbD 63).map (·.2)) = true
let sends := fun (s t : State) (p : Nat) (x : Aper) => ∃ id q, Tab.find? t.invals id = some q ∧ q.kind = 3 ∧ q.org = s.org ∧ q.part = p
  ∧ q.va = BitVec.ofNat 64 x.vbase ∧ q.len = x.size ∧ q.cls = s.clustersOf p ∧ Turn.act (.inval id) ∈ t.turns
let apSet := fun (s t : State) (p n : Nat) (v : Word) =>
  let was := ((aper s p n).w.getD 0 0).getLsbD 63
  aper t p n = next s p n v ∧ (was = true → sends s t p (aper s p n)) ∧ (v.getLsbD 63 = true → sends s t p (next s p n v))
    ∧ (was = false → v.getLsbD 63 = false → t.invals = s.invals)
(∀ (s : State) (csr : BitVec 12) (r rd : BitVec 5), Idle s → s.fir.sup = true →
      let pn := s.fir.part
      let old := (s.partAt pn).csrNew
      let src := X s r
      let z := r.setWidth 64
      let n := csr.toNat
      let forms : List (Instr × Word × Bool × (Word → Word → Word) × List Nat) :=
        [(.csrrw csr r rd, src, true, fun _ v => v, [xr r]), (.csrrs csr r rd, src, r != 0, fun o v => o ||| v, [xr r]),
          (.csrrc csr r rd, src, r != 0, fun o v => o &&& ~~~v, [xr r]), (.csrrwi csr r rd, z, true, fun _ v => v, []),
          (.csrrsi csr r rd, z, r != 0, fun o v => o ||| v, []), (.csrrci csr r rd, z, r != 0, fun o v => o &&& ~~~v, [])]
      ∀ i v w f srcs, (i, v, w, f, srcs) ∈ forms → Ready s srcs [xr rd] →
        let writes := fun (was : Word) (now : Word → Machine.Csrs) => Runs i s fun t => X t rd = (if rd = 0 then 0 else was)
          ∧ (t.partAt pn).csr = (s.partAt pn).csr ∧ (t.partAt pn).csrNew = (if w then now (f was v) else old)
          ∧ (w = true → Turn.act (.csr pn) ∈ t.turns ∧ t.me.csrWait ≠ []) ∧ (w = false → { t with cores := s.cores } = s) ∧ Next s t ∧ Bytes s t
        (n = 0x5C1 → writes old.zhtab fun x => { old with zhtab := x &&& 0xFFF0FFFFFFFFFFF8 })
          ∧ (n = 0x5C2 → writes (BitVec.ofNat 64 old.lim) fun x => { old with lim := min 128 (x.toNat % 256) })
          ∧ (n = 0x5C3 → writes old.seed fun x => { old with seed := x })
          ∧ (n = 0x5C0 →
            let sel := (s.partAt pn).sel
            let inside := fun (c : Nat) => (s.clusterOf pn (c / 64) (c % 64)).isSome
            let was := BitVec.ofNat 64 (sel * 64 + if inside sel then Tab.get old.grp sel 0 else 0)
            let now := (f was v).toNat
            let sel' := now / 64 % 512
            Runs i s fun t => X t rd = (if rd = 0 then 0 else was) ∧ (t.partAt pn).sel = (if w then sel' else sel) ∧ (t.partAt pn).csr = (s.partAt pn).csr
              ∧ (t.partAt pn).csrNew = (if w && inside sel' then { old with grp := Tab.set old.grp sel' (now % 64) } else old)
              ∧ (w = true → inside sel' = true → Turn.act (.csr pn) ∈ t.turns ∧ t.me.csrWait ≠ []) ∧ Next s t ∧ Bytes s t)
          ∧ (0x5D0 ≤ n → n ≤ 0x5DF →
            let ap := Tab.get (s.partAt pn).apers (n - 0x5D0) {}
            let was := ap.w.getD 0 0
            let now := f was v
            let rdIs := fun (t : State) => X t rd = (if rd = 0 then 0 else was) ∧ Next s t ∧ Bytes s t
            (w = false → Runs i s fun t => rdIs t ∧ { t with cores := s.cores } = s)
              ∧ (w = true → apOk s pn (n - 0x5D0) now → Runs i s fun t => rdIs t ∧ apSet s t pn (n - 0x5D0) now)
              ∧ (w = true → ¬ apOk s pn (n - 0x5D0) now → exec i s = .next (s.takeTrap .reservedField now 0))))
    ∧ (∀ (s : State) (p : Nat), Runs (.csrPropagation p) s fun t => (t.partAt p).csr = (s.partAt p).csrNew ∧ (t.partAt p).csrNew = (s.partAt p).csrNew
      ∧ (∀ k, s.clusterIn p (k / 8) = true → (t.coreAt k).csrWait = []) ∧ (∀ k, s.clusterIn p (k / 8) = false → t.coreAt k = s.coreAt k)
      ∧ (∀ q, q ≠ p → t.partAt q = s.partAt q) ∧ Bytes s t)
    ∧ (∀ (s : State) (imm7 : BitVec 7) (a : BitVec 5), Idle s → s.fir.sup = true → Ready s [xr a] [] →
      let n := imm7.toNat % 16
      let w := imm7.toNat / 16
      let v := X s a
      let ap := Tab.get (s.partAt s.fir.part).apers n {}
      let done := fun (t : State) => Next s t ∧ Regs s t [] 0 ∧ Bytes s t
      (1 ≤ w → w ≤ 3 → Runs (.aperw imm7 a) s fun t => done t ∧ t.invals = s.invals
          ∧ Tab.get (t.partAt s.fir.part).apers n {} = { ap with reced := listSet ap.reced (w - 1) v })
        ∧ (w = 0 → apOk s s.fir.part n v → Runs (.aperw imm7 a) s fun t => done t ∧ apSet s t s.fir.part n v)
        ∧ (w = 0 → ¬ apOk s s.fir.part n v → exec (.aperw imm7 a) s = .next (s.takeTrap .reservedField v 0)))
    ∧ (∀ (s : State), Idle s → s.fir.sup = true → (∀ e ∈ s.invals, e.2.org.k ≠ s.cur) → s.me.csrWait = [] →
      Runs .tlbsync s fun t => Keeps s t [] 0 ∧ Next s t)
    ∧ ∀ (s : State) (eb2 eb1 : BitVec 1) (b a : BitVec 5) (imm7 : BitVec 7), Idle s → s.fir.sup = false →
      ∀ i, i ∈ [Instr.aperw imm7 a, .tlbsync, .tlbinv eb2 eb1 b a, .htabw eb2 eb1 b a, .dhalt] →
        exec i s = .next (s.takeTrap .privilegedOp ((encode i).setWidth 64) 0))
  ∧ (∀ (s : State) (eb2 eb1 : BitVec 1) (b a : BitVec 5), Idle s →
    let p := X s a
    let v := (X s b).toNat
    let kind := v % 4
    let tgt := v / 4 % 4
    let legal := v < 16 ∧ tgt < 2 ∧ kind ≠ 3
    (s.fir.sup = true → Ready s [xr a, xr b] [] →
      (legal → (kind = 0 → canonical p = true) → Released s → Runs (.tlbinv eb2 eb1 b a) s fun t => Regs s t [] 0 ∧ Bytes s t ∧ Next s t
        ∧ ∃ id, Turn.act (.inval id) ∈ t.turns ∧ Tab.find? t.invals id = some
          { org := s.org, kind := kind, va := BitVec.ofNat 64 (p.toNat % 2 ^ 48), job := if kind = 1 then p.toNat % 2 ^ 16 else s.fir.job,
            part := s.fir.part, cls := if tgt = 0 then [s.cur / 8] else s.clustersOf s.fir.part })
        ∧ (¬ legal → exec (.tlbinv eb2 eb1 b a) s = .next (s.takeTrap .reservedField (X s b) 0))
        ∧ (legal → kind = 0 → canonical p = false → exec (.tlbinv eb2 eb1 b a) s = .next (s.takeTrap .noncanonical p 0)))
    ∧ (s.ctx.wfm = true → Runs .wfm s fun t => Regs s t [] 0 ∧ Bytes s t ∧ Next s t ∧ t.ctx.wfm = false)
    ∧ (s.ctx.wfm = false → Runs .wfm s fun t => t.ctx.pc = s.ctx.pc ∧ t.me.instret = s.me.instret ∧ Regs s t [] 0 ∧ Bytes s t)
    ∧ (s.fir.sup = true → s.pageOf s.fir.gid = none → Runs .dhalt s fun t => Keeps s t [] 0 ∧ Next s t)
    ∧ (s.fir.sup = true → ∀ pg p, s.pageOf s.fir.gid = some (pg, p) → Runs .dhalt s fun t => (t.groupAt s.fir.gid).halted = true
      ∧ Turn.act (.halt pg) ∈ t.turns ∧ t.cur = s.cur ∧ Bytes s t ∧ Next s t ∧ (∀ r, X t r = X s r) ∧ ∀ r, F t r = F s r))

/-- With no active repetition ECALL takes ECALL_USER in a user firing and ECALL_SUPERVISOR in a supervisor firing, and EBREAK takes EBREAK,
each from the state it began in, so that the pc saved is its own, with tval 0; the three cause codes are 8, 9 and 7. (03_scalar.md R58.) -/
def Obligations.EnvironmentTraps : Prop :=
  (∀ s : State, Idle s →
      (s.fir.sup = false → exec .ecall s = .next (s.takeTrap .ecallUser 0 0))
        ∧ (s.fir.sup = true → exec .ecall s = .next (s.takeTrap .ecallSupervisor 0 0))
        ∧ exec .ebreak s = .next (s.takeTrap .ebreak 0 0))
    ∧ Cause.ecallUser.code = 8 ∧ Cause.ecallSupervisor.code = 9 ∧ Cause.ebreak.code = 7

/-- With no active repetition, registers ready and a handler index of 16 or more, for a target word of a core of this package (SEND, SENDW) or
an address that routes to a scratchpad (SENDA, SENDAW): a target die that takes no work or a retired cluster answers 2 (unless the
instruction has passed its checks already); else, with an egress slot, the writes of the scope performed and the arguments full, the
message is in flight, its validation owed, one egress slot used, the send counter advanced and X[d] 0; without a slot SEND and SENDA of a
launch firing answer 1, SENDW and SENDAW wait, and a handler firing takes PRODUCTION_BOUND with its bound. Nothing else changes. For a
core of another package that the domain lets this partition message, SEND and SENDW answer 3 where no path works, and else, every write of
the core performed, send the message in a packet. A target word that names nothing takes MESSAGE_TARGET_INVALID, an index below 16
HANDLER_TABLE_RANGE (tval with the index in bits 47:36: notes/assumptions/17.md), and SENDW and SENDAW in a handler firing
BLOCKING_IN_HANDLER. For a legal filter whose pick is an entry, RECV (and RECVW in a launch firing) removes it, acquires, leaves its 64
bytes in slot 7 of the context's message window and no other byte changed, and makes X[d] (when d is none of x10 to x15) and x10 to x15
empty with the header and the first six argument words on their way; a pick by rotation leaves zrrstate at the index taken. With nothing
that matches RECV writes 0 and changes nothing else and RECVW waits at its own pc; MCOUNT writes the number of matching entries. A filter
with reserved bits or values takes RESERVED_FIELD with the filter as tval (first, where it is bad in both ways: notes/assumptions/146.md);
a source other than 0 in an H firing HIGH_CONTEXT_ILLEGAL. (08_messages.md R158, 08_messages.md R159, 08_messages.md R164, 08_messages.md
R170, 08_messages.md R171, 16_remote.md R296, 08_messages.md R172, 08_messages.md R173, 03_scalar.md R68.) -/
def Obligations.MessageForms : Prop :=
  (∀ (s : State) (imm7 : BitVec 7) (a d : BitVec 5) (h : Nat), Idle s → Ready s [xr a] [xr d] → Selects s imm7 h →
    let p := X s a
    let n := p.toNat
    let frame := fun (v : Word) (t : State) => Answers0 s d v t ∧ Bytes s t ∧ t.ls.ports = s.ls.ports ∧ t.ctx.arrivals = s.ctx.arrivals
    let refused := fun (v : Word) (t : State) => frame v t ∧ t.fir = s.fir ∧ t.flights = s.flights
    let outcomes := fun (i : Instr) (wait : Bool) (die : Nat) (cl argc : Nat) (f : Flight) =>
      let gone := s.dieOpen die = false ∨ (s.clusterAt cl).retired = true
      (16 ≤ h → (wait = true → s.fir.kind = 0) →
        (Egressed s ∨ s.fir.kind = 0 → gone → s.ctx.passedAll = false → Runs i s (refused 2))
          ∧ (Egressed s → ¬ gone → Released s → (∀ j, j < argc → Readable s (10 + j) ∧ Writable s (10 + j)) → Runs i s fun t => frame 0 t ∧ Posted s t f)
          ∧ (s.fir.resv = 0 → s.fir.kind ≠ 0 → exec i s = .next (s.takeTrap .productionBound (BitVec.ofNat 64 s.fir.prod) 0))
          ∧ (¬ Egressed s → s.fir.kind = 0 → wait = false → ¬ gone → Runs i s (refused 1))
          ∧ (¬ Egressed s → s.fir.kind = 0 → wait = true → ¬ gone → Runs i s fun t => t.ctx.passed = 2 ∧ t.ctx.pc = s.ctx.pc
            ∧ t.me.instret = s.me.instret ∧ Regs s t [] 0 ∧ Bytes s t ∧ t.flights = s.flights))
        ∧ (h < 16 → (wait = true → s.fir.kind = 0) → exec i s = .next (s.takeTrap .handlerTableRange f.tval 0))
        ∧ (wait = true → s.fir.kind ≠ 0 → exec i s = .next (s.takeTrap .blockingInHandler ((encode i).setWidth 64) 0))
    let away := fun (i : Instr) (wait : Bool) (pkg argc : Nat) => 16 ≤ h → (wait = true → s.fir.kind = 0) → Egressed s →
      (s.workingPaths pkg = [] → s.ctx.passedAll = false → Runs i s (refused 3))
        ∧ (s.workingPaths pkg ≠ [] → Released s → s.quietAbroad s.cur = true → s.mayIssue s.fir.part 0 (s.endpoint s.org) 0 s.me.sendCtr.toNat = true →
          (∀ j, j < argc → Readable s (10 + j) ∧ Writable s (10 + j)) → Runs i s fun t => frame 0 t ∧ t.fir = { s.fir with resv := s.fir.resv - 1 }
            ∧ t.me.sendCtr = s.me.sendCtr + 1 ∧ (∃ id f e, Tab.find? t.flights id = some f ∧ f.pkg = some pkg ∧ f.hdl = h ∧ e ∈ t.pkts
              ∧ e.2.cls = 0 ∧ e.2.dpkg = pkg ∧ e.2.flight = id ∧ e.2.seq = s.me.sendCtr.toNat))
    let named := n / 2 ^ 62 % 2 = 0 ∧ n % 2 ^ 16 ≤ 127 ∧ n / 2 ^ 16 % 2 ^ 16 ≤ 31
    let pkg := n / 2 ^ 48 % 2 ^ 12
    (n / 2 ^ 63 = 1 → pkg ≠ s.pkgId → named → s.domainBit s.fir.part pkg 61 = true → n / 2 ^ 32 % 8 ≠ 7 →
        away (.send imm7 a d) false pkg (n / 2 ^ 32 % 8) ∧ away (.sendw imm7 a d) true pkg (n / 2 ^ 32 % 8))
      ∧ (16 ≤ h → (¬ named ∨ (n / 2 ^ 63 = 0 ∧ pkg ≠ 0) ∨ (n / 2 ^ 63 = 1 ∧ pkg ≠ s.pkgId ∧ s.domainBit s.fir.part pkg 61 = false ∧ s.ctx.passedAll = false)
          ∨ (¬ (n / 2 ^ 63 = 1 ∧ pkg ≠ s.pkgId) ∧ s.coreOf s.fir.part (n % 2 ^ 16) (n / 2 ^ 16 % 2 ^ 16) = none)) →
        exec (.send imm7 a d) s = .next (s.takeTrap .messageTargetInvalid (tgtWord p h) 0)
          ∧ (s.fir.kind = 0 → exec (.sendw imm7 a d) s = .next (s.takeTrap .messageTargetInvalid (tgtWord p h) 0)))
      ∧ (∀ k, Targets s n k →
      let argc := n / 2 ^ 32 % 8
      let pri := decide (n / 2 ^ 61 % 2 = 1)
      let sup := decide (n / 2 ^ 60 % 2 = 1)
      let f : Flight := { org := s.org, dst := k, words := messageOf s argc pri sup h, pri := pri, sup := sup, hdl := h, tval := tgtWord p h }
      outcomes (.send imm7 a d) false (k / 512) (k / 8) argc f ∧ outcomes (.sendw imm7 a d) true (k / 512) (k / 8) argc f)
      ∧ ∀ cl off, Routed s p cl off →
        let f : Flight := { org := s.org, addr := some (cl, off), words := messageOf s 7 false false h, hdl := h, tval := p }
        outcomes (.senda imm7 a d) false (cl / 64) cl 7 f ∧ outcomes (.sendaw imm7 a d) true (cl / 64) cl 7 f)
  ∧ (∀ (s : State) (eb1 : BitVec 1) (a d : BitVec 5), Idle s → Ready s [xr a] (xr d :: (List.range 6).map (10 + ·)) →
    let v := X s a
    let src := v.toNat / 2 ^ 12 % 4
    let hdl := v.toNat % 2 ^ 12
    let legal := v.toNat < 2 ^ 14 ∧ src ≠ 3 ∧ (hdl = 0 ∨ 16 ≤ hdl)
    let base := if s.me.inH then 0xBC0 else 0x9C0
    let window := fun (j : Nat) => Loc.priv s.cur (base + j)
    let lands := fun (m : Msg) => (if d.toNat < 10 ∨ 15 < d.toNat then [(xr d, m.words.getD 0 0)] else [])
      ++ (List.range 6).map fun j => (10 + j, m.words.getD (1 + j) 0)
    let taken := fun (m : Msg) (i : Nat) (t : State) => t.cur = s.cur
      ∧ t.me.lq = s.me.lq.filter (fun x => x.ord != m.ord) ∧ t.me.hq = s.me.hq.filter (fun x => x.ord != m.ord) ∧ Acquired s t
      ∧ (∀ j, j < 8 → t.numAt (window (8 * j)) 8 = (m.words.getD j 0).toNat) ∧ (∀ l, (∀ j, j < 64 → l ≠ window j) → t.byteAt l = s.byteAt l)
      ∧ (∀ r, X t r = X s r) ∧ (∀ r, F t r = F s r) ∧ t.ls.v = s.ls.v
      ∧ t.ctx.fcsr = s.ctx.fcsr ∧ t.ls.zrr = (if src = 0 ∧ hdl = 0 ∧ s.me.inH = false then BitVec.ofNat 12 i else s.ls.zrr)
      ∧ t.ctx.pend.map (fun q => (q.reg, q.val, q.fl, q.wait)) = s.ctx.pend.map (fun q => (q.reg, q.val, q.fl, q.wait))
        ++ (lands m).map (fun e => (e.1, e.2.toNat, 0, 0))
      ∧ (∀ e ∈ lands m, (e.1 ≠ 0 → e.1 ∈ t.ctx.empty) ∧ Turn.act (.land s.cur s.me.inH e.1) ∈ t.turns) ∧ Next s t
    (legal → (s.me.inH = true → src = 0) →
        (∀ m i, s.me.pick s.me.inH src hdl s.ls.zrr.toNat = some (m, i) →
          Runs (.recv eb1 a d) s (taken m i) ∧ (s.fir.kind = 0 → Runs (.recvw eb1 a d) s (taken m i)))
          ∧ (s.me.pick s.me.inH src hdl s.ls.zrr.toNat = none → Runs (.recv eb1 a d) s (SetsX s d 0 (s.ctx.pc + 4))
            ∧ (s.fir.kind = 0 → exec (.recvw eb1 a d) s = .next s.waited))
          ∧ Runs (.mcount eb1 a d) s (SetsX s d (BitVec.ofNat 64 (s.me.matching s.me.inH src hdl).length) (s.ctx.pc + 4)))
      ∧ (¬ legal → exec (.recv eb1 a d) s = .next (s.takeTrap .reservedField v 0) ∧ exec (.mcount eb1 a d) s = .next (s.takeTrap .reservedField v 0))
      ∧ (legal → s.me.inH = true → src ≠ 0 →
        ∀ i, i ∈ [Instr.recv eb1 a d, .mcount eb1 a d] → exec i s = .next (s.takeTrap .highContextIllegal ((encode i).setWidth 64) 0)))

/-- With no active repetition, no push of the core unperformed (in an L firing), no message or refusal of the firing under way, no cause of
the context waiting and no invocation awaiting its reply, and for a fault handler the sends and invocations of the aborted firing over
too: END and REARM end the moving firing. The armed bit is clear after END and set after REARM; the context's registers keep what they
hold, but that the registers that a port of the L context binds are full and hold zero; every port is free, the arrival record and the
invocation records are gone; the other context of the core keeps everything; the completions of the ended L firing that name no handler
are dropped, and with a fault handler the slot of its aborted firing is free, at the core of the group that holds it; the group's
completion is to be looked at; the queues and every byte of memory stay. In a fault handler firing with no active repetition, whose
pushes, sends, causes and stores are over, with egress for the saved firing, and whose saved image, at the core of the group that holds
its slot, is read as its tags say and passes the checks, TRET resumes the saved firing on this core: the pc, every x and f register and
fcsr are those of the image, and the privilege and kind those of its slot (notes/assumptions/51.md), a register is empty exactly when its
bit of the image is clear, the slot is free and the L1 is empty. In any other firing TRET takes ILLEGAL_OPCODE with its word as tval.
(08_messages.md R168, 06_streams_repeat.md R124, 12_gated_epilogue.md R243, 16_remote.md R309, 17_traps.md R320, 17_traps.md R317,
17_traps.md R321.) -/
def Obligations.FiringEnds : Prop :=
  (∀ (s : State) (i : Instr) (armed : Bool), (i, armed) ∈ [(Instr.endF, false), (.rearm, true)] → Idle s →
    (s.me.inH = false → (∀ e ∈ s.ls.ports, e.2.pushes = []) ∧ ∀ r ∈ s.ls.invs, r.st ≠ 1) →
    (∀ e ∈ s.flights, ¬ (e.2.org.fid = s.fir.fid ∧ e.2.org.gid = s.fir.gid)) →
    (∀ e ∈ s.errs, ¬ (e.2.send = true ∧ e.2.org.fid = s.fir.fid ∧ e.2.org.gid = s.fir.gid)) → s.ctx.causes = [] →
    (s.me.inH = false → s.fir.kind = 2 →
      let a := (Tab.get (s.coreAt (s.slotCore s.fir)).slots s.fir.slot {}).fir
      s.sending a.fid a.gid = false ∧ ∀ e ∈ s.invReps, e.2.org.fid ≠ a.fid) →
    Runs i s fun t => t.cur = s.cur ∧ t.me.armed = armed ∧ t.me.lq = s.me.lq ∧ t.me.hq = s.me.hq ∧ Turn.act (.complete s.fir.gid) ∈ t.turns
      ∧ Bytes s t ∧ t.me.instret = s.me.instret + 1
      ∧ (if s.me.inH then t.me.h = s.me.h.ended ∧ t.me.l = s.me.l ∧ t.me.ls = s.me.ls ∧ t.me.ca = s.me.ca
        else t.me.h = s.me.h ∧ (∀ x ∈ t.me.ca, x ∈ s.me.ca) ∧ (∀ x ∈ s.me.ca, x.fid = s.fir.fid → x.hdl = 0 → x.msg ≠ none → x ∉ t.me.ca)
          ∧ (s.fir.kind = 2 → Tab.get (t.coreAt (s.slotCore s.fir)).slots s.fir.slot {} = {}) ∧ t.me.l.fir = {} ∧ t.me.l.arrivals = [] ∧ t.me.l.x = s.me.l.x
          ∧ t.me.l.fcsr = s.me.l.fcsr ∧ t.me.l.zcause = s.me.l.zcause ∧ t.me.l.ztval = s.me.l.ztval
          ∧ { t.me.ls with v := s.me.ls.v } = { s.me.ls with ports := [], invs := [] }
          ∧ ((∀ e ∈ s.me.ls.ports, e.2.kind < 4 ∧ e.2.reg < 32) →
            let bound := fun (r : Nat) => ∃ e ∈ s.me.ls.ports, e.2.bnd = true ∧ (1 + e.2.kind / 2) * 256 + e.2.reg = r
            (∀ r : BitVec 5, (bound (fr r) → Tab.get t.me.l.f r.toNat 0 = 0) ∧ (¬ bound (fr r) → Tab.get t.me.l.f r.toNat 0 = Tab.get s.me.l.f r.toNat 0))
              ∧ (∀ n, n < 32 → (bound (512 + n) → Tab.get t.me.ls.v n 0 = 0) ∧ (¬ bound (512 + n) → Tab.get t.me.ls.v n 0 = Tab.get s.me.ls.v n 0))
              ∧ ∀ r, r ∈ t.me.l.empty ↔ r ∈ s.me.l.empty ∧ ¬ bound r)))
  ∧ (∀ s : State, Idle s →
    (s.fir.kind ≠ 2 → exec .tret s = .next (s.takeTrap .illegalOpcode ((encode .tret).setWidth 64) 0))
    ∧ (s.fir.kind = 2 → s.me.inH = false → (∀ e ∈ s.ls.ports, e.2.pushes = []) → (∀ r ∈ s.ls.invs, r.st ≠ 1) →
      (∀ e ∈ s.flights, ¬ (e.2.org.fid = s.fir.fid ∧ e.2.org.gid = s.fir.gid)) → (∀ e ∈ s.errs, ¬ (e.2.send = true ∧ e.2.org.fid = s.fir.fid ∧ e.2.org.gid = s.fir.gid)) →
      s.ctx.causes = [] → s.me.stores = [] →
      let i := s.fir.slot
      let k := s.slotCore s.fir
      let sl := Tab.get (s.coreAt k).slots i {}
      let o : Origin := { k := s.cur, fid := sl.fir.fid, gid := sl.fir.gid, part := sl.fir.part, job := sl.fir.job, sup := sl.fir.sup }
      let s1 := s.modMe fun c => c.dropCompletions s.fir.fid
      s.egressFits s.cur false sl.fir.prod sl.fir.fid = true → ∀ codes ws, s1.savedCodes o (s1.imageVa k i + 0x2000) 32 sl.codes = .ok codes →
        s1.blockReads o (s1.imageVa k i) codes (List.range 32) = .ok ws → imageOk (s1.groupAt sl.fir.gid) ws = true →
      let w := fun (j : Nat) => ws.getD j 0
      Runs .tret s fun t => t.cur = s.cur ∧ t.ctx.pc = w 1 ∧ t.fir = sl.fir ∧ (∀ r, X t r = if r = 0 then 0 else w (32 + r.toNat))
        ∧ (∀ r, F t r = w (64 + r.toNat)) ∧ t.ctx.fcsr = BitVec.ofNat 8 (w 6).toNat ∧ t.ls.zlutbase = w 7
        ∧ (∀ r : BitVec 5, r ≠ 0 → (xr r ∈ t.ctx.empty ↔ (w 4).toNat / 2 ^ r.toNat % 2 = 0))
        ∧ (∀ r : BitVec 5, fr r ∈ t.ctx.empty ↔ (w 4).toNat / 2 ^ (32 + r.toNat) % 2 = 0)
        ∧ (Tab.get (t.coreAt k).slots i {}).st = 0 ∧ t.me.l1 = [] ∧ t.me.instret = s.me.instret + 1))

/-- In an L firing with no active repetition: SCFGW of an unbound port writes the field (field 0 configures the port), RESERVED_FIELD for
reserved bits and STREAM_BIND_CONFLICT for a bound port; SCFGR reads a field, field 7 of a bound port being its position; SBIND of a
configured unbound port with a legal format binds it to a free register at the position of field 7 and owes a prefetch when it reads, with
its checks in order; SFREE of a bound port with no push left stores its position in field 7, frees it and leaves the register zero and
full, of an unbound port nothing; SSTAT reads the status word; SDRAIN completes when no push is left. Nothing else changes. In an H firing
each takes HIGH_CONTEXT_ILLEGAL with its word as tval. In an L firing with no active repetition whose body is fetched and legal, RPT with
a count of X[a] up to 65,536 and RPTI with 32 times imm7 plus the low field plus one complete past the body; the sequencer then holds the
body, its length, the count and the first instance is due, but after a count of 0 no repetition is active. The registers, the flags and
every byte of memory stay. A count above 65,536 takes RESERVED_FIELD with the count as tval; an H firing takes HIGH_CONTEXT_ILLEGAL.
(06_streams_repeat.md R114, 06_streams_repeat.md R116, 06_streams_repeat.md R120, 06_streams_repeat.md R123, 06_streams_repeat.md R126,
06_streams_repeat.md R127, 06_streams_repeat.md R128.) -/
def Obligations.StreamForms : Prop :=
  (∀ (s : State) (imm7 : BitVec 7) (b a d : BitVec 5), Idle s →
    let port := fun (i : BitVec 5) => s.portAt i.toNat
    let num := fun (i : BitVec 5) => BitVec.ofNat 64 i.toNat
    let sets := fun (i : BitVec 5) (p : Port) (t : State) => t.ls.ports = Tab.set s.ls.ports i.toNat p ∧ t.fir = s.fir ∧ Bytes s t ∧ Next s t
    (s.me.inH = false →
      (Ready s [xr a] [] → (port d).bnd = false →
        let v := (X s a).toNat
        let n := imm7.toNat
        let bad := (n = 1 ∧ 8 ≤ v) ∨ (2 ≤ n ∧ n ≤ 5 ∧ v / 2 ^ 16 % 2 ^ 16 ≠ 0)
        (¬ bad → Runs (.scfgw imm7 a d) s fun t => sets d { port d with fields := Tab.set (port d).fields n (X s a), cfg := (port d).cfg || n == 0 } t
            ∧ Regs0 s t [] 0)
          ∧ (bad → exec (.scfgw imm7 a d) s = .next (s.takeTrap .reservedField (X s a) 0)))
      ∧ (Ready s [xr a] [] → (port d).bnd = true →
        exec (.scfgw imm7 a d) s = .next (s.takeTrap .streamBindConflict (num d) 0))
      ∧ (Ready s [] [xr d] → Runs (.scfgr imm7 a d) s
        (SetsX s d (if imm7 = 7 ∧ (port a).bnd = true then BitVec.ofNat 64 (port a).pos else Tab.get (port a).fields imm7.toNat 0) (s.ctx.pc + 4)))
      ∧ (let k := b.toNat
        let cls := if 2 ≤ k then 2 else 1
        let taken := (port a).bnd = true ∨ s.portOf cls d.toNat ≠ none
        let bad := ({ port a with kind := k } : Port).badFormat k
        (taken → exec (.sbind b a d) s = .next (s.takeTrap .streamBindConflict (num a) 0))
          ∧ (¬ taken → (port a).cfg = false → exec (.sbind b a d) s = .next (s.takeTrap .streamUnconfigured (num a) 0))
          ∧ (¬ taken → (port a).cfg = true → ∀ w, bad = some w → exec (.sbind b a d) s = .next (s.takeTrap .streamFormat w 0))
          ∧ (¬ taken → (port a).cfg = true → bad = none → (∀ q ∈ s.ctx.pend, q.reg ≠ 256 * cls + d.toNat) →
            Runs (.sbind b a d) s fun t => Regs0 s t [] 0 ∧ (k % 2 = 0 → Turn.act (.prefetch s.cur a.toNat) ∈ t.turns)
              ∧ sets a { port a with bnd := true, kind := k, reg := d.toNat, pos := (Tab.get (port a).fields 7 0).toNat, pre := [], pushes := [] } t))
      ∧ ((port a).bnd = false → Runs (.sfree a) s fun t => Keeps s t [] 0 ∧ Next s t)
      ∧ ((port a).bnd = true → (port a).pushes = [] →
        let reg := (if 2 ≤ (port a).kind then 512 else 256) + (port a).reg
        (port a).reg < 256 → Runs (.sfree a) s fun t => Regs0 s t [reg] 0 ∧ reg ∉ t.ctx.empty
          ∧ (if 2 ≤ (port a).kind then V t (port a).reg = 0 else Tab.get t.ctx.f (port a).reg 0 = 0)
          ∧ sets a { fields := Tab.set (port a).fields 7 (BitVec.ofNat 64 (port a).pos), cfg := (port a).cfg } t)
      ∧ (Ready s [] [xr d] → Runs (.sstat a d) s (SetsX s d (port a).status (s.ctx.pc + 4)))
      ∧ ((port a).pushes = [] → Runs (.sdrain a) s fun t => Keeps s t [] 0 ∧ Next s t))
    ∧ (s.me.inH = true → ∀ i, i ∈ [Instr.scfgw imm7 a d, .scfgr imm7 a d, .sbind b a d, .sfree a, .sstat a d, .sdrain a] →
      exec i s = .next (s.takeTrap .highContextIllegal ((encode i).setWidth 64) 0)))
  ∧ ((∀ (s s1 : State) (imm7 : BitVec 7) (eb1 : BitVec 1) (a d : BitVec 5) (ws : List (BitVec 32)), Idle s → s.me.inH = false →
      let len := d.toNat + 1
      fetchBody (s.ctx.pc + 4) len s = .ok (ws, s1) → s1.ctx = s.ctx → s1.ls = s.ls → s1.cur = s.cur →
      let after := fun (n : Nat) (t : State) => Bytes s1 t
        ∧ Retired s1 t (s.ctx.pc + BitVec.ofNat 64 (4 * (len + 1))) ∧ { t.ctx with pc := s.ctx.pc, waitAt := s.ctx.waitAt, passed := s.ctx.passed } = s.ctx
        ∧ t.ls = { s.ls with rep := if n = 0 then s.ls.rep else { body := s.ctx.pc + 4, len := len, count := n, words := ws } }
        ∧ (n ≠ 0 → Turn.act (.rep s.cur) ∈ t.turns)
      Runs (.rpti imm7 a d) s (after (imm7.toNat * 32 + a.toNat + 1))
        ∧ (Ready s [xr a] [] → (X s a).toNat ≤ 65536 → Runs (.rpt eb1 a d) s (after (X s a).toNat))
        ∧ (Ready s [xr a] [] → 65536 < (X s a).toNat → exec (.rpt eb1 a d) s = .next (s.takeTrap .reservedField (X s a) 0)))
    ∧ (∀ (s : State) (imm7 : BitVec 7) (eb1 : BitVec 1) (a d : BitVec 5), s.me.inH = true →
      ∀ i, i ∈ [Instr.rpt eb1 a d, .rpti imm7 a d] → exec i s = .next (s.takeTrap .highContextIllegal ((encode i).setWidth 64) 0)))

/-- In an L firing where no watchpoint can match, an f or v register bound for reading as a source gives the value of the oldest prefetched
item, advances the port by one item and owes the next prefetch; at an exhausted port it raises STREAM_EXHAUSTED, and at an item recorded
as failed the recorded cause with its address, each with the port and its position in zpos; with its eb bit set and no item there it
raises EMPTY_REGISTER with its number. A write to an f or v register bound for writing at a port with room and a direct pattern adds the
value's bytes as a push at the item's checked places, advances the port and owes its performance; at an exhausted port it raises
STREAM_OVERFULL, and where the item's places fail their checks the stream cause of that failure, with zpos. (The model's own choices here:
notes/assumptions/52.md.) (06_streams_repeat.md R118, 06_streams_repeat.md R119, 06_streams_repeat.md R120, 06_streams_repeat.md R121.) -/
def Obligations.StreamItems : Prop :=
  (∀ (s : State) (r : BitVec 5) (i : Nat) (p : Port) (eb : Bool), s.portOf 1 r.toNat = some (i, p) → s.portAt i = p → Unwatched s →
      let zp := BitVec.ofNat 64 (p.pos % 2 ^ 32 * 2 ^ 32 + i * 256 + 128)
      let num := BitVec.ofNat 64 i
      (p.exhausted = true → getF r eb s = .error (.trap .streamExhausted num zp) ∧ ∀ v, setF r v s = .error (.trap .streamOverfull num zp))
        ∧ (p.exhausted = false → eb = true → p.pre = [] → getF r eb s = .error (.trap .emptyRegister (BitVec.ofNat 64 (fr r)) 0))
        ∧ (p.exhausted = false → ∀ it rest, p.pre = it :: rest →
          (∀ c w, it.fail = some (c, w) → getF r eb s = .error (.trap c w zp))
            ∧ (it.fail = none → ∃ t, getF r eb s = .ok (BitVec.ofNat 64 it.val, t)
              ∧ t.portAt i = { p with pos := (p.pos + 1) % 2 ^ 64, pre := rest }
              ∧ Turn.act (.prefetch s.cur i) ∈ t.turns ∧ t.ctx = s.ctx ∧ Bytes s t ∧ t.ls.v = s.ls.v ∧ t.ls.rep = s.ls.rep))
        ∧ (p.exhausted = false → p.ind = false → p.pushes.length < Config.portDepth → ∀ rs s2,
          s.streamReaches s.org (p.addrAt p.pos) p.itemUnit .store (p.itemSize / p.itemUnit) = .ok (rs, s2) →
          ∀ v, ∃ t, setF r v s = .ok ((), t) ∧ Turn.act (.push s.cur i) ∈ t.turns ∧ t.ctx = s.ctx ∧ t.ls.v = s.ls.v
            ∧ ((∀ q ∈ rs, q.cnt = false) → Bytes s t)
            ∧ t.portAt i = { p with pos := (p.pos + 1) % 2 ^ 64, pushes := p.pushes ++
              [{ pos := p.pos, addr := p.addrAt p.pos, spots := rs.map (·.spot), unit := p.itemUnit, val := p.ofReg v.toNat, cnts := rs.map (·.cnt), inRep := s.repeating }] })
        ∧ (p.exhausted = false → p.ind = false → p.pushes.length < Config.portDepth → ∀ c,
          s.streamReaches s.org (p.addrAt p.pos) p.itemUnit .store (p.itemSize / p.itemUnit) = .error c →
          ∀ v, setF r v s = .error (.trap (streamCause true false c) (p.addrAt p.pos) zp)))
    ∧ (∀ (s : State) (n i : Nat) (p : Port) (eb : Bool), n < 16 → s.portOf 2 n = some (i, p) → s.portAt i = p → Unwatched s →
      let zp := BitVec.ofNat 64 (p.pos % 2 ^ 32 * 2 ^ 32 + i * 256 + 128)
      let num := BitVec.ofNat 64 i
      (p.exhausted = true → getV n eb s = .error (.trap .streamExhausted num zp) ∧ ∀ v, setV n v s = .error (.trap .streamOverfull num zp))
        ∧ (p.exhausted = false → eb = true → p.pre = [] → getV n eb s = .error (.trap .emptyRegister (BitVec.ofNat 64 (512 + n)) 0))
        ∧ (p.exhausted = false → ∀ it rest, p.pre = it :: rest →
          (∀ c w, it.fail = some (c, w) → getV n eb s = .error (.trap c w zp))
            ∧ (it.fail = none → ∃ t, getV n eb s = .ok (BitVec.ofNat 256 it.val, t)
              ∧ t.portAt i = { p with pos := (p.pos + 1) % 2 ^ 64, pre := rest }
              ∧ Turn.act (.prefetch s.cur i) ∈ t.turns ∧ t.ctx = s.ctx ∧ Bytes s t ∧ t.ls.v = s.ls.v ∧ t.ls.rep = s.ls.rep))
        ∧ (p.exhausted = false → p.ind = false → p.pushes.length < Config.portDepth → ∀ rs s2,
          s.streamReaches s.org (p.addrAt p.pos) p.itemUnit .store (p.itemSize / p.itemUnit) = .ok (rs, s2) →
          ∀ v, ∃ t, setV n v s = .ok ((), t) ∧ Turn.act (.push s.cur i) ∈ t.turns ∧ t.ctx = s.ctx ∧ t.ls.v = s.ls.v
            ∧ ((∀ q ∈ rs, q.cnt = false) → Bytes s t)
            ∧ t.portAt i = { p with pos := (p.pos + 1) % 2 ^ 64, pushes := p.pushes ++
              [{ pos := p.pos, addr := p.addrAt p.pos, spots := rs.map (·.spot), unit := p.itemUnit, val := p.ofReg v.toNat, cnts := rs.map (·.cnt), inRep := s.repeating }] })
        ∧ (p.exhausted = false → p.ind = false → p.pushes.length < Config.portDepth → ∀ c,
          s.streamReaches s.org (p.addrAt p.pos) p.itemUnit .store (p.itemSize / p.itemUnit) = .error c →
          ∀ v, setV n v s = .error (.trap (streamCause true false c) (p.addrAt p.pos) zp)))

/-- With no active repetition, registers ready, and a record of 64 unpoisoned bytes in global memory at X[a] whose home's die runs: after the
affinity check of X[b], a record that is no launch, whose launch id is active or whose job has no frame pool takes SPAWN_DENIED (that a
missing pool is refused so is the model's choice, notes/assumptions/33.md); an allotment out of range GROUP_ALLOTMENT; another invalid
field RESERVED_FIELD; an absent die AFFINITY_ABSENT; with every die closed SPAWN and SPAWNW write 2; without room SPAWN writes 1 and
SPAWNW waits; else, once the writes of the domain are performed and the constant block is read, X[d] is 0 and a launch with the record's
fields is active and its counter counts. Nothing else changes. SPAWNW in a handler firing takes BLOCKING_IN_HANDLER. In an L firing with
no active repetition and no wait begun, registers ready and a legal target word that the job may invoke: with no fabric path INVK writes 3
and with eight records in use 1; else, with the arguments full and every write of the domain performed, INVK writes 0, adds a record in
state 1 under the tag, reserves a completion slot, counts one invocation and has the reply outstanding, an own-package invocation on its
way to the I/O die. INVKW whose reply is placed writes its result code, takes the reply and its record away and acquires. RSTAT writes 0,
or the record's state with the code of a placed reply. A selector below 16 takes HANDLER_TABLE_RANGE, a malformed word or a tag in use
INVOKE_ARGUMENTS, a package not allowed INVOKE_DENIED, an H firing HIGH_CONTEXT_ILLEGAL. (15_launch.md R277, 15_launch.md R278,
15_launch.md R288, 16_remote.md R305, 16_remote.md R306, 16_remote.md R307, 16_remote.md R308.) -/
def Obligations.SpawnForms : Prop :=
  (∀ (s s1 : State) (eb2 eb1 : BitVec 1) (b a d : BitVec 5) (r : Reach), Idle s →
    let p := X s a
    let sel := (X s b).toNat
    let part := s.fir.part
    let job := s.fir.job
    (∀ i, i ∈ [Instr.spawn eb2 eb1 b a d, .spawnw eb2 eb1 b a d] → (i = .spawnw eb2 eb1 b a d → s.fir.kind = 0) →
      Ready s [xr a, xr b] [xr d] →
      let bad := fun (c : Cause) (tv : Word) => exec i s = .next (s.takeTrap c tv 0)
      (8 < sel → sel ≠ 15 → bad .reservedField (X s b))
      ∧ (sel ≤ 8 ∨ sel = 15 → Unwatched s → globalReach p 64 64 .load .privateRange s = .ok (r, s1) → s1.dieHolds r.spot true = false → s1.poisoned r.spot 64 = false →
        let ws := wordsOf (s1.ownView.spotBytes r.spot 64)
        let known := recF ws 0 60 4 = 1 ∧ s1.lidActive part job (recF ws 4 48 16) = false ∧ s1.hasPool part job = true
        let fits := recAllot (s1.partAt part).csr.lim ws = true
        let fields := recFields ws = true
        let aff := if sel = 15 then recF ws 0 53 4 else sel
        let vs := s1.vdiesHeld part
        let present := aff < 8 → aff ∈ vs
        let dies := if aff < 8 then [aff] else vs
        let isOpen := ∃ v ∈ dies, s1.vdieOpen part v = true
        let room := s1.roomDie part aff (recF ws 0 57 1 == 1)
        let answers := fun (v : Word) (t : State) => Answers0 s d v t ∧ Bytes s t ∧ t.fir = s.fir ∧ t.ls.ports = s.ls.ports
        (¬ known → bad .spawnDenied p)
          ∧ (known → ¬ fits → bad .groupAllotment p)
          ∧ (known → fits → ¬ fields → bad .reservedField p)
          ∧ (known → fits → fields → ¬ present → bad .affinityAbsent (BitVec.ofNat 64 aff))
          ∧ (known → fits → fields → present → ¬ isOpen → Runs i s (answers 2))
          ∧ (known → fits → fields → present → isOpen → room = none → i = .spawn eb2 eb1 b a d → Runs i s (answers 1))
          ∧ (known → fits → fields → present → isOpen → room = none → i = .spawnw eb2 eb1 b a d → exec i s = .next s.waited)
          ∧ (known → fits → fields → present → isOpen → room ≠ none → Released s → s.quietAbroad s.cur = true →
            ∀ cs, s1.constBlock part job ws = .ok cs → Runs i s fun t => answers 0 t ∧ (t.ctr (ctrKey part job 0 (recF ws 4 48 16))).st = 1
              ∧ ∃ lk l, Tab.find? t.launches lk = some l ∧ l.st = 1 ∧ l.part = part ∧ l.job = job ∧ l.lid = recF ws 4 48 16 ∧ l.aff = aff
                ∧ l.ngrp = recF ws 0 32 16 + 1 ∧ l.cpg = recF ws 0 50 3 + 1 ∧ l.ent = recF ws 0 12 12 ∧ l.flt = recF ws 0 0 12
                ∧ l.consts = cs ∧ l.src = 1)))
    ∧ (s.fir.kind ≠ 0 → exec (.spawnw eb2 eb1 b a d) s
      = .next (s.takeTrap .blockingInHandler ((encode (.spawnw eb2 eb1 b a d)).setWidth 64) 0)))
  ∧ (∀ (s : State) (imm7 : BitVec 7) (eb1 : BitVec 1) (a d : BitVec 5) (h : Nat), Idle s →
    let t0 := X s a
    let n := t0.toNat
    let pkg := n / 2 ^ 48 % 2 ^ 12
    let tag := n / 2 ^ 16 % 2 ^ 16
    let bad := fun (c : Cause) (tv : Word) => exec (.invk imm7 a d) s = .next (s.takeTrap c tv 0)
    let others := fun (t : State) => t.cur = s.cur ∧ (∀ r, r ≠ d → X t r = X s r) ∧ (∀ r, F t r = F s r) ∧ t.ls.v = s.ls.v ∧ t.ctx.fcsr = s.ctx.fcsr
      ∧ Bytes s t ∧ Next s t
    (s.me.inH = false → s.ctx.aw = .none → s.ctx.relWait = none → s.ctx.passed = 0 → Ready s [xr a] [xr d] → Selects s imm7 h →
      let wellMade := invWordBad n = false
      let allowed := s.domainBit s.fir.part pkg 62 = true
      let fresh := ∀ r ∈ s.ls.invs, r.tag ≠ tag
      (h < 16 → bad .handlerTableRange (tgtWord t0 h))
      ∧ (16 ≤ h → ¬ wellMade → bad .invokeArguments (tgtWord t0 h))
      ∧ (16 ≤ h → wellMade → ¬ allowed → bad .invokeDenied (tgtWord t0 h))
      ∧ (16 ≤ h → wellMade → allowed → ¬ fresh → bad .invokeArguments (tgtWord t0 h))
      ∧ (16 ≤ h → wellMade → allowed → fresh → s.me.caRoom = false → bad .batchOverflow 16)
      ∧ (16 ≤ h → wellMade → allowed → fresh → s.me.caRoom = true →
        (pkg ≠ s.pkgId → s.workingPaths pkg = [] → Runs (.invk imm7 a d) s (SetsX s d 3 (s.ctx.pc + 4)))
        ∧ (pkg = s.pkgId → 8 ≤ s.ls.invs.length → Runs (.invk imm7 a d) s (SetsX s d 1 (s.ctx.pc + 4)))
        ∧ (pkg = s.pkgId → s.ls.invs.length < 8 → (∀ j, j < n / 2 ^ 32 % 8 → Readable s (10 + j) ∧ Writable s (10 + j)) → Released s → s.quietAbroad s.cur = true →
          Runs (.invk imm7 a d) s fun t => others t ∧ X t d = 0 ∧ t.ls = { s.ls with invs := s.ls.invs ++ [{ tag := tag, st := 1 }] }
            ∧ t.me.invCtr = s.me.invCtr + 1
            ∧ ∃ slot id pk, t.me.ca = s.me.ca ++ [{ id := slot, fid := s.fir.fid }]
              ∧ Tab.find? t.invReps id = some { org := s.org, tag := tag, seq := s.me.invCtr.toNat, slot := slot, pkg := pkg, sent := s.time.toNat }
              ∧ Turn.act (.invArr pk) ∈ t.turns)))
    ∧ (s.me.inH = false → s.fir.kind = 0 → ∀ tg m, s.ctx.aw = .invoked tg → s.me.replyOf tg = some m →
      Runs (.invkw imm7 a d) s fun t => others t ∧ X t d = (if d = 0 then 0 else BitVec.ofNat 64 ((m.words.getD 2 0).toNat % 256))
        ∧ (∀ r ∈ t.ls.invs, r.tag ≠ tg) ∧ (∀ x ∈ t.me.ca, ∀ q, x.msg = some q → q.ord ≠ m.ord) ∧ Acquired s t ∧ t.ctx.aw = .none)
    ∧ (s.me.inH = false → Ready s [xr a] [xr d] → n < 65536 → Runs (.rstatInvoke eb1 a d) s (SetsX s d
      (match s.ls.invs.find? fun r => r.tag == n with
        | none => 0
        | some r => BitVec.ofNat 64 ((if r.st = 2 then r.code * 256 else 0) + r.st)) (s.ctx.pc + 4)))
    ∧ (s.me.inH = false → Ready s [xr a] [xr d] → 65536 ≤ n → exec (.rstatInvoke eb1 a d) s = .next (s.takeTrap .reservedField t0 0))
    ∧ (s.me.inH = true → ∀ i, i ∈ [Instr.invk imm7 a d, .invkw imm7 a d, .rstatInvoke eb1 a d] →
      exec i s = .next (s.takeTrap .highContextIllegal ((encode i).setWidth 64) 0)))

/-- With no active repetition and registers ready, at each level with an id in its limits (a job only the issuer's own, in a user firing):
WSTAT writes the counter's status word, its state, the four flags and the outstanding count; CANCEL of a counter that is not active
changes nothing; CANCEL of an active one owes the kill, for LAUNCH_CANCELLED with the cancelled id as tval, of every resident or pre-
empted group of every active launch that the counter counts, and stops every graph run it counts. Where it counts no graph run and no
launch of one, the cnc flag is then set on that counter and on the active counters that it contains, the launches' own and for a job their
phases', and on no other, no group of those launches is still to be handed over, and a group that is not placed has ended and stands in no
ready queue; with no such launch nothing else changes. Registers and memory stay. An id outside the limits takes RESERVED_FIELD, another
job in a user firing PRIVILEGED_OP, with X[a] as tval. With no active repetition, registers ready, no watchpoint that can match, no write
of the core outstanding and an aligned address in global memory of the package: GCOND completes with the write of X[b] queued last among
the core's stores, its acknowledgement owed and every other byte as the counting of the access leaves it (R348); HTABW in a supervisor
firing, once the home's die runs, completes with the eight bytes of X[b] at that place and no other byte changed. A misaligned address
takes MISALIGNED_STORE, an address of the scratch windows SCRATCH_RANGE, of the private window PRIVATE_RANGE, and HTABW's above it
SCRATCH_RANGE, with the address as tval. (15_launch.md R289, 15_launch.md R290, 17_traps.md R329, 15_launch.md R291, 18_translation.md
R344.) -/
def Obligations.LaunchCounters : Prop :=
  (∀ (s : State) (imm7 : BitVec 7) (a d : BitVec 5), Idle s → imm7.toNat ≤ 3 →
    let lvl := imm7.toNat
    let n := (X s a).toNat
    let limits := match lvl with
      | 0 => n ≤ 65535
      | 1 => 1 ≤ n ∧ n ≤ 4095
      | 2 => n ≤ 4095
      | _ => True
    let job := if lvl = 3 then n else s.fir.job
    let id := if lvl = 3 then 0 else n
    let part := s.fir.part
    let key := ctrKey part job lvl id
    let denied := lvl = 3 ∧ s.fir.sup = false ∧ n ≠ s.fir.job
    let c := s.ctr key
    let flag := fun (b : Bool) (i : Nat) => if b then 2 ^ i else 0
    (limits → ¬ denied → job < 65536 →
      (Ready s [xr a] [xr d] → Runs (.wstat imm7 a d) s (SetsX s d (BitVec.ofNat 64 (c.st * 2 ^ 62 + flag c.cnc 61 + flag c.tmo 60 + flag c.kil 59
        + flag c.rty 58 + c.out % 2 ^ 32)) (s.ctx.pc + 4)))
      ∧ (Ready s [xr a] [] → c.st ≠ 1 → Runs (.cancel imm7 a) s fun t => Keeps s t [] 0 ∧ Next s t)
      ∧ (Ready s [xr a] [] → c.st = 1 → (s.groups.map (·.1)).Nodup → Runs (.cancel imm7 a) s fun t => Regs s t [] 0 ∧ Bytes s t ∧ Next s t
        ∧ (∀ lk l g gr, (lk, l) ∈ s.launches → l.under part job lvl id = true → Tab.find? s.groups g = some gr → gr.launch = lk →
          (gr.st = 2 ∨ gr.st = 3) → Turn.act (.kill g .launchCancelled (X s a)) ∈ t.turns)
        ∧ (∀ e ∈ s.graphsUnder part job lvl id, (Tab.get t.graphs e.1 {}).running = true → (Tab.get t.graphs e.1 {}).stopped = true)
        ∧ (s.graphsUnder part job lvl id = [] → (s.launches.map (·.1)).Nodup → (∀ e ∈ s.launches, e.2.under part job lvl id = true → e.2.src ≠ 2) →
          let ended := s.launches.filter fun e => e.2.under part job lvl id
          let held := key :: ended.map (·.2.key) ++ (if lvl = 3 then ended.map fun e => ctrKey part job 2 e.2.phid else [])
          (∀ k, (t.ctr k).cnc = ((s.ctr k).cnc || (decide (k ∈ held) && (s.ctr k).st == 1)))
            ∧ ∀ e ∈ ended, (t.launchAt e.1).ngrp ≤ (t.launchAt e.1).handed
              ∧ ∀ g gr, Tab.find? s.groups g = some gr → gr.launch = e.1 → gr.st = 0 ∨ gr.st = 1 →
                (t.groupAt g).st = 5 ∧ ∀ q ∈ t.ready, g ∉ q.2)
        ∧ ((∀ e ∈ s.launches, e.2.under part job lvl id = false) → s.graphsUnder part job lvl id = [] →
          t.ctr key = { c with cnc := true } ∧ (∀ k, k ≠ key → t.ctr k = s.ctr k) ∧ t.launches = s.launches ∧ t.turns = s.turns)))
    ∧ (Ready s [xr a] [xr d] → ∀ i, i ∈ [Instr.wstat imm7 a d, .cancel imm7 a] →
      (¬ limits → exec i s = .next (s.takeTrap .reservedField (X s a) 0))
        ∧ (denied → exec i s = .next (s.takeTrap .privilegedOp (X s a) 0))))
  ∧ (∀ (s : State) (eb2 eb1 : BitVec 1) (b a : BitVec 5), Idle s → Ready s [xr a, xr b] [] →
    let p := X s a
    let v := (X s b).toNat
    let addr := p.toNat % 2 ^ 48
    let sup := fun (i : Instr) => i = .htabw eb2 eb1 b a → s.fir.sup = true
    (Unwatched s → s.me.stores = [] → Released s →
      ∀ s1 cnt pa top,
        globalReach p 8 8 .store top s = .ok ({ spot := .flat (.hbm pa), cnt := cnt }, s1) → s1.blocked (.flat (.hbm pa)) 8 true = false →
        let m := s1.counted s.org { spot := .flat (.hbm pa), cnt := cnt } 8
        (Runs (.gcond eb2 eb1 b a) s fun t => Regs s t [] 0 ∧ Bytes m t ∧ Next s t
          ∧ ∃ x : PStore, t.me.stores = [x] ∧ x.va = p ∧ x.away = false ∧ x.parts = [.at (.hbm pa) ((List.range 8).map (byteOf v))]
            ∧ Turn.act (.ack s.cur x.id) ∈ t.turns)
          ∧ (s.fir.sup = true → s1.dieHolds (.flat (.hbm pa)) true = false → Runs (.htabw eb2 eb1 b a) s fun t => Regs s t [] 0 ∧ Stored m t (.hbm pa) 8 v ∧ t.me.stores = [] ∧ Next s t))
    ∧ ∀ i, i ∈ [Instr.gcond eb2 eb1 b a, .htabw eb2 eb1 b a] → sup i → tagOk p = true → canonical p = true →
      (addr % 8 ≠ 0 → exec i s = .next (s.takeTrap .misalignedStore p 0))
        ∧ (addr % 8 = 0 → 0xFFFE00000000 ≤ addr → addr < 0xFFFFF0000000 → exec i s = .next (s.takeTrap .scratchRange p 0))
        ∧ (addr % 8 = 0 → 0xFFFFF0000000 ≤ addr → addr < 0xFFFFF0002000 → exec i s = .next (s.takeTrap .privateRange p 0))
        ∧ (addr % 8 = 0 → 0xFFFFF0002000 ≤ addr → i = .htabw eb2 eb1 b a → exec i s = .next (s.takeTrap .scratchRange p 0)))

/-- In an L firing with no active repetition and registers ready (the old vd too under a predicate or in a fused form), VADD, VSUB, VMUL,
VFMA, VFMS, VFNMA, VMIN and VMAX write each lane whose predicate bit is 1 with the operation of the element format: floats rounded once by
RNE, integers wrapped or compared as signed numbers; VAND, VOR, VXOR, VSHL, VSHR and VSRA likewise on the lane's bits, by the low bits of
the shift lane. Every other lane, register, flag and byte of memory is unchanged. The bitwise and shift forms under a float format take
VECTOR_FORMAT, and every form in an H firing HIGH_CONTEXT_ILLEGAL, with the word as tval. In an L firing with no active repetition and
registers ready (the old vd too under a predicate): VABS and VNEG clear or flip the sign bit of a float lane and wrap for integers, VMOV
copies and VCLASS gives the class code, in each lane whose predicate bit is 1, the other lanes and everything else unchanged; VDIV, VSQRT,
VRCP and VEXP2 complete with the whole register empty until those lanes, merged with the old ones, land. The float-only forms under an
integer format take VECTOR_FORMAT and every form in an H firing HIGH_CONTEXT_ILLEGAL, with the word as tval. (05_vector.md R98,
05_vector.md R99, 05_vector.md R100, 05_vector.md R101, 05_vector.md R102, 05_vector.md R103, 05_vector.md R105.) -/
def Obligations.VectorLanes : Prop :=
  (∀ (s : State) (pred : BitVec 3) (eb2 eb1 : BitVec 1) (vb va : BitVec 4) (fmt : BitVec 3) (vd : BitVec 4), Idle s →
    let w := vW fmt
    let on := fun (i : Nat) => (P s pred.toNat).getLsbD i
    let x := lane w (V s va.toNat)
    let y := lane w (V s vb.toNat)
    let z := lane w (V s vd.toNat)
    let isFloat := fmt.toNat < 5
    let bad := fun (i : Instr) (c : Cause) => exec i s = .next (s.takeTrap c ((encode i).setWidth 64) 0)
    let gives := fun (i : Instr) (fused : Bool) (g : Nat → Nat) =>
      s.me.inH = false → Ready s (vr va :: vr vb :: if pred = 0 ∧ fused = false then [] else [vr vd]) [vr vd] → Runs i s (SetsLanes s vd w on g)
    let both := fun (i : Instr) (fused : Bool) (fl : FFmt → Nat → Nat → Nat → Nat) (int : Int → Int → Int → Int) =>
      gives i fused (fun j => laneOp fmt (fun f => fl f (x j) (y j) (z j)) (fun sg => int (sg (x j)) (sg (y j)) (sg (z j))))
        ∧ (s.me.inH = true → bad i .highContextIllegal)
    let ints := fun (i : Instr) (g : Nat → Nat → Nat) => (¬ isFloat → gives i false (fun j => g (x j) (y j)))
      ∧ (s.me.inH = false → isFloat → bad i .vectorFormat) ∧ (s.me.inH = true → bad i .highContextIllegal)
    both (.vadd pred eb2 eb1 vb va fmt vd) false (fun f a b _ => (f.fadd .rne a b).1) (fun a b _ => a + b)
      ∧ both (.vsub pred eb2 eb1 vb va fmt vd) false (fun f a b _ => (f.fsub .rne a b).1) (fun a b _ => a - b)
      ∧ both (.vmul pred eb2 eb1 vb va fmt vd) false (fun f a b _ => (f.fmul .rne a b).1) (fun a b _ => a * b)
      ∧ both (.vfma pred eb2 eb1 vb va fmt vd) true (fun f a b d => (f.ffma .rne false a b false d).1) (fun a b d => d + a * b)
      ∧ both (.vfms pred eb2 eb1 vb va fmt vd) true (fun f a b d => (f.ffma .rne false a b true d).1) (fun a b d => a * b - d)
      ∧ both (.vfnma pred eb2 eb1 vb va fmt vd) true (fun f a b d => (f.ffma .rne true a b false d).1) (fun a b d => d - a * b)
      ∧ both (.vmin pred eb2 eb1 vb va fmt vd) false (fun f a b _ => (f.fminmax false a b).1) (fun a b _ => min a b)
      ∧ both (.vmax pred eb2 eb1 vb va fmt vd) false (fun f a b _ => (f.fminmax true a b).1) (fun a b _ => max a b)
      ∧ ints (.vand pred eb2 eb1 vb va fmt vd) (fun a b => a &&& b)
      ∧ ints (.vor pred eb2 eb1 vb va fmt vd) (fun a b => a ||| b)
      ∧ ints (.vxor pred eb2 eb1 vb va fmt vd) (fun a b => a ^^^ b)
      ∧ ints (.vshl pred eb2 eb1 vb va fmt vd) (fun a b => a <<< (b % w))
      ∧ ints (.vshr pred eb2 eb1 vb va fmt vd) (fun a b => a >>> (b % w))
      ∧ ints (.vsra pred eb2 eb1 vb va fmt vd) (fun a b => (signed w a / (2 ^ (b % w) : Nat) % (2 ^ w : Nat)).toNat))
  ∧ (∀ (s : State) (pred : BitVec 3) (eb2 eb1 : BitVec 1) (vb va : BitVec 4) (fmt : BitVec 3) (vd : BitVec 4), Idle s →
    let w := vW fmt
    let on := fun (i : Nat) => (P s pred.toNat).getLsbD i
    let x := lane w (V s va.toNat)
    let y := lane w (V s vb.toNat)
    let isFloat := fmt.toNat < 5
    let old := if pred = 0 then [] else [vr vd]
    let bad := fun (i : Instr) (c : Cause) => exec i s = .next (s.takeTrap c ((encode i).setWidth 64) 0)
    let float := fun (f : FFmt → Nat) => match floatFmt (fmt.toNat + 1) with
      | some k => f k
      | none => 0
    let both := fun (i : Instr) (g : Nat → Nat) => (s.me.inH = false → Ready s (vr va :: old) [vr vd] → Runs i s (SetsLanes s vd w on g))
      ∧ (s.me.inH = true → bad i .highContextIllegal)
    let floatOnly := fun (i : Instr) => (s.me.inH = false → ¬ isFloat → bad i .vectorFormat) ∧ (s.me.inH = true → bad i .highContextIllegal)
    let late := fun (i : Instr) (srcs : List Nat) (g : Nat → Nat) =>
      (s.me.inH = false → isFloat → Ready s (srcs ++ old) [vr vd] → Runs i s (AwaitsLanes s vd w on g)) ∧ floatOnly i
    both (.vabs pred eb2 eb1 vb va fmt vd) (fun j => laneOp fmt (fun f => x j % 2 ^ (f.width - 1)) (fun sg => (sg (x j)).natAbs))
      ∧ both (.vneg pred eb2 eb1 vb va fmt vd) (fun j => laneOp fmt (fun f => x j ^^^ 2 ^ (f.width - 1)) (fun sg => - sg (x j)))
      ∧ both (.vmov pred eb2 eb1 vb va fmt vd) x
      ∧ (s.me.inH = false → isFloat → Ready s (vr va :: old) [vr vd] →
        Runs (.vclass pred eb2 eb1 vb va fmt vd) s (SetsLanes s vd w on fun j => float fun f => f.classCode (x j)))
      ∧ floatOnly (.vclass pred eb2 eb1 vb va fmt vd)
      ∧ late (.vdiv pred eb2 eb1 vb va fmt vd) [vr va, vr vb] (fun j => float fun f => (f.fdiv .rne (x j) (y j)).1)
      ∧ late (.vsqrt pred eb2 eb1 vb va fmt vd) [vr va] (fun j => float fun f => (f.fsqrt .rne (x j)).1)
      ∧ late (.vrcp pred eb2 eb1 vb va fmt vd) [vr va] (fun j => float fun f => (f.fdiv .rne (f.bias * 2 ^ f.mb) (x j)).1)
      ∧ late (.vexp2 pred eb2 eb1 vb va fmt vd) [vr va] (fun j => float fun f => exp2Of f (x j)))

/-- In an L firing with no active repetition and registers ready: VSEL writes every lane with the lane of va where its predicate bit is 1 and
of vb elsewhere; VPERM writes each predicated lane with the lane of va that its lane of vb names modulo the lane count; VSPLAT copies the
low bits of the scalar into each predicated lane; VEXTR writes the lane of va that X[vb] names to an x register sign-extended, or to an f
register with zeros above; VINS replaces the lane of vd that X[vb] names by the low bits of the scalar. The scalar is an x register under
an integer format and an f register under a float one. Nothing else changes. In an H firing each takes HIGH_CONTEXT_ILLEGAL. In an L
firing with no active repetition and both sources ready, VCEQ, VCLT and VCLE set bit i of the predicate register (any but p0) exactly when
i is a lane, its bit of the governing predicate is 1 and lane i of va equals, is less than, is at most lane i of vb: floats as numbers, so
that minus zero equals plus zero and a NaN compares false, integers as signed numbers. Nothing else changes. In an H firing each takes
HIGH_CONTEXT_ILLEGAL with its word as tval. In an L firing with no active repetition and registers ready, VRSUM and VRMAX write lane 0 of
vd and zero in every other lane. Under an integer format the sum is the wrapped sum of the lanes whose predicate bit is 1, and the maximum
their largest signed value, or the most negative number when there is none. Under a float format the value is that of the pairwise tree
over the lanes, rounding by RNE at each node, where the sum takes an absent lane as plus zero, the maximum skips it, and with every lane
absent gives minus infinity, or minus 448 in e4m3. Nothing else changes. (05_vector.md R98, 05_vector.md R99, 05_vector.md R101,
05_vector.md R102, 05_vector.md R104.) -/
def Obligations.VectorMoves : Prop :=
  (∀ (s : State) (pred : BitVec 3) (eb2 eb1 : BitVec 1) (vb va : BitVec 4) (fmt : BitVec 3) (vd : BitVec 4), Idle s →
    let w := vW fmt
    let n := 256 / w
    let isFloat := fmt.toNat < 5
    let on := fun (i : Nat) => (P s pred.toNat).getLsbD i
    let x := lane w (V s va.toNat)
    let y := lane w (V s vb.toNat)
    let old := if pred = 0 then [] else [vr vd]
    let reg := fun (r : BitVec 4) => if isFloat then 256 + r.toNat else r.toNat
    let scalar := (if isFloat then F s (va.setWidth 5) else X s (va.setWidth 5)).toNat
    let k := (X s (vb.setWidth 5)).toNat % n
    (s.me.inH = false →
      (Ready s [vr va, vr vb] [vr vd] → Runs (.vsel pred eb2 eb1 vb va fmt vd) s
        (SetsLanes s vd w (fun _ => true) fun j => if on j then x j else y j))
      ∧ (Ready s (vr va :: vr vb :: old) [vr vd] → Runs (.vperm pred eb2 eb1 vb va fmt vd) s (SetsLanes s vd w on fun j => x (y j % n)))
      ∧ (Ready s (reg va :: old) [vr vd] → Runs (.vsplat pred eb2 eb1 vb va fmt vd) s (SetsLanes s vd w on fun _ => scalar))
      ∧ (Ready s [vr va, vb.toNat] [reg vd] → Runs (.vextr pred eb2 eb1 vb va fmt vd) s fun t =>
        if isFloat then SetsF s (vd.setWidth 5) (BitVec.ofNat 64 (x k)) 0 t
        else SetsX s (vd.setWidth 5) (BitVec.ofInt 64 (signed w (x k))) (s.ctx.pc + 4) t)
      ∧ (Ready s [reg va, vb.toNat, vr vd] [vr vd] → Runs (.vins pred eb2 eb1 vb va fmt vd) s
        (SetsLanes s vd w (fun j => j == k) fun _ => scalar)))
    ∧ (s.me.inH = true → ∀ i, i ∈ [Instr.vsel pred eb2 eb1 vb va fmt vd, .vperm pred eb2 eb1 vb va fmt vd, .vsplat pred eb2 eb1 vb va fmt vd,
      .vextr pred eb2 eb1 vb va fmt vd, .vins pred eb2 eb1 vb va fmt vd] → exec i s = .next (s.takeTrap .highContextIllegal ((encode i).setWidth 64) 0)))
  ∧ (∀ (s : State) (pred : BitVec 3) (eb2 eb1 : BitVec 1) (vb va : BitVec 4) (fmt : BitVec 3) (vd : BitVec 4), Idle s →
    let w := vW fmt
    let x := lane w (V s va.toNat)
    let y := lane w (V s vb.toNat)
    let cmp := fun (i : Instr) (fl : FFmt → Nat → Nat → Bool) (int : Int → Int → Bool) =>
      (s.me.inH = false → vd ≠ 0 → Ready s [vr va, vr vb] [] → Runs i s fun t => ∃ v, SetsP s vd.toNat v t
        ∧ ∀ j, v.getLsbD j = (decide (j < 256 / w) && (P s pred.toNat).getLsbD j && (match floatFmt (fmt.toNat + 1) with
          | some f => fl f (x j) (y j)
          | none => int (signed w (x j)) (signed w (y j)))))
        ∧ (s.me.inH = true → exec i s = .next (s.takeTrap .highContextIllegal ((encode i).setWidth 64) 0))
    cmp (.vceq pred eb2 eb1 vb va fmt vd) (fun f a b => (f.feq a b).1) (fun a b => decide (a = b))
      ∧ cmp (.vclt pred eb2 eb1 vb va fmt vd) (fun f a b => (f.flt a b).1) (fun a b => decide (a < b))
      ∧ cmp (.vcle pred eb2 eb1 vb va fmt vd) (fun f a b => (f.fle a b).1) (fun a b => decide (a ≤ b)))
  ∧ (∀ (s : State) (pred : BitVec 3) (eb2 eb1 : BitVec 1) (vb va : BitVec 4) (fmt : BitVec 3) (vd : BitVec 4), Idle s → s.me.inH = false →
    Ready s [vr va] [vr vd] →
    let w := vW fmt
    let n := 256 / w
    let on := fun (i : Nat) => (P s pred.toNat).getLsbD i
    let x := lane w (V s va.toNat)
    let present := (List.range n).filter on
    let gives := fun (i : Instr) (v : Nat) => Runs i s (SetsLanes s vd w (fun _ => true) fun j => if j = 0 then v else 0)
    (floatFmt (fmt.toNat + 1) = none →
      gives (.vrsum pred eb2 eb1 vb va fmt vd) (((present.map fun j => signed w (x j)).sum % (2 ^ w : Nat)).toNat)
        ∧ gives (.vrmax pred eb2 eb1 vb va fmt vd)
          ((present.foldl (fun m j => max m (signed w (x j))) (-(2 ^ (w - 1) : Nat)) % (2 ^ w : Nat)).toNat))
      ∧ ∀ f, floatFmt (fmt.toNat + 1) = some f →
        gives (.vrsum pred eb2 eb1 vb va fmt vd)
          ((tree (fun a b => (f.fadd .rne a b).1) 5 ((List.range n).map fun j => some (if on j then x j else 0))).getD 0)
          ∧ gives (.vrmax pred eb2 eb1 vb va fmt vd)
            ((tree (fun a b => (f.fminmax true a b).1) 5 ((List.range n).map fun j => if on j then some (x j) else none)).getD
              (2 ^ (f.eb + f.mb) + if f.ieee then (2 ^ f.eb - 1) * 2 ^ f.mb else 0x7E)))

/-- In an L firing with no active repetition, registers ready, no watchpoint that can match, a legal tag and an address whose checks pass: at
a place of the private memory or of the own scratchpad that no command and no earlier access of the core holds, VLD writes V[d] with the
32 bytes there and VST writes the 32 bytes of V[d] there and no other; from global memory that is answered VLD, with fewer than 48 global
reads out, completes with V[d] empty and the bytes on their way; VST to global memory completes with the write of those bytes queued last
among the core's stores and its acknowledgement owed, and to another package with its packet sent and awaited; VLDP writes P[d] (any but
p0) with the 4 bytes at its address, whatever the tag, from global memory once its home's die runs, and from another package by a packet
on whose reply it waits at its own pc, where a failure pends its cause with the address. But for the count of a counted access (R348)
nothing else changes. A tag of a block format takes FORMAT_RESERVED with the pointer as tval, a misaligned address MISALIGNED_LOAD or
MISALIGNED_STORE. In an L firing with no active repetition, registers ready, no watchpoint that can match and an element tag, with lane i
at the pointer plus i times the signed stride, every lane checked and at a place of the private memory or of the own scratchpad that no
command holds: VLDS writes lane i of V[d] with the element there; VSTS writes the lanes in ascending order, so that a byte that several
lanes write holds that of the highest. Every other byte of memory and every other register is unchanged. (05_vector.md R106, 05_vector.md
R107, 05_vector.md R109, 07_memory_ordering.md R141, 16_remote.md R299, 05_vector.md R108.) -/
def Obligations.VectorLoadsStores : Prop :=
  (∀ (s : State) (imm7 : BitVec 7) (a d : BitVec 5), Idle s → s.me.inH = false → Unwatched s →
    let p := ptrAdd (X s a) (imm7.toInt * 32)
    let q := ptrAdd (X s a) (imm7.toInt * 4)
    let tag := p.toNat / 2 ^ 59
    let plain := tag ∉ [9, 10] ∧ blogOk tag (p.toNat / 2 ^ 56 % 8) = true
    let reg := 512 + d.toNat
    (Ready s [xr a] [reg] → plain →
      (∀ l, AtOnce l → Reached s p 32 .load (.flat l) s → s.blocked (.flat l) 32 false = false →
        Runs (.vld imm7 a d) s fun t => V t d.toNat = BitVec.ofNat 256 (s.numAt l 32) ∧ reg ∉ t.ctx.empty ∧ Keeps s t [reg] 0 ∧ Next s t)
      ∧ (∀ s1 s2 r pa bs, r.spot = .flat (.hbm pa) → s.reach s.org p 32 .load = .ok (r, s1) → s1.blocked r.spot 32 false = false →
        s1.readGlobal s.org p r 32 = (.soon bs, s2) → Room s →
        Runs (.vld imm7 a d) s fun t => Awaits s t reg (leNat bs) 0 false p ∧ Regs s t [reg] 0 ∧ Bytes s2 t ∧ Next s t))
    ∧ (Ready s [xr a, reg] [] → plain → ∀ l, AtOnce l → Reached s p 32 .store (.flat l) s → s.blocked (.flat l) 32 true = false →
      Runs (.vst imm7 a d) s fun t => Stored s t l 32 (V s d.toNat).toNat ∧ Regs s t [] 0 ∧ Next s t)
    ∧ (Ready s [xr a, reg] [] → plain → ∀ s1 r, s.reach s.org p 32 .store = .ok (r, s1) → s1.blocked r.spot 32 true = false →
      (∀ pa, r.spot = .flat (.hbm pa) → Runs (.vst imm7 a d) s fun t => (∃ x : PStore, t.me.stores = s.me.stores ++ [x] ∧ x.va = p ∧ x.away = false
          ∧ x.parts = [.at (.hbm pa) ((List.range 32).map (byteOf (V s d.toNat).toNat))] ∧ Turn.act (.ack s.cur x.id) ∈ t.turns)
        ∧ Regs s t [] 0 ∧ Bytes (s1.counted s.org r 32) t ∧ Next s t)
      ∧ ∀ pkg pa, r.spot = .flat (.remote pkg pa) → s1.mayIssue s.org.part 0 (s1.endpoint s.org) 3 s.me.accCtr.toNat = true →
        Runs (.vst imm7 a d) s fun t => (∃ (x : PStore) (e : Nat × Packet), t.me.stores = s.me.stores ++ [x] ∧ x.va = p ∧ x.away = true ∧ e ∈ t.pkts
            ∧ e.2.kind = 2 ∧ e.2.store = x.id ∧ e.2.dpkg = pkg ∧ e.2.va = p)
          ∧ Regs s t [] 0 ∧ Bytes s t ∧ Next s t)
    ∧ (Ready s [xr a] [] → d ≠ 0 →
      let setsP := fun (m : State) (v : Nat) (t : State) => P t d.toNat = BitVec.ofNat 32 v ∧ (∀ n, n ≠ d.toNat → P t n = P s n) ∧ (∀ r, X t r = X s r)
        ∧ (∀ r, F t r = F s r) ∧ t.ls.v = s.ls.v ∧ t.ctx.fcsr = s.ctx.fcsr ∧ t.ctx.aw = .none ∧ Bytes m t ∧ Next s t
      (s.ctx.aw = .none → ∀ s1 r, s.reach s.org q 4 .load = .ok (r, s1) → s1.blocked r.spot 4 false = false →
        (∀ pa s2 bs, r.spot = .flat (.hbm pa) → s1.dieHolds r.spot true = false → s1.readGlobal s.org q r 4 = (.soon bs, s2) →
          Runs (.vldp imm7 a d) s (setsP s2 (leNat bs)))
        ∧ ∀ pkg pa, r.spot = .flat (.remote pkg pa) → s1.me.l1Find s.org.part s.org.job (q.toNat % 2 ^ 48) = none →
          s1.mayIssue s.org.part 0 (s1.endpoint s.org) 3 s.me.accCtr.toNat = true → Runs (.vldp imm7 a d) s fun t => (∃ id k, Tab.find? t.pkts id = some k
            ∧ k.kind = 3 ∧ k.dpkg = pkg ∧ k.va = q ∧ t.ctx.aw = .sent id) ∧ t.ctx.pc = s.ctx.pc ∧ t.me.instret = s.me.instret ∧ Regs s t [] 0 ∧ Bytes s t)
      ∧ (∀ c ws, s.ctx.aw = .replied true c ws → Runs (.vldp imm7 a d) s
        (setsP s (leNat (((ws.flatMap fun w => leBytes 8 w.toNat).drop (q.toNat % 2 ^ 48 % 64)).take 4))))
      ∧ ∀ c ws, s.ctx.aw = .replied false c ws → s.fir.active = true → s.ctx.causes.length < 4 → Runs (.vldp imm7 a d) s fun t =>
        t.ctx.causes = s.ctx.causes ++ [(c, q)] ∧ t.ctx.aw = .none ∧ (∀ n, n ≠ d.toNat → P t n = P s n) ∧ (∀ r, X t r = X s r) ∧ Bytes s t ∧ Next s t)
    ∧ (Ready s [xr a] [] → d ≠ 0 → s.ctx.aw = .none → ∀ l, AtOnce l → Reached s q 4 .load (.flat l) s → s.blocked (.flat l) 4 false = false →
      Runs (.vldp imm7 a d) s (SetsP s d.toNat (BitVec.ofNat 32 (s.numAt l 4))))
    ∧ (Ready s [xr a] [reg] → (tag ∈ [9, 10] ∨ 12 < tag) → exec (.vld imm7 a d) s = .next (s.takeTrap .formatReserved p 0))
    ∧ (plain → tag ≤ 12 → canonical p = true → p.toNat % 32 ≠ 0 →
      (Ready s [xr a] [reg] → exec (.vld imm7 a d) s = .next (s.takeTrap .misalignedLoad p 0))
        ∧ (Ready s [xr a, reg] [] → exec (.vst imm7 a d) s = .next (s.takeTrap .misalignedStore p 0))))
  ∧ (∀ (s : State) (eb2 eb1 : BitVec 1) (b a d : BitVec 5) (l : Nat → Loc), Idle s → s.me.inH = false → Unwatched s → s.ctx.aw = .none →
    let p := X s a
    let tag := p.toNat / 2 ^ 59
    let n := elemSize tag
    let at' := fun (i : Nat) => ptrAdd p ((i : Int) * (X s b).toInt)
    let reg := 512 + d.toNat
    tag ≤ 8 → blogOk tag (p.toNat / 2 ^ 56 % 8) = true → (∀ i, i < 32 / n → AtOnce (l i)) →
    (Ready s [xr a, xr b] [reg] → (∀ i, i < 32 / n → Reached s (at' i) n .load (.flat (l i)) s ∧ s.blocked (.flat (l i)) n false = false) →
      Runs (.vlds eb2 eb1 b a d) s fun t => (∀ i, i < 32 / n → lane (8 * n) (V t d.toNat) i = s.numAt (l i) n) ∧ reg ∉ t.ctx.empty
        ∧ Keeps s t [reg] 0 ∧ Next s t)
      ∧ (Ready s [xr a, xr b, reg] [] → (∀ i, i < 32 / n → Reached s (at' i) n .store (.flat (l i)) s ∧ s.blocked (.flat (l i)) n true = false) →
        Runs (.vsts eb2 eb1 b a d) s fun t => Regs s t [] 0 ∧ Next s t
          ∧ (∀ i j, i < 32 / n → j < n → (∀ k m, i < k → k < 32 / n → m < n → (l k).plus m ≠ (l i).plus j) →
            t.byteAt ((l i).plus j) = byteOf (lane (8 * n) (V s d.toNat) i) j)
          ∧ ∀ l', (∀ i j, i < 32 / n → j < n → l' ≠ (l i).plus j) → t.byteAt l' = s.byteAt l'))

/-- In an L firing with no active repetition, registers ready, no watchpoint that can match and an element tag, with lane i at the pointer
plus lane i of the index register, unsigned, times the element size, each aligned and routed to a scratchpad where no earlier access of
the core is on its way: VGATH completes with V[d] empty until as many replies as lanes have come and a read of each lane's element under
way; VSCAT with a write, and VSADD (not of the byte tag) with an addition in the element format, of each lane of V[d] under way. No other
register and no byte of memory changes. VSADD of the byte tag takes VECTOR_FORMAT with the pointer as tval (notes/assumptions/68.md). With
no active repetition, registers ready, no watchpoint that can match, no earlier access of the core to those bytes under way, and a pointer
plus imm7 times 8 whose address is aligned and routes to a scratchpad: GET completes with X[d] empty and a read of 8 bytes under way; PUT
with a write of X[d] under way; SADD, for the tags of bytes, fp32 and i32, with an addition of X[d] of 8 or 4 bytes under way. Nothing
else changes. Any other valid tag of SADD takes VECTOR_FORMAT and a misaligned address MISALIGNED_LOAD (GET) or MISALIGNED_STORE (PUT),
each with the address as tval. (05_vector.md R110, 08_messages.md R170, 08_messages.md R175.) -/
def Obligations.VectorIndexed : Prop :=
  (∀ (s : State) (eb2 eb1 : BitVec 1) (b a d : BitVec 5) (cl off : Nat → Nat), Idle s → s.me.inH = false → Unwatched s →
    let p := X s a
    let tag := p.toNat / 2 ^ 59
    let n := elemSize tag
    let at' := fun (i : Nat) => ptrAdd p ((lane (8 * n) (V s b.toNat) i * n : Nat) : Int)
    let reg := 512 + d.toNat
    let asked := fun (t : State) (mk : Nat → Svc) => ∀ i, i < 32 / n → ∃ id, Turn.act (.svcReq id) ∈ t.turns ∧ Tab.find? t.svcs id
      = some { mk i with org := s.org, cl := cl i, off := off i, va := at' i, sent := s.time.toNat }
    tag ≤ 8 → blogOk tag (p.toNat / 2 ^ 56 % 8) = true → (∀ i, i < 32 / n → Routed s (at' i) (cl i) (off i) ∧ (at' i).toNat % n = 0) →
    let free := fun (wr : Bool) => ∀ i, i < 32 / n → s.owes s.cur (.flat (.scratch (cl i) (off i))) n wr = false
    (Ready s [xr a, 512 + b.toNat] [reg] → free false → Runs (.vgath eb2 eb1 b a d) s fun t => Regs s t [reg] 0 ∧ Bytes s t ∧ Next s t ∧ reg ∈ t.ctx.empty ∧ ∃ id,
      t.ctx.pend = s.ctx.pend ++ [{ id := id, reg := reg, wait := 32 / n, addr := p, sent := s.time.toNat }]
      ∧ asked t fun i => { ask := { idx := 0, size := n }, pend := some id, conv := .lane (8 * n) i, batch := some id })
      ∧ (Ready s [xr a, 512 + b.toNat, reg] [] →
        let data := fun (i : Nat) => [BitVec.ofNat 64 (lane (8 * n) (V s d.toNat) i)]
        (free true → Runs (.vscat eb2 eb1 b a d) s fun t => Regs s t [] 0 ∧ Bytes s t ∧ Next s t
          ∧ ∃ id, asked t fun i => { ask := { idx := 1, size := n, data := data i }, batch := some id })
        ∧ (tag ≠ 0 → free true → Runs (.vsadd eb2 eb1 b a d) s fun t => Regs s t [] 0 ∧ Bytes s t ∧ Next s t
          ∧ ∃ id, asked t fun i => { ask := { idx := 2, fmt := tag, size := n, data := data i }, batch := some id })
        ∧ (tag = 0 → exec (.vsadd eb2 eb1 b a d) s = .next (s.takeTrap .vectorFormat p 0))))
  ∧ (∀ (s : State) (imm7 : BitVec 7) (a d : BitVec 5), Idle s → Unwatched s →
    let p := ptrAdd (X s a) (imm7.toInt * 8)
    let tag := p.toNat / 2 ^ 59
    let asks := fun (t : State) (v : Svc) => (∃ id, Tab.find? t.svcs id = some v ∧ Turn.act (.svcReq id) ∈ t.turns) ∧ Bytes s t ∧ Next s t
    let req := fun (cl off : Nat) (ask : AOp) (pend : Option Nat) =>
      ({ org := s.org, ask := ask, cl := cl, off := off, va := p, pend := pend, sent := s.time.toNat } : Svc)
    let free := fun (cl off n : Nat) (wr : Bool) => s.owes s.cur (.flat (.scratch cl off)) n wr = false
    (∀ cl off, Routed s p cl off → p.toNat % 8 = 0 →
        (Ready s [xr a] [xr d] → free cl off 8 false → Runs (.get imm7 a d) s fun t => ∃ id, asks t (req cl off { idx := 0 } (some id)) ∧ Regs s t [xr d] 0
          ∧ t.ctx.pend = s.ctx.pend ++ [{ id := id, reg := xr d, wait := 1, addr := p, sent := s.time.toNat }] ∧ (d ≠ 0 → xr d ∈ t.ctx.empty))
          ∧ (Ready s [xr a, xr d] [] → free cl off 8 true → Runs (.put imm7 a d) s fun t => asks t (req cl off { idx := 1, data := [X s d] } none) ∧ Regs s t [] 0))
      ∧ (∀ cl off, Routed s p cl off → Ready s [xr a, xr d] [] → tag ∈ [0, 1, 6] → (tag = 0 ∨ p.toNat / 2 ^ 56 % 8 = 0) →
        let n := if tag = 0 then 8 else 4
        p.toNat % n = 0 → free cl off n true → Runs (.sadd imm7 a d) s fun t =>
          asks t (req cl off { idx := 2, fmt := tag, size := n, data := [X s d] } none) ∧ Regs s t [] 0)
      ∧ (tagOk p = true → tag ∉ [0, 1, 6] → Ready s [xr a, xr d] [] → exec (.sadd imm7 a d) s = .next (s.takeTrap .vectorFormat p 0))
      ∧ (tagOk p = true → canonical p = true → p.toNat % 8 ≠ 0 →
        (Ready s [xr a] [xr d] → exec (.get imm7 a d) s = .next (s.takeTrap .misalignedLoad p 0))
          ∧ (Ready s [xr a, xr d] [] → exec (.put imm7 a d) s = .next (s.takeTrap .misalignedStore p 0))))

/-- With no active repetition and registers ready: CVT writes each element of V[d] with the conversion of the element of V[a] under the mode
of rnd, the rest zero; FCVTZ does so for the 64 bits of an f register and raises the union of the elements' flags; LUTW at a place of the
private memory or of the own scratchpad, of global memory whose home's die runs and that is answered, and with the reply of another
package, loads the 16 bytes of the table and zlutbase; LUTX writes each byte with the table entry that its low-half code selects, or
LUT_UNLOADED; ZPSUB writes 16 lanes with the bytes of the chosen half minus their zero points, or BLOCK_MISMATCH for a group length of 0.
Nothing else changes. With no active repetition, registers ready, no watchpoint that can match, and both ranges checked and at places of
the private memory or of the own scratchpad that no command holds: PACKB writes the bytes of the block packed from the 32 source elements
under the mode of rnd, no other byte, and X[d] with the two exponents; UNPKB writes the 32 elements of the block's values rounded by RNE
into the target format and no other byte. From bytes read through the pipe in any place, with a destination in global memory that nothing
earlier holds, they queue the writes of those units last among the core's stores, each at its pointer. Every other register is unchanged.
A pointer below the windows with a tag that does not fit takes VECTOR_FORMAT with the pointer as tval, X[a] first (of UNPKB:
notes/assumptions/28.md). (04_number_formats.md R91, 04_number_formats.md R94, 04_number_formats.md R95, 04_number_formats.md R96,
04_number_formats.md R80, 04_number_formats.md R92, 04_number_formats.md R93.) -/
def Obligations.Conversions : Prop :=
  (∀ (s : State) (rnd : BitVec 3) (a b d : BitVec 5), Idle s →
    let pr := pairOf b.toNat
    let wt := 8 * elemSize pr.1
    let ws := 8 * elemSize pr.2
    let conv := fun (v : Nat) (i : Nat) => elemConv pr.1 pr.2 (rndOf rnd.toNat) (v / 2 ^ (i * ws) % 2 ^ ws)
    let field := fun (v i : Nat) => v / 2 ^ (i * wt) % 2 ^ wt
    let reg := 512 + d.toNat
    let setsV := fun (t : State) => reg ∉ t.ctx.empty ∧ Keeps s t [reg] 0 ∧ Next s t
    let loads := fun (m : State) (bs : List Byte) (t : State) => Bytes m t ∧ Next s t ∧ (∀ r, X t r = X s r) ∧ (∀ r, F t r = F s r)
      ∧ t.ls = { s.ls with lut := bs, lutOk := true, zlutbase := X s a }
    (s.me.inH = false → Ready s [512 + a.toNat] [reg] → Runs (.cvt rnd a b d) s fun t => setsV t ∧ ∀ i, i < 256 / wt →
      field (V t d.toNat).toNat i = if i < 256 / max wt ws then (conv (V s a.toNat).toNat i).1 % 2 ^ wt else 0)
    ∧ (Named s [a, d] → Ready s [fr a] [fr d] → Runs (.fcvtz rnd a b d) s fun t => ∃ v fl, SetsF s d v fl t
      ∧ (∀ i, i < 64 / wt → field v.toNat i = if i < 64 / max wt ws then (conv (F s a).toNat i).1 % 2 ^ wt else 0)
      ∧ fl = ((List.range (64 / max wt ws)).foldl (fun f i => f.union (conv (F s a).toNat i).2) ({} : Flg)).toNat)
    ∧ (∀ l, s.me.inH = false → Unwatched s → s.ctx.aw = .none → AtOnce l → Ready s [xr a] [] → Reached s (X s a) 16 .load (.flat l) s →
      s.blocked (.flat l) 16 false = false → Runs (.lutw a) s (loads s (s.bytesAt l 16)))
    ∧ (∀ s1 s2 r pa bs, s.me.inH = false → Unwatched s → s.ctx.aw = .none → Ready s [xr a] [] → r.spot = .flat (.hbm pa) →
      s.reach s.org (X s a) 16 .load = .ok (r, s1) → s1.blocked r.spot 16 false = false → s1.dieHolds r.spot true = false →
      s1.readGlobal s.org (X s a) r 16 = (.soon bs, s2) → Runs (.lutw a) s (loads s2 bs))
    ∧ (∀ c ws, s.me.inH = false → Ready s [xr a] [] → s.ctx.aw = .replied true c ws → Runs (.lutw a) s
      (loads s (((ws.flatMap fun w => leBytes 8 w.toNat).drop ((X s a).toNat % 2 ^ 48 % 64)).take 16)))
    ∧ (s.me.inH = false → Ready s [512 + a.toNat] [reg] →
      (s.ls.lutOk = true → Runs (.lutx a d) s fun t => setsV t ∧ ∀ i, i < 32 →
        lane 8 (V t d.toNat) i = (s.ls.lut.getD ((V s a.toNat).toNat / 2 ^ (4 * i) % 16) 0).toNat)
      ∧ (s.ls.lutOk = false → exec (.lutx a d) s = .next (s.takeTrap .lutUnloaded ((encode (.lutx a d)).setWidth 64) 0)))
    ∧ (s.me.inH = false → Ready s [512 + a.toNat, xr b] [reg] →
      let z := (X s b).toNat
      let n := z / 2 ^ 32 % 8
      let h := z / 2 ^ 35 % 2
      (n ≠ 0 → Runs (.zpsub a b d) s fun t => setsV t ∧ ∀ j, j < 16 → (lane 16 (V t d.toNat) j : Int)
        = ((lane 8 (V s a.toNat) (16 * h + j) : Int) - (z / 2 ^ (8 * ((16 * h + j) / 2 ^ (n + 2))) % 2 ^ 8 : Nat)) % 2 ^ 16)
      ∧ (n = 0 → exec (.zpsub a b d) s = .next (s.takeTrap .blockMismatch (X s b) 0))))
  ∧ (∀ (s : State) (rnd : BitVec 3) (a b d : BitVec 5) (lp lq : Loc), Idle s → Unwatched s → s.ctx.aw = .none → AtOnce lp → AtOnce lq →
    let p := X s a
    let q := X s b
    let tp := p.toNat / 2 ^ 59
    let tq := q.toNat / 2 ^ 59
    let sound := fun (r : Word) => blogOk (r.toNat / 2 ^ 59) (r.toNat / 2 ^ 56 % 8) = true
    let spans := fun (n cp m cq : Nat) =>
      (∀ i, i < cp → Reached s (ptrAdd p ((i * n : Nat) : Int)) n .load (.flat (lp.plus (i * n))) s ∧ s.blocked (.flat (lp.plus (i * n))) n false = false)
        ∧ (∀ i, i < cq → Reached s (ptrAdd q ((i * m : Nat) : Int)) m .store (.flat (lq.plus (i * m))) s
          ∧ s.blocked (.flat (lq.plus (i * m))) m true = false)
    let holds := fun (t : State) (out : List Byte) =>
      (∀ j, j < out.length → t.byteAt (lq.plus j) = out.getD j 0) ∧ ∀ l', (∀ j, j < out.length → l' ≠ lq.plus j) → t.byteAt l' = s.byteAt l'
    let units := fun (n m cq cp : Nat) (bs : List Byte) (ws : List (Word × Reach)) (s3 : State) => ∃ rs s1 s2,
      headCheck p n cp .load true s = .ok ((), s) ∧ headCheck q m cq .store true s = .ok ((), s)
        ∧ spanReach n .load (spanPtrs p n cp) s = .ok (rs, s1) ∧ spanReach m .store (spanPtrs q m cq) s1 = .ok (ws, s2)
        ∧ pipeRead n rs s2 = .ok (.ok bs, s3) ∧ ∀ w ∈ ws, (∃ pa, w.2.spot = .flat (.hbm pa)) ∧ s3.blocked w.2.spot m true = false
    let queued := fun (t : State) (m : Nat) (ws : List (Word × Reach)) (out : List Byte) =>
      t.me.stores.map (fun x => (x.va, x.away, x.parts)) = s.me.stores.map (fun x => (x.va, x.away, x.parts))
        ++ ws.zipIdx.map fun w => (w.1.1, false, w.1.2.spot.dests ((out.drop (m * w.2)).take m))
    (∀ bs ws s3, Ready s [xr a, xr b] [xr d] → tp ∈ [1, 2, 3] → tq ∈ [9, 10] → units (elemSize tp) 2 (bfpBytes tq / 2) 32 bs ws s3 →
      let n := elemSize tp
      let blk := bfpPack tq (rndOf rnd.toNat) ((List.range 32).map fun i => elemVal tp (leNat ((bs.drop (i * n)).take n)))
      Runs (.packb rnd a b d) s fun t => X t d = (if d = 0 then 0 else BitVec.ofNat 64 (blk.2.1 * 256 + blk.1)) ∧ Regs s t [xr d] 0 ∧ Next s t
        ∧ queued t 2 ws (bfpBytesOf tq blk))
    ∧ (∀ bs ws s3, Ready s [xr a, xr b] [] → tp ∈ [9, 10] → tq ∈ [1, 2, 3] → units 2 (elemSize tq) 32 (bfpBytes tp / 2) bs ws s3 →
      Runs (.unpkb a b) s fun t => Regs s t [] 0 ∧ Next s t
        ∧ queued t (elemSize tq) ws ((bfpVals tp bs).flatMap fun v => leBytes (elemSize tq) (elemOf tq .rne v).1))
    ∧ (Ready s [xr a, xr b] [xr d] → tp ∈ [1, 2, 3] → tq ∈ [9, 10] → sound p → sound q → spans (elemSize tp) 32 2 (bfpBytes tq / 2) →
      let blk := bfpPack tq (rndOf rnd.toNat) ((List.range 32).map fun i => elemVal tp (s.numAt (lp.plus (i * elemSize tp)) (elemSize tp)))
      Runs (.packb rnd a b d) s fun t => X t d = (if d = 0 then 0 else BitVec.ofNat 64 (blk.2.1 * 256 + blk.1)) ∧ Regs s t [xr d] 0
        ∧ holds t (bfpBytesOf tq blk) ∧ Next s t)
    ∧ (Ready s [xr a, xr b] [] → tp ∈ [9, 10] → tq ∈ [1, 2, 3] → sound p → sound q → spans 2 (bfpBytes tp / 2) (elemSize tq) 32 →
      Runs (.unpkb a b) s fun t => Regs s t [] 0 ∧ Next s t
        ∧ holds t ((bfpVals tp (s.bytesAt lp (bfpBytes tp))).flatMap fun v => leBytes (elemSize tq) (elemOf tq .rne v).1))
    ∧ (Ready s [xr a, xr b] [xr d] → tp ∉ [1, 2, 3] → tp ≤ 12 → sound p → canonical p = true → p.toNat % 4 = 0 → p.toNat % 2 ^ 48 + 256 ≤ 0xFFFE00000000 →
      exec (.packb rnd a b d) s = .next (s.takeTrap .vectorFormat p 0))
    ∧ (Ready s [xr a, xr b] [] → tp ∉ [9, 10] → tp ≤ 12 → sound p → canonical p = true → p.toNat % 2 = 0 → p.toNat % 2 ^ 48 + 256 ≤ 0xFFFE00000000 →
      exec (.unpkb a b) s = .next (s.takeTrap .vectorFormat p 0)))

/-- In an L firing with no active repetition, no other group holding the accumulator and room in the engine queue and scoreboard: MXA with
both rings configured, their formats of one class that fits the issue mode, slot sizes that fit and a loaded table where it needs one;
MXZ, which sets the issue mode at once; MXRD and MXWR with a register readable, a sound pointer of a legal tag, aligned to 64 bytes, whose
range lies in the own allotment: each completes with its command last in the engine queue, its ranges in the scoreboard, the accumulator
held by the group, the core's earlier writes performed, nothing else changed. Another group's accumulator takes ACCUMULATOR_CONFLICT, an
absent ring RING_UNALLOTTED, unfit formats MATRIX_FORMAT, an H firing HIGH_CONTEXT_ILLEGAL. In an L firing with no active repetition:
MXSTAT of an accumulator without an uncorrectable error writes its status word, only its held bit when another group holds it, and takes
UNCORRECTABLE_ACCUMULATOR of its own group's with such an error; MXTEST claims it and writes 1 when no command of this core on it remains,
else 0; MXSYNC in a launch firing queues a marker under a reserved completion slot and waits at its own pc, and once that completion is
placed, with no walk to report, takes it away, acquires and completes. In a handler firing MXSYNC takes BLOCKING_IN_HANDLER, in an H
firing each HIGH_CONTEXT_ILLEGAL. In an L firing with no active repetition, registers ready, no other group holding the accumulator, an
index below 512, room in the engine queue and the core's service writes and rows performed: VACCR completes with V[d] empty, its producer
the command that reads eight elements from that row; VACCW with the command that writes the lanes of V[d] there. The accumulator is held
by the group, the core's stores are performed and nothing else changes. An index of 512 or more takes ACC_RANGE with the index as tval, an
accumulator of another group ACCUMULATOR_CONFLICT, and an H firing HIGH_CONTEXT_ILLEGAL. (11_matrix.md R224, 11_matrix.md R228,
11_matrix.md R231, 11_matrix.md R232, 11_matrix.md R233, 11_matrix.md R234, 11_matrix.md R235, 11_matrix.md R236, 11_matrix.md R237,
05_vector.md R112, 05_vector.md R113.) -/
def Obligations.MatrixForms : Prop :=
  (∀ (s : State) (n : BitVec 1) (p q : BitVec 4) (rnd : BitVec 3) (a d : BitVec 5), Idle s →
    let forms : List (Instr × Nat) := [(.mxa n p q, n.toNat), (.mxz a d, d.toNat), (.mxrd rnd a d, a.toNat), (.mxwr a d, d.toNat)]
    (s.me.inH = true → ∀ i k, (i, k) ∈ forms → exec i s = .next (s.takeTrap .highContextIllegal ((encode i).setWidth 64) 0))
    ∧ (s.me.inH = false → Ready s [xr a, xr d] [] → ∀ i k, (i, k) ∈ forms → ¬ AccOpen s k →
      exec i s = .next (s.takeTrap .accumulatorConflict (BitVec.ofNat 64 k) 0))
    ∧ (s.me.inH = false → AccOpen s n.toNat →
      (s.ringOf s.fir.gid p.toNat = none → exec (.mxa n p q) s = .next (s.takeTrap .ringUnallotted (BitVec.ofNat 64 p.toNat) 0))
      ∧ ∀ dp rp dq rq, s.ringOf s.fir.gid p.toNat = some (dp, rp) → s.ringOf s.fir.gid q.toNat = some (dq, rq) → rp.cfg = true → rq.cfg = true →
        let tp := rp.base.toNat / 2 ^ 59
        let tq := rq.base.toNat / 2 ^ 59
        let bp := rp.base.toNat / 2 ^ 56 % 8
        let bq := rq.base.toNat / 2 ^ 56 % 8
        let depth := 2048 / max (opWidth tp) (opWidth tq)
        let fits := opFloat tp = some (!(s.acc n.toNat).issueI32) ∧ opFloat tq = opFloat tp
        blogOk tp bp = true → blogOk tq bq = true →
        (¬ fits → exec (.mxa n p q) s = .next (s.takeTrap .matrixFormat (BitVec.ofNat 64 (tp * 256 + tq)) 0))
        ∧ (fits → rp.size = slotBytes tp bp depth → rq.size = slotBytes tq bq depth → (tp = 12 → bp ≤ 6) → (tq = 12 → bq ≤ 6) →
          (tp = 11 ∨ tq = 11 → s.ls.lutOk = true) → EngineRoom s 1 →
          Runs (.mxa n p q) s fun t => Issues s t n.toNat (.mxa n.toNat p.toNat q.toNat s.ls.lut) [([], [])] []))
    ∧ (s.me.inH = false → AccOpen s d.toNat → EngineRoom s 0 → Runs (.mxz a d) s fun t => Queued s t (.mxz d.toNat a.toNat) [] []
      ∧ t.acc d.toNat = { s.acc d.toNat with holder := some s.fir.gid, issueI32 := a != 0 } ∧ Regs s t [] 0 ∧ Bytes (s.flush s.cur) t ∧ Next s t)
    ∧ (s.me.inH = false → AccOpen s a.toNat → EngineRoom s 1 → Ready s [xr d] [] →
      let r := X s d
      let tag := r.toNat / 2 ^ 59
      let size := 4096 * (if tag = 0 then 4 else elemSize tag)
      Sound r → tag ≤ 8 → r.toNat % 64 = 0 → ∀ off, GroupRange s r size off →
        Runs (.mxrd rnd a d) s fun t => Issues s t a.toNat (.mxrd a.toNat rnd.toNat r) [([], [(off, off + size)])] [(off, size)])
    ∧ (s.me.inH = false → AccOpen s d.toNat → EngineRoom s 1 → Ready s [xr a] [] →
      let r := X s a
      let tag := r.toNat / 2 ^ 59
      Sound r → (tag = 0 ∨ tag = (if (s.acc d.toNat).issueI32 then 6 else 1)) → r.toNat % 64 = 0 → ∀ off, GroupRange s r 16384 off →
        Runs (.mxwr a d) s fun t => Issues s t d.toNat (.mxwr d.toNat r) [([(off, off + 16384)], [])] []))
  ∧ (∀ (s : State) (a d : BitVec 5), Idle s →
    let n := a.toNat
    let acc := s.acc n
    let eng := (s.clusterAt (s.cur / 8)).eng
    let own := acc.holder = some s.fir.gid
    let bit := fun (b : Bool) (i : Nat) => if b then 2 ^ i else 0
    let queued := (eng.filter fun e => e.op.acc? == some n && acc.holder == some e.org.gid).length
    let mine := ∃ e ∈ eng, e.org.k = s.cur ∧ e.op.acc? = some n
    (s.me.inH = true → ∀ i, i ∈ [Instr.mxstat a d, .mxtest a d, .mxsync a] →
      exec i s = .next (s.takeTrap .highContextIllegal ((encode i).setWidth 64) 0))
    ∧ (s.me.inH = false → s.fir.kind ≠ 0 → exec (.mxsync a) s = .next (s.takeTrap .blockingInHandler ((encode (.mxsync a)).setWidth 64) 0))
    ∧ (s.me.inH = false → Ready s [] [xr d] →
      (own → acc.bad = true → exec (.mxstat a d) s = .next (s.takeTrap .uncorrectableAccumulator (BitVec.ofNat 64 n) 0))
      ∧ (own → acc.bad = false → Runs (.mxstat a d) s (SetsX s d (BitVec.ofNat 64 (acc.steps.toNat * 2 ^ 48 + queued * 2 ^ 32 + bit acc.retry 5 + bit acc.nonfin 4
        + bit acc.ovf 3 + bit acc.i32 2 + 3)) (s.ctx.pc + 4)))
      ∧ (¬ own → acc.bad = false → Runs (.mxstat a d) s (SetsX s d (if acc.holder = none then 0 else 2) (s.ctx.pc + 4)))
      ∧ (AccOpen s n → Runs (.mxtest a d) s fun t => (mine → X t d = 0) ∧ (¬ mine → d ≠ 0 → X t d = 1) ∧ Regs s t [xr d] 0 ∧ Bytes s t ∧ Next s t
        ∧ t.acc n = { acc with holder := some s.fir.gid }))
    ∧ (s.me.inH = false → s.fir.kind = 0 → s.ctx.aw = .none → AccOpen s n → s.me.caRoom = true → EngineRoom s 0 →
      Runs (.mxsync a) s fun t => ∃ slot, t.ctx.aw = .synced slot ∧ t.me.ca = s.me.ca ++ [{ id := slot, fid := s.fir.fid, hidden := true }]
        ∧ Queued s t (.sync n slot) [] [] ∧ t.ctx.pc = s.ctx.pc ∧ Regs s t [] 0 ∧ Bytes (s.flush s.cur) t)
    ∧ (s.me.inH = false → s.fir.kind = 0 → ∀ slot, s.ctx.aw = .synced slot → (∃ x ∈ s.me.ca, x.id = slot ∧ x.msg ≠ none) →
      (∀ m ∈ s.me.walksOn n s.fir.fid, (m.words.getD 2 0).toNat / 2 ^ 8 % 2 = 0) →
      Runs (.mxsync a) s fun t => t.ctx.aw = .none ∧ (∀ x ∈ t.me.ca, x.id ≠ slot) ∧ Acquired s t ∧ Regs0 s t [] 0 ∧ t.fir = s.fir ∧ Bytes s t ∧ Next s t))
  ∧ (∀ (s : State) (eb1 : BitVec 1) (b a d : BitVec 5), Idle s →
    let v := (X s a).toNat
    let e := v % 64 * 64 + v / 64 * 8
    let n := b.toNat
    let reg := 512 + d.toNat
    let bad := fun (i : Instr) (c : Cause) (tv : Word) => exec i s = .next (s.takeTrap c tv 0)
    (s.me.inH = true → ∀ i, i ∈ [Instr.vaccr eb1 b a d, .vaccw eb1 b a d] → bad i .highContextIllegal ((encode i).setWidth 64))
    ∧ (s.me.inH = false → Ready s [xr a] [reg] →
      (AccOpen s n → v < 512 → EngineRoom s 0 → Runs (.vaccr eb1 b a d) s fun t => ∃ id, Queued s t (.vaccr n e id false) [] []
        ∧ t.ctx.pend = s.ctx.pend ++ [{ id := id, reg := reg, wait := 1, sent := s.time.toNat }] ∧ reg ∈ t.ctx.empty ∧ Regs s t [reg] 0 ∧ Bytes (s.flush s.cur) t
        ∧ Next s t ∧ t.acc n = { s.acc n with holder := some s.fir.gid })
        ∧ (AccOpen s n → 512 ≤ v → bad (.vaccr eb1 b a d) .accRange (X s a))
        ∧ (¬ AccOpen s n → bad (.vaccr eb1 b a d) .accumulatorConflict (BitVec.ofNat 64 n)))
    ∧ (s.me.inH = false → Ready s [xr a, reg] [] →
      (AccOpen s n → v < 512 → EngineRoom s 0 → Runs (.vaccw eb1 b a d) s fun t => Issues s t n (.vaccw n e (V s d.toNat)) [] [])
        ∧ (AccOpen s n → 512 ≤ v → bad (.vaccw eb1 b a d) .accRange (X s a))
        ∧ (¬ AccOpen s n → bad (.vaccw eb1 b a d) .accumulatorConflict (BitVec.ofNat 64 n))))

/-- In an L firing with no active repetition, registers ready and no watchpoint that can match: MXAS with rings, formats and sizes that fit
its pattern and well-formed masks in the own allotment completes with its command queued under those masks; a malformed mask takes
SPARSE_METADATA_MALFORMED with its index. MXMCHK writes the index of the first malformed mask of the array, or all ones when there is none
or the count is 0; a count above 2^20 takes RESERVED_FIELD. MXCMP with sound aligned pointers in the own allotment queues the pruning and
waits at its own pc, and completes once its command has left the queue. A queued command has the core's stores performed before it;
nothing else changes. (13_sparse.md R244, 13_sparse.md R246, 13_sparse.md R248, 13_sparse.md R252, 13_sparse.md R253.) -/
def Obligations.SparseForms : Prop :=
  ∀ (s : State) (pat : BitVec 3) (n : BitVec 1) (p q : BitVec 4) (a b d : BitVec 5), Idle s → s.me.inH = false → Unwatched s →
    let pn := patternOf pat.toNat
    let keep := pn.1
    let m := pn.2.1
    let u := pn.2.2
    let cl := s.cur / 8
    let masksAt := fun (off cnt : Nat) => masksOf m cnt (s.bytesAt (.scratch cl off) (maskBytes m cnt))
    let free := fun (off len : Nat) => s.blocked (.flat (.scratch cl off)) len false = false
    let raw := fun (r : Word) => tagOk r = true ∧ canonical r = true
    (Ready s [xr d] [] → AccOpen s n.toNat → ∀ dp rp dq rq, s.ringOf s.fir.gid p.toNat = some (dp, rp) →
      s.ringOf s.fir.gid q.toNat = some (dq, rq) → rp.cfg = true → rq.cfg = true → p ≠ q →
      let tp := rp.base.toNat / 2 ^ 59
      let tq := rq.base.toNat / 2 ^ 59
      let bp := rp.base.toNat / 2 ^ 56 % 8
      let k := 2048 / opWidth tq
      let kp := k * m / keep
      let cnt := 64 / u * (kp / m)
      blogOk tp bp = true → blogOk tq (rq.base.toNat / 2 ^ 56 % 8) = true → tq ∈ [2, 3, 4, 5, 8] → opFloat tp = some (!(s.acc n.toNat).issueI32) →
      opFloat tq = opFloat tp → opWidth tp ≤ opWidth tq → rp.size = slotBytes tp bp kp → rq.size = slotBytes tq 0 k →
      (tp = 12 → kp % 2 ^ (bp + 2) = 0) → (tp = 11 → s.ls.lutOk = true) → Sound (X s d) → (X s d).toNat % 8 = 0 →
      ∀ off, OwnRange s (X s d) (maskBytes m cnt) off → free off (maskBytes m cnt) →
        (badMask keep m (masksAt off cnt) = none → EngineRoom s 1 → Runs (.mxas pat n p q d) s fun t => Issues s t n.toNat
          (.mxas pat.toNat n.toNat p.toNat q.toNat (masksAt off cnt) s.ls.lut) [([], [])] [])
        ∧ ∀ i, badMask keep m (masksAt off cnt) = some i →
          exec (.mxas pat n p q d) s = .next (s.takeTrap .sparseMetadataMalformed (BitVec.ofNat 64 i) 0))
    ∧ (Ready s [xr a, xr b] [xr d] →
      let cnt := (X s b).toNat
      (2 ^ 20 < cnt → exec (.mxmchk pat a b d) s = .next (s.takeTrap .reservedField (X s b) 0))
      ∧ (cnt = 0 → Runs (.mxmchk pat a b d) s (SetsX s d (BitVec.allOnes 64) (s.ctx.pc + 4)))
      ∧ (cnt ≠ 0 → cnt ≤ 2 ^ 20 → Sound (X s a) → (X s a).toNat % 8 = 0 → ∀ off, OwnRange s (X s a) (maskBytes m cnt) off → free off (maskBytes m cnt) →
        Runs (.mxmchk pat a b d) s (SetsX s d (match badMask keep m (masksAt off cnt) with
          | some i => BitVec.ofNat 64 i
          | none => BitVec.allOnes 64) (s.ctx.pc + 4))))
    ∧ (s.ctx.aw = .none → Ready s [xr a, xr b, xr d] [] →
      let t0 := (X s a).toNat / 2 ^ 59
      let k := 2048 / opWidth t0
      let kp := k * m / keep
      let n0 := 64 * kp * elemSize t0
      let n1 := 64 * k * elemSize t0
      let n2 := maskBytes m (64 / u * (kp / m))
      Sound (X s a) → Sound (X s b) → raw (X s d) → t0 ∈ [2, 3, 4, 5, 8] → (X s b).toNat / 2 ^ 59 = t0 →
      (X s a).toNat % 64 = 0 → (X s b).toNat % 64 = 0 → (X s d).toNat % 64 = 0 → EngineRoom s 2 →
      ∀ o0 o1 o2, OwnRange s (X s a) n0 o0 → OwnRange s (X s b) n1 o1 → OwnRange s (X s d) n2 o2 →
        Runs (.mxcmp pat a b d) s fun t => (∃ id, t.ctx.aw = .compared id) ∧ t.ctx.pc = s.ctx.pc ∧ Regs s t [] 0 ∧ Bytes (s.flush s.cur) t
          ∧ Queued s t (.mxcmp pat.toNat (X s a) (X s b) (X s d)) [([(o0, o0 + n0)], [(o1, o1 + n1)]), ([], [(o2, o2 + n2)])] [(o1, n1)])
    ∧ (∀ id, s.ctx.aw = .compared id → (∀ e ∈ (s.clusterAt cl).eng, e.id ≠ id) →
      Runs (.mxcmp pat a b d) s fun t => t.ctx.aw = .none ∧ Regs s t [] 0 ∧ Bytes s t ∧ Next s t)

/-- In an L firing with no active repetition and registers ready: BSET writes a bond register with an extent of 1 to 256, else takes
BOND_RANGE; BGET reads one; TBND with legal fields, a sound bf16 or e4m3 pointer whose two halves lie in the own allotment, a bond of 1 to
256 and a boundary that fits, and no chain step of the core outstanding, sets both chain states, and takes BOND_RANGE with the bond's
number for a bond of 0 or above 256 and BOUNDARY_OVERFLOW for a boundary that does not fit; TSTAT reads the retired chain state's word;
TCON with a legal step word, a configured boundary on an open FP32 accumulator, extents that match, a checked link and an output that fits
queues the step with the translated pieces of its link and advances the issue state. But that the core's stores are performed before a
queued step, nothing else changes. In an H firing each takes HIGH_CONTEXT_ILLEGAL. (The model's own choices here:
notes/assumptions/36.md.) In an L firing with no active repetition and registers ready, for a legal walk word and an aligned table of step
words in the own allotment that no command holds, a configured boundary on an open FP32 accumulator, steps and links that pass their
checks, an output of the first step that fits and enough completion slots: TWALK completes with one slot reserved, or one for each step,
the walk of all the steps last in the engine queue, and the issue state as the steps leave it. A reserved field takes RESERVED_FIELD with
the walk word as tval. (14_chain.md R259, 14_chain.md R262, 14_chain.md R263, 14_chain.md R264, 14_chain.md R269, 14_chain.md R265,
14_chain.md R266.) -/
def Obligations.ChainForms : Prop :=
  (∀ (s : State) (rnd : BitVec 3) (a b d : BitVec 5), Idle s →
    let only := fun (m t : State) (l : LState) => t.ls = l ∧ { t.ctx with pc := s.ctx.pc, waitAt := s.ctx.waitAt, passed := s.ctx.passed } = s.ctx ∧ Bytes m t ∧ Next s t
    let bond := fun (n : Nat) => (Tab.get s.ls.b n 0).toNat
    let bit := fun (c : Bool) (i : Nat) => if c then 2 ^ i else 0
    (s.me.inH = true → ∀ i, i ∈ [Instr.bset a d, .bget a d, .tbnd a b, .tstat d, .tcon rnd a b, .twalk a b] →
      exec i s = .next (s.takeTrap .highContextIllegal ((encode i).setWidth 64) 0))
    ∧ (s.me.inH = false → Ready s [xr a] [] →
      let v := (X s a).toNat
      (1 ≤ v → v ≤ 256 → Runs (.bset a d) s fun t => only s t { s.ls with b := Tab.set s.ls.b d.toNat (BitVec.ofNat 16 v) })
        ∧ (v = 0 ∨ 256 < v → exec (.bset a d) s = .next (s.takeTrap .bondRange (X s a) 0)))
    ∧ (s.me.inH = false → Ready s [] [xr d] → Runs (.bget a d) s (SetsX s d (BitVec.ofNat 64 (bond a.toNat)) (s.ctx.pc + 4))
      ∧ (let c := s.ls.chainR
        Runs (.tstat d) s (SetsX s d (if c.cfg then BitVec.ofNat 64 (c.v % 2 ^ 20 * 2 ^ 44 + c.bond % 16 * 2 ^ 40 + 2 ^ 39
          + bit (s.chainBusy s.cur) 38 + c.acc % 2 * 2 ^ 37 + c.h % 2 * 2 ^ 36 + (c.m - 1) % 64 * 2 ^ 30 + c.u % 2 ^ 19 * 2 ^ 11 + c.nstep % 2048)
          else 0) (s.ctx.pc + 4))))
    ∧ (s.me.inH = false → Ready s [xr a, xr b] [] →
      let r := X s a
      let v := (X s b).toNat
      let hsz := v % 2 ^ 14
      let lb := v / 2 ^ 40 % 16
      let st : ChainSt := {
        cfg := true, base := r, hsz := hsz, fmt := r.toNat / 2 ^ 59, acc := v / 2 ^ 37 % 2, m := v / 2 ^ 30 % 64 + 1, u := 1, v := v / 2 ^ 44
        bond := lb, h := v / 2 ^ 36 % 2 }
      v / 2 ^ 44 ≠ 0 → v / 2 ^ 38 % 4 = 0 → v / 2 ^ 14 % 2 ^ 16 = 0 → 1 ≤ hsz → hsz ≤ 8192 → Sound r → st.fmt ∈ [2, 4] → r.toNat % 32 = 0 →
      (∃ off, OwnRange s r (64 * hsz) off) →
      ((bond lb = 0 ∨ 256 < bond lb) → exec (.tbnd a b) s = .next (s.takeTrap .bondRange (BitVec.ofNat 64 lb) 0))
      ∧ (1 ≤ bond lb → bond lb ≤ 256 → hsz * 32 < st.bytes (bond lb) → exec (.tbnd a b) s = .next (s.takeTrap .boundaryOverflow (BitVec.ofNat 64 (st.bytes (bond lb))) 0))
      ∧ (1 ≤ bond lb → bond lb ≤ 256 → st.bytes (bond lb) ≤ hsz * 32 → s.chainBusy s.cur = false →
        Runs (.tbnd a b) s fun t => only s t { s.ls with chainI := st, chainR := st }))
    ∧ (s.me.inH = false → Ready s [xr a, xr b] [] →
      let r := X s a
      let v := (X s b).toNat
      let st := s.ls.chainI
      ∀ x ps s1, v < 2 ^ 22 → v / 2 ^ 16 % 2 ^ 5 = 0 → st.cfg = true → AccOpen s st.acc → (s.acc st.acc).issueI32 = false →
      stepRegs v 0 r rnd.toNat s = .ok (x, s) → v % 16 = st.bond → st.v % x.i = 0 → linkCheck x true (fun w => w) s = .ok (ps, s1) →
      (r.toNat / 2 ^ 59 = 11 → s.ls.lutOk = true) → st.outBytes x ≤ st.hsz * 32 → EngineRoom s1 1 →
      Runs (.tcon rnd a b) s fun t => Queued s1 t (.walk st.acc [x] 0 false false 0 [] s.ls.lut st) [st.ranges x] [] (some ps)
        ∧ t.acc st.acc = { s.acc st.acc with holder := some s.fir.gid } ∧ only (s1.flush s1.cur) t { s.ls with chainI := st.after x }))
  ∧ (∀ (s : State) (a b : BitVec 5), Idle s → s.me.inH = false → Unwatched s → s.ctx.aw = .none → Ready s [xr a, xr b] [] →
    let r := X s a
    let v := (X s b).toNat
    let st := s.ls.chainI
    let cnt := v % 2 ^ 7
    let hnd := v / 2 ^ 12 % 2 ^ 12
    let ps := decide (v / 2 ^ 8 % 2 = 1)
    let legal := v < 2 ^ 24 ∧ v / 2 ^ 9 % 8 = 0 ∧ v / 2 ^ 7 % 2 = 0 ∧ (hnd = 0 ∨ 16 ≤ hnd) ∧ 1 ≤ cnt ∧ cnt ≤ 64
    (¬ legal → exec (.twalk a b) s = .next (s.takeTrap .reservedField (X s b) 0))
    ∧ ∀ off steps ps' s1, legal → tagOk r = true → canonical r = true → r.toNat % 16 = 0 → GroupRange s r (16 * cnt) off →
      (∀ i, i < cnt → s.blocked (.flat (.scratch (s.cur / 8) (off + 16 * i))) 16 false = false) →
      st.cfg = true → AccOpen s st.acc → (s.acc st.acc).issueI32 = false →
      let words := (List.range (2 * cnt)).map fun i => BitVec.ofNat 64 (s.numAt (.scratch (s.cur / 8) (off + 8 * i)) 8)
      let s' := s.modCtx fun x => { x with aw := .none }
      walkSteps r 0 st.bond st.v (walkWords words) s' = .ok (steps, s') → walkLinks true steps s' = .ok (ps', s1) →
      ((∃ x ∈ steps, x.link.toNat / 2 ^ 59 = 11) → s.ls.lutOk = true) →
      let n := if ps then steps.length else 1
      ∀ x rest, steps = x :: rest → st.outBytes x ≤ st.hsz * 32 → s.me.ca.length + n ≤ 16 → EngineRoom s1 1 →
      Runs (.twalk a b) s fun t => ∃ slots : List Nat, slots.length = n
        ∧ t.me.ca = s.me.ca ++ slots.map (fun i => { id := i, fid := s.fir.fid, hdl := hnd })
        ∧ Queued s1 t (.walk st.acc steps 0 true ps hnd slots s.ls.lut st) [st.ranges x] [] (some ps')
        ∧ t.acc st.acc = { s.acc st.acc with holder := some s.fir.gid } ∧ t.ls = { s.ls with chainI := steps.foldl ChainSt.after st }
        ∧ (∀ q, X t q = X s q) ∧ (∀ q, F t q = F s q) ∧ Bytes (s1.flush s1.cur) t ∧ Next s t)

/-- In an L firing with no active repetition and registers ready: when the fields of X[b] are legal (COPY), or the tile descriptor at X[b] is
read and admitted (CTILE), the pointers, tags, counts, alignment and ranges pass their checks, the batch holds fewer than 256 commands, a
completion slot is free where the command has a completion of its own, the dealer has no waiting command, the scoreboard room and the core
no service write or row under way, the instruction completes: its command is accepted with the next sequence number, last of the dealer
and in the firing's open batch, its completion is owed, the core's stores are performed and nothing else changes. Reserved bits or values
of X[b] take RESERVED_FIELD; a failed check of the pointers, tags or ranges takes its own cause; a descriptor that is not admitted
COPY_RANGE; a full batch BATCH_OVERFLOW with 256, a full completion area BATCH_OVERFLOW with 16; an H firing HIGH_CONTEXT_ILLEGAL. (The
model's own choices here: notes/assumptions/53.md, notes/assumptions/75.md.) (10_copies_rings.md R196, 10_copies_rings.md R197,
10_copies_rings.md R198, 10_copies_rings.md R199, 10_copies_rings.md R200, 10_copies_rings.md R202.) -/
def Obligations.CopyCommands : Prop :=
  ∀ (s : State) (rnd : BitVec 3) (a b d : BitVec 5), Idle s →
    (s.me.inH = true → ∀ i, i ∈ [Instr.copy rnd a b d, .ctile rnd a b d] →
      exec i s = .next (s.takeTrap .highContextIllegal ((encode i).setWidth 64) 0))
    ∧ (s.me.inH = false → Ready s [xr a, xr b, xr d] [] →
      let v := (X s b).toNat
      let hdl := v / 2 ^ 36 % 2 ^ 12
      let crc := decide (v / 2 ^ 32 % 2 = 1)
      let legal := v < 2 ^ 48 ∧ v / 2 ^ 34 % 4 = 0 ∧ (hdl = 0 ∨ 16 ≤ hdl)
      let c : DCmd := {
        kind := 1, org := s.org, src := X s a, dst := X s d, cnt := v % 2 ^ 32, rnd := rnd.toNat, crc := crc, hdl := hdl,
        own := crc || decide (v / 2 ^ 33 % 2 = 1) || decide (hdl ≠ 0) }
      let issues := fun (i : Instr) (s : State) (c : DCmd) (s0 : State) =>
        (c.own = true → s.me.caRoom = false → exec i s0 = .next (s0.takeTrap .batchOverflow 16 0))
        ∧ ((c.own = true → s.me.caRoom = true) → 256 ≤ s.ls.batchSize → exec i s0 = .next (s0.takeTrap .batchOverflow 256 0))
        ∧ ((c.own = true → s.me.caRoom = true) → s.ls.batchSize < 256 → (∀ x ∈ (s.clusterAt (s.cur / 8)).dealer, x.accepted = true) →
          (s.clusterAt (s.cur / 8)).score.length + 1 ≤ 32 → Settled s → Runs i s0 fun t => Accepted s t c)
      (¬ legal → exec (.copy rnd a b d) s = .next (s.takeTrap .reservedField (X s b) 0))
      ∧ (legal → ∀ x tv, s.copyCheck c (X s b) ((encode (.copy rnd a b d)).setWidth 64) = some (x, tv) →
        exec (.copy rnd a b d) s = .next (s.takeTrap x tv 0))
      ∧ (legal → tagOk (X s a) = false → exec (.copy rnd a b d) s = .next (s.takeTrap .formatReserved (X s a) 0))
      ∧ (legal → Sound (X s a) → Sound (X s d) → rnd ≠ 5 → ¬ Convertible (X s a) (X s d) rnd.toNat true →
        exec (.copy rnd a b d) s = .next (s.takeTrap .copyConversion (BitVec.ofNat 64 (tagOf (X s a) * 256 + tagOf (X s d))) 0))
      ∧ (legal → CopySound s c → issues (.copy rnd a b d) s c s)
      ∧ (tagOk (X s b) = true → canonical (X s b) = true → (X s b).toNat % 32 = 0 → (X s b).toNat % 2 ^ 48 < 0xFFFFF0000000 →
        ∀ bs s1, readNow (X s b) 32 s = .ok (bs, s1) →
          let ws := wordsOf bs
          let c : DCmd := { kind := 2, org := s1.org, src := X s a, dst := X s d, rnd := rnd.toNat, desc := ws, own := true }
          (tileOk ws (elemSize (tagOf (X s a))) (elemSize (tagOf (X s d))) = false →
            exec (.ctile rnd a b d) s = .next (s.takeTrap .copyRange (X s b) 0))
          ∧ (tileOk ws (elemSize (tagOf (X s a))) (elemSize (tagOf (X s d))) = true → CopySound s1 c → issues (.ctile rnd a b d) s1 c s)))

/-- In an L firing with no active repetition and registers ready: SEAL with a free completion slot reserves it, seals the open batch with its
count of commands under the next batch number, writes that number and starts a new batch; without one it takes BATCH_OVERFLOW with 16.
When no placed batch completion of the firing reports a fault, TESTB takes them all away, writes the number of sealed batches not yet
complete and goes on, and WAITB in a launch firing takes them away and completes when at most X[a] sealed batches are not complete; with
none placed they change nothing else. When the first reports a fault, it is taken away and its cause is taken with its value. WAITB in a
handler firing takes BLOCKING_IN_HANDLER; in an H firing each takes HIGH_CONTEXT_ILLEGAL. In an L firing with no active repetition, the
destination writable, the launch's schedule and its entries read and a completion slot free: CSTAGE puts one command for every entry of
the stage after the current one that is for its rank or for all ranks at the end of the dealer, in entry order and not yet accepted, in
one sealed batch that counts them, reserves the batch's slot, adds one to the stage and to the batch number, and writes the number times
2^32 plus the new stage. With no schedule, or at its last stage, it takes STAGE_OVERRUN with the stage it would have run; without a
completion slot BATCH_OVERFLOW with 16; in an H firing HIGH_CONTEXT_ILLEGAL. (The model's own choices here: notes/assumptions/30.md,
notes/assumptions/31.md, notes/assumptions/32.md.) (10_copies_rings.md R202, 10_copies_rings.md R203, 10_copies_rings.md R204.) -/
def Obligations.BatchForms : Prop :=
  (∀ (s : State) (a d : BitVec 5), Idle s →
    let f := s.fir.fid
    let done := s.me.batchesDone f
    let open' := (s.me.unplaced f).length
    let bad := fun (m : Msg) => (m.words.getD 2 0).toNat / 2 ^ 8 % 2 = 1
    let passed := fun (t : State) => (∀ m ∈ done, ∀ x ∈ t.me.ca, x.msg.map (·.ord) ≠ some m.ord)
      ∧ (done ≠ [] → Acquired s t) ∧ (done = [] → { t.ls with v := s.ls.v } = s.ls)
    (s.me.inH = true → ∀ i, i ∈ [Instr.sealB d, .waitb a, .testb a d] →
      exec i s = .next (s.takeTrap .highContextIllegal ((encode i).setWidth 64) 0))
    ∧ (s.me.inH = false → s.fir.kind ≠ 0 → exec (.waitb a) s = .next (s.takeTrap .blockingInHandler ((encode (.waitb a)).setWidth 64) 0))
    ∧ (s.me.inH = false → Ready s [] [xr d] →
      (s.me.caRoom = false → exec (.sealB d) s = .next (s.takeTrap .batchOverflow 16 0))
      ∧ (s.me.caRoom = true → Runs (.sealB d) s fun t => X t d = (if d = 0 then 0 else s.ls.seals.setWidth 64)
        ∧ (∀ r, r ≠ d → X t r = X s r) ∧ (∀ r, F t r = F s r) ∧ t.ls = { s.ls with seals := s.ls.seals + 1, batchSize := 0 }
        ∧ (∃ slot, t.me.ca = s.me.ca ++ [{ id := slot, fid := f }] ∧ ∃ b ∈ t.me.batches, b.fid = f ∧ b.isSealed = true ∧ b.id = slot
          ∧ b.num = s.ls.seals.toNat ∧ b.count = s.ls.batchSize ∧ ∀ o, s.me.batches.find? (fun x => x.fid == f && !x.isSealed) = some o → b.bid = o.bid)
        ∧ Turn.act (.batchDone s.cur) ∈ t.turns ∧ Bytes s t ∧ Next s t))
    ∧ (s.me.inH = false → (∀ m ∈ done, ¬ bad m) →
      (Ready s [xr a] [xr d] → Runs (.testb a d) s fun t => Answers0 s d (BitVec.ofNat 64 open') t ∧ passed t ∧ Bytes s t)
      ∧ (Ready s [xr a] [] → s.fir.kind = 0 → open' ≤ (X s a).toNat → Runs (.waitb a) s fun t => Regs0 s t [] 0 ∧ passed t ∧ Bytes s t ∧ Next s t))
    ∧ (s.me.inH = false → Ready s [xr a] [xr d] → ∀ m ms, done = m :: ms → bad m → ∀ c, Cause.ofCode ((m.words.getD 2 0).toNat % 2 ^ 8) = some c →
      let trapped := fun (i : Instr) => ∃ s', exec i s = .next (s'.takeTrap c (m.words.getD 3 0) 0)
        ∧ (∀ x ∈ s'.me.ca, x.msg.map (·.ord) ≠ some m.ord) ∧ Regs0 s s' [] 0 ∧ s'.ctx.pc = s.ctx.pc ∧ Bytes s s'
      trapped (.testb a d) ∧ (s.fir.kind = 0 → trapped (.waitb a))))
  ∧ (∀ (s : State) (d : BitVec 5), Idle s →
    let p := (s.launchAt s.grp.launch).sched
    let n := s.ls.stage + 1
    let i := Instr.cstage d
    (s.me.inH = true → exec i s = .next (s.takeTrap .highContextIllegal ((encode i).setWidth 64) 0))
    ∧ (s.me.inH = false → Ready s [] [xr d] →
      (p = 0 → exec i s = .next (s.takeTrap .stageOverrun (BitVec.ofNat 64 n) 0))
      ∧ ∀ hd s1, p ≠ 0 → dealerRead p 32 s = .ok (hd, s1) →
        let h := (hd.getD 0 0).toNat
        (s.ls.stage = h / 2 ^ 16 % 2 ^ 12 → exec i s = .next (s.takeTrap .stageOverrun (BitVec.ofNat 64 n) 0))
        ∧ ∀ ws s2, s.ls.stage ≠ h / 2 ^ 16 % 2 ^ 12 → dealerRead (ptrAdd p 32) (32 * (h % 2 ^ 12)) s1 = .ok (ws, s2) →
          let rank := ((s2.groupAt s2.fir.gid).cores.findIdx? (fun k => k == s2.cur)).getD 0
          let mine := (pieces 4 (h % 2 ^ 12) ws).zipIdx.filter fun e =>
            let w3 := (e.1.getD 3 0).toNat
            decide (w3 % 2 ^ 12 = n) && (decide (w3 / 2 ^ 12 % 16 = 15) || decide (w3 / 2 ^ 12 % 16 = rank))
          let num := s2.ls.seals.toNat
          (s2.me.caRoom = false → exec i s = .next (s.takeTrap .batchOverflow 16 0))
          ∧ (s2.me.caRoom = true → Runs i s fun t => ∃ slot bid ids,
            ids.length = mine.length
            ∧ (t.clusterAt (s.cur / 8)).dealer = (s2.clusterAt (s.cur / 8)).dealer ++ ((mine.zipIdx).zip ids).map (fun e =>
              { s2.entryCmd e.1.1.1 e.1.1.2 (ptrAdd p ((32 * (e.1.1.2 + 1) : Nat) : Int)) with id := e.2, batch := bid, place := e.1.2 })
            ∧ t.me.ca = s2.me.ca ++ [{ id := slot, fid := s.fir.fid }]
            ∧ (∃ b ∈ t.me.batches, b.bid = bid ∧ b.fid = s.fir.fid ∧ b.isSealed = true ∧ b.id = slot ∧ b.num = num ∧ b.count = mine.length)
            ∧ t.ls = { s2.ls with stage := n, seals := s2.ls.seals + 1 } ∧ X t d = (if d = 0 then 0 else BitVec.ofNat 64 (num * 2 ^ 32 + n))
            ∧ (∀ r, r ≠ d → X t r = X s r) ∧ (∀ r, F t r = F s r) ∧ Bytes s2 t ∧ Next s t)))

/-- In an L firing with no active repetition and registers ready, a ring number that the group does not have takes RING_UNALLOTTED in each of
them. RCFG of a ring that is not configured, with a legal word, a sound pointer aligned to 64 bytes and slots that lie in the own
allotment, makes every slot free and both indices 0; a configured one takes RING_STATE, reserved bits RESERVED_FIELD, a slot size of 0
RING_SLOT_SIZE. RFREE of a configured ring with no subscription and no slot filling or reading clears its configuration. RPUSH, its writes
to the slot it fills performed, makes that slot full and takes the free slot at f to fill; RPOP makes the slot it reads free and takes the
full slot at r, answering its address, or all ones when that slot is not full. RSTAT writes the state word, 0 for a ring that is not
configured. Nothing else changes. In an L firing with no active repetition and registers ready, for a configured ring with no subscription
or drain (and, for SUBS, no slot that a core fills), legal tiling bits, a tensor descriptor that is read and admitted, a tile that fills a
slot exactly, a free completion slot and no service write or row of the core under way: SUBS, with the tiling word of X[b], and DRAIN,
with that of the descriptor, record the subscription or drain with its number of tiles under the reserved slot, perform the core's own
stores and owe the first tile; no register changes. A ring in use takes RING_STATE, reserved tiling bits RESERVED_FIELD, a descriptor that
is not admitted SUBSCRIPTION_INVALID, a tile of another size RING_SLOT_SIZE. UNSUBS of a ring with no subscription, or with a drain,
changes nothing; of a subscription that moves no tile it ends it and retires its scoreboard entries; of one that moves a tile it marks it
ending and waits at its own pc. (10_copies_rings.md R207, 10_copies_rings.md R208, 10_copies_rings.md R210, 10_copies_rings.md R211,
10_copies_rings.md R212, 10_copies_rings.md R213, 10_copies_rings.md R214, 10_copies_rings.md R215, 10_copies_rings.md R216.) -/
def Obligations.RingForms : Prop :=
  (∀ (s : State) (eb2 eb1 : BitVec 1) (b a d : BitVec 5), Idle s →
    let all : List (Instr × BitVec 5) := [(.rcfg eb2 eb1 b a d, d), (.rfree d, d), (.rpush d, d), (.rpop a d, a), (.rstatRing a d, a)]
    let holder := s.cur + 1000
    let held := fun (r : Ring) (st k : Nat) => k < r.cnt ∧ r.slots.getD k {} = { st := st, holder := holder }
      ∧ ∀ j, j < k → r.slots.getD j {} ≠ { st := st, holder := holder }
    let none' := fun (r : Ring) (st : Nat) => ∀ j, j < r.cnt → r.slots.getD j {} ≠ { st := st, holder := holder }
    (s.me.inH = true → ∀ i k, (i, k) ∈ all → exec i s = .next (s.takeTrap .highContextIllegal ((encode i).setWidth 64) 0))
    ∧ (s.me.inH = false → Ready s [xr a, xr b] [xr d] → ∀ i k, (i, k) ∈ all → s.ringOf s.fir.gid k.toNat = none →
      exec i s = .next (s.takeTrap .ringUnallotted (BitVec.ofNat 64 k.toNat) 0))
    ∧ (s.me.inH = false → Ready s [xr a, xr b] [] → ∀ n r, s.ringOf s.fir.gid d.toNat = some (n, r) →
      let p := X s a
      let v := (X s b).toNat
      let sz := v % 2 ^ 14
      let cnt := v / 2 ^ 16 % 2 ^ 6 + 1
      let legal := v < 2 ^ 22 ∧ v / 2 ^ 14 % 4 = 0
      let off := p.toNat % 2 ^ 48 - 0xFFFFE0000000
      (r.cfg = true → exec (.rcfg eb2 eb1 b a d) s = .next (s.takeTrap .ringState (BitVec.ofNat 64 d.toNat) 0))
      ∧ (r.cfg = false → ¬ legal → exec (.rcfg eb2 eb1 b a d) s = .next (s.takeTrap .reservedField (X s b) 0))
      ∧ (r.cfg = false → legal → sz = 0 → exec (.rcfg eb2 eb1 b a d) s = .next (s.takeTrap .ringSlotSize (X s b) 0))
      ∧ (r.cfg = false → legal → sz ≠ 0 → sz < 8192 → Sound p → p.toNat % 64 = 0 → 0xFFFFE0000000 ≤ p.toNat % 2 ^ 48 →
        p.toNat % 2 ^ 48 < 0xFFFFE0080000 → sz * 64 * cnt ≤ 0x80000 → s.grp.holds off (sz * 64 * cnt) = true →
        Runs (.rcfg eb2 eb1 b a d) s fun t => SetsRing s t n
          { r with cfg := true, base := p, size := 64 * sz, cnt := cnt, f := 0, r := 0, slots := List.replicate cnt {} }))
    ∧ (s.me.inH = false → ∀ n r, s.ringOf s.fir.gid d.toNat = some (n, r) → r.cfg = true →
      (r.sub = none → (∀ x ∈ r.slots, x.st ≠ 1 ∧ x.st ≠ 3) → Runs (.rfree d) s fun t => SetsRing s t n { owner := r.owner })
      ∧ (r.sub ≠ none ∨ (∃ x ∈ r.slots, x.st = 1 ∨ x.st = 3) → exec (.rfree d) s = .next (s.takeTrap .ringState (BitVec.ofNat 64 d.toNat) 0))
      ∧ ((∃ x, r.sub = some x ∧ x.out = false) → exec (.rpush d) s = .next (s.takeTrap .ringState (BitVec.ofNat 64 d.toNat) 0))
      ∧ ((∀ x, r.sub = some x → x.out = true) → ∀ r1,
        ((none' r 1 ∧ r1 = r) ∨ ∃ k, held r 1 k ∧ s.slotQuiet s.cur (r.slotOff k) (r.slotOff k + r.size) = true ∧ r1 = r.setSlot k 2 0) →
        Runs (.rpush d) s fun t => SetsRing s t n (if (r1.slots.getD r1.f {}).st = 0
          then { r1.setSlot r1.f 1 holder with f := (r1.f + 1) % r1.cnt } else r1)))
    ∧ (s.me.inH = false → Ready s [] [xr d] → ∀ n r, s.ringOf s.fir.gid a.toNat = some (n, r) →
      (r.cfg = true → (∃ x, r.sub = some x ∧ x.out = true) → exec (.rpop a d) s = .next (s.takeTrap .ringState (BitVec.ofNat 64 a.toNat) 0))
      ∧ (r.cfg = true → (∀ x, r.sub = some x → x.out = false) → ∀ r1,
        ((none' r 3 ∧ r1 = r) ∨ ∃ k, held r 3 k ∧ r1 = r.setSlot k 0 0) →
        let full := (r1.slots.getD r1.r {}).st = 2
        Runs (.rpop a d) s fun t => X t d = (if d = 0 then 0 else if full then ptrAdd r.base ((r.r * r.size : Nat) : Int) else BitVec.allOnes 64)
          ∧ (t.clusterAt (s.cur / 8)).rings = Tab.set (s.clusterAt (s.cur / 8)).rings n
            (if full then { r1.setSlot r1.r 3 holder with r := (r1.r + 1) % r1.cnt } else r1)
          ∧ Regs s t [xr d] 0 ∧ Bytes s t ∧ Next s t)
      ∧ (r.cfg = false → Runs (.rstatRing a d) s (SetsX s d 0 (s.ctx.pc + 4)))
      ∧ (r.cfg = true →
        let count := fun (st : Nat) => (r.slots.filter fun x => x.st == st).length
        let bit := fun (b : Bool) (i : Nat) => if b then 2 ^ i else 0
        Runs (.rstatRing a d) s (SetsX s d (BitVec.ofNat 64 (r.f * 2 ^ 52 + r.r * 2 ^ 46 + count 2 * 2 ^ 39 + count 0 * 2 ^ 32
          + bit (match r.sub with | some x => !x.out | none => false) 27 + bit (match r.sub with | some x => x.out | none => false) 26
          + bit (r.heldBy 1 holder).isSome 25 + bit (r.heldBy 3 holder).isSome 24 + (r.heldBy 1 holder).getD 0 * 2 ^ 18
          + (r.heldBy 3 holder).getD 0 * 2 ^ 12 + (r.cnt - 1) * 64 + 32)) (s.ctx.pc + 4)))))
  ∧ (∀ (s : State) (eb2 eb1 : BitVec 1) (b a d : BitVec 5), Idle s →
    let subs := Instr.subs eb2 eb1 b a d
    let drain := Instr.drain eb1 a d
    (s.me.inH = true → ∀ i, i ∈ [subs, drain, .unsubs d] → exec i s = .next (s.takeTrap .highContextIllegal ((encode i).setWidth 64) 0))
    ∧ (s.me.inH = false → Ready s [xr a, xr b] [] → ∀ i out, (i, out) ∈ [(subs, false), (drain, true)] →
      let p := X s a
      let tv := BitVec.ofNat 64 d.toNat
      (s.ringOf s.fir.gid d.toNat = none → exec i s = .next (s.takeTrap .ringUnallotted tv 0))
      ∧ ∀ n r, s.ringOf s.fir.gid d.toNat = some (n, r) → r.cfg = true →
        let busy := r.sub ≠ none ∨ (out = false ∧ ∃ x ∈ r.slots, x.st = 1 ∧ 1000 ≤ x.holder)
        (busy → exec i s = .next (s.takeTrap .ringState tv 0))
        ∧ (¬ busy → out = false → tilingBad false (X s b) = true → exec i s = .next (s.takeTrap .reservedField (X s b) 0))
        ∧ (¬ busy → (out = false → tilingBad false (X s b) = false) → tagOk p = true → canonical p = true → p.toNat % 32 = 0 →
          p.toNat % 2 ^ 48 < 0xFFFFF0000000 → ∀ bs s1, readNow p 32 s = .ok (bs, s1) →
          let ws := wordsOf bs
          let t := if out then ws.getD 3 0 else X s b
          let g := (ws.getD 0 0).toNat / 2 ^ 59
          let rows := t.toNat % 2 ^ 12 + 1
          let cols := t.toNat / 2 ^ 12 % 2 ^ 12 + 1
          let fits := rows * (if g = 11 then cols / 2 else cols * elemSize g) = r.size ∧ (g = 11 → cols % 2 = 0)
          (out = true → tilingBad true t = true → exec i s = .next (s.takeTrap .reservedField t 0))
          ∧ (tilingBad out t = false → s1.tensorBad ws t = true → exec i s = .next (s.takeTrap .subscriptionInvalid p 0))
          ∧ (tilingBad out t = false → s1.tensorBad ws t = false → ¬ fits → exec i s = .next (s.takeTrap .ringSlotSize tv 0))
          ∧ (tilingBad out t = false → s1.tensorBad ws t = false → fits → s1.me.caRoom = true → Settled s1 → Runs i s fun u => ∃ slot,
            (u.clusterAt (s.cur / 8)).rings = Tab.set (s1.clusterAt (s.cur / 8)).rings n
              { r with sub := some {
                  out := out, org := s1.org, id := slot, desc := ws, tiling := t,
                  total := tenRows ws / rows * (tenCols ws / cols) * (t.toNat / 2 ^ 32 % 2 ^ 8 + 1) } }
            ∧ u.me.ca = s1.me.ca ++ [{ id := slot, fid := s.fir.fid }]
            ∧ Turn.act (if out then .outlet (s.cur / 8) n else .spring (s.cur / 8) n) ∈ u.turns
            ∧ Regs s1 u [] 0 ∧ Bytes (s1.flush s.cur) u ∧ Next s u)))
    ∧ (s.me.inH = false → ∀ n r, s.ringOf s.fir.gid d.toNat = some (n, r) → r.cfg = true →
      (r.sub = none ∨ (∃ x, r.sub = some x ∧ x.out = true) → Runs (.unsubs d) s fun t => Keeps s t [] 0 ∧ Next s t)
      ∧ ∀ x, r.sub = some x → x.out = false →
        (x.busy = none → r = Tab.get (s.clusterAt (s.cur / 8)).rings n {} → Runs (.unsubs d) s fun t => Tab.get (t.clusterAt (s.cur / 8)).rings n {} = { r with sub := none }
          ∧ (∀ e ∈ (t.clusterAt (s.cur / 8)).score, e.id ≠ x.id) ∧ Bytes s t ∧ t.me.instret = s.me.instret + 1)
        ∧ (x.busy ≠ none → Runs (.unsubs d) s fun t => (t.clusterAt (s.cur / 8)).rings = Tab.set (s.clusterAt (s.cur / 8)).rings n
            { r with sub := some { x with ending := true } } ∧ t.ctx.pc = s.ctx.pc ∧ Regs s t [] 0 ∧ Bytes s t)))

/-- REGISTER_LANDING of a register whose oldest complete producer feeds no push gives the register its value, makes it full, raises the flags
and takes the producer away. REPEAT_INSTANCE_ISSUE of an active repetition whose firing may move, with its words fetched, no cause
waiting, no step and no matching breakpoint, carries out the instance's instruction, counts it, and moves on to the next word, the next
iteration, or the end, at which its pushes are ordered before later stores. STREAM_PREFETCH of a port with room adds the item formed at
the next position and writes no byte. STREAM_PUSH_PERFORMED of a port whose oldest push has its value, with no command in flight and no
earlier service write or row of the core on its places and with the dies of its homes running, performs the core's own stores and then
writes the push's bytes in this package, and takes it away, or sends its writes to other packages and awaits them. IMPRECISE_CAUSE_RAISE
in a context that runs, with no request out, no cause being delivered, no page awaited and (for L) no H firing, raises the oldest waiting
cause. (02_instruction_words.md R44, 06_streams_repeat.md R119, 06_streams_repeat.md R121, 06_streams_repeat.md R128, 17_traps.md R313.) -/
def Obligations.CoreEvents : Prop :=
  (∀ (s : State) (k r : Nat) (h : Bool) (q : Pend), q.port = none →
      ((s.coreAt k).ctxAt h).pend.find? (fun p => p.reg == r && p.wait == 0) = some q →
      Runs (.registerLanding k h r) s fun t =>
        let x := (t.coreAt k).ctxAt h
        let x0 := (s.coreAt k).ctxAt h
        (r ≠ 0 → r < 256 → Tab.get x.x r 0 = BitVec.ofNat 64 q.val ∧ x.f = x0.f ∧ (t.coreAt k).ls = (s.coreAt k).ls)
          ∧ (256 ≤ r → r < 512 → Tab.get x.f (r - 256) 0 = BitVec.ofNat 64 q.val ∧ x.x = x0.x ∧ (t.coreAt k).ls = (s.coreAt k).ls)
          ∧ (512 ≤ r → Tab.get (t.coreAt k).ls.v (r % 256) 0 = BitVec.ofNat 256 q.val ∧ x.x = x0.x ∧ x.f = x0.f)
          ∧ (r ≠ 0 → r ∉ x.empty) ∧ x.fcsr = x0.fcsr ||| BitVec.ofNat 8 (q.fl % 32) ∧ x.pend = x0.pend.filter (·.id != q.id) ∧ x.pc = x0.pc ∧ Bytes s t)
    ∧ (∀ (s s1 : State) (k : Nat) (i : Instr) (m : M Unit),
      let c := s.coreAt k
      let r := c.ls.rep
      let rep := (s1.coreAt k).ls.rep
      let next := if rep.pos + 1 < rep.len then { rep with pos := rep.pos + 1 }
        else if rep.iter + 1 < rep.count then { rep with pos := 0, iter := rep.iter + 1 } else {}
      s.lMoves k = true → r.count ≠ 0 → r.words ≠ [] → c.l.causes = [] → c.step = 0 → s.breaks k (r.body + BitVec.ofNat 64 (4 * r.pos)) = false →
      decodeBody (r.words.getD r.pos 0) = .ok i → bodyEffect i = some m → m (({ s with cur := k } : State).modLs fun l => { l with rep := r }) = .ok ((), s1) →
      s1.cur = k → Runs (.repeatInstanceIssue k) s fun t => t.cur = s.cur ∧ Bytes s1 t
        ∧ (let d : Core := { s1.coreAt k with instret := (s1.coreAt k).instret + 1, ls := { (s1.coreAt k).ls with rep := next } }
          { t.coreAt k with dirty := [] } = { (if next.count = 0 then d.repeated else d) with dirty := [] })
        ∧ (next.count ≠ 0 → Turn.act (.rep k) ∈ t.turns))
    ∧ (∀ (s s1 : State) (k i : Nat) (it : PreItem), (s.coreAt k).mayPrefetch i = true →
      let p := Tab.get (s.coreAt k).ls.ports i {}
      State.formItem { s with cur := k } i (s.lOrg k) p (p.pos + p.pre.length) = .got it s1 →
      Runs (.streamPrefetch k i) s fun t => t.cur = s.cur ∧ Tab.get (t.coreAt k).ls.ports i {} = { Tab.get (s1.coreAt k).ls.ports i {} with pre := p.pre ++ [it], stuck := none } ∧ Bytes s1 t
        ∧ (t.coreAt k).l = (s1.coreAt k).l)
    ∧ (∀ (s : State) (k i : Nat) (q : Push) (rest : List Push),
      let p := Tab.get (s.coreAt k).ls.ports i {}
      p.pushes = q :: rest → q.gone = false → q.pend = none → (∀ sp ∈ q.spots, s.stalled sp q.unit true = false ∧ s.served k sp q.unit = false) →
      (∀ d ∈ q.dests, s.destWaits k d = none) →
      Runs (.streamPushPerformed k i) s fun t => Tab.get (t.coreAt k).ls.ports i {}
          = { p with pushes := (if q.abroad = [] then rest else { q with gone := true } :: rest), stuck := none }
        ∧ Bytes ((s.flush k).applyAll q.dests) t ∧ (t.coreAt k).l = (s.coreAt k).l)
    ∧ ∀ (s : State) (k : Nat) (h : Bool) (c : Cause) (tv : Word) (rest : List (Cause × Word)),
      let x := (s.coreAt k).ctxAt h
      x.causes = (c, tv) :: rest → x.fir.active = true → x.aw.busy = false → (s.coreAt k).faultDue = none → (s.coreAt k).pageWait = none →
      (h = false → (s.coreAt k).h.fir.active = false) →
      let s1 := (s.modCtxAt k h fun x => { x with causes := rest }).modCore k fun c => if h then c else c.touch [7]
      exec (.impreciseCauseRaise k h) s = .next (if h then s1.raiseH k c tv else s1.raiseL k c tv 0 false)

/-- When the H queue of a core holds a message, its H context is free, it is in no single step and waits for no page and for no firing slot,
its work is not stopped and its egress can reserve the handler's production bound, H_FIRING_START, and FIRING_START as its first choice,
take the oldest message of the queue and start its handler in the H context. Otherwise, with both contexts free, no step, no cause being
delivered and no parked firing due first, FIRING_START starts the oldest handler of the L queue whose consumption count is met, or one a
completion names, in the L context, and else the launch firing that is due. A handler firing begins at its entry's pc with x9 the header
and x10 to x15 the first six argument words, every other register zero, full and with no flag, its messages gone from the queues, their
words in the message window, the L1 discarded and its production bound reserved. A launch firing begins at the group's entry in the
group's job, unprivileged. (The model's own choices here: notes/assumptions/90.md.) (08_messages.md R161, 08_messages.md R165,
08_messages.md R166, 08_messages.md R167, 16_remote.md R302.) -/
def Obligations.FiringStarts : Prop :=
  ∀ (s : State) (k : Nat),
    let c := s.coreAt k
    let began := fun (x : Ctx) (ms : List Msg) (m : Msg) => x.pc = BitVec.ofNat 64 (entPc m.entry.toNat) ∧ x.empty = [] ∧ x.fcsr = 0 ∧ x.f = [] ∧ x.pend = []
      ∧ (∀ i, Tab.get x.x i 0 = if 9 ≤ i ∧ i ≤ 15 then m.words.getD (i - 9) 0 else 0)
      ∧ x.fir.active = true ∧ x.fir.kind = 1 ∧ x.fir.sup = m.sup ∧ x.fir.hidx = m.hdl ∧ x.fir.nmsg = ms.length ∧ x.fir.job = m.job
      ∧ x.fir.prod = entProd m.entry.toNat ∧ x.fir.resv = entProd m.entry.toNat
    let window := fun (t : State) (base : Nat) (ms : List Msg) => ∀ i j m, ms[i]? = some m → i < 8 → j < 8 → (∀ x ∈ ms, x.words.length = 8) →
      t.numAt (.priv k (base + 64 * i + 8 * j)) 8 = (m.words.getD j 0).toNat
    let hReady := fun (m : Msg) => c.h.fir.active = false ∧ c.pageWait = none ∧ c.fifthFault = false ∧ s.lStopped k = false ∧ c.step = 0 ∧ s.egressFits k true (entProd m.entry.toNat) = true
    let idle := c.hq = [] ∧ c.h.fir.active = false ∧ c.l.fir.active = false ∧ s.lStopped k = false ∧ c.step = 0 ∧ c.faultDue = none ∧ c.pageWait = none
      ∧ s.dueFiring k = none
    (∀ m rest, c.hq = m :: rest → hReady m → ∀ i, i ∈ [Instr.hFiringStart k, .firingStart k] → Runs i s fun t =>
        began (t.coreAt k).h [m] m ∧ window t 0xA00 [m] ∧ (t.coreAt k).hq = c.hq.filter (fun x => x.ord != m.ord) ∧ (t.coreAt k).l1 = []
          ∧ (t.coreAt k).l = { c.l with wfm := true })
      ∧ (idle → ∀ r m rest, oldest c.readyHandlers = some r → r.msgs = m :: rest → s.egressFits k false (entProd m.entry.toNat) = true →
        Runs (.firingStart k) s fun t => began (t.coreAt k).l r.msgs m ∧ window t 0x800 r.msgs ∧ (t.coreAt k).l1 = [] ∧ (t.coreAt k).h = c.h
          ∧ (∀ x ∈ (t.coreAt k).lq, ∀ y ∈ r.msgs, x.ord ≠ y.ord) ∧ (t.coreAt k).ls.v = [] ∧ (t.coreAt k).ls.ports = [])
      ∧ (idle → oldest c.readyHandlers = none → ∀ g, c.launchDue = some g →
        let e := (s.groupAt g).entry.toNat
        s.egressFits k false (entProd e) = true → Runs (.firingStart k) s fun t =>
          let x := (t.coreAt k).l
          (t.coreAt k).launchDue = none ∧ x.pc = BitVec.ofNat 64 (entPc e) ∧ x.empty = [] ∧ x.fcsr = 0 ∧ x.fir.active = true ∧ x.fir.kind = 0
            ∧ x.fir.sup = false ∧ x.fir.gid = g ∧ x.fir.job = (s.groupAt g).job ∧ x.fir.part = (s.groupAt g).part ∧ x.fir.resv = entProd e
            ∧ ((s.launchAt (s.groupAt g).launch).inv = none → x.x = []) ∧ (t.coreAt k).h = c.h ∧ (t.coreAt k).ls.v = [] ∧ (t.coreAt k).ls.ports = [])

/-- MESSAGE_VALIDATION of a message that no earlier one of its sender still precedes, whose target group and registered entry are found, gives
it its core, group, entry and place in the order of arrival and owes its placement; when they are not found the message is gone and, for a
sender of this package, an error reply with the cause and the target word is owed, for one of another package its acknowledgement with the
cause is sent. MESSAGE_PLACEMENT of the oldest validated message of its queue, with room there and the group still bound to the core (or a
supervisor message), takes it off the wire and puts it, as sent and with its entry's image, last in the L or H queue its priority names,
with the entry that a waiting WFM finds, and leaves everything else of that core as it is; when the group has gone it is discarded.
ERROR_REPLY_ARRIVAL takes the reply away and adds its cause last to the pending causes of the firing it answers, when that firing still
runs there with fewer than four and no push of a killed firing awaits the failed producer; a failed producer is taken away and its
register stays empty. No byte of memory and no register changes. (02_instruction_words.md R46, 08_messages.md R160, 08_messages.md R161,
08_messages.md R162, 08_messages.md R163.) -/
def Obligations.MessageEvents : Prop :=
  (∀ (s : State) (id : Nat) (f : Flight), Tab.find? s.flights id = some f → f.st = 0 → f.pkg = none →
      s.flightAwaited f = false → (∀ e ∈ s.flights, flightBefore e (id, f) = false) →
      (∀ k g e, s.flightTarget f = .ok (k, g) → s.flightEntry f k g = .ok e → Runs (.messageValidation id) s fun t =>
          Tab.find? t.flights id = some { f with st := 1, dst := k, gid := g, entry := BitVec.ofNat 64 e, ord := s.nextId }
            ∧ t.turns = s.turns ++ [.act (.place id)] ∧ t.cores = s.cores ∧ Bytes s t)
        ∧ ∀ c, ((s.flightTarget f = .error c) ∨ ∃ k g, s.flightTarget f = .ok (k, g) ∧ s.flightEntry f k g = .error c) →
          Runs (.messageValidation id) s fun t => Tab.find? t.flights id = none ∧ t.cores = s.cores ∧ Bytes s t
            ∧ (f.spkg = none → ∃ n, Tab.find? t.errs n = some { org := f.org, cause := c, tval := f.tval, send := true } ∧ Turn.act (.errRep n) ∈ t.turns)
            ∧ (f.spkg ≠ none → t.errs = s.errs ∧ ∃ n, t.acksOut = s.acksOut ++ List.replicate (1 + n) (s.ackWords f.env c.code [])))
    ∧ (∀ (s : State) (id : Nat) (f : Flight), Tab.find? s.flights id = some f → f.st = 1 → s.savedBox f = none → s.clusterIn f.org.part (f.dst / 8) = true →
      (∀ e ∈ s.flights, e.2.st = 1 → e.2.dst = f.dst → e.2.gid = f.gid → e.2.pri = f.pri → f.ord ≤ e.2.ord) →
      let c := s.coreAt f.dst
      let q := fun (c : Core) => if f.pri then c.hq else c.lq
      (q c).length < (if f.pri then Config.hSlots else Config.lSlots) →
      let m : Msg := { words := f.words, entry := f.entry, hdl := f.hdl, sup := f.sup, job := f.org.job, gid := f.gid, fid := f.org.fid, ord := s.nextId }
      (f.sup = true ∨ c.bound = some f.gid → Runs (.messagePlacement id) s fun t => Tab.find? t.flights id = none ∧ Bytes s t
          ∧ t.coreAt f.dst = (if f.pri then { c with hq := c.hq ++ [m], h := { c.h with wfm := true } }
            else { c with lq := c.lq ++ [m], l := { c.l with wfm := true } })
          ∧ (∀ k, k ≠ f.dst → t.coreAt k = s.coreAt k))
        ∧ (f.sup = false → c.bound ≠ some f.gid → Runs (.messagePlacement id) s fun t => Tab.find? t.flights id = none ∧ t.cores = s.cores ∧ Bytes s t
          ∧ t.errs = s.errs))
    ∧ ∀ (s : State) (id : Nat) (e : ErrRep), Tab.find? s.errs id = some e →
      let x := (s.coreAt e.org.k).ctxAt e.org.h
      x.fir.active = true → x.fir.fid = e.org.fid → x.causes.length < 4 → (∀ q, e.pend = some q → Unowed s q) → Runs (.errorReplyArrival id) s fun t =>
        let y := (t.coreAt e.org.k).ctxAt e.org.h
        Tab.find? t.errs id = none ∧ y.causes = x.causes ++ [(e.cause, e.tval)] ∧ y.x = x.x ∧ y.f = x.f ∧ y.empty = x.empty ∧ y.pc = x.pc
          ∧ y.pend = (match e.pend with | some q => x.pend.filter (·.id != q) | none => x.pend) ∧ Bytes s t
          ∧ { (t.coreAt e.org.k).ls with ports := [] } = { (s.coreAt e.org.k).ls with ports := [] } ∧ (∀ k, k ≠ e.org.k → t.coreAt k = s.coreAt k)
          ∧ (t.coreAt e.org.k).ctxAt (!e.org.h) = (s.coreAt e.org.k).ctxAt (!e.org.h)

/-- SERVICE_REQUEST, the oldest of its core to its cluster, joins the queue of the cluster's engine when the die still works and the bytes lie
in an allotment of its job; otherwise it is answered DIE_OFFLINE, or SCRATCH_RANGE (a waiting instruction) or SERVICE_RANGE.
ATOMIC_ENGINE_SERVE takes the next request of the queue, performs its operation at its place, and owes the answer: what was read, or the
cause. SERVICE_REPLY_ARRIVAL gives the answer to the instruction that waits, or adds the value to the register's producer, or takes the
producer away and adds the cause with its address. LEASE_GRANT puts a line that no cluster holds into a CAM with room, LEASE_EVICTION
drops the least recently used line of a full CAM, LEASE_RECALL takes a line from every CAM. QUEUE_ROW_PERFORMED, counted as an access of
the core and after the core's own stores, writes the row's 8 bytes and publishes it. ENGINE_WAKE and BARRIER_WAKE of a registered waiter
whose condition has come about make its sleeping instruction ask again. (The model's own choices here: notes/assumptions/27.md,
notes/assumptions/79.md.) (05_vector.md R110, 07_memory_ordering.md R152, 08_messages.md R170, 09_atomics_queues.md R177,
09_atomics_queues.md R178, 09_atomics_queues.md R179, 09_atomics_queues.md R189.) -/
def Obligations.ServiceEvents : Prop :=
  (∀ (s : State) (id : Nat) (v : Svc), Tab.find? s.svcs id = some v →
      let answered := fun (t : State) (w : Svc) => Tab.find? t.svcs id = some { w with st := 2 } ∧ Turn.act (.svcReply id) ∈ t.turns ∧ t.cores = s.cores
      (v.st = 0 → (∀ e ∈ s.svcs, e.1 < id → e.2.st = 0 → e.2.org.k = v.org.k → e.2.cl ≠ v.cl) →
        (s.dieLeft (v.cl / 64) = true → Runs (.serviceRequest id) s fun t => answered t { v with ok := false, cause := .dieOffline, reply := [] } ∧ Bytes s t)
          ∧ (s.dieLeft (v.cl / 64) = false → s.holderOf v.cl v.org.part v.org.job v.off v.ask.size = none → Runs (.serviceRequest id) s fun t =>
            answered t { v with ok := false, cause := if v.await then .scratchRange else .serviceRange, reply := [] } ∧ Bytes s t)
          ∧ (s.dieLeft (v.cl / 64) = false → s.holderOf v.cl v.org.part v.org.job v.off v.ask.size ≠ none → Runs (.serviceRequest id) s fun t =>
            (t.clusterAt v.cl).amoQ = (s.clusterAt v.cl).amoQ ++ [id] ∧ Tab.find? t.svcs id = some { v with st := 1, at_ := s.time.toNat }
              ∧ Turn.act (.serve v.cl) ∈ t.turns ∧ t.cores = s.cores ∧ Bytes s t))
      ∧ (s.nextIncoming v.cl = some (id, v) →
        let rest := (s.clusterAt v.cl).amoQ.filter (· != id)
        let s1 := s.modCluster v.cl fun c => { c with amoQ := rest }
        (∀ ws s2, s1.perform v.org v.va (.scratch v.cl v.off) v.ask = .ok (ws, s2) → Runs (.atomicEngineServe v.cl) s fun t =>
            Tab.find? t.svcs id = some { v with st := 2, ok := true, cause := .serviceRange, reply := ws } ∧ Turn.act (.svcReply id) ∈ t.turns
              ∧ (t.clusterAt v.cl).amoQ = (s2.clusterAt v.cl).amoQ ∧ t.cores = s2.cores ∧ Bytes s2 t)
          ∧ ∀ c tv, s1.perform v.org v.va (.scratch v.cl v.off) v.ask = .error (c, tv) → Runs (.atomicEngineServe v.cl) s fun t =>
            answered t { v with ok := false, cause := c, reply := [tv] } ∧ (t.clusterAt v.cl).amoQ = rest ∧ Bytes s t)
      ∧ (v.st = 2 → v.lost = false →
        let x := (s.coreAt v.org.k).ctxAt v.org.h
        let y := fun (t : State) => (t.coreAt v.org.k).ctxAt v.org.h
        (v.await = true → x.fir.fid = v.org.fid → x.aw = .sent id → Runs (.serviceReplyArrival id) s fun t => Tab.find? t.svcs id = none ∧ Bytes s t
            ∧ y t = { x with aw := if v.ok then (if v.reply = [] then .asleep else .replied true v.cause v.reply) else .replied false v.cause v.reply })
          ∧ (v.await = false → v.ok = true → v.batch = none → ∀ n q, v.pend = some n → x.pend.find? (·.id == n) = some q →
            let r := v.conv.of (leBytes v.ask.size (v.reply.getD 0 0).toNat)
            Runs (.serviceReplyArrival id) s fun t => Tab.find? t.svcs id = none ∧ Bytes s t ∧ (y t).x = x.x ∧ (y t).empty = x.empty
              ∧ (y t).pend.find? (·.id == n) = some { q with val := q.val + r.1, fl := q.fl ||| r.2, wait := q.wait - 1 }
              ∧ (q.wait ≤ 1 → Turn.act (.land v.org.k v.org.h q.reg) ∈ t.turns))
          ∧ (v.await = false → v.ok = false → v.batch = none → x.fir.active = true → x.fir.fid = v.org.fid → x.causes.length < 4 → (∀ n, v.pend = some n → Unowed s n) →
            Runs (.serviceReplyArrival id) s fun t => Tab.find? t.svcs id = none ∧ Bytes s t ∧ (y t).causes = x.causes ++ [(v.cause, v.va)]
              ∧ (y t).empty = x.empty ∧ (∀ n, v.pend = some n → ∀ q ∈ (y t).pend, q.id ≠ n))))
    ∧ (∀ (s : State) (cl line : Nat),
      let c := s.clusterAt cl
      ((∀ e ∈ s.clusters, line ∉ e.2.leases) → c.leases.length < Config.camLines →
        exec (.leaseGrant cl line true) s = .next (s.modCluster cl fun c => { c with leases := line :: c.leases }))
        ∧ exec (.leaseGrant cl line false) s = .next s
        ∧ (Config.camLines ≤ c.leases.length → exec (.leaseEviction cl) s = .next (s.modCluster cl fun c => { c with leases := c.leases.dropLast }))
        ∧ Runs (.leaseRecall line) s fun t => { t with clusters := s.clusters } = s
          ∧ (∀ n, (t.clusterAt n).leases = (s.clusterAt n).leases.filter (· != line)) ∧ Bytes s t)
    ∧ (∀ (s : State) (id : Nat) (r : RowWrite) (l : Loc), Tab.find? s.rows id = some r → r.done = false → r.live = true →
      (r.spot = .flat l ∨ ∃ cl off, r.spot = .far cl off ∧ l = .scratch cl off ∧ s.farBad r.org cl off 8 = none) →
      (∀ n a, l ≠ .remote n a ∧ r.hdr ≠ .remote n a) →
      s.stalled r.spot 8 true = false → (s.needsDie r.org.k r.spot false).filter (s.dieWaits r.org.k r.spot) = none →
      let m := (s.counted r.org { spot := r.spot, cnt := r.cnt } 8).flush r.org.k
      (∀ e ∈ s.rows, e.2.hdr = r.hdr → e.2.tkt = r.tkt → e.2.live = true → e.1 = id) →
      (∀ i j, i < 32 → j < 8 → r.hdr.plus i ≠ l.plus j) → r.tkt = m.wordAt r.hdr 1 % 2 ^ 32 →
      (∀ e ∈ s.rows, e.2.hdr = r.hdr → e.2.live = true → e.2.done = false) →
      Runs (.queueRowPerformed id) s fun t => (∀ i, i < 8 → t.byteAt (l.plus i) = byteOf r.val.toNat i) ∧ Tab.find? t.rows id = none
        ∧ t.wordAt r.hdr 1 = setBits (m.wordAt r.hdr 1) 0 32 (r.tkt + 1)
        ∧ (∀ l', (∀ i, i < 8 → l' ≠ l.plus i ∧ l' ≠ r.hdr.plus (8 + i)) → t.byteAt l' = m.byteAt l'))
    ∧ ∀ (s : State) (w : Waiter) (barrier : Bool), s.waiters.find? (fun x => x.k == w.k && x.h == w.h && (x.kind == 0) == barrier) = some w →
      s.waiterReady w = true → ((s.coreAt w.k).ctxAt w.h).fir.fid = w.fid → ((s.coreAt w.k).ctxAt w.h).aw = .asleep →
      Runs (if barrier then .barrierWake w.k w.h else .engineWake w.k w.h) s fun t => t.waiters = s.waiters.filter (· != w)
        ∧ (t.coreAt w.k).ctxAt w.h = { (s.coreAt w.k).ctxAt w.h with aw := .none } ∧ Bytes s t

/-- COMMAND_ACCEPTANCE, with room in the scoreboard, accepts the oldest waiting command of the dealer and owes its completion. COPY_COMPLETION
of an accepted command that no earlier command hides and that waits for no page and for no turn at its engine takes it out of the dealer
(said here of one without a handler of its own): after a whole copy memory is as the copy leaves it, and its own completion, if any,
reports no fault; a copy between equal formats of two disjoint ranges of the own scratch leaves the source's bytes in the destination and
every other byte as before; a failure that another agent reports ends it with that cause; a copy with writes to other packages sends them
and awaits them. BATCH_COMPLETION of the oldest sealed batch of a firing with no command left removes it and reports its number, its count
and its first fault. SCOREBOARD_RETIRE takes away the entries of a command that has ended. When the slot at the ring's fill index is free
(SPRING_TILE of a subscription) or the one at its read index full (OUTLET_TILE of a drain), tiles remain, the scoreboard has room and no
earlier command holds the slot, and the rows of the tile translate, with no stopped die and, for an outlet, no other package among them:
the bytes of the rows stand in the slot in row order, which is then full, or the bytes of the slot stand in the rows, and the slot is
free; every other byte stays as the counting of the accesses leaves it (R348). The count of tiles goes up by one; before the last tile the
next one is owed, and after the last the subscription is gone and its completion reports the count. (10_copies_rings.md R192,
10_copies_rings.md R193, 10_copies_rings.md R194, 10_copies_rings.md R199, 10_copies_rings.md R202, 10_copies_rings.md R205,
10_copies_rings.md R207, 10_copies_rings.md R215, 10_copies_rings.md R216.) -/
def Obligations.DealerEvents : Prop :=
  (∀ (s : State) (cl : Nat),
    let c := s.clusterAt cl
    (∀ d, c.dealer.find? (fun x => !x.accepted) = some d →
      (d.bad = none → c.score.length + 1 ≤ 32 → Runs (.commandAcceptance cl) s fun t =>
          (t.clusterAt cl).dealer = c.dealer.filter (fun x => x.id != d.id) ++ [{ d with accepted := true, since := s.time.toNat, seed := (s.partAt d.org.part).csr.seed }]
            ∧ (t.clusterAt cl).score = c.score ++ s.copyScore d ∧ Turn.act (.copyDone cl d.id) ∈ t.turns ∧ t.cores = s.cores ∧ Bytes s t)
        ∧ (d.bad ≠ none → c.score.length ≤ 32 → Runs (.commandAcceptance cl) s fun t =>
          (t.clusterAt cl).dealer = c.dealer.map (fun x => if x.id = d.id then { x with accepted := true } else x)
            ∧ Turn.act (.copyDone cl d.id) ∈ t.turns ∧ t.cores = s.cores ∧ Bytes s t))
    ∧ (∀ d, c.dealer.find? (fun x => x.id == d.id && x.accepted) = some d → d.page = none → d.moved = false → Unhindered s cl d.id →
      let o := d.org
      let word0 := BitVec.ofNat 64 (d.seq.toNat * 2 ^ 32 + d.kind)
      let gone := fun (t : State) => (∀ x ∈ (t.clusterAt cl).dealer, x.id ≠ d.id) ∧ Turn.act (.retire cl d.id) ∈ t.turns
      let tells := fun (t : State) (args : List Word) => d.own = true → Reserved s o d.id → Reported t o d.id d.kind args
      (d.own = true → d.hdl = 0) →
      (∀ x tv, d.bad = some (x, tv) → Runs (.copyCompletion cl d.id 0) s fun t => gone t ∧ Bytes s t
          ∧ (d.kind ≠ 2 → tells t [word0, BitVec.ofNat 64 (256 + x.code), tv, 0, 0]))
        ∧ (d.bad = none → ∀ err e, reportable err = some e → Runs (.copyCompletion cl d.id err) s fun t => gone t
          ∧ (d.kind ≠ 2 → ∃ tv, tells t [word0, BitVec.ofNat 64 (256 + e.code), tv, 0, 0]))
        ∧ (d.bad = none → s.dealerHeld cl d = false → ∀ bs todo s1,
          (s.modCluster cl fun y => { y with amoDeal := none }).runCopy cl d = .done bs todo s1 → (todo = [] → Runs (.copyCompletion cl d.id 0) s fun t => gone t ∧ Bytes s1 t
          ∧ (d.kind ≠ 2 → tells t [word0, 0, if d.crc then BitVec.ofNat 64 (if bs = [] then 0 else crc32c bs) else 0, 0, 0]))
          ∧ (todo ≠ [] → Runs (.copyCompletion cl d.id 0) s fun t => Bytes s1 t ∧ Turn.act (.copyDone cl d.id) ∈ t.turns
            ∧ ∃ x ∈ (t.clusterAt cl).dealer, x.id = d.id ∧ x.moved = true))
        ∧ (d.bad = none → d.kind ≠ 2 → tagOf d.src = tagOf d.dst → cl = o.k / 8 → ∀ o1 o2,
          let n := bytesFor (tagOf d.src) d.cnt
          let holds := fun (off : Nat) => o.sup = true ∨ (s.groupAt o.gid).holds off n = true
          Sound d.src → Sound d.dst → d.src.toNat % 2 ^ 48 = 0xFFFFE0000000 + o1 → d.dst.toNat % 2 ^ 48 = 0xFFFFE0000000 + o2 →
          o1 + n ≤ 0x80000 → o2 + n ≤ 0x80000 → holds o1 → holds o2 → (o1 + n ≤ o2 ∨ o2 + n ≤ o1) →
          Runs (.copyCompletion cl d.id 0) s fun t => gone t ∧ Filled (s.flush o.k) t cl o2 ((s.flush o.k).bytesAt (.scratch cl o1) n)))
    ∧ (∀ k b, s.batchReady k (s.coreAt k).batches = some b → Runs (.batchCompletion k) s fun t =>
      (∀ x ∈ (t.coreAt k).batches, x.bid ≠ b.bid) ∧ Bytes s t
        ∧ (Reserved s { k := k, fid := b.fid } b.id → Reported t { k := k, fid := b.fid } b.id 3 [BitVec.ofNat 64 (b.num * 2 ^ 32 + 3),
          (match b.fail with | some (_, x, _) => BitVec.ofNat 64 (256 + x.code) | none => 0), (match b.fail with | some (_, _, tv) => tv | none => 0), 0,
          BitVec.ofNat 64 b.count]))
    ∧ ∀ id, (∃ x ∈ c.score, x.id = id) → (∀ x ∈ c.dealer, x.id ≠ id) → (∀ x ∈ c.eng, x.id ≠ id) → (∀ e ∈ c.rings, ∀ x, e.2.sub = some x → x.id ≠ id) →
      exec (.scoreboardRetire cl id) s = .next (s.modCluster cl fun c => { c with score := c.score.filter (fun x => x.id != id) }))
  ∧ (∀ (s s1 s2 : State) (cl rg k : Nat) (x : Subs) (ps : List Piece) (bs : List Byte), s.takeTile cl rg = some (s1, x, k) →
    let r := Tab.get (s1.clusterAt cl).rings rg {}
    let i := if x.out then Instr.outletTile cl rg else .springTile cl rg
    let o := { x.org with h := false }
    let m := s2.piecesCounted o ps
    x.moved = false → Unhindered s1 cl x.id → s1.tilePieces o (if x.out then .store else .load) (x.rows x.tile) = .ok (ps, s2) →
      s1.stuckPiece cl ps = none → (anyAbroad ps = true → x.out = false ∧ s1.coreAbroad x.org.k = false) →
      (x.out = false → s2.piecesBytes (tileOwner cl rg false) ps = some (.ok bs)) →
      Runs i s fun t => (if x.out then Bytes (m.piecesWrite ps (s2.bytesAt (.scratch cl (r.slotOff k)) r.size)) t else Filled m t cl (r.slotOff k) bs)
        ∧ (x.tile + 1 < x.total → Turn.act (if x.out then .outlet cl rg else .spring cl rg) ∈ t.turns
          ∧ (Tab.get (s2.clusterAt cl).rings rg {} = r → Tab.get (t.clusterAt cl).rings rg {}
            = { r.setSlot k (if x.out then 0 else 2) 0 with sub := some { x with busy := none, tile := x.tile + 1, moved := false } }))
        ∧ (x.total ≤ x.tile + 1 → (Tab.get (t.clusterAt cl).rings rg {}).sub = none
          ∧ (Reserved s2 x.org x.id → ∃ tag, Reported t x.org x.id (if x.out then 5 else 4)
            [BitVec.ofNat 64 (tag * 2 ^ 32 + if x.out then 5 else 4), 0, 0, BitVec.ofNat 64 (x.tile + 1), 0])))

/-- ENGINE_COMMAND_ARRIVAL marks the oldest command that has not arrived and owes its act. MATRIX_STEP_START, once a step that has had its
time has left the array to drain, of the first array command, on its turn, its group not told to stop, with both slots full and free of
earlier commands, takes the slots and the array; MATRIX_STEP_RETIRE of the oldest started step, on a sound accumulator, adds to each
element (i, j) the contraction of row i of A and row j of B, frees its two slots and no other and retires the command; a first residue
failure runs it again, a second kills its group with ENGINE_FAILED and starts the self-test; ENGINE_SELF_TEST that passes lets the
engine's commands go on. Of the oldest command on an accumulator MXZ_PERFORMED clears it in its mode, MXRD_PERFORMED writes its elements
converted, MXWR_PERFORMED loads its elements, VACC_PERFORMED gives eight elements to the register's producer or sets them, and
SYNC_MARKER_COMPLETE, with no earlier command of its core on the accumulator, reports. Each retires its command. (11_matrix.md R228,
11_matrix.md R229, 11_matrix.md R231, 11_matrix.md R232, 11_matrix.md R233, 11_matrix.md R234, 11_matrix.md R237, 11_matrix.md R238,
05_vector.md R112, 05_vector.md R113.) -/
def Obligations.EngineEvents : Prop :=
  ∀ (s : State) (cl acc : Nat) (e : ECmd),
    let c := s.clusterAt cl
    let a := c.acc acc
    (c.selfTest = false → c.eng.find? (fun x => !x.arrived) = some e → Runs (.engineCommandArrival cl) s fun t =>
        (t.clusterAt cl).eng = c.eng.map (fun x => if x.id == e.id then { x with arrived := true } else x) ∧ Turn.act (e.act cl) ∈ t.turns
          ∧ t.cores = s.cores ∧ Bytes s t)
    ∧ (∀ p q lut, e.op = .mxa acc p q lut →
      let s1 := s.freeArray cl
      let c := s1.clusterAt cl
      c.nextStep = some e → (s.groupAt e.org.gid).stopping = false → ∀ dp rp kp dq rq kq, s1.stepSlots e.org.gid p q = some ((dp, rp, kp), (dq, rq, kq)) →
      conflicts e.id [(rp.slotOff kp, rp.slotOff kp + rp.size), (rq.slotOff kq, rq.slotOff kq + rq.size)] [] c.score = false →
      Runs (.matrixStepStart cl) s fun t => (t.clusterAt cl).array = some e.id ∧ Turn.act (.stepRetire cl) ∈ t.turns ∧ Bytes s t ∧ t.cores = s.cores
        ∧ (t.clusterAt cl).eng = c.eng.map (fun x => if x.id == e.id then { x with
          started := true, occ := stepCycles, since := s.time.toNat, slots := [(dp, kp), (dq, kq)] } else x)
        ∧ (dp ≠ dq → (Tab.get (t.clusterAt cl).rings dp {}).slots.getD kp {} = { st := 3, holder := 3 }
          ∧ (Tab.get (t.clusterAt cl).rings dp {}).r = (rp.r + 1) % rp.cnt))
    ∧ (∀ p q lut dp kp dq kq, c.oldest = some e → e.op = .mxa acc p q lut → acc < 2 → a.bad = false →
      let id := e.id
      e.slots = [(dp, kp), (dq, kq)] →
      let rp := Tab.get c.rings dp {}
      let rq := Tab.get c.rings dq {}
      let k := 2048 / max (opWidth (tagOf rp.base)) (opWidth (tagOf rq.base))
      let rows := fun (r : Ring) (n : Nat) => slotRows (tagOf r.base) (blogOf r.base) k lut (s.bytesAt (.scratch cl (r.slotOff n)) r.size)
      (Runs (.matrixStepRetire cl 0) s fun t => Left t cl id ∧ (t.clusterAt cl).array = (if c.array = some id then none else c.array) ∧ Bytes s t ∧ t.cores = s.cores
        ∧ (∀ i j, i < 64 → j < 64 → ((t.clusterAt cl).acc acc).at (64 * i + j) = (contract a.i32 (chunkWidth (tagOf rp.base) (tagOf rq.base))
          (((rows rp kp).getD i []).zip (((rows rq kq).getD j []).map some)) (a.at (64 * i + j))).1 % 2 ^ 32)
        ∧ ((t.clusterAt cl).acc acc).steps = a.steps + 1 ∧ (t.clusterAt cl).acc (1 - acc) = c.acc (1 - acc)
        ∧ ∀ n, let r := Tab.get c.rings n {}
          let r' := Tab.get (t.clusterAt cl).rings n {}
          { r' with slots := r.slots } = r ∧ r'.slots.length = r.slots.length
            ∧ ∀ j, r'.slots.getD j {} = if (n, j) = (dp, kp) ∨ (n, j) = (dq, kq) then {} else r.slots.getD j {})
      ∧ (e.retried = false → Runs (.matrixStepRetire cl 1) s fun t => Turn.act (.stepRetire cl) ∈ t.turns ∧ Bytes s t
        ∧ (t.clusterAt cl).acc acc = { a with retry := true } ∧ (t.clusterAt cl).eng = c.eng.map (fun x => if x.id == id then { x with retried := true, since := s.time.toNat } else x))
      ∧ (e.retried = true → Runs (.matrixStepRetire cl 1) s fun t => (t.clusterAt cl).selfTest = true ∧ Turn.act (.selfTest cl) ∈ t.turns
        ∧ Killed s t e.org.gid .engineFailed (BitVec.ofNat 64 acc)))
    ∧ (c.selfTest = true → Runs (.engineSelfTest cl true) s fun t => (t.clusterAt cl).selfTest = false ∧ (t.clusterAt cl).eng = c.eng ∧ Bytes s t
      ∧ t.cores = s.cores ∧ (∀ x ∈ c.eng, Turn.act (if x.arrived then x.act cl else .engArrive cl) ∈ t.turns))
    ∧ (c.selfTest = false → OldestOn c acc e →
      (∀ mode, e.op = .mxz acc mode → Runs (.mxzPerformed cl acc) s fun t => Left t cl e.id ∧ Bytes s t ∧ t.cores = s.cores
        ∧ (t.clusterAt cl).acc acc = { a with el := [], i32 := mode != 0, steps := 0, ovf := false, nonfin := false, retry := false, bad := false, rows := List.range 64 })
      ∧ (∀ rnd p, e.op = .mxrd acc rnd p → a.bad = false → Unhindered s cl e.id → tagOf p ≤ 8 →
        let t0 := tagOf p
        let n := if t0 = 0 then 4 else elemSize t0
        let conv := fun (x : Nat) => if t0 = 0 ∨ t0 = (if a.i32 then 6 else 1) then x else (elemConv t0 (if a.i32 then 6 else 1) (rndOf rnd) x).1
        Runs (.mxrdPerformed cl acc 0) s fun t => Left t cl e.id ∧ t.cores = s.cores ∧ (t.clusterAt cl).acc acc = a
          ∧ Filled s t cl (p.toNat % 2 ^ 48 - 0xFFFFE0000000) ((List.range 4096).flatMap fun i => leBytes n (conv (a.at i))))
      ∧ (∀ p, acc < 2 → e.op = .mxwr acc p → Unhindered s cl e.id → Runs (.mxwrPerformed cl acc) s fun t => Left t cl e.id ∧ Bytes s t ∧ t.cores = s.cores
        ∧ ∀ i, i < 4096 → ((t.clusterAt cl).acc acc).at i = s.numAt (.scratch cl (p.toNat % 2 ^ 48 - 0xFFFFE0000000 + 4 * i)) 4)
      ∧ (∀ i id h q, e.op = .vaccr acc i id h → a.bad = false → ((s.coreAt e.org.k).ctxAt h).pend.find? (fun y => y.id == id) = some q →
        Runs (.vaccPerformed cl acc 0) s fun t => Left t cl e.id ∧ Bytes s t ∧ (q.wait ≤ 1 → Turn.act (.land e.org.k h q.reg) ∈ t.turns)
          ∧ ((t.coreAt e.org.k).ctxAt h).pend.find? (fun y => y.id == id) = some { q with
            val := q.val + packLanes 32 ((List.range 8).map fun j => a.at (i + j)), wait := q.wait - 1 })
      ∧ (∀ i v, e.op = .vaccw acc i v → Runs (.vaccPerformed cl acc 0) s fun t => Left t cl e.id ∧ Bytes s t ∧ t.cores = s.cores
        ∧ ∀ n, ((t.clusterAt cl).acc acc).at n = if i ≤ n ∧ n < i + 8 then lane 32 v (n - i) else a.at n))
    ∧ ∀ slot, e.op = .sync acc slot → c.selfTest = false → c.eng.find? (fun x => x.id == e.id) = some e → e.arrived = true → earlierOf e.id e.org.k acc c.eng = false →
      Runs (.syncMarkerComplete cl e.id) s fun t => Left t cl e.id ∧ Bytes s t
        ∧ (Reserved s e.org slot → Reported t e.org slot 6 [BitVec.ofNat 64 (acc * 2 ^ 32 + 6), 0, 0, 0, 0])

/-- MXCMP_RETIRE writes the kept values of the pruned source tile and then its masks, and retires the command, when the source and the two
destinations are apart. CHAIN_STEP_START of the first array command on its turn, a chain step whose output fits and whose link is in the
own window, with no earlier command on its ranges, takes the array and owes its retirement. CHAIN_STEP_RETIRE of a started step with such
a link contracts the current half of the boundary with the link, writes the results rounded in the boundary's format, never minus zero, to
the other half and no other byte, counts a step on the accumulator, advances the retired state of the firing and, for the last step of a
TCON, retires the command; a later step of a walk is owed its start. (13_sparse.md R251, 13_sparse.md R252, 14_chain.md R258, 14_chain.md
R268, 14_chain.md R270, 14_chain.md R271, 14_chain.md R272.) -/
def Obligations.ArrayEvents : Prop :=
  ∀ (s : State) (cl : Nat) (e : ECmd),
    let c := s.clusterAt cl
    let off := fun (w : Word) => w.toNat % 2 ^ 48 - 0xFFFFE0000000
    (∀ pat p q r, c.oldest = some e → e.op = .mxcmp pat p q r →
      let pn := patternOf pat
      let n := 64 * (2048 / opWidth (tagOf p) * pn.2.1 / pn.1) * elemSize (tagOf p)
      let out := prune pat (tagOf p) (s.bytesAt (.scratch cl (off p)) n)
      let apart := fun (a la b lb : Nat) => a + la ≤ b ∨ b + lb ≤ a
      apart (off p) n (off q) out.1.length → apart (off p) n (off r) out.2.length → apart (off q) out.1.length (off r) out.2.length →
      Runs (.mxcmpRetire cl) s fun t => Left t cl e.id ∧ t.cores = s.cores
        ∧ (∀ i, i < out.1.length → t.byteAt (.scratch cl (off q + i)) = out.1.getD i 0)
        ∧ (∀ i, i < out.2.length → t.byteAt (.scratch cl (off r + i)) = out.2.getD i 0)
        ∧ ∀ l, (∀ i, i < out.1.length → l ≠ .scratch cl (off q + i)) → (∀ i, i < out.2.length → l ≠ .scratch cl (off r + i)) → t.byteAt l = s.byteAt l)
    ∧ ∀ acc steps k isWalk ps hdl slots lut cur st, e.op = .walk acc steps k isWalk ps hdl slots lut cur → steps[k]? = some st →
      0xFFFFE0000000 ≤ st.link.toNat % 2 ^ 48 →
      (let c := (s.freeArray cl).clusterAt cl;
        c.chainNext = some e → e.started = false → e.page = none → (s.groupAt e.org.gid).stopping = false → cur.outBytes st ≤ cur.hsz * 32 →
        conflicts e.id (cur.ranges st).1 (cur.ranges st).2 c.score = false → Runs (.chainStepStart cl) s fun t =>
          (t.clusterAt cl).array = some e.id ∧ Turn.act (.chainRetire cl) ∈ t.turns ∧ Bytes s t ∧ t.cores = s.cores
            ∧ ∀ x ∈ (t.clusterAt cl).eng, x.id = e.id → x.started = true)
      ∧ (c.oldest = some e → e.started = true → e.org.k / 8 = cl → acc < 2 →
        ((cur.ranges st).1.drop 1).all (fun r => (cur.ranges st).2.all fun w => !meets r w) = true →
        let size := elemSize cur.fmt
        let bnd := (List.range (cur.m * cur.u * cur.v * st.dl)).map fun i => elemVal cur.fmt (s.numAt (.scratch cl (cur.half cur.h + i * size)) size)
        let link := linkVals (tagOf st.link) st.elems lut (s.bytesAt (.scratch cl (off st.link)) st.bytes)
        let out := (chainSums cur st bnd.toArray link.toArray).map (boundaryElem cur.fmt st.rnd)
        (k + 1 < steps.length → isWalk = true → ps = false → Runs (.chainStepRetire cl 0) s fun t =>
            Filled s t cl (cur.half (1 - cur.h)) (out.flatMap (leBytes size)) ∧ Turn.act (.chainStart cl) ∈ t.turns
              ∧ ((t.clusterAt cl).acc acc).steps = (c.acc acc).steps + 1
              ∧ ∀ x ∈ (t.clusterAt cl).eng, x.id = e.id → x.op = .walk acc steps (k + 1) isWalk ps hdl slots lut (cur.after st))
          ∧ (k + 1 = steps.length → isWalk = false → Runs (.chainStepRetire cl 0) s fun t =>
            Filled s t cl (cur.half (1 - cur.h)) (out.flatMap (leBytes size)) ∧ Left t cl e.id
              ∧ ((t.clusterAt cl).acc acc).steps = (c.acc acc).steps + 1
              ∧ ((s.coreAt e.org.k).l.fir.fid = e.org.fid → (t.coreAt e.org.k).ls = { (s.coreAt e.org.k).ls with chainR := cur.after st })))

/-- WORK_QUEUE_ACCEPTANCE, once booted, takes the entry of the queue whose turn it is: its consumer index goes up by one; a valid launch
record becomes an active launch with its groups counted; one that is not valid or not readable is dropped and its error recorded unless
one stands. READY_QUEUE_HANDOVER puts the next group of a launch that no waiting one of its partition precedes last into the ready queue
with room and owes a placement. STEAL_REQUEST of an idle die asks the next in turn of the neighbours that its partition holds;
STEAL_ANSWER moves the oldest group that may be stolen to the thief's queue. LAUNCH_TIMEOUT past a launch's limit flags tmo, owes the kill
of its placed groups with the time at which it ran out, and ends those not placed. GRAPH_LOAD of a readable image makes the graph
resident, GRAPH_RUN of a resident one that does not run starts its node 0, GRAPH_UNLOAD removes it, each recording code 1 for a graph id
of 0. GRAPH_NODE_START of a branch node of 1 to 4 successors starts the successor that its word selects and is done. (The model's own
choices here: notes/assumptions/86.md, notes/assumptions/118.md.) (15_launch.md R278, 15_launch.md R279, 15_launch.md R280, 15_launch.md
R281, 15_launch.md R286, 15_launch.md R292, 15_launch.md R293.) -/
def Obligations.DispatchEvents : Prop :=
  (∀ (s s1 : State) (qn : Nat), s.dev.boot = 1 → s.pickQueue = some (qn, s1) →
      let q := s1.hq qn
      let s2 := s1.modHq qn fun q => { q with qcons := (q.qcons + 1) % 2 ^ 32 }
      let errs := fun (t : State) (code : Nat) => (t.hq qn).qcons = (q.qcons + 1) % 2 ^ 32 ∧ t.launches = s1.launches ∧ Bytes s1 t
        ∧ (t.hq qn).qerr = (if q.qerr.toNat / 2 ^ 63 % 2 = 1 then q.qerr else BitVec.ofNat 64 (2 ^ 63 + q.qcons % 2 ^ 32 * 2 ^ 8 + code))
      (s1.entryWords q = none → Runs .workQueueAcceptance s fun t => errs t 4)
        ∧ ∀ ws, s1.entryWords q = some ws →
          let p := q.part
          let aff := recF ws 0 53 4
          let lid := recF ws 4 48 16
          (recF ws 0 60 4 ∉ [1, 2, 3, 4] → Runs .workQueueAcceptance s fun t => errs t 1)
            ∧ (recF ws 0 60 4 = 1 → recValid (s1.partAt p).csr.lim ws = false → Runs .workQueueAcceptance s fun t => errs t 1)
            ∧ (recValid (s1.partAt p).csr.lim ws = true → s1.hasPool p q.job = true →
              (s1.lidActive p q.job lid = true → Runs .workQueueAcceptance s fun t => errs t 6)
              ∧ (s1.lidActive p q.job lid = false → aff < 8 → aff ∉ s1.vdiesHeld p → Runs .workQueueAcceptance s fun t => errs t 2)
              ∧ (s1.lidActive p q.job lid = false → (aff < 8 → aff ∈ s1.vdiesHeld p) → ∀ cs, s2.constBlock p q.job ws = .ok cs → Runs .workQueueAcceptance s fun t => (t.hq qn).qcons = (q.qcons + 1) % 2 ^ 32
                ∧ (t.hq qn).qerr = q.qerr ∧ Bytes s1 t ∧ ∃ lk,
                  let l := t.launchAt lk
                  l.st = 1 ∧ l.part = p ∧ l.job = q.job ∧ l.lid = lid ∧ l.ngrp = recF ws 0 32 16 + 1 ∧ l.consts = cs ∧ l.level = q.lvl
                    ∧ l.queue = some qn)))
    ∧ (∀ (s : State) (lk v : Nat),
      let l := s.launchAt lk
      l.st = 1 → l.handed < l.ngrp → (∀ e ∈ s.launches, e.2.waiting = true → e.2.before l = true → e.2.part ≠ l.part) →
      s.roomDie l.part l.aff l.pri = some v → Runs (.readyQueueHandover lk) s fun t => ∃ g,
        t.groupAt g = { st := 1, launch := lk, num := l.handed, part := l.part, job := l.job, aff := l.aff, vdie := v, since := s.time.toNat }
          ∧ Tab.get t.ready (readyKey l.part v l.pri) [] = Tab.get s.ready (readyKey l.part v l.pri) [] ++ [g]
          ∧ t.launchAt lk = { l with handed := l.handed + 1 } ∧ Turn.act (.placement l.part v) ∈ t.turns ∧ t.cores = s.cores ∧ Bytes s t)
    ∧ (∀ (s : State) (p v sk : Nat), (s.partAt p).made = true → (s.partAt p).shadow = false → (Tab.get (s.partAt p).vdies v {}).steal = false →
      s.dieIdle p v = true → s.sockOf p v = some sk → let vs := (sockNeighbours sk).filterMap (s.vdieOf p)
      let i := (Tab.get (s.partAt p).vdies v {}).turn
      vs ≠ [] → Runs (.stealRequest p v) s fun t => Tab.get (t.partAt p).vdies v {} = { Tab.get (s.partAt p).vdies v {} with steal := true, turn := i + 1 }
        ∧ t.groups = s.groups ∧ t.cores = s.cores ∧ Turn.act (.answer p (vs.getD (i % vs.length) 0) v) ∈ t.turns)
    ∧ (∀ (s : State) (p v thief g : Nat), v ≠ thief → (s.setSteal p thief false).stealable p v = some g → s.readyLen p thief false < 1024 →
      Runs (.stealAnswer p v thief) s fun t => t.groupAt g = { s.groupAt g with vdie := thief }
        ∧ g ∉ Tab.get t.ready (readyKey p v false) []
        ∧ Tab.get t.ready (readyKey p thief false) [] = (Tab.get s.ready (readyKey p thief false) []).filter (· != g) ++ [g]
        ∧ Turn.act (.placement p thief) ∈ t.turns ∧ t.cores = s.cores)
    ∧ (∀ (s : State) (lk : Nat),
      let l := s.launchAt lk
      l.st = 1 → l.lid < 65536 → l.lim ≠ 0 → l.paused = none → l.k15 + l.lim < s.time.toNat → Runs (.launchTimeout lk) s fun t =>
        (t.ctr l.key).tmo = true ∧ Bytes s t ∧ ∀ g gr, Tab.find? s.groups g = some gr → gr.launch = lk →
          (gr.st = 2 ∨ gr.st = 3 → Turn.act (.kill g .launchTimeout (BitVec.ofNat 64 (l.k15 + l.lim))) ∈ t.turns)
            ∧ (gr.st ≤ 1 → (t.groupAt g).st = 5 ∧ ∀ x ∈ t.ready, g ∉ x.2))
    ∧ (∀ (s : State) (qn : Nat) (w0 w1 w4 w5 : Word),
      let q := s.hq qn
      let gid := w0.toNat % 2 ^ 12
      let n := w0.toNat / 2 ^ 12 % 2 ^ 12
      let key := graphKey q.part q.job gid
      let code := fun (t : State) (c : Nat) => t.graphs = s.graphs ∧ (q.qerr.toNat / 2 ^ 63 % 2 = 0 →
        (t.hq qn).qerr = BitVec.ofNat 64 (2 ^ 63 + q.qcons % 2 ^ 32 * 2 ^ 8 + c))
      (gid = 0 → ∀ i, i ∈ [Instr.graphLoad qn w0 w1, .graphRun qn w0 w4 w5, .graphUnload qn w0] → Runs i s fun t => code t 1)
        ∧ (gid ≠ 0 → n ≠ 0 → w0.toNat / 2 ^ 24 % 2 ^ 36 = 0 → w1.toNat < 2 ^ 48 → w1.toNat % 32 = 0 → s.graphRuns key = false →
          ∀ img, s.jobWords q.part q.job w1.toNat (4 * n) = .ok img →
          exec (.graphLoad qn w0 w1) s = .next { s with graphs := Tab.set s.graphs key { nodes := pieces 4 n img } })
        ∧ (gid ≠ 0 → w0.toNat / 2 ^ 12 % 2 ^ 48 = 0 → w4.toNat < 2 ^ 48 → w4.toNat % 2 ^ 36 = 0 → w5.toNat < 2 ^ 48 →
          (∀ g, Tab.find? s.graphs key = some g → g.running = false → g.nodes ≠ [] → Runs (.graphRun qn w0 w4 w5) s fun t =>
            Tab.get t.graphs key {} = { nodes := g.nodes, running := true, phid := w4.toNat / 2 ^ 36, lim := w5.toNat, pending := [0] }
              ∧ Turn.act (.node q.part q.job gid 0) ∈ t.turns ∧ t.cores = s.cores ∧ Bytes s t)
          ∧ (Tab.find? s.graphs key = none → Runs (.graphRun qn w0 w4 w5) s fun t => code t 5))
        ∧ (gid ≠ 0 → w0.toNat / 2 ^ 12 % 2 ^ 48 = 0 → s.graphRuns key = false →
          exec (.graphUnload qn w0) s = .next { s with graphs := Tab.erase s.graphs key }))
    ∧ ∀ (s : State) (p job gid n : Nat) (vs : List Word),
      let g := Tab.get s.graphs (graphKey p job gid) {}
      let ws := g.nodes.getD n []
      let prm := recF ws 0 0 12
      let x := recF ws 0 (48 - 12 * min (vs.getD 0 0).toNat (prm - 1)) 12
      let ptr := ws.getD 1 0
      let a := ptr.toNat % 2 ^ 48
      g.running = true → n ∈ g.pending → g.stopped = false → ws ≠ [] → recF ws 0 60 4 = 2 → 1 ≤ prm → prm ≤ 4 → tagOk ptr = true → canonical ptr = true → a % 8 = 0 →
      s.jobWords p job a 1 = .ok vs → x ≠ 0xFFF → Runs (.graphNodeStart p job gid n) s fun t =>
        (Tab.get t.graphs (graphKey p job gid) {}).pending = (g.pending ++ [x]).erase n ∧ Turn.act (.node p job gid x) ∈ t.turns
          ∧ (Tab.get t.graphs (graphKey p job gid) {}).nodes = g.nodes ∧ t.cores = s.cores ∧ Bytes s t

/-- GROUP_PLACEMENT of the oldest waiting group that fits makes it resident on the cores, scratch run and rings it fits, takes it out of the
ready queues, fills the first sixteen words of each core's private memory with its constants, arms the cores and owes each its launch
firing. GROUP_BLOCKS_QUEUE marks a group that others passed for 100,000 ticks; PREEMPTION_TRIGGER of a high-priority group that has fitted
nowhere for 20,000 ticks stops its victim and owes its pre-emption. GROUP_PREEMPTION of a stopped group whose waits are over leaves it
saved, its cores unbound and empty; GROUP_RESUME of a saved group whose resources are free makes it resident again on bound cores.
GROUP_COMPLETION of a group with nothing left, and GROUP_KILL of one that has not ended and is not run again, end it: its cores are
unbound and none of its firings runs. (15_launch.md R282, 15_launch.md R283, 15_launch.md R285, 17_traps.md R323, 17_traps.md R324,
08_messages.md R168, 02_instruction_words.md R47.) -/
def Obligations.GroupEvents : Prop :=
  (∀ (s : State) (p v g e : Nat) (f : Fit),
      let q := fun (h : Bool) => Tab.get s.ready (readyKey p v h) []
      (s.pickGroup v [] (q true) = some (g, f, []) ∨ (s.pickGroup v [] (q true) = none ∧ s.pickGroup v [] (q false) = some (g, f, []))) →
      (s.groupAt g).img = none → s.pageOf g = none → f.cores.Nodup → (∀ k ∈ f.cores, k / 8 = f.cl) →
      let l := s.launchAt (s.groupAt g).launch
      let s1 := f.cores.foldl (fun s k => s.modCore k fun c => { c with
        armed := true, launchDue := some g, ls := { c.ls with zlutbase := 0, zrr := 0, copySeq := 0, stage := 0, lutOk := false } })
        ((s.occupy g v f).bindCores g)
      s1.groupEntry g (f.cores.getD 0 0) l.ent = .ok e → entOk e false = true → Runs (.groupPlacement p v) s fun t =>
        let gr := t.groupAt g
        let lo := 0xFFFFE0000000 + f.base
        let kitty := fun (k r : Nat) => [s.meshWord gr.part k, s.k1Word gr.part k, gr.num, r, l.cpg, l.lid, l.graph, l.phid, l.job, l.part, s.pkgId, lo,
          lo + l.scr * 4096, l.rings, l.tab.toNat, l.k15]
        gr.st = 2 ∧ gr.cl = f.cl ∧ gr.cores = f.cores ∧ gr.base = f.base ∧ gr.units = l.scr ∧ gr.rings = f.rings ∧ gr.entry = BitVec.ofNat 64 e
          ∧ (∀ x ∈ t.ready, g ∉ x.2)
          ∧ ∀ r k, f.cores[r]? = some k → (t.coreAt k).bound = some g ∧ (t.coreAt k).armed = true ∧ (t.coreAt k).launchDue = some g
            ∧ (t.coreAt k).constLen = l.consts.length ∧ (t.coreAt k).l1 = []
            ∧ (∀ i, i < 16 → t.numAt (.priv k (8 * i)) 8 = (kitty k r).getD i 0 % 2 ^ 64)
            ∧ (∀ i, i < l.consts.length → i < 240 → t.numAt (.priv k (8 * (16 + i))) 8 = (l.consts.getD i 0).toNat))
    ∧ (∀ (s : State) (g : Nat),
      let gr := s.groupAt g
      let l := s.launchAt gr.launch
      (gr.st = 1 → gr.blocks = false → gr.passed = true → gr.since + 100000 ≤ s.time.toNat →
        exec (.groupBlocksQueue g) s = .next (s.modGroup g fun gr => { gr with blocks := true }))
      ∧ (∀ v, gr.st = 1 → s.stillSaving gr.preAsked = false → l.pri = true → gr.since + 20000 ≤ s.time.toNat → s.fitDie gr gr.vdie = none → l.inv = none →
        s.victim gr = some v → v ≠ g → Runs (.preemptionTrigger g) s fun t => t.groupAt v = { s.groupAt v with stopping := true }
          ∧ t.groupAt g = { gr with preAsked := some v } ∧ Turn.act (.preempt v) ∈ t.turns ∧ t.cores = s.cores ∧ Bytes s t)
      ∧ (∀ s1, s.clusterIn gr.part gr.cl = true → gr.st = 2 → gr.stopping = true → gr.page = none → gr.halted = false → s.groupStops g = true →
        s.saveGroup g = .ok s1 → Runs (.groupPreemption g) s fun t => (t.groupAt g).st = 3 ∧ (t.groupAt g).img.isSome = true
          ∧ (t.groupAt g).stopping = false ∧ t.hbm = s1.hbm
          ∧ ∀ k ∈ gr.cores, (t.coreAt k).bound = none ∧ (t.coreAt k).l.fir.active = false ∧ (t.coreAt k).hq = [] ∧ (t.coreAt k).lq = [])
      ∧ (∀ im s1, gr.img = some im → gr.st = 3 → gr.page = none → s.clusterIn gr.part gr.cl = true → s.groupFree g im = true → s.restoreGroup g im = .ok s1 →
        s1.pageOf g = none → Runs (.groupResume g) s fun t => (t.groupAt g).st = 2 ∧ (t.groupAt g).img = none ∧ (t.groupAt g).cores = gr.cores
          ∧ ∀ k ∈ gr.cores, (t.coreAt k).bound = some g)
      ∧ (s.groupDone g = true → Runs (.groupCompletion g) s fun t => (t.groupAt g).st = 4 ∧ Bytes s t
        ∧ ∀ k ∈ gr.cores, (t.coreAt k).bound ≠ some g ∧ ((t.coreAt k).l.fir.active = true → (t.coreAt k).l.fir.gid ≠ g))
      ∧ ∀ c tv, (s.partAt gr.part).shadow = false → (Tab.find? s.groups g).isSome = true → gr.st ≠ 4 → gr.st ≠ 5 → (rerunCause c = false ∨ l.rty = false) →
        Runs (.groupKill g c tv) s fun t => (t.groupAt g).st = 5 ∧ (∀ x ∈ t.ready, g ∉ x.2)
          ∧ ∀ k ∈ gr.cores, (t.coreAt k).bound ≠ some g ∧ ((t.coreAt k).l.fir.active = true → (t.coreAt k).l.fir.gid ≠ g)
            ∧ ((t.coreAt k).h.fir.active = true → (t.coreAt k).h.fir.gid ≠ g))

/-- TLB_WALK of an address that the page tables of the job map, with a walker free, puts the leaf's entry into the cluster's TLB and changes
no memory. TLB_INVALIDATION_APPLY, with no push, row, access to another package, started chain step or store to a stopped die under way
that it concerns, leaves no entry that it hits in any of its clusters and no L1 line that it covers there, performs their cores' stores,
and is gone. PAGE_READY naming a cluster of the partition ends the wait of every core there for that page of that job, makes its parked
firings of that page ready, and answers 0; naming no cluster it answers 2. GROW_ALLOTMENT of a resident group to more units that are free
and within the limit sets its units and word k12 of its cores and answers 0; otherwise it answers 1, or 2 for no such group. (The model's
own choices here: notes/assumptions/127.md.) (18_translation.md R339, 18_translation.md R342, 18_translation.md R343, 18_translation.md
R347, 19_stream_fault_program.md R349.) -/
def Obligations.TranslationEvents : Prop :=
  (∀ (s : State) (cl job p size pa pte mask : Nat) (va : Word), Tab.find? s.quads (cl / 64 * 4 + quadOf (cl % 64)) = some p →
      let a := va.toNat % 2 ^ 48
      (s.dieWalk p job a 3 (s.rootOf p job) (s.dieAt (cl / 64)).walks).1 = .leaf size pa pte mask → s.walkersFull (cl / 64) = false → Runs (.tlbWalk cl job va) s fun t =>
        s.tlbEntry p job a ((s.partAt p).aperOf a) size pa pte mask ∈ (t.clusterAt cl).tlb ∧ Bytes s t
          ∧ ∀ k, (t.coreAt k).l = (s.coreAt k).l ∧ (t.coreAt k).h = (s.coreAt k).h)
    ∧ (∀ (s : State) (id : Nat) (v : Inval), Tab.find? s.invals id = some v →
      (∀ cl ∈ v.cls, s.usesRun v cl = false) →
      Runs (.tlbInvalidationApply id) s fun t => Tab.find? t.invals id = none
        ∧ (∀ cl ∈ v.cls, ∀ e ∈ (t.clusterAt cl).tlb, v.hits e = false)
        ∧ (∀ cl ∈ v.cls, ∀ k, k / 8 = cl → (∀ x ∈ (t.coreAt k).l1, v.covers x.part x.job x.va = false) ∧ ∀ x ∈ (t.coreAt k).stores, x.away = true)
        ∧ ((∀ k, (s.coreAt k).stores = []) → Bytes s t))
    ∧ (∀ (s : State) (p : Nat),
      let pt := s.partAt p
      let pg := BitVec.ofNat 64 (pt.parg1.toNat / 2 ^ 12 % 2 ^ 36 * 4096)
      let job := pt.parg1.toNat / 2 ^ 48
      pt.shadow = false →
        (s.clusterOf p (pt.parg0.toNat / 2 ^ 6 % 8) (pt.parg0.toNat % 2 ^ 6) = none → Runs (.pageReady p) s fun t =>
          t = s.modPart p fun pt => { pt with pstat := 2, busy := 0 })
        ∧ ∀ cl, s.clusterOf p (pt.parg0.toNat / 2 ^ 6 % 8) (pt.parg0.toNat % 2 ^ 6) = some cl → Runs (.pageReady p) s fun t =>
          (t.partAt p).pstat = 0 ∧ (t.partAt p).busy = 0 ∧ Bytes s t
            ∧ ∀ k c, k / 8 = cl → Tab.find? s.cores k = some c →
              (c.pageWait = some pg → c.ctx.fir.job = job → (t.coreAt k).pageWait = none)
                ∧ (c.pageWait ≠ some pg → (t.coreAt k).pageWait = c.pageWait)
                ∧ (∀ i x, Tab.find? c.slots i = some x → x.st = 2 → x.page = pg → x.fir.job = job →
                  ∃ n, Tab.find? (t.coreAt k).slots i = some { x with st := 3, ready := n }))
    ∧ ∀ (s : State) (p : Nat),
      let a := (s.partAt p).parg0.toNat
      let n := a % 2 ^ 16
      let named := s.namedGroup p (a / 2 ^ 48) (a / 2 ^ 32 % 2 ^ 16) (a / 2 ^ 16 % 2 ^ 16)
      (named = none → exec (.growAllotment p) s = .next (s.modPart p fun pt => { pt with pstat := 2, busy := 0 }))
        ∧ ∀ g gr, named = some (g, gr) → s.groupAt g = gr → gr.cores.Nodup →
          let b := gr.base / 4096
          let others := ((s.residents gr.cl).filter fun e => e.1 != g).map (·.2) ++ s.keepers gr.cl (!(s.launchAt gr.launch).pri)
          let fits := (s.partAt p).shadow = false ∧ gr.st = 2 ∧ gr.stopping = false ∧ gr.units < n ∧ n ≤ (s.partAt p).csr.lim ∧ b + n ≤ 128
            ∧ ∀ o ∈ others, b + n ≤ o.base / 4096 ∨ o.base / 4096 + o.units ≤ b + gr.units
          (¬ fits → exec (.growAllotment p) s = .next (s.modPart p fun pt => { pt with pstat := 1, busy := 0 }))
            ∧ (fits → Runs (.growAllotment p) s fun t => t.groupAt g = { gr with units := n } ∧ (t.partAt p).pstat = 0
              ∧ (∀ k ∈ gr.cores, t.numAt (.priv k 96) 8 = 0xFFFFE0000000 + gr.base + n * 4096)
              ∧ ∀ l, (∀ k i, k ∈ gr.cores → i < 8 → l ≠ .priv k (96 + i)) → t.byteAt l = s.byteAt l)

/-- FAULT_DELIVERY of a cause that is neither a page fault nor a debug cause, on a core that runs no H firing and waits for no page, saves the
L firing into the lowest free slot and starts the fault handler of its group there: x10 holds the image's address, x11 the cause, x12 its
value, zcause and ztval the same, the PC is the entry's; with no fault handler the group is killed with the cause. PARK of a page fault,
while the notice queue has room, saves the firing as parked for its page, writes a notice whose word 1 is the address, and frees the L
context. PARKED_FIRING_RESUME of the ready firing that is due, while its egress slots are free, restores it as the running L firing with
its causes. COMPLETION_INTO_FRAME writes a completion into the slot of its parked firing, or into the area of the core on which its firing
runs again. (The model's own choices here: notes/assumptions/50.md, notes/assumptions/51.md, notes/assumptions/90.md,
notes/assumptions/119.md.) (17_traps.md R319, 17_traps.md R320, 17_traps.md R322, 17_traps.md R315.) -/
def Obligations.FaultEvents : Prop :=
  (∀ (s : State) (k : Nat) (cs : Cause) (tv zp : Word) (prec : Bool),
      let c := s.coreAt k
      let f := c.l.fir
      c.faultDue = some (cs, tv, zp, prec) → c.h.fir.active = false → c.pageWait = none → cs.disposition ∉ [.park, .debug] →
        (s.faultEntry f.gid k = none → exec (.faultDelivery k) s = .next ((s.modCore k fun c => { c with faultDue := none }).killGroup f.gid cs tv))
        ∧ ∀ e i s1, s.faultEntry f.gid k = some e → s.egressFits k false (entProd e) = true →
          s.saveFiring k cs.code tv zp prec true 1 = .ok i s1 → Runs (.faultDelivery k) s fun t =>
            let l := (t.coreAt k).l
            c.freeSlot = some i ∧ (∃ x, Tab.find? (t.coreAt k).slots i = some x ∧ x.st = 1 ∧ x.fir = f ∧ x.cause = cs.code)
              ∧ (t.coreAt k).faultDue = none ∧ l.fir.active = true ∧ l.fir.kind = 2 ∧ l.fir.gid = f.gid ∧ l.fir.slot = i ∧ l.fir.sup = false
              ∧ l.pc = BitVec.ofNat 64 (entPc e) ∧ l.x = [(10, s.slotVa f.part f.job k i), (11, BitVec.ofNat 64 cs.code), (12, tv)]
              ∧ l.zcause = BitVec.ofNat 8 cs.code ∧ l.ztval = tv ∧ (t.coreAt k).ls.zpos = zp ∧ t.hbm = s1.hbm)
    ∧ (∀ (s : State) (k : Nat) (cs : Cause) (tv zp : Word) (prec : Bool) (i : Nat) (s1 : State),
      let c := s.coreAt k
      let f := c.l.fir
      let pt := s.partAt f.part
      let at_ := pt.ntqbase.toNat + pt.ntqprod % 4096 * 32
      c.faultDue = some (cs, tv, zp, prec) → c.h.fir.active = false → c.pageWait = none → cs.disposition = .park → pt.ntqRoom = true →
      s.saveFiring k cs.code tv zp prec false 2 = .ok i s1 → Runs (.park k) s fun t =>
        c.freeSlot = some i ∧ (∃ x, Tab.find? (t.coreAt k).slots i = some x ∧ x.st = 2 ∧ x.fir = f ∧ x.cause = cs.code ∧ x.page = pageOfVa tv)
          ∧ (t.coreAt k).faultDue = none ∧ (t.coreAt k).l.fir.active = false ∧ (t.partAt f.part).ntqprod = (pt.ntqprod + 1) % 2 ^ 32
          ∧ t.numAt (.hbm (at_ + 8)) 8 = tv.toNat % 2 ^ 48 ∧ t.numAt (.hbm at_) 8 % 2 ^ 8 = cs.code)
    ∧ (∀ (s s1 : State) (k src slot n : Nat),
      let c := s.coreAt k
      let sl := Tab.get (s.coreAt src).slots slot {}
      c.l.fir.active = false → c.h.fir.active = false → c.faultDue = none → c.pageWait = none → s.lStopped k = false →
      s.dueFiring k = some (src, slot, n) → s.egressFits k false sl.fir.prod sl.fir.fid = true → s.restoreFiring k src slot false = .ok s1 →
      exec (.parkedFiringResume k src slot) s = .next s1 ∧ (s1.coreAt k).l.fir = sl.fir ∧ (s1.coreAt k).l1 = [] ∧ (s1.coreAt k).l.pend = []
        ∧ (∀ x ∈ sl.late, x ∈ (s1.coreAt k).l.causes) ∧ (Tab.get (s1.coreAt src).slots slot {}).st = 0)
    ∧ ∀ (s : State) (id : Nat) (f : FrameCompl), Tab.find? s.frameCompls id = some f → f.page = none →
      let g := s.groupAt f.gid
      let o : Origin := { k := g.cores.getD 0 f.k, gid := f.gid, part := g.part, job := g.job, sup := true }
      let s0 := s.moment.2
      (∀ k n sl s1, s.slotHolding (f.k :: g.cores) f.id = some (k, n, sl) →
        s0.writeCompl o (s.imageVa k n) (s.imageVa k n + 0x2000) 32 sl.codes 0 ((sl.ca.findIdx? (·.id == f.id)).getD 0) f = .ok s1 →
        Runs (.completionIntoFrame id) s fun t => Tab.find? t.frameCompls id = none ∧ t.hbm = s1.hbm
          ∧ ∃ x, Tab.find? (t.coreAt k).slots n = some x ∧ x.st = sl.st ∧ x.fir = sl.fir
            ∧ ∀ y ∈ x.ca, y.id = f.id → ∃ m, y.msg = some m ∧ m.words = f.words ∧ m.fid = sl.fir.fid)
      ∧ ∀ k, s.slotHolding (f.k :: g.cores) f.id = none → g.img = none → (f.k :: g.cores).find? (fun k => (s.coreAt k).ca.any (·.id == f.id)) = some k →
        Runs (.completionIntoFrame id) s fun t => Tab.find? t.frameCompls id = none ∧ Bytes s t
          ∧ ∀ y ∈ (t.coreAt k).ca, y.id = f.id → ∃ m, y.msg = some m ∧ m.words = f.words ∧ m.fid = (s.coreAt k).l.fir.fid

/-- QUARANTINE of a core whose row of the cluster has its spare in use already retires the cluster and kills its resident groups or has them
run again; otherwise the spare takes the position over: for a control site of a core whose waits are over its contexts go on without the
L1, the prefetched items and the fetched repeat body, for a register the group of the firing in whose bank it is, if one runs there, is
killed with UNCORRECTABLE_REGISTER, for private memory or the mailbox, or a second error while a control site is read out, the group with
state there with CORE_QUARANTINED. WATCHDOG_EXPIRY of a firing that has waited 1 ms, with no page service in its way and no stop or single
step of its work, at an instruction that is no blocking form, waits on no stream and, if it ends the firing, waits for no push and for no
send that its target holds, or with a due fault whose save waits for no free slot, push, notice room or such a send, logs it in its
cluster and kills its group with WATCHDOG and the PC. WFM_TIMEOUT after 4,096 die cycles ends the wait of the WFM. CROSS_DIE_DEADLINE of a
request to another die that is past its deadline: an instruction that waits is answered with CROSS_DIE_TIMEOUT, what its engine holds
already is performed later for nobody, a load, for whose value no push of a killed firing waits, fails with that cause, a store is
withdrawn with it. (The model's own choices here: notes/assumptions/92.md, notes/assumptions/93.md, notes/assumptions/96.md,
notes/assumptions/128.md.) (17_traps.md R327, 17_traps.md R328, 17_traps.md R330, 20_dies_time.md R365, 01_machine.md R11.) -/
def Obligations.LimitEvents : Prop :=
  (∀ (s : State) (k reg : Nat),
      let c := s.coreAt k
      let cl := k / 8
      let row := k % 8 / 4
      let spared := (s.modCluster cl fun c => { c with spareUsed := row :: c.spareUsed }).coldL1 k
      let x := c.ctxAt (decide (1024 ≤ reg))
      (row ∈ (s.clusterAt cl).spareUsed → ∀ site b, Runs (.quarantine k site reg b) s fun t => (t.clusterAt cl).retired = true
        ∧ ∀ g, (g, s.groupAt g) ∈ s.residents cl → (Tab.find? s.groups g).isSome = true → (t.groupAt g).st ∈ [1, 5])
      ∧ (row ∉ (s.clusterAt cl).spareUsed →
        (s.rerunReady k = true → Runs (.quarantine k 0 reg false) s fun t => (t.clusterAt cl).spareUsed = row :: (s.clusterAt cl).spareUsed
          ∧ (t.coreAt k).l = c.l ∧ (t.coreAt k).h = c.h ∧ (t.coreAt k).icache = c.icache ∧ (t.coreAt k).l1 = [] ∧ (t.coreAt k).ls.rep.words = []
          ∧ (∀ e ∈ (t.coreAt k).ls.ports, e.2.pre = []) ∧ Bytes s t)
        ∧ (∀ b, x.fir.active = true → exec (.quarantine k 1 reg b) s
          = .next (spared.killGroup x.fir.gid .uncorrectableRegister (BitVec.ofNat 64 (reg % 1024))))
        ∧ (∀ b, x.fir.active = false → exec (.quarantine k 1 reg b) s = .next spared)
        ∧ ∀ g, s.groupOnCore k = [g] → (∀ b, exec (.quarantine k 2 reg b) s = .next (spared.killGroup g .coreQuarantined (spared.meshTval g k)))
          ∧ exec (.quarantine k 0 reg true) s = .next (spared.killGroup g .coreQuarantined (spared.meshTval g k))))
    ∧ (∀ (s : State) (k since : Nat) (h : Bool) (w : BitVec 32),
      let x := (s.coreAt k).ctxAt h
      x.fir.active = true → (s.coreAt k).pageWait = none → x.waitAt = some since → since + 1000000 ≤ s.time.toNat →
      (h = false → (s.coreAt k).h.fir.active = false ∧ s.lStopped k = false ∧ (s.coreAt k).step ≠ 1) → s.behindPage k = false →
      ((h = false → (s.coreAt k).faultDue = none) ∧ s.waitingAt k h = some w ∧ blockingWord w = false ∧ (h = false → s.streamWait k w = false)
          ∧ (endingWord w = true → s.sendStuck x.fir.fid x.fir.gid = false ∧ (h = false → ∀ e ∈ (s.coreAt k).ls.ports, e.2.pushes = []))
        ∨ h = false ∧ ∃ cs tv zp prec, (s.coreAt k).faultDue = some (cs, tv, zp, prec) ∧ s.saveHeld k cs = false) →
      exec (.watchdogExpiry k h) s = .next ((s.modCluster (k / 8) fun c => { c with log := c.log ++ [(s.time.toNat, k, x.pc)] }).killGroup
        x.fir.gid .watchdog x.pc))
    ∧ (∀ (s : State) (k since : Nat) (h : Bool),
      let x := (s.coreAt k).ctxAt h
      x.fir.active = true → x.wfmAt = some since → since + 4096 ≤ (s.cycles x.fir.part k).toNat →
      exec (.wfmTimeout k h) s = .next (s.modCtxAt k h fun x => { x with wfm := true }))
    ∧ (∀ (s : State) (id : Nat) (v : Svc), Tab.find? s.svcs id = some v → v.cl / 64 ≠ v.org.k / 512 → v.st < 3 → v.lost = false →
      s.deadlineOf v.sent (v.org.k / 512) (v.cl / 64) ≤ s.time.toNat → v.await = true →
      ((s.coreAt v.org.k).ctxAt v.org.h).fir.fid = v.org.fid → ((s.coreAt v.org.k).ctxAt v.org.h).aw = .sent id →
      (v.st ≠ 1 → exec (.crossDieDeadline id) s = .next ({ s with svcs := Tab.erase s.svcs id }.modCtxAt v.org.k v.org.h fun x =>
        { x with aw := .replied false .crossDieTimeout [] }))
      ∧ (v.st = 1 → s.nextId ≠ id → Runs (.crossDieDeadline id) s fun t =>
        ((t.coreAt v.org.k).ctxAt v.org.h).aw = .replied false .crossDieTimeout [] ∧ Tab.find? t.svcs id = none
          ∧ Tab.find? t.svcs s.nextId = some { v with await := false, pend := none, batch := none, lost := true }
          ∧ (t.clusterAt v.cl).amoQ = (s.clusterAt v.cl).amoQ.map fun x => if x = id then s.nextId else x))
    ∧ ∀ (s : State) (id : Nat) (o : Origin) (va : Word) (d sent : Nat) (rd : Bool), Tab.find? s.svcs id = none →
      s.farRequest id = some (o, va, d, sent, rd) → s.deadlineOf sent (o.k / 512) d ≤ s.time.toNat →
      let x := (s.coreAt o.k).ctxAt o.h
      x.fir.active = true → x.fir.fid = o.fid → x.causes.length < 4 → (rd = true → Unowed s id) → Runs (.crossDieDeadline id) s fun t =>
        ((t.coreAt o.k).ctxAt o.h).causes = x.causes ++ [(.crossDieTimeout, va)] ∧ Bytes s t
          ∧ (rd = true → ∀ q ∈ ((t.coreAt o.k).ctxAt o.h).pend, q.id ≠ id) ∧ (rd = false → ∀ y ∈ (t.coreAt o.k).stores, y.id ≠ id)

/-- FREQUENCY_STEP of a die of the partition answers 2 for a multiplier outside 16 to 50 or an absent die, 1 for a die that is not open, and
otherwise 0: the step is announced with its tick, or, while another one is announced, within 20,000 ticks of a restart or during a remap
of the socket, deferred behind those deferred before it; FIRMWARE_FREQUENCY_STEP does the same. FREQUENCY_STEP_STOP, from 1,000 ticks
after the announcement on, stops the die with the counter of each of its virtual dies at a whole cycle. FREQUENCY_STEP_RESTART, 1,600
ticks after the stop tick, with no push of a killed firing left to perform, runs it at the new multiplier; each virtual die there goes on
counting from that tick, and the next entry of its step log holds the stop tick, the restart tick, the counter and the multiplier. (The
model's own choices here: notes/assumptions/100.md, notes/assumptions/101.md.) (20_dies_time.md R357, 20_dies_time.md R363,
22_host_boot.md R378.) -/
def Obligations.ClockEvents : Prop :=
  (∀ (s : State) (p : Nat),
      let a := (s.partAt p).parg0.toNat
      let mult := a / 2 ^ 8 % 2 ^ 6
      let ends := fun (t : State) (r : Nat) => (t.partAt p).pstat = r ∧ (t.partAt p).busy = 0 ∧ Bytes s t ∧ t.cores = s.cores
      (s.sockOf p (a % 8) = none → Runs (.frequencyStep p) s fun t => ends t 2 ∧ t.dies = s.dies)
      ∧ ∀ sk, s.sockOf p (a % 8) = some sk →
        let d := s.dieAt sk
        (mult < 16 ∨ 50 < mult → Runs (.frequencyStep p) s fun t => ends t 2 ∧ t.dies = s.dies)
        ∧ (16 ≤ mult → mult ≤ 50 → s.dieOpen sk = false → Runs (.frequencyStep p) s fun t => ends t 1 ∧ t.dies = s.dies)
        ∧ (16 ≤ mult → mult ≤ 50 → s.dieOpen sk = true → s.stepWaits sk = false →
          Runs (.frequencyStep p) s fun t => ends t 0 ∧ (t.dieAt sk).next = some mult ∧ (t.dieAt sk).ann = some s.time.toNat
            ∧ (t.dieAt sk).mult = d.mult ∧ (t.dieAt sk).running = d.running)
        ∧ (16 ≤ mult → mult ≤ 50 → s.dieOpen sk = true → s.stepWaits sk = true → Runs (.frequencyStep p) s fun t =>
          ends t 0 ∧ t.dieAt sk = { d with asked := d.asked ++ [mult] }))
    ∧ (∀ (s : State) (sk mult : Nat),
      16 ≤ mult → mult ≤ 50 → s.dieOpen sk = true →
      (s.stepWaits sk = false → Runs (.firmwareFrequencyStep sk mult) s fun t => (t.dieAt sk).next = some mult ∧ (t.dieAt sk).ann = some s.time.toNat
        ∧ t.parts = s.parts ∧ t.cores = s.cores ∧ Bytes s t)
      ∧ (s.stepWaits sk = true → exec (.firmwareFrequencyStep sk mult) s = .next (s.modDie sk fun d => { d with asked := d.asked ++ [mult] })))
    ∧ (∀ (s : State) (sk since : Nat),
      let d := s.dieAt sk
      let vs := s.vdiesOn sk
      let now := s.time.toNat
      let e := now - (since + 1000)
      d.ann = some since → d.running = true → d.next ≠ none → since + 1000 ≤ now → vs.Nodup → (∀ v ∈ vs, stopCount (s.vd v.1 v.2).cyc d.mult e ≠ none) →
      Runs (.frequencyStepStop sk) s fun t => t.dieAt sk = { d with running := false, ta := some now } ∧ Bytes s t ∧ t.cores = s.cores
        ∧ ∀ v ∈ vs, (t.vd v.1 v.2).stop = now ∧ (t.vd v.1 v.2).cyc % 20 = 0
          ∧ stopCount (s.vd v.1 v.2).cyc d.mult e = some (t.vd v.1 v.2).cyc)
    ∧ ∀ (s : State) (sk ta m : Nat),
      let d := s.dieAt sk
      d.ta = some ta → d.next = some m → ta + 1600 ≤ s.time.toNat → (s.vdiesOn sk).Nodup → s.lastPushes = [] → Runs (.frequencyStepRestart sk) s fun t =>
        t.dieAt sk = { d with mult := m, running := true, next := none, ann := none, ta := none, restart := some (ta + 1600) }
          ∧ t.cores = s.cores
          ∧ (∀ v ∈ s.vdiesOn sk, (t.vd v.1 v.2).cyc = (s.vd v.1 v.2).cyc + (s.time.toNat - (ta + 1600)) * m
            ∧ (t.vd v.1 v.2).seq = (s.vd v.1 v.2).seq + 1)
          ∧ ∀ p v, s.vdiesOn sk = [(p, v)] → (s.vd p v).sock = some sk →
            let n := (s.vd p v).seq.toNat + 1
            let at_ := (s.partAt p).steplog.toNat + 512 * v + 32 * (n % 16)
            t.numAt (.hbm at_) 8 = ta % 2 ^ 64 ∧ t.numAt (.hbm (at_ + 8)) 8 = (ta + 1600) % 2 ^ 64
              ∧ t.numAt (.hbm (at_ + 16)) 8 = (s.vd p v).cyc / 20 % 2 ^ 64 ∧ t.numAt (.hbm (at_ + 24)) 8 = (n * 2 ^ 48 + m) % 2 ^ 64

/-- VIRTUAL_DIE_REMAP to a socket that can take the virtual die first marks the destination, which halts the quadrants on the old socket; once
every wait of their clusters is over it moves: the virtual die names the new socket, whose quadrants are the partition's. PARTITION_SWITCH
of a mask that is not exactly the quadrants of its partitions answers 2; otherwise it halts the outgoing partition first, and once that is
quiet puts it into the reservoir, brings the incoming one back and answers 0. DIE_FAULT_OFFLINE begins the evacuation of an online die, or
waits while its socket takes part in a remap; DIE_OFFLINE does the same for a die of the partition, or answers 1, or 2 for an absent die.
DIE_ONLINE brings a die back at once, open and running. PARTITION_CREATION of free quadrants that are offered gives them to the partition,
its virtual dies numbered by ascending socket, with counters and notice indices at zero. (The model's own choices here:
notes/assumptions/102.md, notes/assumptions/103.md.) (20_dies_time.md R352, 20_dies_time.md R354, 20_dies_time.md R356, 17_traps.md R326,
01_machine.md R20, 22_host_boot.md R378.) -/
def Obligations.DieEvents : Prop :=
  (∀ (s : State) (p v sk src : Nat),
      let d := s.vd p v
      d.sock = some src →
      (d.dest ≠ some sk → (s.dieAt src).evac = false → s.mayMove p v src sk = true → Runs (.virtualDieRemap p v sk) s fun t =>
        (t.vd p v).dest = some sk ∧ (t.vd p v).stop = s.time.toNat ∧ (t.vd p v).sock = some src
          ∧ Turn.act (.remap p v sk) ∈ t.turns ∧ t.cores = s.cores ∧ Bytes s t)
      ∧ (d.dest = some sk → s.clustersQuiet (d.quads.flatMap fun q => quadClusters (src * 4 + q)) = true → src ≠ sk → (∀ q ∈ d.quads, q < 4) →
        Runs (.virtualDieRemap p v sk) s fun t => (t.vd p v).sock = some sk ∧ (t.vd p v).dest = none ∧ (t.vd p v).seq = d.seq + 1
          ∧ ∀ q ∈ d.quads, Tab.find? t.quads (sk * 4 + q) = some p ∧ Tab.find? t.quads (src * 4 + q) = none))
    ∧ (∀ (s : State) (p : Nat),
      (s.switchOf p = none → Runs (.partitionSwitch p) s fun t => t = s.modPart p fun pt => { pt with pstat := 2, busy := 0 })
      ∧ ∀ qs o i, s.switchOf p = some (qs, some o, i) → (∀ e ∈ (s.partAt o).vdies, e.2.dest = none) →
        ((s.partAt o).halted = false → exec (.partitionSwitch p) s = .next ((s.modPart o fun pt => { pt with halted := true }).post (.cmd p 5)))
        ∧ ((s.partAt o).halted = true → s.partQuiet o = true → i ≠ some o → Runs (.partitionSwitch p) s fun t =>
          (t.partAt o).shadow = true ∧ (t.partAt o).halted = false ∧ (t.partAt p).pstat = 0 ∧ (t.partAt p).busy = 0
            ∧ ∀ j, i = some j → (t.partAt j).shadow = false))
    ∧ (∀ (s : State) (sk : Nat), (s.dieAt sk).online = true → (s.dieAt sk).evac = false →
      (s.socketMoving sk = false →
        exec (.dieFaultOffline sk) s = .next ((s.modDie sk fun d => { d with evac := true, halting := false, asked := [] }).post (.dieOff sk)))
      ∧ (s.socketMoving sk = true → exec (.dieFaultOffline sk) s = .next (s.post (.faultOff sk))))
    ∧ (∀ (s : State) (p : Nat),
      let v := (s.partAt p).parg0.toNat % 8
      let ends := fun (r : Nat) (t : State) => t = s.modPart p fun pt => { pt with pstat := r, busy := 0 }
      (s.sockOf p v = none → Runs (.dieOffline p) s (ends 2))
      ∧ ∀ sk, s.sockOf p v = some sk → (s.dieOpen sk = false → Runs (.dieOffline p) s (ends 1))
        ∧ (s.dieOpen sk = true → s.socketMoving sk = false → Runs (.dieOffline p) s fun t => t.dieAt sk = { s.dieAt sk with evac := true, halting := false, asked := [] }
          ∧ (t.partAt p).busy = 4 + 16 * sk ∧ Turn.act (.dieOff sk) ∈ t.turns ∧ t.cores = s.cores ∧ Bytes s t))
    ∧ (∀ (s : State) (sk : Nat), sk < 8 → s.dev.power = 2 → (s.dieAt sk).online = false → Runs (.dieOnline sk) s fun t =>
      let d := t.dieAt sk
      d.online = true ∧ d.evac = false ∧ d.running = true ∧ d.mult = (s.dieAt sk).mult ∧ d.home = none ∧ t.cores = s.cores)
    ∧ ∀ (s : State) (p : Nat) (quads : List Nat), p < 32 → (s.partAt p).made = false → quads ≠ [] → quads.Nodup → (∀ q ∈ quads, s.quadOffered q = true) →
      let sks := (List.range 8).filter fun sk => quads.any fun q => q / 4 == sk
      Runs (.partitionCreation p quads) s fun t => (t.partAt p).made = true ∧ (t.partAt p).shadow = false ∧ (t.partAt p).csr = {}
        ∧ (t.partAt p).ntqprod = 0 ∧ (t.partAt p).ntqcons = 0 ∧ (∀ q ∈ quads, Tab.find? t.quads q = some p)
        ∧ (∀ q, q ∉ quads → Tab.find? t.quads q = Tab.find? s.quads q) ∧ t.cores = s.cores
        ∧ ∀ i sk, sks[i]? = some sk → t.vd p i = { sock := some sk, quads := (quads.filter fun q => q / 4 == sk).map (· % 4), stop := s.time.toNat }

/-- FABRIC_PACKET_ARRIVAL discards a packet for another package, with reserved bits or of a class above 4, acknowledges again one whose
sequence its series has performed; otherwise the sequence is recorded and a message that the domain table and the geometry admit is on its
way to its core, one that they do not is answered with MESSAGE_TARGET_INVALID, an invocation or an access waits, an acknowledgement ends
the packet that it quotes. INVOCATION_ARRIVAL starts an accepted invocation as a launch of one group with the code 0 replied, or replies
its refusal. REMOTE_ACCESS_ARRIVAL, once no earlier access to the line is awaited, answers REMOTE_DENIED to one that the domain table does
not admit, and otherwise performs a write at its place or answers a read with the bytes there. ACKNOWLEDGEMENT_ARRIVAL with code 0 gives a
read its value and ends a write or a message; one with REMOTE_DENIED, or FABRIC_GIVE_UP after 15,000 ticks with FABRIC_UNREACHABLE, ends a
read or a posted write with that cause pending at its address, and answers an instruction that waits with it. An INVOCATION_REPLY_ARRIVAL,
or INVOCATION_REPLY_TIMEOUT after 30,000 ticks with code 0x13, completes in the invocation's slot. FABRIC_RESEND after 4,000 ticks takes
the next path. LINK_FAILURE takes a link out; DOMAIN_TABLE_UPDATE reads the table again, without entries in poisoned lines. (The model's
own choices here: notes/assumptions/12.md, notes/assumptions/18.md, notes/assumptions/38.md.) (16_remote.md R295, 16_remote.md R296,
16_remote.md R297, 16_remote.md R298, 16_remote.md R299, 16_remote.md R301, 16_remote.md R307.) -/
def Obligations.FabricEvents : Prop :=
  (∀ (s : State) (ws : List Word),
      let key := seqKey ws
      let r := Tab.get s.seqs key {}
      let s1 : State := { s with seqs := Tab.set s.seqs key (r.add (envF ws 0 16 12)) }
      let p := envF ws 0 35 5
      let tgt := (ws.getD 9 0).toNat
      let shut := (s.partAt p).made = false ∨ (s.partAt p).shadow = true ∨ s.domainBit p (envF ws 0 40 12) 58 = false
        ∨ s.coreOf p (tgt % 2 ^ 16) (tgt / 2 ^ 16 % 2 ^ 16) = none
      (s.packetBad ws = true → exec (.fabricPacketArrival ws) s = .next s)
      ∧ (s.packetBad ws = false → envF ws 0 32 3 ≠ 4 → r.holds (envF ws 0 16 12) = true → exec (.fabricPacketArrival ws) s = .next (s.copyAgain ws))
      ∧ (s.packetBad ws = false → r.holds (envF ws 0 16 12) = false →
        (∀ k, 10 ≤ ws.length → envF ws 0 32 3 = 0 → (s.partAt p).made = true → (s.partAt p).shadow = false → s.domainBit p (envF ws 0 40 12) 58 = true →
          s.coreOf p (tgt % 2 ^ 16) (tgt / 2 ^ 16 % 2 ^ 16) = some k → Runs (.fabricPacketArrival ws) s fun t => ∃ f,
            t.flights = Tab.set s.flights s.nextId f ∧ f.dst = k ∧ f.spkg = some (envF ws 0 40 12) ∧ f.hdl = (ws.getD 2 0).toNat / 2 ^ 32 % 2 ^ 12
              ∧ (∀ i, 1 ≤ i → i < 7 → f.words.getD i 0 = ws.getD (2 + i) 0) ∧ t.seqs = s1.seqs ∧ Turn.act (.validate s.nextId) ∈ t.turns)
        ∧ (envF ws 0 32 3 = 0 → shut → exec (.fabricPacketArrival ws) s = .next (s1.acknowledge ws Cause.messageTargetInvalid.code []))
        ∧ (envF ws 0 32 3 ∈ [1, 3] → exec (.fabricPacketArrival ws) s = .next ({ s1 with
          nextId := s.nextId + 1, inbound := Tab.set s.inbound s.nextId { words := ws, came := s.time.toNat } }.post
            (if envF ws 0 32 3 = 1 then .invArr s.nextId else .remArr s.nextId))))
      ∧ (∀ id pk, s.packetBad ws = false → envF ws 0 32 3 = 4 → s.ackFor (envF ws 0 40 12) (ws.getD 2 0).toNat = some (id, pk) →
        exec (.fabricPacketArrival ws) s = .next (s.post (.ackArr id (envF ws 3 0 8) ((ws.drop 4).flatMap fun w => leBytes 8 w.toNat)))))
    ∧ (∀ (s : State) (id : Nat) (i : Inbound), Tab.find? s.inbound id = some i →
      let ws := i.words
      let s0 : State := { s with inbound := Tab.erase s.inbound id }
      let p := envF ws 0 35 5
      let replied := fun (t : State) (code : Nat) => envF ws 0 40 12 ≠ s.pkgId → ∃ n pk, Tab.find? t.pkts n = some pk ∧ pk.cls = 2
        ∧ pk.dpkg = envF ws 0 40 12 ∧ pk.words.getD 4 0 = BitVec.ofNat 64 code ∧ pk.words.getD 3 0 = BitVec.ofNat 64 (envF ws 1 48 16 * 2 ^ 32 + 8)
      (∀ c, s.mayReply ws = true → s0.invocationCheck ws = .error c → Runs (.invocationArrival id) s fun t => t.inbound = s0.inbound ∧ t.launches = s.launches ∧ replied t c)
      ∧ (∀ o rec_ cs, s.mayReply ws = true → s0.invocationCheck ws = .ok (o, rec_, cs) → Runs (.invocationArrival id) s fun t => t.inbound = s0.inbound ∧ replied t 0
        ∧ (t.launchAt s.nextId).st = 1 ∧ (t.launchAt s.nextId).lid = o.lid ∧ (t.launchAt s.nextId).ngrp = 1 ∧ (t.launchAt s.nextId).consts = cs
        ∧ (t.launchAt s.nextId).inv = some ((ws.drop 2).take 8)
        ∧ s.nextId ∈ (if o.pri then (t.partAt o.part).invHigh else (t.partAt o.part).invLow))
      ∧ (s.accessWaits id i = false →
        ((s.partAt p).made = false ∨ (s.partAt p).shadow = true ∨ s.domainBit p (envF ws 0 40 12) 57 = false →
          exec (.remoteAccessArrival id) s = .next (s0.acknowledge ws Cause.remoteDenied.code []))
        ∧ ((s.partAt p).made = true → (s.partAt p).shadow = false → s.domainBit p (envF ws 0 40 12) 57 = true → envF ws 2 40 1 = 0 →
          let l := Loc.hbm (envF ws 3 0 48)
          let n := envF ws 2 0 32
          let bs := ((ws.drop 4).flatMap fun w => leBytes 8 w.toNat).take n
          (envF ws 2 32 8 = 1 → Runs (.remoteAccessArrival id) s fun t => t.inbound = s0.inbound ∧ t.acksOut = (s0.acknowledge ws 0 []).acksOut
            ∧ (∀ j, j < bs.length → t.byteAt (l.plus j) = bs.getD j 0) ∧ ∀ l', (∀ j, j < bs.length → l' ≠ l.plus j) → t.byteAt l' = s.byteAt l')
          ∧ (envF ws 2 32 8 = 0 → s.poisoned (.flat l) n = false → Runs (.remoteAccessArrival id) s fun t => t.inbound = s0.inbound ∧ Bytes s t
            ∧ t.acksOut = (s0.acknowledge ws 0 (wordsOf (s.spotBytes (.flat l) n))).acksOut))))
    ∧ (∀ (s : State) (id : Nat) (pk : Packet) (data : List Byte), Tab.find? s.pkts id = some pk → (∀ w ∈ s.awayOuts, w.todo = []) →
      let o := pk.org
      let s0 : State := { s with pkts := Tab.erase s.pkts id }
      (∀ q, pk.kind = 1 → ((s.coreAt o.k).ctxAt o.h).pend.find? (·.id == pk.pend) = some q → q.wait = 1 →
        Runs (.acknowledgementArrival id 0 data) s fun t => t.pkts = s0.pkts ∧ Turn.act (.land o.k o.h q.reg) ∈ t.turns ∧ Bytes s t
          ∧ ∃ y ∈ ((t.coreAt o.k).ctxAt o.h).pend, y.id = pk.pend ∧ y.wait = 0
            ∧ y.val = q.val + (pk.conv.of (data.drop (addrOf pk.va % 64) |>.take pk.size)).1)
      ∧ (pk.kind = 2 → exec (.acknowledgementArrival id 0 data) s = .next (s0.modCore o.k fun x => { x with stores := x.stores.filter (·.id != pk.store) }))
      ∧ (∀ f, pk.kind = 4 → Tab.find? s.flights pk.flight = some f →
        exec (.acknowledgementArrival id 0 data) s = .next { s0 with flights := Tab.erase s.flights pk.flight })
      ∧ (pk.last + 4000 ≤ s.time.toNat →
        exec (.fabricResend id) s = .next { s with pkts := Tab.set s.pkts id { pk with path := s.nextPath pk.dpkg pk.path, last := s.time.toNat } })
      ∧ (∀ i c, (i = Instr.acknowledgementArrival id Cause.remoteDenied.code data ∧ c = Cause.remoteDenied
          ∨ i = Instr.fabricGiveUp id ∧ c = Cause.fabricUnreachable ∧ pk.sent + 15000 ≤ s.time.toNat) →
        let x := (s.coreAt o.k).ctxAt o.h
        x.fir.active = true → x.fir.fid = o.fid →
        (pk.kind = 1 → x.causes.length < 4 → Unowed s pk.pend → Runs i s fun t => t.pkts = s0.pkts ∧ Bytes s t
          ∧ ((t.coreAt o.k).ctxAt o.h).causes = x.causes ++ [(c, pk.va)] ∧ ∀ q ∈ ((t.coreAt o.k).ctxAt o.h).pend, q.id ≠ pk.pend)
        ∧ (pk.kind = 2 → x.causes.length < 4 → (s.coreAt o.k).l.relWait ≠ some true → (s.coreAt o.k).h.relWait ≠ some true → Runs i s fun t =>
          t.pkts = s0.pkts ∧ Bytes s t ∧ ((t.coreAt o.k).ctxAt o.h).causes = x.causes ++ [(c, pk.va)] ∧ ∀ y ∈ (t.coreAt o.k).stores, y.id ≠ pk.store)
        ∧ (pk.kind = 3 → x.aw = .sent id → exec i s = .next (s0.modCtxAt o.k o.h fun x => { x with aw := .replied false c [] }))))
    ∧ (∀ (s : State) (id : Nat) (r : InvReply), Tab.find? s.invReps id = some r → (s.partAt r.org.part).shadow = false → s.parkedAway r = false →
      let ends := fun (code lid : Nat) (tick : Word) (t : State) => t.invReps = Tab.erase s.invReps id
        ∧ (Reserved s r.org r.slot → Reported t r.org r.slot 8
          [BitVec.ofNat 64 (r.tag * 2 ^ 32 + 8), BitVec.ofNat 64 code, BitVec.ofNat 64 (r.pkg * 2 ^ 52 + lid), tick, 0])
      (r.known = true → Runs (.invocationReplyArrival id) s (ends r.code r.lid r.tick))
        ∧ (r.known = false → r.sent + 30000 ≤ s.time.toNat → Runs (.invocationReplyTimeout id) s (ends 0x13 0 0)))
    ∧ (∀ (s : State) (link : Nat), link ∉ s.failedLinks → Runs (.linkFailure link) s fun t => t.failedLinks = link :: s.failedLinks ∧ t.cores = s.cores)
    ∧ ∀ (s : State) (p : Nat), (s.partAt p).made = true → Runs (.domainTableUpdate p) s fun t => Bytes s t ∧ t.cores = s.cores ∧ ∀ i, i < 4096 →
      let l := Loc.hbm ((s.partAt p).icfg0.toNat / 2 ^ 12 % 2 ^ 36 * 4096 + 8 * i)
      Tab.get (t.partAt p).domain i 0 = if s.poisoned (.flat l) 8 then 0 else BitVec.ofNat 64 (s.numAt l 8)

/-- A HOST_CXL_MEM_ACCESS that writes changes the bytes it names and no others, and one that reads changes nothing. DOORBELL_WRITE of an index
at most the ring's size ahead sets the producer index and wakes the dispatcher; one further ahead disables the queue and records error 3
unless one stands. QCFG_WRITE with reserved bits clear sets the configuration, of an enabled queue only weight and level. QERR_CLEAR with
bit 63 clears the valid bit. ICFG0_WRITE sets icfg0 and reads the domain table. NTQCONS_WRITE sets the consumer index. POWER_CAP_WRITE
sets a cap of 400 to 1,700 W. REGISTER_WRITE of an aligned word of BAR0 writes the page it falls into: a queue's, a partition's, a debug
page or the device page; in a partition page mthr takes 4 to 15, parg0 and parg1 any word, pcmd starts a command that is named, answers 2
for another code, and 3 while one is busy. A write of 4 bytes to parg0 writes that half of it, and one that is not an aligned write of 4
or 8 bytes is dropped. A host read of pcmd or of an unlisted word returns zero, one of parg0, steplog or pstat the register, one of dctl
zero in its write-only bits. (The model's own choices here: notes/assumptions/38.md, notes/assumptions/61.md, notes/assumptions/99.md,
notes/assumptions/109.md, notes/assumptions/111.md, notes/assumptions/142.md.) (22_host_boot.md R375, 22_host_boot.md R376,
22_host_boot.md R377, 22_host_boot.md R378, 22_host_boot.md R384, 16_remote.md R295.) -/
def Obligations.HostRegisters : Prop :=
  (∀ (s : State) (pa : Nat) (bs : List Byte), s.dev.power = 2 → s.dev.boot = 1 → pa + bs.length ≤ 2 ^ 39 →
      exec (.hostCxlMemAccess false pa bs) s = .next s
        ∧ Runs (.hostCxlMemAccess true pa bs) s fun t => (∀ i, i < bs.length → t.byteAt (.hbm (pa + i)) = bs.getD i 0)
          ∧ (∀ l, (∀ i, i < bs.length → l ≠ .hbm (pa + i)) → t.byteAt l = s.byteAt l) ∧ { t with hbm := s.hbm } = s)
    ∧ (∀ (s : State) (qn : Nat) (v : Word),
      let q := s.hq qn
      let n := v.toNat % 2 ^ 32
      ((n + 2 ^ 32 - q.qcons) % 2 ^ 32 ≤ q.size → Runs (.doorbellWrite qn v) s fun t => t.hq qn = { q with qprod := n }
        ∧ Turn.act .queue ∈ t.turns ∧ t.cores = s.cores ∧ Bytes s t)
      ∧ (q.size < (n + 2 ^ 32 - q.qcons) % 2 ^ 32 → Runs (.doorbellWrite qn v) s fun t =>
        (t.hq qn).qcfg = BitVec.ofNat 64 (q.qcfg.toNat - q.qcfg.toNat / 2 ^ 63 * 2 ^ 63) ∧ (t.hq qn).qprod = q.qprod
          ∧ (q.qerr.toNat / 2 ^ 63 = 1 → (t.hq qn).qerr = q.qerr)
          ∧ (q.qerr.toNat / 2 ^ 63 = 0 → (t.hq qn).qerr.toNat / 2 ^ 63 = 1 ∧ (t.hq qn).qerr.toNat % 2 ^ 8 = 3))
      ∧ (n = 0 → Runs (.qcfgWrite qn v) s fun t =>
        (q.en = false → t.hq qn = { q with qcfg := v })
          ∧ (q.en = true → (t.hq qn).qcfg.toNat / 2 ^ 36 % 2 ^ 6 = v.toNat / 2 ^ 36 % 2 ^ 6 ∧ (t.hq qn).qcfg.toNat % 2 ^ 36 = q.qcfg.toNat % 2 ^ 36
            ∧ (t.hq qn).qcfg.toNat / 2 ^ 42 = q.qcfg.toNat / 2 ^ 42))
      ∧ (n ≠ 0 → exec (.qcfgWrite qn v) s = .next s)
      ∧ (v.toNat / 2 ^ 63 = 1 → Runs (.qerrClear qn v) s fun t => (t.hq qn).qerr.toNat = q.qerr.toNat % 2 ^ 63 ∧ (t.hq qn).qcons = q.qcons)
      ∧ (v.toNat / 2 ^ 63 = 0 → exec (.qerrClear qn v) s = .next s))
    ∧ (∀ (s : State) (p : Nat) (v : Word),
      (Runs (.icfg0Write p v) s fun t => (t.partAt p).icfg0 = v ∧ t.cores = s.cores ∧ Bytes s t
        ∧ ∀ i, i < 4096 →
          let l := Loc.hbm (v.toNat / 2 ^ 12 % 2 ^ 36 * 4096 + 8 * i)
          Tab.get (t.partAt p).domain i 0 = if s.poisoned (.flat l) 8 then 0 else BitVec.ofNat 64 (s.numAt l 8))
      ∧ ((s.partAt p).notices = [] → Runs (.ntqconsWrite p v) s fun t => (t.partAt p).ntqcons = v.toNat % 2 ^ 32
        ∧ (t.partAt p).ntqprod = (s.partAt p).ntqprod ∧ (v.toNat / 2 ^ 63 = 1 → (t.partAt p).overflow = false) ∧ t.cores = s.cores ∧ Bytes s t)
      ∧ (400 ≤ v.toNat → v.toNat ≤ 1700 → exec (.powerCapWrite v) s = .next (s.setReg 0x40 v)))
    ∧ ∀ (s : State) (v : Word), s.dev.power ≠ 0 →
      (∀ qn off, qn < 32768 → off < 4096 → off % 8 = 0 → exec (.registerWrite (qn * 4096 + off) v) s = .next (s.queueWrite qn off v))
      ∧ (∀ p off, p < 32 → off < 4096 → off % 8 = 0 → exec (.registerWrite (0x8000000 + p * 4096 + off) v) s = .next (s.partWrite p off v))
      ∧ (∀ pg off, pg < 64 → off < 4096 → off % 8 = 0 → exec (.registerWrite (0x8020000 + pg * 4096 + off) v) s = .next (s.debugWrite pg off v))
      ∧ (∀ off, off < 4096 → off % 8 = 0 → exec (.registerWrite (0x8060000 + off) v) s = .next (s.deviceWrite off v))
      ∧ (∀ p, p < 32 → exec (.registerWrite (2 ^ 32 + 0x8000000 + p * 4096 + 0x80) v) s = .next (s.modPart p fun pt =>
          { pt with parg0 := BitVec.ofNat 64 (pt.parg0.toNat / 2 ^ 32 * 2 ^ 32 + v.toNat % 2 ^ 32) })
        ∧ exec (.registerWrite (2 ^ 32 + 0x8000000 + p * 4096 + 0x84) v) s = .next (s.modPart p fun pt =>
          { pt with parg0 := BitVec.ofNat 64 (v.toNat % 2 ^ 32 * 2 ^ 32 + pt.parg0.toNat % 2 ^ 32) }))
      ∧ (∀ off, off % 4 ≠ 0 ∨ (off < 2 ^ 32 ∧ off % 8 ≠ 0) → exec (.registerWrite off v) s = .next s)
      ∧ ∀ p, p < 32 →
        let pt := s.partAt p
        let code := v.toNat % 2 ^ 8
        let writes := fun (off : Nat) (pt' : Part) => exec (.registerWrite (0x8000000 + p * 4096 + off) v) s = .next (s.modPart p fun _ => pt')
        (4 ≤ v.toNat → v.toNat ≤ 15 → writes 0x28 { pt with mthr := v.toNat })
          ∧ (v.toNat < 4 ∨ 15 < v.toNat → exec (.registerWrite (0x8000000 + p * 4096 + 0x28) v) s = .next s) ∧ writes 0x80 { pt with parg0 := v } ∧ writes 0x88 { pt with parg1 := v }
          ∧ (pt.busy ≠ 0 → writes 0x90 { pt with pstat := 3 })
          ∧ (pt.busy = 0 → code = 0 ∨ 5 < code → writes 0x90 { pt with pcmd := code, pstat := 2 })
          ∧ (pt.busy = 0 → 1 ≤ code → code ≤ 5 → exec (.registerWrite (0x8000000 + p * 4096 + 0x90) v) s = .next
            ((s.modPart p fun pt => { pt with pcmd := code, busy := code, pstat := 0 }).post (.cmd p code)))
          ∧ s.hostRead (0x8000000 + p * 4096 + 0x90) 8 = 0 ∧ s.hostRead (0x8000000 + p * 4096 + 0x80) 8 = pt.parg0
          ∧ s.hostRead (0x8000000 + p * 4096 + 0x30) 8 = pt.steplog ∧ s.hostRead (0x8000000 + p * 4096 + 0x38) 8 = 0
          ∧ (pt.busy = 0 → pt.pstat < 2 ^ 63 → (s.hostRead (0x8000000 + p * 4096 + 0x98) 8).toNat = pt.pstat)
          ∧ ∀ pg, pg < 64 → (s.dpage pg).srank < 8 → (s.hostRead (0x8020000 + pg * 4096) 8).toNat / 2 % 16 = 0
            ∧ (s.hostRead (0x8020000 + pg * 4096) 8).toNat % 2 = b2n (s.dpage pg).att

/-- POWER_ON_BOOT of a package without power starts from the state of reset: where neither firmware image can be read with a signature that
holds, the manifest's too, it is in recovery; otherwise it is ready and active with eight dies online and running, from image A when that
one holds, its route tables as their firmware gives them, and without the clusters that the manifest withholds; the first I/O die has its
identity when its response is whole and its helper data's signature holds. POWER_OFF leaves only what flash, package number and host
memory hold. STANDBY_ENTRY of an idle active package keeps device memory, partitions and the timer, stops the dies and loses what the
cores, scratchpads and migration counters hold; STANDBY_EXIT runs the dies again that were online, but those whose self-test fails, which
are offline. IO_DIE_FAILOVER makes the other I/O die active. HBM_SCRUB marks the lines it names poisoned. ATTESTATION_REPORT, asked for by
word 8 of the device page with the active I/O die's identity in order, fills the report with the timer, the nonce and that die's signature
over it, and answers 0x100; without it, it answers 0x101. FIRMWARE_IMAGE_UPDATE in recovery writes image A. INSTRUCTION_WORD_FAULT raises
its cause at the PC. (The model's own choices here: notes/assumptions/2.md, notes/assumptions/4.md, notes/assumptions/6.md,
notes/assumptions/9.md, notes/assumptions/38.md, notes/assumptions/113.md, notes/assumptions/115.md, notes/assumptions/132.md.)
(22_host_boot.md R380, 22_host_boot.md R382, 22_host_boot.md R383, 22_host_boot.md R384, 22_host_boot.md R385, 02_instruction_words.md
R30.) -/
def Obligations.PowerEvents : Prop :=
  (∀ (s : State) (okA okB ident : Bool) (bad : List Nat), s.dev.power = 0 → Runs (.powerOnBoot okA okB ident bad) s fun t =>
      let d := s.dev
      let good := d.imageGood 0 okA || d.imageGood 1 okB
      t.dev.power = 2 ∧ t.cores = [] ∧ t.hbm = [] ∧ t.time = 0 ∧ t.pkgId = s.pkgId ∧ t.dev.active = 16
        ∧ t.dev.ident.getD 0 false = (ident && flashSigned (d.helper.getD 0 []))
        ∧ (good = false → t.dev.boot = 2 ∧ t.dies = [])
        ∧ (good = true → t.dev.boot = 1 ∧ t.dev.image = d.flash.getD (if d.imageGood 0 okA then 0 else 1) []
          ∧ (∀ sk, sk < 8 → t.dieAt sk = { online := true, running := true }) ∧ t.parts = [] ∧ t.groups = [] ∧ t.launches = [] ∧ t.routes = bootRoutes
          ∧ (bad = [] → ∀ cl, cl < 512 → (t.clusterAt cl).retired = (!d.manifest.isEmpty && Config.withheld d.manifest cl))))
    ∧ (∀ s : State, Runs .powerOff s fun t => t.dev = { flash := s.dev.flash, manifest := s.dev.manifest, helper := s.dev.helper, certs := s.dev.certs }
      ∧ t.pkgId = s.pkgId ∧ t.hostMem = s.hostMem ∧ t.routes = []
      ∧ t.hbm = [] ∧ t.cores = [] ∧ t.clusters = [] ∧ t.dies = [] ∧ t.parts = [] ∧ t.groups = [] ∧ t.time = 0)
    ∧ (∀ s : State, s.dev.power = 2 → s.idle = true → Runs .standbyEntry s fun t =>
      t.dev = { s.dev with power := 1, slept := (List.range 8).filter fun sk => (s.dieAt sk).online } ∧ t.hbm = s.hbm ∧ t.parts = s.parts
      ∧ t.time = s.time ∧ t.cores = [] ∧ t.migCount = [] ∧ (∀ sk, (t.dieAt sk).running = false ∧ (t.dieAt sk).online = false)
      ∧ ∀ cl off, t.byteAt (.scratch cl off) = 0)
    ∧ (∀ s : State, s.dev.power = 1 → Runs .standbyExit s fun t =>
      let failed := fun (sk : Nat) => decide (sk < 8) && (Config.freeValue s.free).testBit sk
      t.dev = { s.dev with power := 2, slept := [] } ∧ t.time = s.time ∧ (s.dev.slept = [] → t.hbm = s.hbm)
      ∧ ∀ sk d, Tab.find? s.dies sk = some d → (sk ∈ s.dev.slept → failed sk = false → t.dieAt sk = { d with online := true, running := true, home := none })
        ∧ (sk ∈ s.dev.slept → failed sk = true → (t.dieAt sk).online = false ∧ (t.dieAt sk).running = false)
        ∧ (sk ∉ s.dev.slept → (t.dieAt sk).online = d.online ∧ (t.dieAt sk).running = d.running))
    ∧ (∀ (s : State) (a : Nat), s.dev.active = a → a = 16 ∨ a = 17 → s.dev.power ≠ 0 → s.dev.ioUp = [true, true] → Runs .ioDieFailover s fun t =>
      t.dev = { s.dev with active := 33 - a, ioUp := if a = 16 then [false, true] else [true, false] } ∧ t.cores = s.cores)
    ∧ (∀ (s : State) (stack : Nat) (lines : List Nat), s.dev.power = 2 → stack < 8 → (∀ l ∈ lines, l / 2 ^ 30 = stack) →
      Runs (.hbmScrub stack lines) s fun t => (∀ l, l ∈ t.poison ↔ l ∈ s.poison ∨ l ∈ lines) ∧ t.cores = s.cores
        ∧ (lines.length < 1024 → s.poison = [] → Bytes s t))
    ∧ (∀ s : State, s.dev.reg 8 = 1 → s.dev.boot = 1 →
      (s.dev.ident.getD (s.dev.active - 16) false = false → exec .attestationReport s = .next (s.setReg 8 0x101))
      ∧ (s.dev.ident.getD (s.dev.active - 16) false = true → Runs .attestationReport s fun t => t.dev.reg 8 = 0x100 ∧ t.dev.report.length = 2048
        ∧ t.cores = s.cores ∧ Bytes s t ∧ (let sig := s.dev.signature (s.dev.active - 16) s.reportBody
          t.dev.report.take 248 = s.reportBody ∧ leNat (t.dev.report.drop 248 |>.take 2) = sig.length ∧ (t.dev.report.drop 250).take sig.length = sig)
        ∧ leNat (t.dev.report.drop 8 |>.take 8) = s.time.toNat
        ∧ ∀ i, i < 4 → leNat (t.dev.report.drop (16 + 8 * i) |>.take 8) = (s.dev.reg (0x20 + 8 * i)).toNat))
    ∧ (∀ (s : State) (image : List Byte), s.dev.boot = 2 →
      exec (.firmwareImageUpdate image) s = .next { s with dev := { s.dev with flash := listSet s.dev.flash 0 image } })
    ∧ ∀ (s : State) (c : Cause) (tv : Word), s.fir.active = true → exec (.instructionWordFault c tv) s = .next (s.takeTrap c tv 0)

/-- DEBUG_ATTACH of a page whose dtgt names a live group that no page holds attaches it as running. DEBUG_HALT of a running resident group
begins its halt with DEBUG_HALT_REQUEST; of a group that is not resident it is kept for its resumption; of a group that is halting and has
nothing left that runs it completes the halt, which pauses the launch's time limit. DEBUG_RUN of a halted group restores its held firings
and lets it run, with no step under way; DEBUG_DETACH does the same and frees the page, at once when the group is not halting. SINGLE_STEP
of a halted group restores the firing of the selected rank and lets it run one instruction; its image is no longer shown. STEP_ABANDON of
a step that has waited 1 ms with no request out ends it with DEBUG_STEP and sets stmo. (The model's own choices here:
notes/assumptions/116.md.) (21_debug.md R368, 21_debug.md R369, 21_debug.md R372, 21_debug.md R373.) -/
def Obligations.DebugEvents : Prop :=
  (∀ (s : State) (pg g : Nat), pg < 64 → (s.dpage pg).att = false → s.debugTarget (s.dpage pg).dtgt.toNat = some g → s.pageOf g = none →
      Runs (.debugAttach pg) s fun t => { t with dpages := s.dpages } = s ∧ (t.dpage pg).att = true ∧ (t.dpage pg).gid = g ∧ (t.dpage pg).st = 1
        ∧ (t.dpage pg).cause = 0 ∧ (t.dpage pg).dimg = [] ∧ (t.dpage pg).bps = (s.dpage pg).bps ∧ (t.dpage pg).wps = (s.dpage pg).wps)
    ∧ (∀ (s : State) (pg : Nat),
      let p := s.dpage pg
      let g := s.groupAt p.gid
      let ks := g.cores
      p.att = true →
      (p.st = 1 → g.st = 2 → g.stopping = false → Runs (.debugHalt pg) s fun t => (t.dpage pg).st = 2 ∧ (t.dpage pg).cause = Cause.debugHaltRequest.code
        ∧ (t.dpage pg).crank = 0 ∧ (t.groupAt p.gid).halted = true ∧ Turn.act (.halt pg) ∈ t.turns ∧ Bytes s t
        ∧ ∀ k, t.coreAt k = { s.coreAt k with step := if k ∈ ks then 0 else (s.coreAt k).step })
      ∧ (p.st = 1 → g.st ≠ 2 → p.haltReq = false → exec (.debugHalt pg) s = .next (s.modPage pg fun p => { p with haltReq := true }))
      ∧ (p.st = 2 → g.st = 2 → g.halted = true → (∀ k ∈ ks, (s.coreAt k).stillFor p.gid = true) → Runs (.debugHalt pg) s fun t =>
        (t.dpage pg).st = 3 ∧ (t.dpage pg).dimg = s.shownImages p.gid ∧ t.cores = s.cores ∧ Bytes s t
          ∧ (t.launchAt g.launch).paused = some ((s.launchAt g.launch).paused.getD s.time.toNat))
      ∧ (∀ s1, p.st = 3 → (∀ k ∈ ks, (s.coreAt k).pageWait = none) → s.restoreAll p.gid ks = .ok s1 →
        let released := fun (t : State) => ∀ k, t.coreAt k = { s1.coreAt k with step := if k ∈ ks then 0 else (s1.coreAt k).step }
        (Runs (.debugRun pg) s fun t => (t.dpage pg).st = 1 ∧ (t.dpage pg).att = true ∧ (t.dpage pg).dimg = [] ∧ (t.groupAt p.gid).halted = false
          ∧ released t ∧ t.hbm = s1.hbm)
        ∧ (g.halted = true → Runs (.debugDetach pg) s fun t => (t.dpage pg).st = 0 ∧ (t.dpage pg).att = false ∧ (t.dpage pg).dimg = []
          ∧ (t.groupAt p.gid).halted = false ∧ released t ∧ t.hbm = s1.hbm))
      ∧ (g.halted = false → exec (.debugDetach pg) s
        = .next (s.modPage pg fun p => { p with att := false, st := 0, haltReq := false, stepping := false, dimg := [] }))
      ∧ (∀ k i sl s1, p.st = 3 → ks[p.srank]? = some k → (s.coreAt k).pageWait = none →
        List.find? (fun (e : Nat × Slot) => e.2.st == 4 && e.2.fir.gid == p.gid) (s.coreAt k).slots = some (i, sl) → s.restoreFiring k k i true = .ok s1 →
        Runs (.singleStep pg) s fun t => (t.coreAt k).step = 1 ∧ (t.coreAt k).l = (s1.coreAt k).l ∧ (t.dpage pg).st = 1 ∧ (t.dpage pg).stepping = true
          ∧ (t.dpage pg).stmo = false ∧ (t.dpage pg).dimg = Tab.erase p.dimg p.srank ∧ t.hbm = s1.hbm)
      ∧ (∀ k since, p.stepping = true → ks[p.srank]? = some k → (s.coreAt k).l.waitAt = some since → (s.coreAt k).step = 1 → (s.coreAt k).l.aw.busy = false →
        (s.coreAt k).l.fir.active = true → since + 1000000 ≤ s.time.toNat → (s.coreAt k).l.fir.gid = p.gid → (s.coreAt k).bound = some p.gid →
        s.pageOf p.gid = some (pg, p) → Runs (.stepAbandon pg) s fun t => (t.dpage pg).stmo = true ∧ (t.dpage pg).st = 2
          ∧ (t.groupAt p.gid).halted = true ∧ (t.coreAt k).step = 0
          ∧ ∃ zp, (t.coreAt k).faultDue = some (.debugStep, (s.coreAt k).l.pc, zp, true)))

/-- A two-register integer form whose first source, or when that one is full whose second, is empty waits while a producer of it is pending,
and takes EMPTY_REGISTER with the register's number when none is; one whose sources are full and whose destination awaits a producer
waits. Waiting keeps the PC, every register, memory and everything else but the tick at which the wait began and the owed turns. The F
forms of f sources, with a legal rounding code and no repetition active, wait and fail in the same way at the first source that is empty
and no stream; one that names f8 to f31 in an H firing takes HIGH_CONTEXT_ILLEGAL. (02_instruction_words.md R42, 02_instruction_words.md
R43, 02_instruction_words.md R44, 02_instruction_words.md R45.) -/
def Obligations.RegisterWaits : Prop :=
  (∀ (s : State) (rs2 rs1 rd : BitVec 5) (i : Instr),
      i ∈ [Instr.add rs2 rs1 rd, .sub rs2 rs1 rd, .sll rs2 rs1 rd, .slt rs2 rs1 rd, .sltu rs2 rs1 rd, .xor rs2 rs1 rd, .srl rs2 rs1 rd, .sra rs2 rs1 rd,
        .or rs2 rs1 rd, .and rs2 rs1 rd, .addw rs2 rs1 rd, .subw rs2 rs1 rd, .mul rs2 rs1 rd, .mulh rs2 rs1 rd, .mulhsu rs2 rs1 rd, .mulhu rs2 rs1 rd,
        .div rs2 rs1 rd, .divu rs2 rs1 rd, .rem rs2 rs1 rd, .remu rs2 rs1 rd, .sllw rs2 rs1 rd, .srlw rs2 rs1 rd, .sraw rs2 rs1 rd, .mulw rs2 rs1 rd,
        .divw rs2 rs1 rd, .divuw rs2 rs1 rd, .remw rs2 rs1 rd, .remuw rs2 rs1 rd] →
      let pending := fun (r : BitVec 5) => ∃ q ∈ s.ctx.pend, q.reg = xr r ∧ q.port = none
      let waits := exec i s = .next s.waited
      let fails := fun (r : BitVec 5) => exec i s = .next (s.takeTrap .emptyRegister (r.setWidth 64) 0)
      (rs1 ≠ 0 → xr rs1 ∈ s.ctx.empty → (pending rs1 → waits) ∧ (¬ pending rs1 → fails rs1))
      ∧ (Readable s (xr rs1) → rs2 ≠ 0 → xr rs2 ∈ s.ctx.empty → (pending rs2 → waits) ∧ (¬ pending rs2 → fails rs2))
      ∧ (Readable s (xr rs1) → Readable s (xr rs2) → rd ≠ 0 → pending rd → waits))
    ∧ (∀ s : State, Bytes s s.waited ∧ s.waited.cur = s.cur ∧ s.waited.ls = s.ls ∧ s.waited.time = s.time ∧ (∀ k, k ≠ s.cur → s.waited.coreAt k = s.coreAt k)
      ∧ { s.waited.ctx with waitAt := s.ctx.waitAt, passed := s.ctx.passed } = s.ctx ∧ s.waited.ctx.waitAt = some (s.ctx.waitAt.getD s.time.toNat)
      ∧ s.waited.me.instret = s.me.instret ∧ { s.waited with cores := s.cores, turns := s.turns } = s)
    ∧ ∀ (s : State) (rs3 rs2 rs1 rd : BitVec 5) (rm : BitVec 3) (i : Instr) (dst : Nat) (fd srcs : List (BitVec 5)),
      (i, dst, fd, srcs) ∈ [(Instr.faddS rs2 rs1 rm rd, fr rd, [rd], [rs1, rs2]), (.fsubS rs2 rs1 rm rd, fr rd, [rd], [rs1, rs2]),
        (.fmulS rs2 rs1 rm rd, fr rd, [rd], [rs1, rs2]), (.fdivS rs2 rs1 rm rd, fr rd, [rd], [rs1, rs2]), (.fsqrtS rs1 rm rd, fr rd, [rd], [rs1]),
        (.fmaddS rs3 rs2 rs1 rm rd, fr rd, [rd], [rs1, rs2, rs3]), (.fmsubS rs3 rs2 rs1 rm rd, fr rd, [rd], [rs1, rs2, rs3]),
        (.fnmsubS rs3 rs2 rs1 rm rd, fr rd, [rd], [rs1, rs2, rs3]), (.fnmaddS rs3 rs2 rs1 rm rd, fr rd, [rd], [rs1, rs2, rs3]),
        (.fsgnjS rs2 rs1 rd, fr rd, [rd], [rs1, rs2]), (.fsgnjnS rs2 rs1 rd, fr rd, [rd], [rs1, rs2]), (.fsgnjxS rs2 rs1 rd, fr rd, [rd], [rs1, rs2]),
        (.fminS rs2 rs1 rd, fr rd, [rd], [rs1, rs2]), (.fmaxS rs2 rs1 rd, fr rd, [rd], [rs1, rs2]), (.feqS rs2 rs1 rd, xr rd, [], [rs1, rs2]),
        (.fltS rs2 rs1 rd, xr rd, [], [rs1, rs2]), (.fleS rs2 rs1 rd, xr rd, [], [rs1, rs2]), (.fcvtWS rs1 rm rd, xr rd, [], [rs1]),
        (.fcvtWuS rs1 rm rd, xr rd, [], [rs1]), (.fmvXW rs1 rd, xr rd, [], [rs1]), (.fclassS rs1 rd, xr rd, [], [rs1])] →
      Idle s → Rounding s rm ≠ none →
      let pending := fun (r : Nat) => ∃ q ∈ s.ctx.pend, q.reg = r ∧ q.port = none
      (s.me.inH = true → (∃ r ∈ fd ++ srcs, 8 ≤ r.toNat) → exec i s = .next (s.takeTrap .highContextIllegal ((encode i).setWidth 64) 0))
      ∧ (Named s (fd ++ srcs) →
        (∀ pre r post, srcs = pre ++ r :: post → (∀ q ∈ pre, Readable s (fr q)) → s.portOf 1 r.toNat = none → fr r ∈ s.ctx.empty →
          (pending (fr r) → exec i s = .next s.waited) ∧ (¬ pending (fr r) → exec i s = .next (s.takeTrap .emptyRegister (BitVec.ofNat 64 (fr r)) 0)))
        ∧ ((∀ q ∈ srcs, Readable s (fr q)) → dst ≠ 0 → s.portOf (dst / 256) (dst % 256) = none → pending dst → exec i s = .next s.waited))

/-- A cause other than FABRIC_UNREACHABLE and REMOTE_DENIED raised in an L firing: of disposition K, kills the group with it; of H or D, in a
supervisor or fault handler firing, kills the group with SUPERVISOR_FAULT_NESTED and the cause; of D elsewhere with a debugger attached,
begins the group's halt with it; of H, or of D with no debugger, saves the firing and starts the fault handler with x10 the image's
address, x11 the cause and x12 its value, kills the group when no fault handler is registered, and stays due while the firing cannot be
saved yet, its PC kept; of P, while the notice queue has room, parks the firing for its page. In an H firing a P cause waits in place for
its page and any other kills the group. The image of a firing holds the header with the cause, the precise bit, kind and privilege, then
the PC, the value and zpos, and x1 to x31 and f0 to f31 at words 33 and 64. (17_traps.md R312, 17_traps.md R313, 17_traps.md R314,
17_traps.md R317, 17_traps.md R320, 17_traps.md R322.) -/
def Obligations.TrapTaking : Prop :=
  (∀ (s : State) (cs : Cause) (tv zp : Word), s.me.inH = false → cs ∉ [.fabricUnreachable, .remoteDenied] →
      let s0 := s.modCtx fun x => { x with aw := x.aw.kept, waitAt := none, relWait := none, passed := 0 }
      let k := s.cur
      let f := s.fir
      let t := s.takeTrap cs tv zp
      let due := s0.modCore k fun c => { c with faultDue := some (cs, tv, zp, true), l := { c.l with waitAt := some s.time.toNat } }
      (cs.disposition = .kill → t = s0.killGroup f.gid cs tv)
      ∧ (cs.disposition = .handler ∨ cs.disposition = .debug → f.sup = true ∨ f.kind = 2 →
        t = s0.killGroup f.gid .supervisorFaultNested (BitVec.ofNat 64 cs.code))
      ∧ (∀ pg p, cs.disposition = .debug → f.sup = false → f.kind ≠ 2 → s.pageOf f.gid = some (pg, p) → (Tab.get t.dpages pg {}).st = 2 ∧ (t.groupAt f.gid).halted = true
        ∧ ((Tab.get s.dpages pg {}).st ≠ 2 → (Tab.get t.dpages pg {}).cause = cs.code)
        ∧ (t.coreAt k).faultDue = some (cs, tv, zp, true) ∧ (t.coreAt k).l.pc = s.ctx.pc ∧ Turn.act (.halt pg) ∈ t.turns ∧ Bytes s t)
      ∧ ((cs.disposition = .handler ∨ (cs.disposition = .debug ∧ s.pageOf f.gid = none)) → f.sup = false → f.kind ≠ 2 → s.me.pageWait = none →
        (s.groupAt f.gid).halted = false →
        (due.faultEntry f.gid k = none → t = (due.modCore k fun c => { c with faultDue := none }).killGroup f.gid cs tv)
        ∧ ∀ e, due.faultEntry f.gid k = some e → due.egressFits k false (entProd e) = true →
          (∀ i s1, due.saveFiring k cs.code tv zp true true 1 = .ok i s1 → (t.coreAt k).faultDue = none ∧ t.hbm = s1.hbm
            ∧ (∃ x, Tab.find? (t.coreAt k).slots i = some x ∧ x.st = 1 ∧ x.fir = f ∧ x.cause = cs.code)
            ∧ (t.coreAt k).l.fir.kind = 2 ∧ (t.coreAt k).l.fir.active = true ∧ (t.coreAt k).l.fir.sup = false ∧ (t.coreAt k).l.fir.slot = i
            ∧ (t.coreAt k).l.pc = BitVec.ofNat 64 (entPc e)
            ∧ (t.coreAt k).l.x = [(10, s.slotVa f.part f.job k i), (11, BitVec.ofNat 64 cs.code), (12, tv)]
            ∧ (t.coreAt k).l.zcause = BitVec.ofNat 8 cs.code ∧ (t.coreAt k).l.ztval = tv ∧ (t.coreAt k).ls.zpos = zp)
          ∧ (due.saveFiring k cs.code tv zp true true 1 = .wait → t = due ∧ (t.coreAt k).l.pc = s.ctx.pc))
      ∧ (cs.disposition = .park → s.me.pageWait = none → (s.partAt f.part).ntqRoom = true →
        ∀ i s1, due.saveFiring k cs.code tv zp true false 2 = .ok i s1 → (t.coreAt k).l.fir.active = false ∧ (t.coreAt k).faultDue = none
          ∧ (∃ x, Tab.find? (t.coreAt k).slots i = some x ∧ x.st = 2 ∧ x.fir = f ∧ x.cause = cs.code ∧ x.page = pageOfVa tv)
          ∧ (t.partAt f.part).ntqprod = ((s.partAt f.part).ntqprod + 1) % 2 ^ 32))
    ∧ (∀ (s : State) (cs : Cause) (tv zp : Word), s.me.inH = true → cs ∉ [.fabricUnreachable, .remoteDenied] →
      let s0 := s.modCtx fun x => { x with aw := x.aw.kept, waitAt := none, relWait := none, passed := 0 }
      let t := s.takeTrap cs tv zp
      (cs.disposition = .kill → t = s0.killGroup s.fir.gid cs tv)
      ∧ (cs.disposition = .handler ∨ cs.disposition = .debug → t = if s.fir.sup then
          s0.killGroup s.fir.gid .supervisorFaultNested (BitVec.ofNat 64 cs.code) else s0.killGroup s.fir.gid cs tv)
      ∧ (cs.disposition = .park → (s.partAt s.fir.part).ntqRoom = true → (t.coreAt s.cur).pageWait = some (pageOfVa tv)
        ∧ (t.coreAt s.cur).h.pc = s.ctx.pc ∧ (t.coreAt s.cur).h.fir = s.fir ∧ (t.coreAt s.cur).l = s.me.l
        ∧ (t.partAt s.fir.part).ntqprod = ((s.partAt s.fir.part).ntqprod + 1) % 2 ^ 32))
    ∧ ∀ (c : Core) (cause : Nat) (prec : Bool) (tv zp : Word) (ca : List CSlot), cause < 256 → c.l.fir.kind < 4 → c.l.fir.nmsg < 4096 → c.l.fir.hidx < 4096 →
      let ws := c.image cause prec tv zp ca
      let w0 := (ws.getD 0 0).toNat
      w0 / 2 ^ 48 % 2 ^ 8 = cause ∧ w0 / 2 ^ 47 % 2 = b2n prec ∧ w0 / 2 ^ 45 % 4 = c.l.fir.kind ∧ w0 / 2 ^ 44 % 2 = b2n c.l.fir.sup
        ∧ ws.getD 1 0 = c.l.pc ∧ ws.getD 2 0 = tv ∧ ws.getD 3 0 = zp ∧ (∀ r, 1 ≤ r → r < 32 → ws.getD (32 + r) 0 = Tab.get c.l.x r 0)
        ∧ ∀ r, r < 32 → ws.getD (64 + r) 0 = Tab.get c.l.f r 0

/-- With no turn owed, and the moving core about to run an instruction with no breakpoint on it and no stopped die to wait for, the step is
that of exec on the fetched and decoded word, after which the turn passes, but while its translation misses and its die's walker has no
room for the walk it waits and has no other effect; a word that decodes to a cause takes it with the word as its value. The core runs an
instruction when its die runs, it waits for no page, nothing holds it and its H firing, or with none and an empty H queue its L firing, is
active with no cause waiting or due. The fetch reads the little-endian word at the place that the PC is translated to, when the
instruction cache is empty. Passing the turn keeps every core when no push of a killed firing is left, and all memory too when no die has
a frequency step to come. A turn that is an event runs that event's meaning. (The turns are the model's own: notes/assumptions/7.md; the
pushes of killed firings: notes/assumptions/47.md.) (02_instruction_words.md R30, 02_instruction_words.md R42, 03_scalar.md R60,
08_messages.md R165, 18_translation.md R339, 20_dies_time.md R358.) -/
def Obligations.StepRunsDecoded : Prop :=
  (∀ (s s1 : State) (w : BitVec 32), s.turns = [] → s.move = .instr → s.atBreak = false → s.fetchStuck s.org s.ctx.pc = none →
      s.fetchWord s.org s.ctx.pc = .ok (w, s1) →
      (∀ i t, decode w = .ok i → exec i s1 = .next t →
        (s.missWaits t = false → step s = .next (t.afterInstr s.cur (s.me.step == 1)).passTurn ∧ (s.me.step ≠ 1 → step s = .next t.passTurn))
          ∧ (s.missWaits t = true → step s = .next s.waited.passTurn))
        ∧ ∀ c, decode w = .error c → s.me.step ≠ 1 → s.missWaits (s1.takeTrap c (w.setWidth 64) 0) = false →
          step s = .next (s1.takeTrap c (w.setWidth 64) 0).passTurn)
    ∧ (∀ s : State, (s.dieAt (s.cur / 512)).running = true → s.me.pageWait = none → s.coreHeld s.cur = false →
      (s.me.h.fir.active = true → s.me.h.causes = [] → s.move = .instr)
      ∧ (s.me.h.fir.active = false → s.me.hq = [] → s.me.faultDue = none → s.me.l.fir.active = true → s.me.l.causes = [] → s.me.step = 0 →
        s.lStopped s.cur = false → s.move = .instr))
    ∧ (∀ (s s0 : State) (pa : Nat), tagOk s.ctx.pc = true → canonical s.ctx.pc = true → s.ctx.pc.toNat % 2 ^ 48 % 4 = 0 →
      s.place s.org s.ctx.pc 4 .fetch = .ok ({ spot := .flat (.hbm pa), cnt := false }, s0) →
      s0.poisoned (.flat (.hbm pa)) 4 = false → s0.me.icache = [] → ∃ s1, s.fetchWord s.org s.ctx.pc = .ok (BitVec.ofNat 32 (s.numAt (.hbm pa) 4), s1)
        ∧ s1.cur = s.cur ∧ s1.ctx = s.ctx ∧ Bytes s s1)
    ∧ (∀ t : State, ((∀ e ∈ t.dies, e.2.next = none ∧ e.2.asked = []) → Bytes t t.passTurn)
      ∧ ((∀ e ∈ t.dies, e.2.next = none ∧ e.2.asked = []) ∨ t.lastPushes = [] → (∀ k, t.passTurn.coreAt k = t.coreAt k) ∧ t.passTurn.clusters = t.clusters))
    ∧ ∀ (s : State) (i : Instr) (rest : List Turn), s.turns = .event i :: rest → step s = exec i { s with turns := rest }

/-- For every state, the meaning of every instruction answers a next state, whatever the operands, and so does every step of the machine: each
cause is taken with its disposition and never stops the machine. (17_traps.md R312, 17_traps.md R313.) -/
def Obligations.EveryStepGoes : Prop :=
  (∀ (i : Instr) (s : State), Goes (exec i s)) ∧ (∀ s : State, Goes (step s)) ∧ ∀ (n : Nat) (s : State), SafeFor n s

/-- In the state after reset the package has no power and has not booted, no die runs, there is no partition, launch, group or packet, no core
runs a firing, the timer reads 0, and every byte memory is in canonical form. Every register of every core reads 0 and every byte of
memory reads 0: these values are the model's choice (notes/assumptions/1.md, notes/assumptions/2.md), as the spec gives none.
(22_host_boot.md R380, 22_host_boot.md R384.) -/
def Obligations.ResetState : Prop :=
  MemoryCanonical State.reset ∧ State.reset.dev.power = 0 ∧ State.reset.dev.boot = 0 ∧ State.reset.time = 0 ∧ State.reset.parts = [] ∧ State.reset.launches = []
    ∧ State.reset.groups = [] ∧ State.reset.pkts = [] ∧ State.reset.flights = [] ∧ (∀ sk, (State.reset.dieAt sk).online = false ∧ (State.reset.dieAt sk).running = false)
    ∧ (∀ k, (State.reset.coreAt k).l.fir.active = false ∧ (State.reset.coreAt k).h.fir.active = false ∧ (State.reset.coreAt k).bound = none)
    ∧ (∀ k r, Tab.get (State.reset.coreAt k).l.x r 0 = 0 ∧ Tab.get (State.reset.coreAt k).h.x r 0 = 0 ∧ Tab.get (State.reset.coreAt k).l.f r 0 = 0
      ∧ Tab.get (State.reset.coreAt k).ls.v r 0 = 0 ∧ (State.reset.coreAt k).l.pc = 0) ∧ ∀ l, State.reset.byteAt l = 0

/-- For every state whose device memory, host memory, scratchpads, private memories and shadow images are in canonical form (addresses
strictly rising, no byte listed that an unlisted address reads as), the state after any step of the machine has them all in canonical form
again. (The canonical form, and that an unlisted byte reads 0, are the model's own choice: notes/assumptions/2.md.) (01_machine.md R13,
03_scalar.md R68, 18_translation.md R332.) -/
def Obligations.MemoryStaysCanonical : Prop :=
  ∀ s t : State, MemoryCanonical s → step s = .next t → MemoryCanonical t

/-- For every instruction that has a word and whose fields break no rule of the encoding, the decoder reads that instruction, with all its
operands, from the word that the encoder writes for it. (02_instruction_words.md R30, 02_instruction_words.md R33, 02_instruction_words.md
R34.) -/
def Obligations.DecodeEncode : Prop :=
  ∀ i : Instr, i.isWord = true → i.wellFormed = true → decode (encode i) = .ok i

/-- For every 32-bit word that the decoder reads as an instruction, the instruction has a word and is well formed, and the encoder writes that
very word for it; so two words that decode to one instruction are equal. (02_instruction_words.md R31, 02_instruction_words.md R34,
02_instruction_words.md R42.) -/
def Obligations.EncodeDecode : Prop :=
  (∀ (w : BitVec 32) (i : Instr), decode w = .ok i → i.isWord = true ∧ i.wellFormed = true ∧ encode i = w)
    ∧ ∀ (v w : BitVec 32) (i : Instr), decode v = .ok i → decode w = .ok i → v = w

/-- The decoder reads the spec's own worked words: vfma.bf16 v3, v1, v2.t from 0x188849AB, copy.sto x6, x5, x7 from 0x0A53D35B, kld x5, k20
from 0x1480728B, acas x10, x11, 0(x12) from 0x00B6350B, senda x8, x6, 20 from 0x1143140B, vld v2, 64(x5) from 0x0022815B, ord.rel x12 from
0x0806200B, tret from 0x0000600B and end from 0x3800100B. The word 0x0000707B raises ILLEGAL_OPCODE, custom-0 f3 0 op5 9 (0x4800000B)
RESERVED_FIELD, and the COPY word with rnd 0b010 RESERVED_ROUNDING. (02_instruction_words.md R31, 02_instruction_words.md R33,
02_instruction_words.md R42.) -/
def Obligations.DecodeWords : Prop :=
  decode 0x188849AB = .ok (.vfma 0 1 0 2 1 1 3) ∧ decode 0x0A53D35B = .ok (.copy 5 5 7 6) ∧ decode 0x1480728B = .ok (.kld 20 5)
    ∧ decode 0x00B6350B = .ok (.acas 0 0 11 12 10) ∧ decode 0x1143140B = .ok (.senda 20 6 8) ∧ decode 0x0022815B = .ok (.vld 2 5 2)
    ∧ decode 0x0806200B = .ok (.ordRel 0 12) ∧ decode 0x0000600B = .ok .tret ∧ decode 0x3800100B = .ok .endF
    ∧ decode 0x0000707B = .error .illegalOpcode ∧ decode 0x4800000B = .error .reservedField ∧ decode 0x0453D35B = .error .reservedRounding
end

