-- ==== Sys2Proof/Laws/Effect.lean ====
section
/-! SUPPORT. The small laws of effects, tables and the operand layer. -/

namespace Sys2Proof.Laws

open Sys2Proof.Machine Sys2Proof.Claims

@[simp] theorem get_set_same {α : Type} (t : Tab α) (k : Nat) (v d : α) : Tab.get (Tab.set t k v) k d = v := by
  unfold Tab.get
  suffices h : Tab.find? (Tab.set t k v) k = some v by rw [h]; rfl
  induction t with
  | nil => simp [Tab.set, Tab.find?]
  | cons e t ih =>
    obtain ⟨k', v'⟩ := e
    simp only [Tab.set]
    split
    · simp [Tab.find?]
    · split
      · simp [Tab.find?]
      · simp [Tab.find?, *]

theorem get_set_other {α : Type} (t : Tab α) (k j : Nat) (v d : α) (h : j ≠ k) : Tab.get (Tab.set t k v) j d = Tab.get t j d := by
  unfold Tab.get
  suffices h : Tab.find? (Tab.set t k v) j = Tab.find? t j by rw [h]
  induction t with
  | nil => simp [Tab.set, Tab.find?, Ne.symm h]
  | cons e t ih =>
    obtain ⟨k', v'⟩ := e
    simp only [Tab.set]
    split
    · rename_i hk
      subst hk
      simp [Tab.find?, Ne.symm h]
    · split
      · simp [Tab.find?, Ne.symm h]
      · simp only [Tab.find?]
        split <;> [rfl; exact ih]

/-- Sequencing of effects. -/
theorem bind_run {α β : Type} (m : M α) (f : α → M β) (s : State) :
    (m >>= f) s = match m s with
      | .ok (a, t) => f a t
      | .error e => .error e := by
  simp only [bind, StateT.bind, Except.bind]
  cases m s <;> rfl

theorem bind_ok {α β : Type} {m : M α} {f : α → M β} {s t : State} {a : α} (h : m s = .ok (a, t)) : (m >>= f) s = f a t := by
  rw [bind_run, h]

@[simp] theorem pure_run {α : Type} (a : α) (s : State) : (pure a : M α) s = .ok (a, s) := rfl
@[simp] theorem get_run (s : State) : (get : M State) s = .ok (s, s) := rfl
@[simp] theorem set_run (s t : State) : (set t : M PUnit) s = .ok ((), t) := rfl
@[simp] theorem upd_run (f : State → State) (s : State) : upd f s = .ok ((), f s) := rfl
@[simp] theorem ctx_run (s : State) : ctx s = .ok (s.ctx, s) := rfl
@[simp] theorem me_run (s : State) : me s = .ok (s.me, s) := rfl
@[simp] theorem updCtx_run (f : Ctx → Ctx) (s : State) : updCtx f s = .ok ((), s.modCtx f) := rfl
@[simp] theorem updMe_run (f : Core → Core) (s : State) : updMe f s = .ok ((), s.modMe f) := rfl
@[simp] theorem updLs_run (f : LState → LState) (s : State) : updLs f s = .ok ((), s.modLs f) := rfl
@[simp] theorem post_run (a : Act) (s : State) : post a s = .ok ((), s.post a) := rfl
theorem holdUnless_run {b : Bool} (h : b = true) (s : State) : holdUnless b s = .ok ((), s) := by subst h; rfl
theorem trapIf_run {b : Bool} (h : b = false) (c : Cause) (tv : Word) (s : State) : trapIf b c tv s = .ok ((), s) := by subst h; rfl
theorem trapIf_trap {b : Bool} (h : b = true) (c : Cause) (tv : Word) (s : State) : trapIf b c tv s = .error (.trap c tv 0) := by subst h; rfl

/-- An effect that completes, or waits, is settled as it stands (R371). -/
theorem settle_ok {α : Type} {m : M α} {s : State} {r : α × State} (h : m s = .ok r) : settle m s = .ok r := by
  simp only [settle, h]

theorem settle_hold {α : Type} {m : M α} {s : State} {o : Option State} (h : m s = .error (.hold o)) : settle m s = .error (.hold o) := by
  simp only [settle, h]

/-- A trap other than a watchpoint's is settled as it stands (R371). -/
theorem settle_trap {α : Type} {m : M α} {s : State} {c : Cause} {tv zp : Word} (hc : c ≠ .debugWatchpoint)
    (h : m s = .error (.trap c tv zp)) : settle m s = .error (.trap c tv zp) := by
  cases c <;> first | exact absurd rfl hc | simp only [settle, h]

/-- How an instruction completes that goes on at the next word. -/
theorem run_ok {m : M Unit} {s t : State} (h : m s = .ok ((), t)) : run m s = .next (t.retire (t.ctx.pc + 4)) := by
  rw [run, settle_ok (r := (t.ctx.pc + 4, t)) (by rw [bind_ok h]; rfl)]
  rfl

theorem runTo_ok {m : M Word} {s t : State} {pc : Word} (h : m s = .ok (pc, t)) : runTo m s = .next (t.retire pc) := by
  simp only [runTo, settle_ok h, finish]

theorem run_trap {m : M Unit} {s : State} {c : Cause} {tv zp : Word} (hc : c ≠ .debugWatchpoint) (h : m s = .error (.trap c tv zp)) :
    run m s = .next (s.takeTrap c tv zp) := by
  rw [run, settle_trap (tv := tv) (zp := zp) hc (by simp only [bind_run, h])]
  rfl

theorem runTo_trap {m : M Word} {s : State} {c : Cause} {tv zp : Word} (hc : c ≠ .debugWatchpoint) (h : m s = .error (.trap c tv zp)) :
    runTo m s = .next (s.takeTrap c tv zp) := by
  simp only [runTo, settle_trap hc h, finish]

/-! The operand layer. -/

/-- No x register is a stream (R118). -/
@[simp] theorem portOf_x (s : State) (n : Nat) : s.portOf 0 n = none := by simp [State.portOf]

theorem srcReady_ok {s : State} {r : Nat} (h : Readable s r) (eb : Bool) : srcReady r eb s = .ok ((), s) := by
  rcases h with rfl | ⟨hp, he⟩
  · rfl
  · by_cases hr : r = 0
    · subst hr; rfl
    · unfold srcReady
      rw [bind_ok (get_run s)]
      simp [hr, hp, he]

theorem srcConflict_ok {s : State} {r : Nat} (h : Readable s r) : srcConflict r s = .ok ((), s) := by
  unfold srcConflict
  rw [bind_ok (get_run s)]
  rcases h with rfl | ⟨hp, _⟩
  · simp
  · simp [hp]

theorem dstReady_ok {s : State} {r : Nat} (h : Writable s r) : dstReady r s = .ok ((), s) := by
  rcases h with rfl | ⟨hp, hq⟩
  · rfl
  · by_cases hr : r = 0
    · subst hr; rfl
    · unfold dstReady
      rw [bind_ok (get_run s)]
      simp only [hr, hp, if_false]
      refine holdUnless_run ?_ s
      simp only [Bool.not_eq_true', List.any_eq_false]
      intro q hm
      simp only [Bool.and_eq_true, beq_iff_eq, not_and]
      intro hqr hn
      have := hq q hm hqr
      cases hh : q.port <;> simp_all

theorem srcsReady_ok {s : State} {rs : List (Nat × Bool)} (h : ∀ r ∈ rs, Readable s r.1) : srcsReady rs s = .ok ((), s) := by
  induction rs with
  | nil => rfl
  | cons r rs ih =>
    unfold srcsReady
    rw [bind_ok (srcReady_ok (h r (by simp)) r.2)]
    exact ih fun x hx => h x (by simp [hx])

theorem srcsFree_ok {s : State} {rs : List (Nat × Bool)} (h : ∀ r ∈ rs, Readable s r.1) : srcsFree rs s = .ok ((), s) := by
  induction rs with
  | nil => rfl
  | cons r rs ih =>
    unfold srcsFree
    rw [bind_ok (srcConflict_ok (h r (by simp)))]
    exact ih fun x hx => h x (by simp [hx])

theorem dstsReady_ok {s : State} {rs : List Nat} (h : ∀ r ∈ rs, Writable s r) : dstsReady rs s = .ok ((), s) := by
  induction rs with
  | nil => rfl
  | cons r rs ih =>
    unfold dstsReady
    rw [bind_ok (dstReady_ok (h r (by simp)))]
    exact ih fun x hx => h x (by simp [hx])

/-- The register checks pass, and change nothing, when every register may be read or written. -/
theorem regs_ok {s : State} {srcs : List (Nat × Bool)} {dsts : List Nat} (h : Ready s (srcs.map (·.1)) dsts) :
    regs srcs dsts s = .ok ((), s) := by
  have hs : ∀ r ∈ srcs, Readable s r.1 := fun r hr => h.1 r.1 (List.mem_map_of_mem hr)
  unfold regs
  rw [bind_ok (srcsReady_ok hs), bind_ok (srcsFree_ok hs)]
  exact dstsReady_ok h.2

@[simp] theorem getX_run (r : BitVec 5) (s : State) : getX r s = .ok (X s r, s) := rfl
@[simp] theorem setX_run (d : BitVec 5) (v : Word) (s : State) :
    setX d v s = .ok ((), s.modMe fun c => c.setReg c.inH (xr d) v.toNat) := rfl

/-! What noting the written blocks of a firing image leaves alone: every field of the core but `dirty`. -/

@[simp] theorem touch_l (c : Core) (ns : List Nat) : (c.touch ns).l = c.l := rfl
@[simp] theorem touch_h (c : Core) (ns : List Nat) : (c.touch ns).h = c.h := rfl
@[simp] theorem touch_ls (c : Core) (ns : List Nat) : (c.touch ns).ls = c.ls := rfl
@[simp] theorem touch_priv (c : Core) (ns : List Nat) : (c.touch ns).priv = c.priv := rfl
@[simp] theorem touch_constLen (c : Core) (ns : List Nat) : (c.touch ns).constLen = c.constLen := rfl
@[simp] theorem touch_hq (c : Core) (ns : List Nat) : (c.touch ns).hq = c.hq := rfl
@[simp] theorem touch_lq (c : Core) (ns : List Nat) : (c.touch ns).lq = c.lq := rfl
@[simp] theorem touch_ca (c : Core) (ns : List Nat) : (c.touch ns).ca = c.ca := rfl
@[simp] theorem touch_armed (c : Core) (ns : List Nat) : (c.touch ns).armed = c.armed := rfl
@[simp] theorem touch_bound (c : Core) (ns : List Nat) : (c.touch ns).bound = c.bound := rfl
@[simp] theorem touch_launchDue (c : Core) (ns : List Nat) : (c.touch ns).launchDue = c.launchDue := rfl
@[simp] theorem touch_sendCtr (c : Core) (ns : List Nat) : (c.touch ns).sendCtr = c.sendCtr := rfl
@[simp] theorem touch_invCtr (c : Core) (ns : List Nat) : (c.touch ns).invCtr = c.invCtr := rfl
@[simp] theorem touch_accCtr (c : Core) (ns : List Nat) : (c.touch ns).accCtr = c.accCtr := rfl
@[simp] theorem touch_l1 (c : Core) (ns : List Nat) : (c.touch ns).l1 = c.l1 := rfl
@[simp] theorem touch_icache (c : Core) (ns : List Nat) : (c.touch ns).icache = c.icache := rfl
@[simp] theorem touch_stores (c : Core) (ns : List Nat) : (c.touch ns).stores = c.stores := rfl
@[simp] theorem touch_batches (c : Core) (ns : List Nat) : (c.touch ns).batches = c.batches := rfl
@[simp] theorem touch_instret (c : Core) (ns : List Nat) : (c.touch ns).instret = c.instret := rfl
@[simp] theorem touch_slots (c : Core) (ns : List Nat) : (c.touch ns).slots = c.slots := rfl
@[simp] theorem touch_dataL (c : Core) (ns : List Nat) : (c.touch ns).dataL = c.dataL := rfl
@[simp] theorem touch_dataH (c : Core) (ns : List Nat) : (c.touch ns).dataH = c.dataH := rfl
@[simp] theorem touch_placeCtr (c : Core) (ns : List Nat) : (c.touch ns).placeCtr = c.placeCtr := rfl
@[simp] theorem touch_csrWait (c : Core) (ns : List Nat) : (c.touch ns).csrWait = c.csrWait := rfl
@[simp] theorem touch_faultDue (c : Core) (ns : List Nat) : (c.touch ns).faultDue = c.faultDue := rfl
@[simp] theorem touch_step (c : Core) (ns : List Nat) : (c.touch ns).step = c.step := rfl
@[simp] theorem touch_pageWait (c : Core) (ns : List Nat) : (c.touch ns).pageWait = c.pageWait := rfl
@[simp] theorem touch_inH (c : Core) (ns : List Nat) : (c.touch ns).inH = c.inH := rfl
@[simp] theorem touch_ctx (c : Core) (ns : List Nat) : (c.touch ns).ctx = c.ctx := rfl
@[simp] theorem plain_touch (c : Core) (ns : List Nat) : plain (c.touch ns) = plain c := by
  unfold plain; cases h : c.h.fir.active <;> simp [Core.touch, Core.inH, Core.ctx, Core.putCtx, h]

/-! Reading back a changed core. -/

@[simp] theorem me_modMe (s : State) (f : Core → Core) : (s.modMe f).me = f s.me := by
  simp [State.modMe, State.modCore, State.putCore, State.me, State.coreAt]
@[simp] theorem cur_modMe (s : State) (f : Core → Core) : (s.modMe f).cur = s.cur := rfl
theorem coreAt_modMe (s : State) (f : Core → Core) (k : Nat) (h : k ≠ s.cur) : (s.modMe f).coreAt k = s.coreAt k :=
  get_set_other _ _ _ _ _ h
@[simp] theorem rest_modMe (s : State) (f : Core → Core) : { s.modMe f with cores := s.cores } = s := rfl
theorem modMe_modMe (s : State) (f g : Core → Core) : (s.modMe f).modMe g = s.modMe fun c => g (f c) := by
  have set_set : ∀ (t : Tab Core) k a b, Tab.set (Tab.set t k a) k b = Tab.set t k b := by
    intro t k a b
    induction t with
    | nil => simp [Tab.set]
    | cons e t ih =>
      obtain ⟨k', v'⟩ := e
      simp only [Tab.set]
      split
      · simp [Tab.set]
      · split
        · simp [Tab.set]
        · simp [Tab.set, *]
  show State.putCore (s.modMe f) s.cur (g ((s.modMe f).coreAt s.cur)) = State.putCore s s.cur (g (f (s.coreAt s.cur)))
  have : (s.modMe f).coreAt s.cur = f (s.coreAt s.cur) := me_modMe s f
  rw [this]
  simp [State.putCore, State.modMe, State.modCore, set_set]

theorem retire_eq (s : State) (pc : Word) : s.retire pc = s.modMe fun c => { c.putCtx c.inH { c.ctx with pc := pc, waitAt := none, passed := 0 } with instret := c.instret + 1 } := rfl

theorem ctx_modMe (s : State) (f : Core → Core) : (s.modMe f).ctx = (f s.me).ctx := by simp [State.ctx]

/-- A change of the moving core that leaves its private memory alone leaves every byte alone. -/
theorem byteAt_modMe (s : State) (f : Core → Core) (h : ∀ c, (f c).priv = c.priv) (l : Loc) : (s.modMe f).byteAt l = s.byteAt l := by
  cases l with
  | priv k off =>
    simp only [State.byteAt]
    by_cases hk : k = s.cur
    · subst hk
      have : (s.modMe f).coreAt s.cur = f (s.coreAt s.cur) := me_modMe s f
      rw [this, h]
    · rw [coreAt_modMe _ _ _ hk]
  | _ => rfl

theorem putCtx_priv (c : Core) (h : Bool) (x : Ctx) : (c.putCtx h x).priv = c.priv := by
  cases h <;> rfl

theorem setReg_priv (c : Core) (h : Bool) (r v : Nat) : (c.setReg h r v).priv = c.priv := by
  unfold Core.setReg
  split_ifs <;> simp [putCtx_priv]

/-- The core after fflags are raised and a register is written. -/
def Wrote (c : Core) (r v : Nat) (fl : BitVec 8) : Core :=
  (c.putCtx c.inH { c.ctx with fcsr := c.ctx.fcsr ||| fl }).setReg c.inH r v

/-- The state after fflags are raised, a register is written and the instruction has retired. -/
def wrote (s : State) (r v : Nat) (fl : BitVec 8) (pc : Word) : State := (s.modMe fun c => Wrote c r v fl).retire pc

/-- A change of the moving core that retires keeps what the core's parts keep. -/
theorem keeps_of {s : State} {f : Core → Core} {rs : List Nat} {fl : BitVec 8} {pc : Word} (hp : (f s.me).priv = s.me.priv)
    (h : let c := f s.me
      let x := c.ctx
      let y := s.me.ctx
      c.inH = s.me.inH ∧ (∀ r : BitVec 5, xr r ∉ rs → r ≠ 0 → Tab.get x.x r.toNat 0 = Tab.get y.x r.toNat 0)
      ∧ (∀ r : BitVec 5, fr r ∉ rs → Tab.get x.f r.toNat 0 = Tab.get y.f r.toNat 0)
      ∧ (∀ n, 512 + n ∉ rs → Tab.get c.ls.v n 0 = Tab.get s.me.ls.v n 0)
      ∧ (∀ r, r ∉ rs → (r ∈ x.empty ↔ r ∈ y.empty)) ∧ x.fcsr = y.fcsr ||| fl ∧ plain c = plain s.me) :
    Keeps s ((s.modMe f).retire pc) rs fl := by
  obtain ⟨h0, h1, h2, h3, h4, h5, h6⟩ := h
  have hh : (f s.me).h.fir.active = s.me.h.fir.active := h0
  have hctx : ((s.modMe f).retire pc).ctx = { (f s.me).ctx with pc := pc, waitAt := none, passed := 0 } := by
    rw [retire_eq, modMe_modMe]
    cases ha : s.me.h.fir.active <;> simp [State.ctx, Core.ctx, Core.inH, Core.putCtx, ha, hh]
  have hls : ((s.modMe f).retire pc).ls = (f s.me).ls := by
    rw [retire_eq, modMe_modMe]
    cases ha : s.me.h.fir.active <;> simp [State.ls, Core.inH, Core.putCtx, ha, hh]
  have key : (f s.me).ctx.zcause = s.me.ctx.zcause ∧ (f s.me).ctx.ztval = s.me.ctx.ztval ∧ (f s.me).ctx.arrivals = s.me.ctx.arrivals
      ∧ (f s.me).ctx.causes = s.me.ctx.causes ∧ (f s.me).ctx.fir = s.me.ctx.fir
      ∧ { (f s.me).ls with v := s.me.ls.v } = s.me.ls := by
    have hz := h6
    cases ha : s.me.h.fir.active <;> simp [plain, Core.ctx, Core.inH, Core.putCtx, ha, hh] at hz ⊢ <;>
      (obtain ⟨h7, h8, h9⟩ := hz; simp_all)
  obtain ⟨k1, k2, k3, k4, k5, k6⟩ := key
  refine ⟨⟨⟨rfl, ?_, ?_, ?_, ?_, ?_, ?_, ?_, ?_, ?_⟩, ?_, ?_, ?_⟩, ?_, ?_, ?_, ?_⟩
  · intro r hr
    unfold X
    rw [hctx]
    split_ifs with hz
    · rfl
    · exact h1 r hr hz
  · intro r hr
    unfold F
    rw [hctx]
    exact h2 r hr
  · intro n hn
    unfold V
    rw [hls]
    exact h3 n hn
  · rw [hctx]; exact h4
  · rw [hctx]; exact h5
  · rw [hctx]; exact k1
  · rw [hctx]; exact k2
  · rw [hctx]; exact k4
  · rw [hls]
    exact congrArg (fun l : LState => { l with ports := s.ls.ports }) k6
  · simp only [State.fir, hctx]; exact k5
  · rw [hls]
    have := congrArg LState.ports k6
    exact this
  · rw [hctx]; exact k3
  · intro l
    rw [retire_eq, modMe_modMe]
    cases l with
    | priv k off =>
      simp only [State.byteAt]
      by_cases hk : k = s.cur
      · subst hk
        have : (s.modMe fun c => { (f c).putCtx (f c).inH { (f c).ctx with pc := pc, waitAt := none, passed := 0 } with instret := (f c).instret + 1 }).coreAt s.cur
            = _ := me_modMe s _
        rw [this]
        show Memory.read ((f s.me).putCtx _ _).priv off = _
        rw [putCtx_priv, hp]
        rfl
      · rw [coreAt_modMe _ _ _ hk]
    | _ => rfl
  · rw [retire_eq, modMe_modMe, me_modMe, ← h6]
    cases ha : s.me.h.fir.active <;> simp [plain, Core.ctx, Core.inH, Core.putCtx, ha, hh]
  · intro k hk
    rw [retire_eq, modMe_modMe]
    exact coreAt_modMe _ _ _ hk
  · rfl

theorem retired_of {s : State} {f : Core → Core} {pc : Word} (h : (f s.me).inH = s.me.inH) (hi : (f s.me).instret = s.me.instret) :
    Retired s ((s.modMe f).retire pc) pc := by
  have hh : (f s.me).h.fir.active = s.me.h.fir.active := h
  rw [retire_eq, modMe_modMe]
  refine ⟨?_, ?_⟩ <;> cases ha : s.me.h.fir.active <;>
    simp [State.ctx, Core.ctx, Core.inH, Core.putCtx, ha, hh, hi]

theorem Wrote_inH (c : Core) (r v : Nat) (fl : BitVec 8) : (Wrote c r v fl).inH = c.inH := by
  by_cases h0 : r = 0 <;> by_cases h1 : r / 256 = 0 <;> by_cases h2 : r / 256 = 1 <;> cases hh : c.h.fir.active <;>
    simp [Wrote, Core.setReg, Core.putCtx, Core.ctx, Core.ctxAt, Core.inH, hh, h0, h1, h2, Ctx.fill]

theorem wrote_keeps (s : State) (r v : Nat) (fl : BitVec 8) (pc : Word) (hr : r < 768) : Keeps s (wrote s r v fl pc) [r] fl := by
  refine keeps_of (by simp [Wrote, setReg_priv, putCtx_priv]) ⟨Wrote_inH _ _ _ _, ?_, ?_, ?_, ?_, ?_, ?_⟩
  · intro q hq _
    simp only [List.mem_singleton, xr] at hq
    by_cases h0 : r = 0 <;> by_cases h1 : r / 256 = 0 <;> by_cases h2 : r / 256 = 1 <;> cases hh : s.me.h.fir.active <;>
      simp [Wrote, Core.setReg, Core.putCtx, Core.ctx, Core.ctxAt, Core.inH, hh, h0, h1, h2, Ctx.fill, get_set_other _ _ _ _ _ hq]
  · intro q hq
    simp only [List.mem_singleton, fr] at hq
    by_cases h2 : r / 256 = 1
    · have hq' : q.toNat ≠ r % 256 := by omega
      have h0 : r ≠ 0 := by omega
      cases hh : s.me.h.fir.active <;>
        simp [Wrote, Core.setReg, Core.putCtx, Core.ctx, Core.ctxAt, Core.inH, hh, h0, h2, Ctx.fill, get_set_other _ _ _ _ _ hq']
    · by_cases h0 : r = 0 <;> by_cases h1 : r / 256 = 0 <;> cases hh : s.me.h.fir.active <;>
        simp [Wrote, Core.setReg, Core.putCtx, Core.ctx, Core.ctxAt, Core.inH, hh, h0, h1, h2, Ctx.fill]
  · intro q hq
    simp only [List.mem_singleton] at hq
    by_cases h1 : r / 256 = 0
    · by_cases h0 : r = 0 <;> cases hh : s.me.h.fir.active <;>
        simp [Wrote, Core.setReg, Core.putCtx, Core.ctx, Core.ctxAt, Core.inH, hh, h0, h1, Ctx.fill]
    · by_cases h2 : r / 256 = 1
      · have h0 : r ≠ 0 := by omega
        cases hh : s.me.h.fir.active <;>
          simp [Wrote, Core.setReg, Core.putCtx, Core.ctx, Core.ctxAt, Core.inH, hh, h0, h2, Ctx.fill]
      · have hq' : q ≠ r % 256 := by omega
        have h0 : r ≠ 0 := by omega
        cases hh : s.me.h.fir.active <;>
          simp [Wrote, Core.setReg, Core.putCtx, Core.ctx, Core.ctxAt, Core.inH, hh, h0, h1, h2, Ctx.fill, get_set_other _ _ _ _ _ hq']
  · intro q hq
    simp only [List.mem_singleton] at hq
    by_cases h0 : r = 0 <;> by_cases h1 : r / 256 = 0 <;> by_cases h2 : r / 256 = 1 <;> cases hh : s.me.h.fir.active <;>
      simp [Wrote, Core.setReg, Core.putCtx, Core.ctx, Core.ctxAt, Core.inH, hh, h0, h1, h2, Ctx.fill, hq]
  · by_cases h0 : r = 0 <;> by_cases h1 : r / 256 = 0 <;> by_cases h2 : r / 256 = 1 <;> cases hh : s.me.h.fir.active <;>
      simp [Wrote, Core.setReg, Core.putCtx, Core.ctx, Core.ctxAt, Core.inH, hh, h0, h1, h2, Ctx.fill]
  · by_cases h0 : r = 0 <;> by_cases h1 : r / 256 = 0 <;> by_cases h2 : r / 256 = 1 <;> cases hh : s.me.h.fir.active <;>
      simp [plain, Wrote, Core.setReg, Core.putCtx, Core.ctx, Core.ctxAt, Core.inH, hh, h0, h1, h2, Ctx.fill]

theorem wrote_retired (s : State) (r v : Nat) (fl : BitVec 8) (pc : Word) : Retired s (wrote s r v fl pc) pc := by
  refine retired_of (Wrote_inH _ _ _ _) ?_
  by_cases h0 : r = 0 <;> by_cases h1 : r / 256 = 0 <;> by_cases h2 : r / 256 = 1 <;> cases hh : s.me.h.fir.active <;>
    simp [Wrote, Core.setReg, Core.putCtx, Core.ctx, Core.ctxAt, Core.inH, hh, h0, h1, h2, Ctx.fill]

theorem wrote_full (s : State) (r v : Nat) (fl : BitVec 8) (pc : Word) (h0 : r ≠ 0) : r ∉ (wrote s r v fl pc).ctx.empty := by
  unfold wrote Wrote
  rw [retire_eq, modMe_modMe]
  by_cases h1 : r / 256 = 0 <;> by_cases h2 : r / 256 = 1 <;> cases hh : s.me.h.fir.active <;>
      simp [Core.setReg, Core.putCtx, Core.ctx, Core.ctxAt, Core.inH, hh, State.ctx, h0, h1, h2, Ctx.fill]

theorem wrote_x (s : State) (d : BitVec 5) (v : Nat) (fl : BitVec 8) (pc : Word) :
    X (wrote s (xr d) v fl pc) d = if d = 0 then 0 else BitVec.ofNat 64 v := by
  have h1 : d.toNat / 256 = 0 := by omega
  have hz : ∀ h : ¬ d = 0, ¬ d.toNat = 0 := fun h e => h (BitVec.eq_of_toNat_eq (by simpa using e))
  unfold wrote Wrote
  rw [retire_eq, modMe_modMe]
  by_cases h0 : d = 0
  · simp [X, h0]
  · rw [if_neg h0]
    unfold X
    rw [if_neg h0]
    cases hh : s.me.h.fir.active <;>
    simp [xr, Core.setReg, Core.putCtx, Core.ctx, Core.ctxAt, Core.inH, hh, State.ctx, h1, hz h0, Ctx.fill]

theorem wrote_f (s : State) (d : BitVec 5) (v : Nat) (fl : BitVec 8) (pc : Word) :
    F (wrote s (fr d) v fl pc) d = BitVec.ofNat 64 v := by
  have h1 : (fr d) / 256 = 1 := by simp [fr]; omega
  have h2 : fr d % 256 = d.toNat := by simp [fr]; omega
  have h0 : fr d ≠ 0 := by simp [fr]
  unfold wrote Wrote
  rw [retire_eq, modMe_modMe]
  cases hh : s.me.h.fir.active <;>
    simp [F, Core.setReg, Core.putCtx, Core.ctx, Core.ctxAt, Core.inH, hh, State.ctx, h0, h1, h2, Ctx.fill]

theorem wrote_v (s : State) (n v : Nat) (fl : BitVec 8) (pc : Word) (hn : n < 256) :
    V (wrote s (512 + n) v fl pc) n = BitVec.ofNat 256 v := by
  have h1 : (512 + n) / 256 = 2 := by omega
  have h2 : (512 + n) % 256 = n := by omega
  unfold wrote Wrote
  rw [retire_eq, modMe_modMe]
  cases hh : s.me.h.fir.active <;>
    simp [V, State.ls, Core.setReg, Core.putCtx, Core.ctx, Core.ctxAt, Core.inH, hh, h1, h2, Ctx.fill]

theorem Wrote_zero (c : Core) (r v : Nat) : Wrote c r v 0 = c.setReg c.inH r v := by
  unfold Wrote
  have : c.putCtx c.inH { c.ctx with fcsr := c.ctx.fcsr ||| 0 } = c := by
    cases hh : c.h.fir.active <;> simp [Core.putCtx, Core.ctx, Core.inH, hh]
  rw [this]

theorem wrote_of_setReg (s : State) (r v : Nat) (pc : Word) :
    (s.modMe fun c => c.setReg c.inH r v).retire pc = wrote s r v 0 pc := by
  simp only [wrote, Wrote_zero]

/-- X[d] := v. -/
theorem setsX (s : State) (d : BitVec 5) (v pc : Word) :
    SetsX s d v pc ((s.modMe fun c => c.setReg c.inH (xr d) v.toNat).retire pc) := by
  rw [wrote_of_setReg]
  refine ⟨?_, ?_, wrote_keeps _ _ _ _ _ ?_, wrote_retired _ _ _ _ _⟩
  · rw [wrote_x]; simp
  · intro h
    exact wrote_full _ _ _ _ _ (by simpa [xr, BitVec.toNat_eq] using h)
  · simp [xr]; omega

/-- F[d] := v with flags. -/
theorem setsF (s : State) (d : BitVec 5) (v fl : Nat) : SetsF s d (BitVec.ofNat 64 v) fl (wrote s (fr d) v (BitVec.ofNat 8 fl) (s.ctx.pc + 4)) :=
  ⟨wrote_f _ _ _ _ _, wrote_full _ _ _ _ _ (by simp [fr]), wrote_keeps _ _ _ _ _ (by simp [fr]; omega), wrote_retired _ _ _ _ _⟩

theorem setsXFl (s : State) (d : BitVec 5) (v : Word) (fl : Nat) :
    SetsXFl s d v fl (wrote s (xr d) v.toNat (BitVec.ofNat 8 fl) (s.ctx.pc + 4)) := by
  refine ⟨?_, ?_, wrote_keeps _ _ _ _ _ ?_, wrote_retired _ _ _ _ _⟩
  · rw [wrote_x]; simp
  · intro h
    exact wrote_full _ _ _ _ _ (by simpa [xr, BitVec.toNat_eq] using h)
  · simp [xr]; omega

theorem setsV (s : State) (d : BitVec 4) (v : VWord) (fl : Nat) :
    SetsV s d v fl (wrote s (vr d) v.toNat (BitVec.ofNat 8 fl) (s.ctx.pc + 4)) := by
  refine ⟨?_, wrote_full _ _ _ _ _ (by simp [vr]), wrote_keeps _ _ _ _ _ (by simp [vr]; omega), wrote_retired _ _ _ _ _⟩
  unfold vr
  rw [wrote_v _ _ _ _ _ (by omega)]
  simp

/-- Nothing but the program counter. -/
theorem keeps_retire (s : State) (pc : Word) : Keeps s (s.retire pc) [] 0 ∧ Retired s (s.retire pc) pc := by
  have e : s.retire pc = wrote s 0 0 0 pc := by
    rw [← wrote_of_setReg]
    simp only [Core.setReg]
    rw [retire_eq, retire_eq, modMe_modMe]
    simp
  rw [e]
  refine ⟨?_, wrote_retired _ _ _ _ _⟩
  obtain ⟨h1, h2⟩ := wrote_keeps s 0 0 0 pc (by omega)
  obtain ⟨⟨a1, a2, a3, a4, a5, a6⟩, a7⟩ := h1
  refine ⟨⟨⟨a1, ?_, ?_, ?_, ?_, a6⟩, a7⟩, h2⟩
  · intro r _
    by_cases hz : r = 0
    · simp [X, hz]
    · exact a2 r (by simpa [xr, BitVec.toNat_eq] using hz)
  · intro r _; exact a3 r (by simp [fr])
  · intro n _; exact a4 n (by simp)
  · intro r _
    by_cases hz : r = 0
    · subst hz
      unfold wrote Wrote
      rw [retire_eq, modMe_modMe]
      cases hh : s.me.h.fir.active <;> simp [Core.setReg, Core.putCtx, Core.ctx, Core.inH, hh, State.ctx]
    · exact a5 r (by simpa using hz)

/-! The f and v operands, and raising flags. -/

theorem getF_run {s : State} {r : BitVec 5} (h : Readable s (fr r)) (eb : Bool) : getF r eb s = .ok (F s r, s) := by
  have h1 : (256 + r.toNat) / 256 = 1 := by omega
  have h2 : (256 + r.toNat) % 256 = r.toNat := by omega
  rcases h with h | ⟨h, _⟩
  · simp [fr] at h
  · simp only [fr, h1, h2] at h
    unfold getF
    rw [bind_ok (get_run s)]
    simp only [h]
    rfl

theorem getV_run {s : State} {n : Nat} (hn : n < 256) (h : Readable s (512 + n)) (eb : Bool) : getV n eb s = .ok (V s n, s) := by
  have h1 : (512 + n) / 256 = 2 := by omega
  have h2 : (512 + n) % 256 = n := by omega
  rcases h with h | ⟨h, _⟩
  · simp at h
  · simp only [h1, h2] at h
    unfold getV
    rw [bind_ok (get_run s)]
    simp only [h]
    rfl

theorem fLow_run {s : State} {rs : List (BitVec 5)} (h : Named s rs) (w : BitVec 32) : fLow rs w s = .ok ((), s) := by
  unfold fLow
  rw [bind_ok (me_run s)]
  refine trapIf_run ?_ _ _ s
  cases hh : s.me.inH
  · rfl
  · simp only [Bool.true_and, List.any_eq_false, decide_eq_true_eq]
    intro r hr
    have := h hh r hr
    omega

theorem noRepeat_run {s : State} (h : Idle s) : noRepeat s = .ok ((), s) := by
  unfold noRepeat
  rw [bind_ok (get_run s)]
  exact holdUnless_run (by rw [h]; rfl) s

theorem portOf_modCtx (s : State) (f : Ctx → Ctx) (hf : ∀ x, (f x).fir = x.fir) (c n : Nat) : (s.modCtx f).portOf c n = s.portOf c n := by
  unfold State.portOf
  have h1 : (s.modCtx f).me.inH = s.me.inH := by
    simp only [State.modCtx, me_modMe]
    cases hh : s.me.h.fir.active <;> simp [Core.putCtx, Core.inH, Core.ctx, hh, hf]
  have h2 : (s.modCtx f).ls = s.ls := by
    simp only [State.ls, State.modCtx, me_modMe]
    cases hh : s.me.h.fir.active <;> simp [Core.putCtx, Core.inH, hh]
  rw [h1, h2]

theorem setReg_run {s : State} {r : Nat} (h : s.portOf (r / 256) (r % 256) = none) (v : Nat) :
    setReg r v s = .ok ((), s.modMe fun c => c.setReg c.inH r v) := by
  unfold setReg
  rw [bind_ok (get_run s)]
  simp only [h]
  rfl

theorem Writable.port {s : State} {r : Nat} (h : Writable s r) (hr : r ≠ 0) : s.portOf (r / 256) (r % 256) = none := by
  rcases h with h | ⟨h, _⟩
  · exact absurd h hr
  · exact h

theorem toNat_flg (f : Flg) : f.toNat < 32 := by
  unfold Flg.toNat b2n
  split_ifs <;> omega

/-- Raising flags and then writing a register that is no stream. -/
theorem raise_set {s : State} {r : Nat} (h : s.portOf (r / 256) (r % 256) = none) (fl : Flg) (v : Nat) :
    (raiseFlags fl.toNat >>= fun _ => setReg r v) s = .ok ((), s.modMe fun c => Wrote c r v (BitVec.ofNat 8 fl.toNat)) := by
  unfold raiseFlags
  rw [bind_ok (updCtx_run _ s)]
  rw [setReg_run (by rw [portOf_modCtx s (fun x => x.raise fl.toNat) (fun _ => rfl)]; exact h)]
  unfold State.modCtx
  rw [modMe_modMe]
  have hf : fl.toNat % 32 = fl.toNat := Nat.mod_eq_of_lt (toNat_flg fl)
  have : ∀ c : Core, (c.putCtx c.inH (c.ctx.raise fl.toNat)).inH = c.inH := by
    intro c
    cases hh : c.h.fir.active <;> simp [Core.putCtx, Core.inH, Core.ctx, hh, Ctx.raise]
  refine congrArg (fun x => Except.ok ((), s.modMe x)) (funext fun c => ?_)
  show Core.setReg _ (Core.inH _) r v = _
  rw [this]
  simp only [Wrote, Ctx.raise, hf]

theorem retire_next {s t : State} (h : t.ctx.pc = s.ctx.pc) {m : M Unit} (hm : m s = .ok ((), t)) : run m s = .next (t.retire (s.ctx.pc + 4)) := by
  rw [run_ok hm, h]

theorem pc_modMe_Wrote (s : State) (r v : Nat) (fl : BitVec 8) : (s.modMe fun c => Wrote c r v fl).ctx.pc = s.ctx.pc := by
  rw [ctx_modMe]
  by_cases h0 : r = 0 <;> by_cases h1 : r / 256 = 0 <;> by_cases h2 : r / 256 = 1 <;> cases hh : s.me.h.fir.active <;>
    simp [Wrote, Core.setReg, Core.putCtx, Core.ctx, Core.ctxAt, Core.inH, hh, State.ctx, h0, h1, h2, Ctx.fill]

/-- An effect that only writes a register and raises flags. -/
theorem run_wrote {s : State} {m : M Unit} {r v : Nat} {fl : BitVec 8} (h : m s = .ok ((), s.modMe fun c => Wrote c r v fl)) :
    run m s = .next (wrote s r v fl (s.ctx.pc + 4)) := retire_next (pc_modMe_Wrote s r v fl) h

theorem roundingOf_run {s : State} {rm : BitVec 3} {md : Rnd} (h : Rounding s rm = some md) (w : BitVec 32) :
    roundingOf rm w s = .ok (md, s) := by
  unfold roundingOf
  rw [bind_ok (ctx_run s)]
  have : (if rm.toNat = 7 then bits s.ctx.fcsr.toNat 5 3 else rm.toNat) = (if rm = 7 then s.ctx.fcsr.extractLsb' 5 3 else rm).toNat := by
    have h7 : rm.toNat = 7 ↔ rm = 7 := by simp [BitVec.toNat_eq]
    by_cases hr : rm = 7
    · simp [hr, bits, BitVec.extractLsb', Nat.shiftRight_eq_div_pow]
    · rw [if_neg hr, if_neg (fun e => hr (h7.1 e))]
  simp only [this]
  unfold Rounding at h
  unfold rmMode
  split at h <;> simp_all

theorem roundingOf_trap {s : State} {rm : BitVec 3} (h : Rounding s rm = none) (w : BitVec 32) :
    roundingOf rm w s = .error (.trap .reservedRounding (tvw w) 0) := by
  unfold roundingOf
  rw [bind_ok (ctx_run s)]
  have : (if rm.toNat = 7 then bits s.ctx.fcsr.toNat 5 3 else rm.toNat) = (if rm = 7 then s.ctx.fcsr.extractLsb' 5 3 else rm).toNat := by
    have h7 : rm.toNat = 7 ↔ rm = 7 := by simp [BitVec.toNat_eq]
    by_cases hr : rm = 7
    · simp [hr, bits, BitVec.extractLsb', Nat.shiftRight_eq_div_pow]
    · rw [if_neg hr, if_neg (fun e => hr (h7.1 e))]
  simp only [this]
  unfold Rounding at h
  unfold rmMode
  split at h <;> simp_all [trap]

end Sys2Proof.Laws
end

