-- ==== Sys2Proof/Laws/Fields.lean ====
section
/-! SUPPORT. One lemma per field of each word format: the decoder's field of an encoded word is the field that was encoded. -/

namespace Sys2Proof.Laws
set_option Elab.async false
open Sys2Proof

@[simp] theorem fld_encZR_0_7 (major : BitVec 7) (f3 : BitVec 3) (op5 : BitVec 5) (eb2 eb1 : BitVec 1) (b a d : BitVec 5) : fld (encZR major f3 op5 eb2 eb1 b a d) 0 7 = major := by
  apply BitVec.eq_of_getLsbD_eq
  intro i hi
  simp only [fld, encZR, BitVec.getLsbD_extractLsb', BitVec.getLsbD_append]
  all_goals interval_cases i
  all_goals simp

@[simp] theorem fld_encZR_12_3 (major : BitVec 7) (f3 : BitVec 3) (op5 : BitVec 5) (eb2 eb1 : BitVec 1) (b a d : BitVec 5) : fld (encZR major f3 op5 eb2 eb1 b a d) 12 3 = f3 := by
  apply BitVec.eq_of_getLsbD_eq
  intro i hi
  simp only [fld, encZR, BitVec.getLsbD_extractLsb', BitVec.getLsbD_append]
  all_goals interval_cases i
  all_goals simp

@[simp] theorem fld_encZR_27_5 (major : BitVec 7) (f3 : BitVec 3) (op5 : BitVec 5) (eb2 eb1 : BitVec 1) (b a d : BitVec 5) : fld (encZR major f3 op5 eb2 eb1 b a d) 27 5 = op5 := by
  apply BitVec.eq_of_getLsbD_eq
  intro i hi
  simp only [fld, encZR, BitVec.getLsbD_extractLsb', BitVec.getLsbD_append]
  all_goals interval_cases i
  all_goals simp

@[simp] theorem fld_encZR_26_1 (major : BitVec 7) (f3 : BitVec 3) (op5 : BitVec 5) (eb2 eb1 : BitVec 1) (b a d : BitVec 5) : fld (encZR major f3 op5 eb2 eb1 b a d) 26 1 = eb2 := by
  apply BitVec.eq_of_getLsbD_eq
  intro i hi
  simp only [fld, encZR, BitVec.getLsbD_extractLsb', BitVec.getLsbD_append]
  all_goals interval_cases i
  all_goals simp

@[simp] theorem fld_encZR_25_1 (major : BitVec 7) (f3 : BitVec 3) (op5 : BitVec 5) (eb2 eb1 : BitVec 1) (b a d : BitVec 5) : fld (encZR major f3 op5 eb2 eb1 b a d) 25 1 = eb1 := by
  apply BitVec.eq_of_getLsbD_eq
  intro i hi
  simp only [fld, encZR, BitVec.getLsbD_extractLsb', BitVec.getLsbD_append]
  all_goals interval_cases i
  all_goals simp

@[simp] theorem fld_encZR_20_5 (major : BitVec 7) (f3 : BitVec 3) (op5 : BitVec 5) (eb2 eb1 : BitVec 1) (b a d : BitVec 5) : fld (encZR major f3 op5 eb2 eb1 b a d) 20 5 = b := by
  apply BitVec.eq_of_getLsbD_eq
  intro i hi
  simp only [fld, encZR, BitVec.getLsbD_extractLsb', BitVec.getLsbD_append]
  all_goals interval_cases i
  all_goals simp

@[simp] theorem fld_encZR_15_5 (major : BitVec 7) (f3 : BitVec 3) (op5 : BitVec 5) (eb2 eb1 : BitVec 1) (b a d : BitVec 5) : fld (encZR major f3 op5 eb2 eb1 b a d) 15 5 = a := by
  apply BitVec.eq_of_getLsbD_eq
  intro i hi
  simp only [fld, encZR, BitVec.getLsbD_extractLsb', BitVec.getLsbD_append]
  all_goals interval_cases i
  all_goals simp

@[simp] theorem fld_encZR_7_5 (major : BitVec 7) (f3 : BitVec 3) (op5 : BitVec 5) (eb2 eb1 : BitVec 1) (b a d : BitVec 5) : fld (encZR major f3 op5 eb2 eb1 b a d) 7 5 = d := by
  apply BitVec.eq_of_getLsbD_eq
  intro i hi
  simp only [fld, encZR, BitVec.getLsbD_extractLsb', BitVec.getLsbD_append]
  all_goals interval_cases i
  all_goals simp

@[simp] theorem fld_encZI_0_7 (major : BitVec 7) (f3 : BitVec 3) (op5 : BitVec 5) (imm7 : BitVec 7) (a d : BitVec 5) : fld (encZI major f3 op5 imm7 a d) 0 7 = major := by
  apply BitVec.eq_of_getLsbD_eq
  intro i hi
  simp only [fld, encZI, BitVec.getLsbD_extractLsb', BitVec.getLsbD_append]
  all_goals interval_cases i
  all_goals simp

@[simp] theorem fld_encZI_12_3 (major : BitVec 7) (f3 : BitVec 3) (op5 : BitVec 5) (imm7 : BitVec 7) (a d : BitVec 5) : fld (encZI major f3 op5 imm7 a d) 12 3 = f3 := by
  apply BitVec.eq_of_getLsbD_eq
  intro i hi
  simp only [fld, encZI, BitVec.getLsbD_extractLsb', BitVec.getLsbD_append]
  all_goals interval_cases i
  all_goals simp

@[simp] theorem fld_encZI_27_5 (major : BitVec 7) (f3 : BitVec 3) (op5 : BitVec 5) (imm7 : BitVec 7) (a d : BitVec 5) : fld (encZI major f3 op5 imm7 a d) 27 5 = op5 := by
  apply BitVec.eq_of_getLsbD_eq
  intro i hi
  simp only [fld, encZI, BitVec.getLsbD_extractLsb', BitVec.getLsbD_append]
  all_goals interval_cases i
  all_goals simp

@[simp] theorem fld_encZI_20_7 (major : BitVec 7) (f3 : BitVec 3) (op5 : BitVec 5) (imm7 : BitVec 7) (a d : BitVec 5) : fld (encZI major f3 op5 imm7 a d) 20 7 = imm7 := by
  apply BitVec.eq_of_getLsbD_eq
  intro i hi
  simp only [fld, encZI, BitVec.getLsbD_extractLsb', BitVec.getLsbD_append]
  all_goals interval_cases i
  all_goals simp

@[simp] theorem fld_encZI_15_5 (major : BitVec 7) (f3 : BitVec 3) (op5 : BitVec 5) (imm7 : BitVec 7) (a d : BitVec 5) : fld (encZI major f3 op5 imm7 a d) 15 5 = a := by
  apply BitVec.eq_of_getLsbD_eq
  intro i hi
  simp only [fld, encZI, BitVec.getLsbD_extractLsb', BitVec.getLsbD_append]
  all_goals interval_cases i
  all_goals simp

@[simp] theorem fld_encZI_7_5 (major : BitVec 7) (f3 : BitVec 3) (op5 : BitVec 5) (imm7 : BitVec 7) (a d : BitVec 5) : fld (encZI major f3 op5 imm7 a d) 7 5 = d := by
  apply BitVec.eq_of_getLsbD_eq
  intro i hi
  simp only [fld, encZI, BitVec.getLsbD_extractLsb', BitVec.getLsbD_append]
  all_goals interval_cases i
  all_goals simp

@[simp] theorem fld_encZK_0_7 (f3 : BitVec 3) (k8 : BitVec 8) (op3 : BitVec 3) (eb1 : BitVec 1) (a d : BitVec 5) : fld (encZK f3 k8 op3 eb1 a d) 0 7 = custom0 := by
  apply BitVec.eq_of_getLsbD_eq
  intro i hi
  simp only [fld, encZK, custom0, BitVec.getLsbD_extractLsb', BitVec.getLsbD_append]
  all_goals interval_cases i
  all_goals simp

@[simp] theorem fld_encZK_12_3 (f3 : BitVec 3) (k8 : BitVec 8) (op3 : BitVec 3) (eb1 : BitVec 1) (a d : BitVec 5) : fld (encZK f3 k8 op3 eb1 a d) 12 3 = f3 := by
  apply BitVec.eq_of_getLsbD_eq
  intro i hi
  simp only [fld, encZK, custom0, BitVec.getLsbD_extractLsb', BitVec.getLsbD_append]
  all_goals interval_cases i
  all_goals simp

@[simp] theorem fld_encZK_24_8 (f3 : BitVec 3) (k8 : BitVec 8) (op3 : BitVec 3) (eb1 : BitVec 1) (a d : BitVec 5) : fld (encZK f3 k8 op3 eb1 a d) 24 8 = k8 := by
  apply BitVec.eq_of_getLsbD_eq
  intro i hi
  simp only [fld, encZK, custom0, BitVec.getLsbD_extractLsb', BitVec.getLsbD_append]
  all_goals interval_cases i
  all_goals simp

@[simp] theorem fld_encZK_21_3 (f3 : BitVec 3) (k8 : BitVec 8) (op3 : BitVec 3) (eb1 : BitVec 1) (a d : BitVec 5) : fld (encZK f3 k8 op3 eb1 a d) 21 3 = op3 := by
  apply BitVec.eq_of_getLsbD_eq
  intro i hi
  simp only [fld, encZK, custom0, BitVec.getLsbD_extractLsb', BitVec.getLsbD_append]
  all_goals interval_cases i
  all_goals simp

@[simp] theorem fld_encZK_20_1 (f3 : BitVec 3) (k8 : BitVec 8) (op3 : BitVec 3) (eb1 : BitVec 1) (a d : BitVec 5) : fld (encZK f3 k8 op3 eb1 a d) 20 1 = eb1 := by
  apply BitVec.eq_of_getLsbD_eq
  intro i hi
  simp only [fld, encZK, custom0, BitVec.getLsbD_extractLsb', BitVec.getLsbD_append]
  all_goals interval_cases i
  all_goals simp

@[simp] theorem fld_encZK_15_5 (f3 : BitVec 3) (k8 : BitVec 8) (op3 : BitVec 3) (eb1 : BitVec 1) (a d : BitVec 5) : fld (encZK f3 k8 op3 eb1 a d) 15 5 = a := by
  apply BitVec.eq_of_getLsbD_eq
  intro i hi
  simp only [fld, encZK, custom0, BitVec.getLsbD_extractLsb', BitVec.getLsbD_append]
  all_goals interval_cases i
  all_goals simp

@[simp] theorem fld_encZK_7_5 (f3 : BitVec 3) (k8 : BitVec 8) (op3 : BitVec 3) (eb1 : BitVec 1) (a d : BitVec 5) : fld (encZK f3 k8 op3 eb1 a d) 7 5 = d := by
  apply BitVec.eq_of_getLsbD_eq
  intro i hi
  simp only [fld, encZK, custom0, BitVec.getLsbD_extractLsb', BitVec.getLsbD_append]
  all_goals interval_cases i
  all_goals simp

@[simp] theorem fld_encZV_0_7 (op5 : BitVec 5) (pred : BitVec 3) (eb2 eb1 : BitVec 1) (vb va : BitVec 4) (fmt : BitVec 3) (vd : BitVec 4) : fld (encZV op5 pred eb2 eb1 vb va fmt vd) 0 7 = custom1 := by
  apply BitVec.eq_of_getLsbD_eq
  intro i hi
  simp only [fld, encZV, custom1, BitVec.getLsbD_extractLsb', BitVec.getLsbD_append]
  all_goals interval_cases i
  all_goals simp

@[simp] theorem fld_encZV_27_5 (op5 : BitVec 5) (pred : BitVec 3) (eb2 eb1 : BitVec 1) (vb va : BitVec 4) (fmt : BitVec 3) (vd : BitVec 4) : fld (encZV op5 pred eb2 eb1 vb va fmt vd) 27 5 = op5 := by
  apply BitVec.eq_of_getLsbD_eq
  intro i hi
  simp only [fld, encZV, custom1, BitVec.getLsbD_extractLsb', BitVec.getLsbD_append]
  all_goals interval_cases i
  all_goals simp

@[simp] theorem fld_encZV_24_3 (op5 : BitVec 5) (pred : BitVec 3) (eb2 eb1 : BitVec 1) (vb va : BitVec 4) (fmt : BitVec 3) (vd : BitVec 4) : fld (encZV op5 pred eb2 eb1 vb va fmt vd) 24 3 = pred := by
  apply BitVec.eq_of_getLsbD_eq
  intro i hi
  simp only [fld, encZV, custom1, BitVec.getLsbD_extractLsb', BitVec.getLsbD_append]
  all_goals interval_cases i
  all_goals simp

@[simp] theorem fld_encZV_23_1 (op5 : BitVec 5) (pred : BitVec 3) (eb2 eb1 : BitVec 1) (vb va : BitVec 4) (fmt : BitVec 3) (vd : BitVec 4) : fld (encZV op5 pred eb2 eb1 vb va fmt vd) 23 1 = eb2 := by
  apply BitVec.eq_of_getLsbD_eq
  intro i hi
  simp only [fld, encZV, custom1, BitVec.getLsbD_extractLsb', BitVec.getLsbD_append]
  all_goals interval_cases i
  all_goals simp

@[simp] theorem fld_encZV_22_1 (op5 : BitVec 5) (pred : BitVec 3) (eb2 eb1 : BitVec 1) (vb va : BitVec 4) (fmt : BitVec 3) (vd : BitVec 4) : fld (encZV op5 pred eb2 eb1 vb va fmt vd) 22 1 = eb1 := by
  apply BitVec.eq_of_getLsbD_eq
  intro i hi
  simp only [fld, encZV, custom1, BitVec.getLsbD_extractLsb', BitVec.getLsbD_append]
  all_goals interval_cases i
  all_goals simp

@[simp] theorem fld_encZV_18_4 (op5 : BitVec 5) (pred : BitVec 3) (eb2 eb1 : BitVec 1) (vb va : BitVec 4) (fmt : BitVec 3) (vd : BitVec 4) : fld (encZV op5 pred eb2 eb1 vb va fmt vd) 18 4 = vb := by
  apply BitVec.eq_of_getLsbD_eq
  intro i hi
  simp only [fld, encZV, custom1, BitVec.getLsbD_extractLsb', BitVec.getLsbD_append]
  all_goals interval_cases i
  all_goals simp

@[simp] theorem fld_encZV_14_4 (op5 : BitVec 5) (pred : BitVec 3) (eb2 eb1 : BitVec 1) (vb va : BitVec 4) (fmt : BitVec 3) (vd : BitVec 4) : fld (encZV op5 pred eb2 eb1 vb va fmt vd) 14 4 = va := by
  apply BitVec.eq_of_getLsbD_eq
  intro i hi
  simp only [fld, encZV, custom1, BitVec.getLsbD_extractLsb', BitVec.getLsbD_append]
  all_goals interval_cases i
  all_goals simp

@[simp] theorem fld_encZV_11_3 (op5 : BitVec 5) (pred : BitVec 3) (eb2 eb1 : BitVec 1) (vb va : BitVec 4) (fmt : BitVec 3) (vd : BitVec 4) : fld (encZV op5 pred eb2 eb1 vb va fmt vd) 11 3 = fmt := by
  apply BitVec.eq_of_getLsbD_eq
  intro i hi
  simp only [fld, encZV, custom1, BitVec.getLsbD_extractLsb', BitVec.getLsbD_append]
  all_goals interval_cases i
  all_goals simp

@[simp] theorem fld_encZV_7_4 (op5 : BitVec 5) (pred : BitVec 3) (eb2 eb1 : BitVec 1) (vb va : BitVec 4) (fmt : BitVec 3) (vd : BitVec 4) : fld (encZV op5 pred eb2 eb1 vb va fmt vd) 7 4 = vd := by
  apply BitVec.eq_of_getLsbD_eq
  intro i hi
  simp only [fld, encZV, custom1, BitVec.getLsbD_extractLsb', BitVec.getLsbD_append]
  all_goals interval_cases i
  all_goals simp

@[simp] theorem fld_encZM_0_7 (f3 : BitVec 3) (op4 : BitVec 4) (rnd : BitVec 3) (a b d : BitVec 5) : fld (encZM f3 op4 rnd a b d) 0 7 = custom2 := by
  apply BitVec.eq_of_getLsbD_eq
  intro i hi
  simp only [fld, encZM, custom2, BitVec.getLsbD_extractLsb', BitVec.getLsbD_append]
  all_goals interval_cases i
  all_goals simp

@[simp] theorem fld_encZM_12_3 (f3 : BitVec 3) (op4 : BitVec 4) (rnd : BitVec 3) (a b d : BitVec 5) : fld (encZM f3 op4 rnd a b d) 12 3 = f3 := by
  apply BitVec.eq_of_getLsbD_eq
  intro i hi
  simp only [fld, encZM, custom2, BitVec.getLsbD_extractLsb', BitVec.getLsbD_append]
  all_goals interval_cases i
  all_goals simp

@[simp] theorem fld_encZM_28_4 (f3 : BitVec 3) (op4 : BitVec 4) (rnd : BitVec 3) (a b d : BitVec 5) : fld (encZM f3 op4 rnd a b d) 28 4 = op4 := by
  apply BitVec.eq_of_getLsbD_eq
  intro i hi
  simp only [fld, encZM, custom2, BitVec.getLsbD_extractLsb', BitVec.getLsbD_append]
  all_goals interval_cases i
  all_goals simp

@[simp] theorem fld_encZM_25_3 (f3 : BitVec 3) (op4 : BitVec 4) (rnd : BitVec 3) (a b d : BitVec 5) : fld (encZM f3 op4 rnd a b d) 25 3 = rnd := by
  apply BitVec.eq_of_getLsbD_eq
  intro i hi
  simp only [fld, encZM, custom2, BitVec.getLsbD_extractLsb', BitVec.getLsbD_append]
  all_goals interval_cases i
  all_goals simp

@[simp] theorem fld_encZM_20_5 (f3 : BitVec 3) (op4 : BitVec 4) (rnd : BitVec 3) (a b d : BitVec 5) : fld (encZM f3 op4 rnd a b d) 20 5 = a := by
  apply BitVec.eq_of_getLsbD_eq
  intro i hi
  simp only [fld, encZM, custom2, BitVec.getLsbD_extractLsb', BitVec.getLsbD_append]
  all_goals interval_cases i
  all_goals simp

@[simp] theorem fld_encZM_15_5 (f3 : BitVec 3) (op4 : BitVec 4) (rnd : BitVec 3) (a b d : BitVec 5) : fld (encZM f3 op4 rnd a b d) 15 5 = b := by
  apply BitVec.eq_of_getLsbD_eq
  intro i hi
  simp only [fld, encZM, custom2, BitVec.getLsbD_extractLsb', BitVec.getLsbD_append]
  all_goals interval_cases i
  all_goals simp

@[simp] theorem fld_encZM_7_5 (f3 : BitVec 3) (op4 : BitVec 4) (rnd : BitVec 3) (a b d : BitVec 5) : fld (encZM f3 op4 rnd a b d) 7 5 = d := by
  apply BitVec.eq_of_getLsbD_eq
  intro i hi
  simp only [fld, encZM, custom2, BitVec.getLsbD_extractLsb', BitVec.getLsbD_append]
  all_goals interval_cases i
  all_goals simp

@[simp] theorem fld_encR_0_7 (opc : BitVec 7) (f3 : BitVec 3) (f7 : BitVec 7) (rs2 rs1 rd : BitVec 5) : fld (encR opc f3 f7 rs2 rs1 rd) 0 7 = opc := by
  apply BitVec.eq_of_getLsbD_eq
  intro i hi
  simp only [fld, encR, BitVec.getLsbD_extractLsb', BitVec.getLsbD_append]
  all_goals interval_cases i
  all_goals simp

@[simp] theorem fld_encR_12_3 (opc : BitVec 7) (f3 : BitVec 3) (f7 : BitVec 7) (rs2 rs1 rd : BitVec 5) : fld (encR opc f3 f7 rs2 rs1 rd) 12 3 = f3 := by
  apply BitVec.eq_of_getLsbD_eq
  intro i hi
  simp only [fld, encR, BitVec.getLsbD_extractLsb', BitVec.getLsbD_append]
  all_goals interval_cases i
  all_goals simp

@[simp] theorem fld_encR_25_7 (opc : BitVec 7) (f3 : BitVec 3) (f7 : BitVec 7) (rs2 rs1 rd : BitVec 5) : fld (encR opc f3 f7 rs2 rs1 rd) 25 7 = f7 := by
  apply BitVec.eq_of_getLsbD_eq
  intro i hi
  simp only [fld, encR, BitVec.getLsbD_extractLsb', BitVec.getLsbD_append]
  all_goals interval_cases i
  all_goals simp

@[simp] theorem fld_encR_20_5 (opc : BitVec 7) (f3 : BitVec 3) (f7 : BitVec 7) (rs2 rs1 rd : BitVec 5) : fld (encR opc f3 f7 rs2 rs1 rd) 20 5 = rs2 := by
  apply BitVec.eq_of_getLsbD_eq
  intro i hi
  simp only [fld, encR, BitVec.getLsbD_extractLsb', BitVec.getLsbD_append]
  all_goals interval_cases i
  all_goals simp

@[simp] theorem fld_encR_15_5 (opc : BitVec 7) (f3 : BitVec 3) (f7 : BitVec 7) (rs2 rs1 rd : BitVec 5) : fld (encR opc f3 f7 rs2 rs1 rd) 15 5 = rs1 := by
  apply BitVec.eq_of_getLsbD_eq
  intro i hi
  simp only [fld, encR, BitVec.getLsbD_extractLsb', BitVec.getLsbD_append]
  all_goals interval_cases i
  all_goals simp

@[simp] theorem fld_encR_7_5 (opc : BitVec 7) (f3 : BitVec 3) (f7 : BitVec 7) (rs2 rs1 rd : BitVec 5) : fld (encR opc f3 f7 rs2 rs1 rd) 7 5 = rd := by
  apply BitVec.eq_of_getLsbD_eq
  intro i hi
  simp only [fld, encR, BitVec.getLsbD_extractLsb', BitVec.getLsbD_append]
  all_goals interval_cases i
  all_goals simp

@[simp] theorem fld_encR6_0_7 (opc : BitVec 7) (f3 : BitVec 3) (f6 : BitVec 6) (sh : BitVec 6) (rs1 rd : BitVec 5) : fld (encR6 opc f3 f6 sh rs1 rd) 0 7 = opc := by
  apply BitVec.eq_of_getLsbD_eq
  intro i hi
  simp only [fld, encR6, BitVec.getLsbD_extractLsb', BitVec.getLsbD_append]
  all_goals interval_cases i
  all_goals simp

@[simp] theorem fld_encR6_12_3 (opc : BitVec 7) (f3 : BitVec 3) (f6 : BitVec 6) (sh : BitVec 6) (rs1 rd : BitVec 5) : fld (encR6 opc f3 f6 sh rs1 rd) 12 3 = f3 := by
  apply BitVec.eq_of_getLsbD_eq
  intro i hi
  simp only [fld, encR6, BitVec.getLsbD_extractLsb', BitVec.getLsbD_append]
  all_goals interval_cases i
  all_goals simp

@[simp] theorem fld_encR6_26_6 (opc : BitVec 7) (f3 : BitVec 3) (f6 : BitVec 6) (sh : BitVec 6) (rs1 rd : BitVec 5) : fld (encR6 opc f3 f6 sh rs1 rd) 26 6 = f6 := by
  apply BitVec.eq_of_getLsbD_eq
  intro i hi
  simp only [fld, encR6, BitVec.getLsbD_extractLsb', BitVec.getLsbD_append]
  all_goals interval_cases i
  all_goals simp

@[simp] theorem fld_encR6_20_6 (opc : BitVec 7) (f3 : BitVec 3) (f6 : BitVec 6) (sh : BitVec 6) (rs1 rd : BitVec 5) : fld (encR6 opc f3 f6 sh rs1 rd) 20 6 = sh := by
  apply BitVec.eq_of_getLsbD_eq
  intro i hi
  simp only [fld, encR6, BitVec.getLsbD_extractLsb', BitVec.getLsbD_append]
  all_goals interval_cases i
  all_goals simp

@[simp] theorem fld_encR6_15_5 (opc : BitVec 7) (f3 : BitVec 3) (f6 : BitVec 6) (sh : BitVec 6) (rs1 rd : BitVec 5) : fld (encR6 opc f3 f6 sh rs1 rd) 15 5 = rs1 := by
  apply BitVec.eq_of_getLsbD_eq
  intro i hi
  simp only [fld, encR6, BitVec.getLsbD_extractLsb', BitVec.getLsbD_append]
  all_goals interval_cases i
  all_goals simp

@[simp] theorem fld_encR6_7_5 (opc : BitVec 7) (f3 : BitVec 3) (f6 : BitVec 6) (sh : BitVec 6) (rs1 rd : BitVec 5) : fld (encR6 opc f3 f6 sh rs1 rd) 7 5 = rd := by
  apply BitVec.eq_of_getLsbD_eq
  intro i hi
  simp only [fld, encR6, BitVec.getLsbD_extractLsb', BitVec.getLsbD_append]
  all_goals interval_cases i
  all_goals simp

@[simp] theorem fld_encR4_0_7 (opc : BitVec 7) (rs3 rs2 rs1 : BitVec 5) (rm : BitVec 3) (rd : BitVec 5) : fld (encR4 opc rs3 rs2 rs1 rm rd) 0 7 = opc := by
  apply BitVec.eq_of_getLsbD_eq
  intro i hi
  simp only [fld, encR4, BitVec.getLsbD_extractLsb', BitVec.getLsbD_append]
  all_goals interval_cases i
  all_goals simp

@[simp] theorem fld_encR4_12_3 (opc : BitVec 7) (rs3 rs2 rs1 : BitVec 5) (rm : BitVec 3) (rd : BitVec 5) : fld (encR4 opc rs3 rs2 rs1 rm rd) 12 3 = rm := by
  apply BitVec.eq_of_getLsbD_eq
  intro i hi
  simp only [fld, encR4, BitVec.getLsbD_extractLsb', BitVec.getLsbD_append]
  all_goals interval_cases i
  all_goals simp

@[simp] theorem fld_encR4_27_5 (opc : BitVec 7) (rs3 rs2 rs1 : BitVec 5) (rm : BitVec 3) (rd : BitVec 5) : fld (encR4 opc rs3 rs2 rs1 rm rd) 27 5 = rs3 := by
  apply BitVec.eq_of_getLsbD_eq
  intro i hi
  simp only [fld, encR4, BitVec.getLsbD_extractLsb', BitVec.getLsbD_append]
  all_goals interval_cases i
  all_goals simp

@[simp] theorem fld_encR4_25_2 (opc : BitVec 7) (rs3 rs2 rs1 : BitVec 5) (rm : BitVec 3) (rd : BitVec 5) : fld (encR4 opc rs3 rs2 rs1 rm rd) 25 2 = 0 := by
  apply BitVec.eq_of_getLsbD_eq
  intro i hi
  simp only [fld, encR4, BitVec.getLsbD_extractLsb', BitVec.getLsbD_append]
  all_goals interval_cases i
  all_goals simp

@[simp] theorem fld_encR4_20_5 (opc : BitVec 7) (rs3 rs2 rs1 : BitVec 5) (rm : BitVec 3) (rd : BitVec 5) : fld (encR4 opc rs3 rs2 rs1 rm rd) 20 5 = rs2 := by
  apply BitVec.eq_of_getLsbD_eq
  intro i hi
  simp only [fld, encR4, BitVec.getLsbD_extractLsb', BitVec.getLsbD_append]
  all_goals interval_cases i
  all_goals simp

@[simp] theorem fld_encR4_15_5 (opc : BitVec 7) (rs3 rs2 rs1 : BitVec 5) (rm : BitVec 3) (rd : BitVec 5) : fld (encR4 opc rs3 rs2 rs1 rm rd) 15 5 = rs1 := by
  apply BitVec.eq_of_getLsbD_eq
  intro i hi
  simp only [fld, encR4, BitVec.getLsbD_extractLsb', BitVec.getLsbD_append]
  all_goals interval_cases i
  all_goals simp

@[simp] theorem fld_encR4_7_5 (opc : BitVec 7) (rs3 rs2 rs1 : BitVec 5) (rm : BitVec 3) (rd : BitVec 5) : fld (encR4 opc rs3 rs2 rs1 rm rd) 7 5 = rd := by
  apply BitVec.eq_of_getLsbD_eq
  intro i hi
  simp only [fld, encR4, BitVec.getLsbD_extractLsb', BitVec.getLsbD_append]
  all_goals interval_cases i
  all_goals simp

@[simp] theorem fld_encAmo_0_7 (f3 : BitVec 3) (f5 : BitVec 5) (aq rl : BitVec 1) (rs2 rs1 rd : BitVec 5) : fld (encAmo f3 f5 aq rl rs2 rs1 rd) 0 7 = 0b0101111 := by
  apply BitVec.eq_of_getLsbD_eq
  intro i hi
  simp only [fld, encAmo, BitVec.getLsbD_extractLsb', BitVec.getLsbD_append]
  all_goals interval_cases i
  all_goals simp

@[simp] theorem fld_encAmo_12_3 (f3 : BitVec 3) (f5 : BitVec 5) (aq rl : BitVec 1) (rs2 rs1 rd : BitVec 5) : fld (encAmo f3 f5 aq rl rs2 rs1 rd) 12 3 = f3 := by
  apply BitVec.eq_of_getLsbD_eq
  intro i hi
  simp only [fld, encAmo, BitVec.getLsbD_extractLsb', BitVec.getLsbD_append]
  all_goals interval_cases i
  all_goals simp

@[simp] theorem fld_encAmo_27_5 (f3 : BitVec 3) (f5 : BitVec 5) (aq rl : BitVec 1) (rs2 rs1 rd : BitVec 5) : fld (encAmo f3 f5 aq rl rs2 rs1 rd) 27 5 = f5 := by
  apply BitVec.eq_of_getLsbD_eq
  intro i hi
  simp only [fld, encAmo, BitVec.getLsbD_extractLsb', BitVec.getLsbD_append]
  all_goals interval_cases i
  all_goals simp

@[simp] theorem fld_encAmo_26_1 (f3 : BitVec 3) (f5 : BitVec 5) (aq rl : BitVec 1) (rs2 rs1 rd : BitVec 5) : fld (encAmo f3 f5 aq rl rs2 rs1 rd) 26 1 = aq := by
  apply BitVec.eq_of_getLsbD_eq
  intro i hi
  simp only [fld, encAmo, BitVec.getLsbD_extractLsb', BitVec.getLsbD_append]
  all_goals interval_cases i
  all_goals simp

@[simp] theorem fld_encAmo_25_1 (f3 : BitVec 3) (f5 : BitVec 5) (aq rl : BitVec 1) (rs2 rs1 rd : BitVec 5) : fld (encAmo f3 f5 aq rl rs2 rs1 rd) 25 1 = rl := by
  apply BitVec.eq_of_getLsbD_eq
  intro i hi
  simp only [fld, encAmo, BitVec.getLsbD_extractLsb', BitVec.getLsbD_append]
  all_goals interval_cases i
  all_goals simp

@[simp] theorem fld_encAmo_20_5 (f3 : BitVec 3) (f5 : BitVec 5) (aq rl : BitVec 1) (rs2 rs1 rd : BitVec 5) : fld (encAmo f3 f5 aq rl rs2 rs1 rd) 20 5 = rs2 := by
  apply BitVec.eq_of_getLsbD_eq
  intro i hi
  simp only [fld, encAmo, BitVec.getLsbD_extractLsb', BitVec.getLsbD_append]
  all_goals interval_cases i
  all_goals simp

@[simp] theorem fld_encAmo_15_5 (f3 : BitVec 3) (f5 : BitVec 5) (aq rl : BitVec 1) (rs2 rs1 rd : BitVec 5) : fld (encAmo f3 f5 aq rl rs2 rs1 rd) 15 5 = rs1 := by
  apply BitVec.eq_of_getLsbD_eq
  intro i hi
  simp only [fld, encAmo, BitVec.getLsbD_extractLsb', BitVec.getLsbD_append]
  all_goals interval_cases i
  all_goals simp

@[simp] theorem fld_encAmo_7_5 (f3 : BitVec 3) (f5 : BitVec 5) (aq rl : BitVec 1) (rs2 rs1 rd : BitVec 5) : fld (encAmo f3 f5 aq rl rs2 rs1 rd) 7 5 = rd := by
  apply BitVec.eq_of_getLsbD_eq
  intro i hi
  simp only [fld, encAmo, BitVec.getLsbD_extractLsb', BitVec.getLsbD_append]
  all_goals interval_cases i
  all_goals simp

@[simp] theorem fld_encI_0_7 (opc : BitVec 7) (f3 : BitVec 3) (imm : BitVec 12) (rs1 rd : BitVec 5) : fld (encI opc f3 imm rs1 rd) 0 7 = opc := by
  apply BitVec.eq_of_getLsbD_eq
  intro i hi
  simp only [fld, encI, BitVec.getLsbD_extractLsb', BitVec.getLsbD_append]
  all_goals interval_cases i
  all_goals simp

@[simp] theorem fld_encI_12_3 (opc : BitVec 7) (f3 : BitVec 3) (imm : BitVec 12) (rs1 rd : BitVec 5) : fld (encI opc f3 imm rs1 rd) 12 3 = f3 := by
  apply BitVec.eq_of_getLsbD_eq
  intro i hi
  simp only [fld, encI, BitVec.getLsbD_extractLsb', BitVec.getLsbD_append]
  all_goals interval_cases i
  all_goals simp

@[simp] theorem fld_encI_20_12 (opc : BitVec 7) (f3 : BitVec 3) (imm : BitVec 12) (rs1 rd : BitVec 5) : fld (encI opc f3 imm rs1 rd) 20 12 = imm := by
  apply BitVec.eq_of_getLsbD_eq
  intro i hi
  simp only [fld, encI, BitVec.getLsbD_extractLsb', BitVec.getLsbD_append]
  all_goals interval_cases i
  all_goals simp

@[simp] theorem fld_encI_15_5 (opc : BitVec 7) (f3 : BitVec 3) (imm : BitVec 12) (rs1 rd : BitVec 5) : fld (encI opc f3 imm rs1 rd) 15 5 = rs1 := by
  apply BitVec.eq_of_getLsbD_eq
  intro i hi
  simp only [fld, encI, BitVec.getLsbD_extractLsb', BitVec.getLsbD_append]
  all_goals interval_cases i
  all_goals simp

@[simp] theorem fld_encI_7_5 (opc : BitVec 7) (f3 : BitVec 3) (imm : BitVec 12) (rs1 rd : BitVec 5) : fld (encI opc f3 imm rs1 rd) 7 5 = rd := by
  apply BitVec.eq_of_getLsbD_eq
  intro i hi
  simp only [fld, encI, BitVec.getLsbD_extractLsb', BitVec.getLsbD_append]
  all_goals interval_cases i
  all_goals simp

@[simp] theorem fld_encS_0_7 (opc : BitVec 7) (f3 : BitVec 3) (imm : BitVec 12) (rs2 rs1 : BitVec 5) : fld (encS opc f3 imm rs2 rs1) 0 7 = opc := by
  apply BitVec.eq_of_getLsbD_eq
  intro i hi
  simp only [fld, encS, BitVec.getLsbD_extractLsb', BitVec.getLsbD_append]
  all_goals interval_cases i
  all_goals simp

@[simp] theorem fld_encS_12_3 (opc : BitVec 7) (f3 : BitVec 3) (imm : BitVec 12) (rs2 rs1 : BitVec 5) : fld (encS opc f3 imm rs2 rs1) 12 3 = f3 := by
  apply BitVec.eq_of_getLsbD_eq
  intro i hi
  simp only [fld, encS, BitVec.getLsbD_extractLsb', BitVec.getLsbD_append]
  all_goals interval_cases i
  all_goals simp

@[simp] theorem fld_encS_20_5 (opc : BitVec 7) (f3 : BitVec 3) (imm : BitVec 12) (rs2 rs1 : BitVec 5) : fld (encS opc f3 imm rs2 rs1) 20 5 = rs2 := by
  apply BitVec.eq_of_getLsbD_eq
  intro i hi
  simp only [fld, encS, BitVec.getLsbD_extractLsb', BitVec.getLsbD_append]
  all_goals interval_cases i
  all_goals simp

@[simp] theorem fld_encS_15_5 (opc : BitVec 7) (f3 : BitVec 3) (imm : BitVec 12) (rs2 rs1 : BitVec 5) : fld (encS opc f3 imm rs2 rs1) 15 5 = rs1 := by
  apply BitVec.eq_of_getLsbD_eq
  intro i hi
  simp only [fld, encS, BitVec.getLsbD_extractLsb', BitVec.getLsbD_append]
  all_goals interval_cases i
  all_goals simp

@[simp] theorem immS_encS (opc : BitVec 7) (f3 : BitVec 3) (imm : BitVec 12) (rs2 rs1 : BitVec 5) : immS (encS opc f3 imm rs2 rs1) = imm := by
  apply BitVec.eq_of_getLsbD_eq
  intro i hi
  simp only [immS, fld, encS, BitVec.getLsbD_extractLsb', BitVec.getLsbD_extractLsb', BitVec.getLsbD_append]
  all_goals interval_cases i
  all_goals simp

@[simp] theorem fld_encB_0_7 (opc : BitVec 7) (f3 : BitVec 3) (imm : BitVec 12) (rs2 rs1 : BitVec 5) : fld (encB opc f3 imm rs2 rs1) 0 7 = opc := by
  apply BitVec.eq_of_getLsbD_eq
  intro i hi
  simp only [fld, encB, BitVec.getLsbD_extractLsb', BitVec.getLsbD_append]
  all_goals interval_cases i
  all_goals simp

@[simp] theorem fld_encB_12_3 (opc : BitVec 7) (f3 : BitVec 3) (imm : BitVec 12) (rs2 rs1 : BitVec 5) : fld (encB opc f3 imm rs2 rs1) 12 3 = f3 := by
  apply BitVec.eq_of_getLsbD_eq
  intro i hi
  simp only [fld, encB, BitVec.getLsbD_extractLsb', BitVec.getLsbD_append]
  all_goals interval_cases i
  all_goals simp

@[simp] theorem fld_encB_20_5 (opc : BitVec 7) (f3 : BitVec 3) (imm : BitVec 12) (rs2 rs1 : BitVec 5) : fld (encB opc f3 imm rs2 rs1) 20 5 = rs2 := by
  apply BitVec.eq_of_getLsbD_eq
  intro i hi
  simp only [fld, encB, BitVec.getLsbD_extractLsb', BitVec.getLsbD_append]
  all_goals interval_cases i
  all_goals simp

@[simp] theorem fld_encB_15_5 (opc : BitVec 7) (f3 : BitVec 3) (imm : BitVec 12) (rs2 rs1 : BitVec 5) : fld (encB opc f3 imm rs2 rs1) 15 5 = rs1 := by
  apply BitVec.eq_of_getLsbD_eq
  intro i hi
  simp only [fld, encB, BitVec.getLsbD_extractLsb', BitVec.getLsbD_append]
  all_goals interval_cases i
  all_goals simp

@[simp] theorem immB_encB (opc : BitVec 7) (f3 : BitVec 3) (imm : BitVec 12) (rs2 rs1 : BitVec 5) : immB (encB opc f3 imm rs2 rs1) = imm := by
  apply BitVec.eq_of_getLsbD_eq
  intro i hi
  simp only [immB, fld, encB, BitVec.getLsbD_extractLsb', BitVec.getLsbD_extractLsb', BitVec.getLsbD_append]
  all_goals interval_cases i
  all_goals simp

@[simp] theorem fld_encU_0_7 (opc : BitVec 7) (imm : BitVec 20) (rd : BitVec 5) : fld (encU opc imm rd) 0 7 = opc := by
  apply BitVec.eq_of_getLsbD_eq
  intro i hi
  simp only [fld, encU, BitVec.getLsbD_extractLsb', BitVec.getLsbD_append]
  all_goals interval_cases i
  all_goals simp

@[simp] theorem fld_encU_12_20 (opc : BitVec 7) (imm : BitVec 20) (rd : BitVec 5) : fld (encU opc imm rd) 12 20 = imm := by
  apply BitVec.eq_of_getLsbD_eq
  intro i hi
  simp only [fld, encU, BitVec.getLsbD_extractLsb', BitVec.getLsbD_append]
  all_goals interval_cases i
  all_goals simp

@[simp] theorem fld_encU_7_5 (opc : BitVec 7) (imm : BitVec 20) (rd : BitVec 5) : fld (encU opc imm rd) 7 5 = rd := by
  apply BitVec.eq_of_getLsbD_eq
  intro i hi
  simp only [fld, encU, BitVec.getLsbD_extractLsb', BitVec.getLsbD_append]
  all_goals interval_cases i
  all_goals simp

@[simp] theorem fld_encJ_0_7 (opc : BitVec 7) (imm : BitVec 20) (rd : BitVec 5) : fld (encJ opc imm rd) 0 7 = opc := by
  apply BitVec.eq_of_getLsbD_eq
  intro i hi
  simp only [fld, encJ, BitVec.getLsbD_extractLsb', BitVec.getLsbD_append]
  all_goals interval_cases i
  all_goals simp

@[simp] theorem immJ_encJ (opc : BitVec 7) (imm : BitVec 20) (rd : BitVec 5) : immJ (encJ opc imm rd) = imm := by
  apply BitVec.eq_of_getLsbD_eq
  intro i hi
  simp only [immJ, fld, encJ, BitVec.getLsbD_extractLsb', BitVec.getLsbD_extractLsb', BitVec.getLsbD_append]
  all_goals interval_cases i
  all_goals simp

@[simp] theorem fld_encJ_7_5 (opc : BitVec 7) (imm : BitVec 20) (rd : BitVec 5) : fld (encJ opc imm rd) 7 5 = rd := by
  apply BitVec.eq_of_getLsbD_eq
  intro i hi
  simp only [fld, encJ, BitVec.getLsbD_extractLsb', BitVec.getLsbD_append]
  all_goals interval_cases i
  all_goals simp

@[simp] theorem fld_tile_24_1 (f3 : BitVec 3) (op4 : BitVec 4) (rnd : BitVec 3) (n z : BitVec 1) (p q : BitVec 4)
    (d : BitVec 5) : fld (encZM f3 op4 rnd (n ++ p) (z ++ q) d) 24 1 = n := by
  apply BitVec.eq_of_getLsbD_eq
  intro i hi
  simp only [fld, encZM, custom2, BitVec.getLsbD_extractLsb', BitVec.getLsbD_append]
  all_goals interval_cases i
  all_goals simp

@[simp] theorem fld_tile_20_4 (f3 : BitVec 3) (op4 : BitVec 4) (rnd : BitVec 3) (n z : BitVec 1) (p q : BitVec 4)
    (d : BitVec 5) : fld (encZM f3 op4 rnd (n ++ p) (z ++ q) d) 20 4 = p := by
  apply BitVec.eq_of_getLsbD_eq
  intro i hi
  simp only [fld, encZM, custom2, BitVec.getLsbD_extractLsb', BitVec.getLsbD_append]
  all_goals interval_cases i
  all_goals simp

@[simp] theorem fld_tile_15_4 (f3 : BitVec 3) (op4 : BitVec 4) (rnd : BitVec 3) (n z : BitVec 1) (p q : BitVec 4)
    (d : BitVec 5) : fld (encZM f3 op4 rnd (n ++ p) (z ++ q) d) 15 4 = q := by
  apply BitVec.eq_of_getLsbD_eq
  intro i hi
  simp only [fld, encZM, custom2, BitVec.getLsbD_extractLsb', BitVec.getLsbD_append]
  all_goals interval_cases i
  all_goals simp

end Sys2Proof.Laws
end

