-- ==== Sys2Proof/Laws/State.lean ====
section
/-! SUPPORT. What each update of the state leaves alone, one law per field and update, and what the part that it changes reads as. -/

namespace Sys2Proof.Laws

open Sys2Proof.Machine
set_option Elab.async false

/-! modCore changes cores only. -/

@[simp] theorem cur_modCore (s : State) (k : Nat) (f : Core → Core) : (s.modCore k f).cur = s.cur := rfl
@[simp] theorem turns_modCore (s : State) (k : Nat) (f : Core → Core) : (s.modCore k f).turns = s.turns := rfl
@[simp] theorem nextId_modCore (s : State) (k : Nat) (f : Core → Core) : (s.modCore k f).nextId = s.nextId := rfl
@[simp] theorem free_modCore (s : State) (k : Nat) (f : Core → Core) : (s.modCore k f).free = s.free := rfl
@[simp] theorem pace_modCore (s : State) (k : Nat) (f : Core → Core) : (s.modCore k f).pace = s.pace := rfl
@[simp] theorem time_modCore (s : State) (k : Nat) (f : Core → Core) : (s.modCore k f).time = s.time := rfl
@[simp] theorem pkgId_modCore (s : State) (k : Nat) (f : Core → Core) : (s.modCore k f).pkgId = s.pkgId := rfl
@[simp] theorem hbm_modCore (s : State) (k : Nat) (f : Core → Core) : (s.modCore k f).hbm = s.hbm := rfl
@[simp] theorem poison_modCore (s : State) (k : Nat) (f : Core → Core) : (s.modCore k f).poison = s.poison := rfl
@[simp] theorem hostMem_modCore (s : State) (k : Nat) (f : Core → Core) : (s.modCore k f).hostMem = s.hostMem := rfl
@[simp] theorem clusters_modCore (s : State) (k : Nat) (f : Core → Core) : (s.modCore k f).clusters = s.clusters := rfl
@[simp] theorem dies_modCore (s : State) (k : Nat) (f : Core → Core) : (s.modCore k f).dies = s.dies := rfl
@[simp] theorem quads_modCore (s : State) (k : Nat) (f : Core → Core) : (s.modCore k f).quads = s.quads := rfl
@[simp] theorem shadows_modCore (s : State) (k : Nat) (f : Core → Core) : (s.modCore k f).shadows = s.shadows := rfl
@[simp] theorem parts_modCore (s : State) (k : Nat) (f : Core → Core) : (s.modCore k f).parts = s.parts := rfl
@[simp] theorem groups_modCore (s : State) (k : Nat) (f : Core → Core) : (s.modCore k f).groups = s.groups := rfl
@[simp] theorem launches_modCore (s : State) (k : Nat) (f : Core → Core) : (s.modCore k f).launches = s.launches := rfl
@[simp] theorem counters_modCore (s : State) (k : Nat) (f : Core → Core) : (s.modCore k f).counters = s.counters := rfl
@[simp] theorem graphs_modCore (s : State) (k : Nat) (f : Core → Core) : (s.modCore k f).graphs = s.graphs := rfl
@[simp] theorem ready_modCore (s : State) (k : Nat) (f : Core → Core) : (s.modCore k f).ready = s.ready := rfl
@[simp] theorem flights_modCore (s : State) (k : Nat) (f : Core → Core) : (s.modCore k f).flights = s.flights := rfl
@[simp] theorem svcs_modCore (s : State) (k : Nat) (f : Core → Core) : (s.modCore k f).svcs = s.svcs := rfl
@[simp] theorem errs_modCore (s : State) (k : Nat) (f : Core → Core) : (s.modCore k f).errs = s.errs := rfl
@[simp] theorem invals_modCore (s : State) (k : Nat) (f : Core → Core) : (s.modCore k f).invals = s.invals := rfl
@[simp] theorem rows_modCore (s : State) (k : Nat) (f : Core → Core) : (s.modCore k f).rows = s.rows := rfl
@[simp] theorem waiters_modCore (s : State) (k : Nat) (f : Core → Core) : (s.modCore k f).waiters = s.waiters := rfl
@[simp] theorem pkts_modCore (s : State) (k : Nat) (f : Core → Core) : (s.modCore k f).pkts = s.pkts := rfl
@[simp] theorem inbound_modCore (s : State) (k : Nat) (f : Core → Core) : (s.modCore k f).inbound = s.inbound := rfl
@[simp] theorem seqs_modCore (s : State) (k : Nat) (f : Core → Core) : (s.modCore k f).seqs = s.seqs := rfl
@[simp] theorem routes_modCore (s : State) (k : Nat) (f : Core → Core) : (s.modCore k f).routes = s.routes := rfl
@[simp] theorem failedLinks_modCore (s : State) (k : Nat) (f : Core → Core) : (s.modCore k f).failedLinks = s.failedLinks := rfl
@[simp] theorem awayLines_modCore (s : State) (k : Nat) (f : Core → Core) : (s.modCore k f).awayLines = s.awayLines := rfl
@[simp] theorem awayOuts_modCore (s : State) (k : Nat) (f : Core → Core) : (s.modCore k f).awayOuts = s.awayOuts := rfl
@[simp] theorem lastPushes_modCore (s : State) (k : Nat) (f : Core → Core) : (s.modCore k f).lastPushes = s.lastPushes := rfl
@[simp] theorem acksOut_modCore (s : State) (k : Nat) (f : Core → Core) : (s.modCore k f).acksOut = s.acksOut := rfl
@[simp] theorem invReps_modCore (s : State) (k : Nat) (f : Core → Core) : (s.modCore k f).invReps = s.invReps := rfl
@[simp] theorem frameCompls_modCore (s : State) (k : Nat) (f : Core → Core) : (s.modCore k f).frameCompls = s.frameCompls := rfl
@[simp] theorem migCount_modCore (s : State) (k : Nat) (f : Core → Core) : (s.modCore k f).migCount = s.migCount := rfl
@[simp] theorem migPend_modCore (s : State) (k : Nat) (f : Core → Core) : (s.modCore k f).migPend = s.migPend := rfl
@[simp] theorem hostq_modCore (s : State) (k : Nat) (f : Core → Core) : (s.modCore k f).hostq = s.hostq := rfl
@[simp] theorem dpages_modCore (s : State) (k : Nat) (f : Core → Core) : (s.modCore k f).dpages = s.dpages := rfl
@[simp] theorem dev_modCore (s : State) (k : Nat) (f : Core → Core) : (s.modCore k f).dev = s.dev := rfl

/-! modCluster changes clusters only. -/

@[simp] theorem cur_modCluster (s : State) (k : Nat) (f : Cluster → Cluster) : (s.modCluster k f).cur = s.cur := rfl
@[simp] theorem turns_modCluster (s : State) (k : Nat) (f : Cluster → Cluster) : (s.modCluster k f).turns = s.turns := rfl
@[simp] theorem nextId_modCluster (s : State) (k : Nat) (f : Cluster → Cluster) : (s.modCluster k f).nextId = s.nextId := rfl
@[simp] theorem free_modCluster (s : State) (k : Nat) (f : Cluster → Cluster) : (s.modCluster k f).free = s.free := rfl
@[simp] theorem pace_modCluster (s : State) (k : Nat) (f : Cluster → Cluster) : (s.modCluster k f).pace = s.pace := rfl
@[simp] theorem time_modCluster (s : State) (k : Nat) (f : Cluster → Cluster) : (s.modCluster k f).time = s.time := rfl
@[simp] theorem pkgId_modCluster (s : State) (k : Nat) (f : Cluster → Cluster) : (s.modCluster k f).pkgId = s.pkgId := rfl
@[simp] theorem hbm_modCluster (s : State) (k : Nat) (f : Cluster → Cluster) : (s.modCluster k f).hbm = s.hbm := rfl
@[simp] theorem poison_modCluster (s : State) (k : Nat) (f : Cluster → Cluster) : (s.modCluster k f).poison = s.poison := rfl
@[simp] theorem hostMem_modCluster (s : State) (k : Nat) (f : Cluster → Cluster) : (s.modCluster k f).hostMem = s.hostMem := rfl
@[simp] theorem cores_modCluster (s : State) (k : Nat) (f : Cluster → Cluster) : (s.modCluster k f).cores = s.cores := rfl
@[simp] theorem dies_modCluster (s : State) (k : Nat) (f : Cluster → Cluster) : (s.modCluster k f).dies = s.dies := rfl
@[simp] theorem quads_modCluster (s : State) (k : Nat) (f : Cluster → Cluster) : (s.modCluster k f).quads = s.quads := rfl
@[simp] theorem shadows_modCluster (s : State) (k : Nat) (f : Cluster → Cluster) : (s.modCluster k f).shadows = s.shadows := rfl
@[simp] theorem parts_modCluster (s : State) (k : Nat) (f : Cluster → Cluster) : (s.modCluster k f).parts = s.parts := rfl
@[simp] theorem groups_modCluster (s : State) (k : Nat) (f : Cluster → Cluster) : (s.modCluster k f).groups = s.groups := rfl
@[simp] theorem launches_modCluster (s : State) (k : Nat) (f : Cluster → Cluster) : (s.modCluster k f).launches = s.launches := rfl
@[simp] theorem counters_modCluster (s : State) (k : Nat) (f : Cluster → Cluster) : (s.modCluster k f).counters = s.counters := rfl
@[simp] theorem graphs_modCluster (s : State) (k : Nat) (f : Cluster → Cluster) : (s.modCluster k f).graphs = s.graphs := rfl
@[simp] theorem ready_modCluster (s : State) (k : Nat) (f : Cluster → Cluster) : (s.modCluster k f).ready = s.ready := rfl
@[simp] theorem flights_modCluster (s : State) (k : Nat) (f : Cluster → Cluster) : (s.modCluster k f).flights = s.flights := rfl
@[simp] theorem svcs_modCluster (s : State) (k : Nat) (f : Cluster → Cluster) : (s.modCluster k f).svcs = s.svcs := rfl
@[simp] theorem errs_modCluster (s : State) (k : Nat) (f : Cluster → Cluster) : (s.modCluster k f).errs = s.errs := rfl
@[simp] theorem invals_modCluster (s : State) (k : Nat) (f : Cluster → Cluster) : (s.modCluster k f).invals = s.invals := rfl
@[simp] theorem rows_modCluster (s : State) (k : Nat) (f : Cluster → Cluster) : (s.modCluster k f).rows = s.rows := rfl
@[simp] theorem waiters_modCluster (s : State) (k : Nat) (f : Cluster → Cluster) : (s.modCluster k f).waiters = s.waiters := rfl
@[simp] theorem pkts_modCluster (s : State) (k : Nat) (f : Cluster → Cluster) : (s.modCluster k f).pkts = s.pkts := rfl
@[simp] theorem inbound_modCluster (s : State) (k : Nat) (f : Cluster → Cluster) : (s.modCluster k f).inbound = s.inbound := rfl
@[simp] theorem seqs_modCluster (s : State) (k : Nat) (f : Cluster → Cluster) : (s.modCluster k f).seqs = s.seqs := rfl
@[simp] theorem routes_modCluster (s : State) (k : Nat) (f : Cluster → Cluster) : (s.modCluster k f).routes = s.routes := rfl
@[simp] theorem failedLinks_modCluster (s : State) (k : Nat) (f : Cluster → Cluster) : (s.modCluster k f).failedLinks = s.failedLinks := rfl
@[simp] theorem awayLines_modCluster (s : State) (k : Nat) (f : Cluster → Cluster) : (s.modCluster k f).awayLines = s.awayLines := rfl
@[simp] theorem awayOuts_modCluster (s : State) (k : Nat) (f : Cluster → Cluster) : (s.modCluster k f).awayOuts = s.awayOuts := rfl
@[simp] theorem lastPushes_modCluster (s : State) (k : Nat) (f : Cluster → Cluster) : (s.modCluster k f).lastPushes = s.lastPushes := rfl
@[simp] theorem acksOut_modCluster (s : State) (k : Nat) (f : Cluster → Cluster) : (s.modCluster k f).acksOut = s.acksOut := rfl
@[simp] theorem invReps_modCluster (s : State) (k : Nat) (f : Cluster → Cluster) : (s.modCluster k f).invReps = s.invReps := rfl
@[simp] theorem frameCompls_modCluster (s : State) (k : Nat) (f : Cluster → Cluster) : (s.modCluster k f).frameCompls = s.frameCompls := rfl
@[simp] theorem migCount_modCluster (s : State) (k : Nat) (f : Cluster → Cluster) : (s.modCluster k f).migCount = s.migCount := rfl
@[simp] theorem migPend_modCluster (s : State) (k : Nat) (f : Cluster → Cluster) : (s.modCluster k f).migPend = s.migPend := rfl
@[simp] theorem hostq_modCluster (s : State) (k : Nat) (f : Cluster → Cluster) : (s.modCluster k f).hostq = s.hostq := rfl
@[simp] theorem dpages_modCluster (s : State) (k : Nat) (f : Cluster → Cluster) : (s.modCluster k f).dpages = s.dpages := rfl
@[simp] theorem dev_modCluster (s : State) (k : Nat) (f : Cluster → Cluster) : (s.modCluster k f).dev = s.dev := rfl

/-! modDie changes dies only. -/

@[simp] theorem cur_modDie (s : State) (k : Nat) (f : Die → Die) : (s.modDie k f).cur = s.cur := rfl
@[simp] theorem turns_modDie (s : State) (k : Nat) (f : Die → Die) : (s.modDie k f).turns = s.turns := rfl
@[simp] theorem nextId_modDie (s : State) (k : Nat) (f : Die → Die) : (s.modDie k f).nextId = s.nextId := rfl
@[simp] theorem free_modDie (s : State) (k : Nat) (f : Die → Die) : (s.modDie k f).free = s.free := rfl
@[simp] theorem pace_modDie (s : State) (k : Nat) (f : Die → Die) : (s.modDie k f).pace = s.pace := rfl
@[simp] theorem time_modDie (s : State) (k : Nat) (f : Die → Die) : (s.modDie k f).time = s.time := rfl
@[simp] theorem pkgId_modDie (s : State) (k : Nat) (f : Die → Die) : (s.modDie k f).pkgId = s.pkgId := rfl
@[simp] theorem hbm_modDie (s : State) (k : Nat) (f : Die → Die) : (s.modDie k f).hbm = s.hbm := rfl
@[simp] theorem poison_modDie (s : State) (k : Nat) (f : Die → Die) : (s.modDie k f).poison = s.poison := rfl
@[simp] theorem hostMem_modDie (s : State) (k : Nat) (f : Die → Die) : (s.modDie k f).hostMem = s.hostMem := rfl
@[simp] theorem cores_modDie (s : State) (k : Nat) (f : Die → Die) : (s.modDie k f).cores = s.cores := rfl
@[simp] theorem clusters_modDie (s : State) (k : Nat) (f : Die → Die) : (s.modDie k f).clusters = s.clusters := rfl
@[simp] theorem quads_modDie (s : State) (k : Nat) (f : Die → Die) : (s.modDie k f).quads = s.quads := rfl
@[simp] theorem shadows_modDie (s : State) (k : Nat) (f : Die → Die) : (s.modDie k f).shadows = s.shadows := rfl
@[simp] theorem parts_modDie (s : State) (k : Nat) (f : Die → Die) : (s.modDie k f).parts = s.parts := rfl
@[simp] theorem groups_modDie (s : State) (k : Nat) (f : Die → Die) : (s.modDie k f).groups = s.groups := rfl
@[simp] theorem launches_modDie (s : State) (k : Nat) (f : Die → Die) : (s.modDie k f).launches = s.launches := rfl
@[simp] theorem counters_modDie (s : State) (k : Nat) (f : Die → Die) : (s.modDie k f).counters = s.counters := rfl
@[simp] theorem graphs_modDie (s : State) (k : Nat) (f : Die → Die) : (s.modDie k f).graphs = s.graphs := rfl
@[simp] theorem ready_modDie (s : State) (k : Nat) (f : Die → Die) : (s.modDie k f).ready = s.ready := rfl
@[simp] theorem flights_modDie (s : State) (k : Nat) (f : Die → Die) : (s.modDie k f).flights = s.flights := rfl
@[simp] theorem svcs_modDie (s : State) (k : Nat) (f : Die → Die) : (s.modDie k f).svcs = s.svcs := rfl
@[simp] theorem errs_modDie (s : State) (k : Nat) (f : Die → Die) : (s.modDie k f).errs = s.errs := rfl
@[simp] theorem invals_modDie (s : State) (k : Nat) (f : Die → Die) : (s.modDie k f).invals = s.invals := rfl
@[simp] theorem rows_modDie (s : State) (k : Nat) (f : Die → Die) : (s.modDie k f).rows = s.rows := rfl
@[simp] theorem waiters_modDie (s : State) (k : Nat) (f : Die → Die) : (s.modDie k f).waiters = s.waiters := rfl
@[simp] theorem pkts_modDie (s : State) (k : Nat) (f : Die → Die) : (s.modDie k f).pkts = s.pkts := rfl
@[simp] theorem inbound_modDie (s : State) (k : Nat) (f : Die → Die) : (s.modDie k f).inbound = s.inbound := rfl
@[simp] theorem seqs_modDie (s : State) (k : Nat) (f : Die → Die) : (s.modDie k f).seqs = s.seqs := rfl
@[simp] theorem routes_modDie (s : State) (k : Nat) (f : Die → Die) : (s.modDie k f).routes = s.routes := rfl
@[simp] theorem failedLinks_modDie (s : State) (k : Nat) (f : Die → Die) : (s.modDie k f).failedLinks = s.failedLinks := rfl
@[simp] theorem awayLines_modDie (s : State) (k : Nat) (f : Die → Die) : (s.modDie k f).awayLines = s.awayLines := rfl
@[simp] theorem awayOuts_modDie (s : State) (k : Nat) (f : Die → Die) : (s.modDie k f).awayOuts = s.awayOuts := rfl
@[simp] theorem lastPushes_modDie (s : State) (k : Nat) (f : Die → Die) : (s.modDie k f).lastPushes = s.lastPushes := rfl
@[simp] theorem acksOut_modDie (s : State) (k : Nat) (f : Die → Die) : (s.modDie k f).acksOut = s.acksOut := rfl
@[simp] theorem invReps_modDie (s : State) (k : Nat) (f : Die → Die) : (s.modDie k f).invReps = s.invReps := rfl
@[simp] theorem frameCompls_modDie (s : State) (k : Nat) (f : Die → Die) : (s.modDie k f).frameCompls = s.frameCompls := rfl
@[simp] theorem migCount_modDie (s : State) (k : Nat) (f : Die → Die) : (s.modDie k f).migCount = s.migCount := rfl
@[simp] theorem migPend_modDie (s : State) (k : Nat) (f : Die → Die) : (s.modDie k f).migPend = s.migPend := rfl
@[simp] theorem hostq_modDie (s : State) (k : Nat) (f : Die → Die) : (s.modDie k f).hostq = s.hostq := rfl
@[simp] theorem dpages_modDie (s : State) (k : Nat) (f : Die → Die) : (s.modDie k f).dpages = s.dpages := rfl
@[simp] theorem dev_modDie (s : State) (k : Nat) (f : Die → Die) : (s.modDie k f).dev = s.dev := rfl

/-! modPart changes parts only. -/

@[simp] theorem cur_modPart (s : State) (k : Nat) (f : Part → Part) : (s.modPart k f).cur = s.cur := rfl
@[simp] theorem turns_modPart (s : State) (k : Nat) (f : Part → Part) : (s.modPart k f).turns = s.turns := rfl
@[simp] theorem nextId_modPart (s : State) (k : Nat) (f : Part → Part) : (s.modPart k f).nextId = s.nextId := rfl
@[simp] theorem free_modPart (s : State) (k : Nat) (f : Part → Part) : (s.modPart k f).free = s.free := rfl
@[simp] theorem pace_modPart (s : State) (k : Nat) (f : Part → Part) : (s.modPart k f).pace = s.pace := rfl
@[simp] theorem time_modPart (s : State) (k : Nat) (f : Part → Part) : (s.modPart k f).time = s.time := rfl
@[simp] theorem pkgId_modPart (s : State) (k : Nat) (f : Part → Part) : (s.modPart k f).pkgId = s.pkgId := rfl
@[simp] theorem hbm_modPart (s : State) (k : Nat) (f : Part → Part) : (s.modPart k f).hbm = s.hbm := rfl
@[simp] theorem poison_modPart (s : State) (k : Nat) (f : Part → Part) : (s.modPart k f).poison = s.poison := rfl
@[simp] theorem hostMem_modPart (s : State) (k : Nat) (f : Part → Part) : (s.modPart k f).hostMem = s.hostMem := rfl
@[simp] theorem cores_modPart (s : State) (k : Nat) (f : Part → Part) : (s.modPart k f).cores = s.cores := rfl
@[simp] theorem clusters_modPart (s : State) (k : Nat) (f : Part → Part) : (s.modPart k f).clusters = s.clusters := rfl
@[simp] theorem dies_modPart (s : State) (k : Nat) (f : Part → Part) : (s.modPart k f).dies = s.dies := rfl
@[simp] theorem quads_modPart (s : State) (k : Nat) (f : Part → Part) : (s.modPart k f).quads = s.quads := rfl
@[simp] theorem shadows_modPart (s : State) (k : Nat) (f : Part → Part) : (s.modPart k f).shadows = s.shadows := rfl
@[simp] theorem groups_modPart (s : State) (k : Nat) (f : Part → Part) : (s.modPart k f).groups = s.groups := rfl
@[simp] theorem launches_modPart (s : State) (k : Nat) (f : Part → Part) : (s.modPart k f).launches = s.launches := rfl
@[simp] theorem counters_modPart (s : State) (k : Nat) (f : Part → Part) : (s.modPart k f).counters = s.counters := rfl
@[simp] theorem graphs_modPart (s : State) (k : Nat) (f : Part → Part) : (s.modPart k f).graphs = s.graphs := rfl
@[simp] theorem ready_modPart (s : State) (k : Nat) (f : Part → Part) : (s.modPart k f).ready = s.ready := rfl
@[simp] theorem flights_modPart (s : State) (k : Nat) (f : Part → Part) : (s.modPart k f).flights = s.flights := rfl
@[simp] theorem svcs_modPart (s : State) (k : Nat) (f : Part → Part) : (s.modPart k f).svcs = s.svcs := rfl
@[simp] theorem errs_modPart (s : State) (k : Nat) (f : Part → Part) : (s.modPart k f).errs = s.errs := rfl
@[simp] theorem invals_modPart (s : State) (k : Nat) (f : Part → Part) : (s.modPart k f).invals = s.invals := rfl
@[simp] theorem rows_modPart (s : State) (k : Nat) (f : Part → Part) : (s.modPart k f).rows = s.rows := rfl
@[simp] theorem waiters_modPart (s : State) (k : Nat) (f : Part → Part) : (s.modPart k f).waiters = s.waiters := rfl
@[simp] theorem pkts_modPart (s : State) (k : Nat) (f : Part → Part) : (s.modPart k f).pkts = s.pkts := rfl
@[simp] theorem inbound_modPart (s : State) (k : Nat) (f : Part → Part) : (s.modPart k f).inbound = s.inbound := rfl
@[simp] theorem seqs_modPart (s : State) (k : Nat) (f : Part → Part) : (s.modPart k f).seqs = s.seqs := rfl
@[simp] theorem routes_modPart (s : State) (k : Nat) (f : Part → Part) : (s.modPart k f).routes = s.routes := rfl
@[simp] theorem failedLinks_modPart (s : State) (k : Nat) (f : Part → Part) : (s.modPart k f).failedLinks = s.failedLinks := rfl
@[simp] theorem awayLines_modPart (s : State) (k : Nat) (f : Part → Part) : (s.modPart k f).awayLines = s.awayLines := rfl
@[simp] theorem awayOuts_modPart (s : State) (k : Nat) (f : Part → Part) : (s.modPart k f).awayOuts = s.awayOuts := rfl
@[simp] theorem lastPushes_modPart (s : State) (k : Nat) (f : Part → Part) : (s.modPart k f).lastPushes = s.lastPushes := rfl
@[simp] theorem acksOut_modPart (s : State) (k : Nat) (f : Part → Part) : (s.modPart k f).acksOut = s.acksOut := rfl
@[simp] theorem invReps_modPart (s : State) (k : Nat) (f : Part → Part) : (s.modPart k f).invReps = s.invReps := rfl
@[simp] theorem frameCompls_modPart (s : State) (k : Nat) (f : Part → Part) : (s.modPart k f).frameCompls = s.frameCompls := rfl
@[simp] theorem migCount_modPart (s : State) (k : Nat) (f : Part → Part) : (s.modPart k f).migCount = s.migCount := rfl
@[simp] theorem migPend_modPart (s : State) (k : Nat) (f : Part → Part) : (s.modPart k f).migPend = s.migPend := rfl
@[simp] theorem hostq_modPart (s : State) (k : Nat) (f : Part → Part) : (s.modPart k f).hostq = s.hostq := rfl
@[simp] theorem dpages_modPart (s : State) (k : Nat) (f : Part → Part) : (s.modPart k f).dpages = s.dpages := rfl
@[simp] theorem dev_modPart (s : State) (k : Nat) (f : Part → Part) : (s.modPart k f).dev = s.dev := rfl

/-! modGroup changes groups only. -/

@[simp] theorem cur_modGroup (s : State) (k : Nat) (f : Group → Group) : (s.modGroup k f).cur = s.cur := rfl
@[simp] theorem turns_modGroup (s : State) (k : Nat) (f : Group → Group) : (s.modGroup k f).turns = s.turns := rfl
@[simp] theorem nextId_modGroup (s : State) (k : Nat) (f : Group → Group) : (s.modGroup k f).nextId = s.nextId := rfl
@[simp] theorem free_modGroup (s : State) (k : Nat) (f : Group → Group) : (s.modGroup k f).free = s.free := rfl
@[simp] theorem pace_modGroup (s : State) (k : Nat) (f : Group → Group) : (s.modGroup k f).pace = s.pace := rfl
@[simp] theorem time_modGroup (s : State) (k : Nat) (f : Group → Group) : (s.modGroup k f).time = s.time := rfl
@[simp] theorem pkgId_modGroup (s : State) (k : Nat) (f : Group → Group) : (s.modGroup k f).pkgId = s.pkgId := rfl
@[simp] theorem hbm_modGroup (s : State) (k : Nat) (f : Group → Group) : (s.modGroup k f).hbm = s.hbm := rfl
@[simp] theorem poison_modGroup (s : State) (k : Nat) (f : Group → Group) : (s.modGroup k f).poison = s.poison := rfl
@[simp] theorem hostMem_modGroup (s : State) (k : Nat) (f : Group → Group) : (s.modGroup k f).hostMem = s.hostMem := rfl
@[simp] theorem cores_modGroup (s : State) (k : Nat) (f : Group → Group) : (s.modGroup k f).cores = s.cores := rfl
@[simp] theorem clusters_modGroup (s : State) (k : Nat) (f : Group → Group) : (s.modGroup k f).clusters = s.clusters := rfl
@[simp] theorem dies_modGroup (s : State) (k : Nat) (f : Group → Group) : (s.modGroup k f).dies = s.dies := rfl
@[simp] theorem quads_modGroup (s : State) (k : Nat) (f : Group → Group) : (s.modGroup k f).quads = s.quads := rfl
@[simp] theorem shadows_modGroup (s : State) (k : Nat) (f : Group → Group) : (s.modGroup k f).shadows = s.shadows := rfl
@[simp] theorem parts_modGroup (s : State) (k : Nat) (f : Group → Group) : (s.modGroup k f).parts = s.parts := rfl
@[simp] theorem launches_modGroup (s : State) (k : Nat) (f : Group → Group) : (s.modGroup k f).launches = s.launches := rfl
@[simp] theorem counters_modGroup (s : State) (k : Nat) (f : Group → Group) : (s.modGroup k f).counters = s.counters := rfl
@[simp] theorem graphs_modGroup (s : State) (k : Nat) (f : Group → Group) : (s.modGroup k f).graphs = s.graphs := rfl
@[simp] theorem ready_modGroup (s : State) (k : Nat) (f : Group → Group) : (s.modGroup k f).ready = s.ready := rfl
@[simp] theorem flights_modGroup (s : State) (k : Nat) (f : Group → Group) : (s.modGroup k f).flights = s.flights := rfl
@[simp] theorem svcs_modGroup (s : State) (k : Nat) (f : Group → Group) : (s.modGroup k f).svcs = s.svcs := rfl
@[simp] theorem errs_modGroup (s : State) (k : Nat) (f : Group → Group) : (s.modGroup k f).errs = s.errs := rfl
@[simp] theorem invals_modGroup (s : State) (k : Nat) (f : Group → Group) : (s.modGroup k f).invals = s.invals := rfl
@[simp] theorem rows_modGroup (s : State) (k : Nat) (f : Group → Group) : (s.modGroup k f).rows = s.rows := rfl
@[simp] theorem waiters_modGroup (s : State) (k : Nat) (f : Group → Group) : (s.modGroup k f).waiters = s.waiters := rfl
@[simp] theorem pkts_modGroup (s : State) (k : Nat) (f : Group → Group) : (s.modGroup k f).pkts = s.pkts := rfl
@[simp] theorem inbound_modGroup (s : State) (k : Nat) (f : Group → Group) : (s.modGroup k f).inbound = s.inbound := rfl
@[simp] theorem seqs_modGroup (s : State) (k : Nat) (f : Group → Group) : (s.modGroup k f).seqs = s.seqs := rfl
@[simp] theorem routes_modGroup (s : State) (k : Nat) (f : Group → Group) : (s.modGroup k f).routes = s.routes := rfl
@[simp] theorem failedLinks_modGroup (s : State) (k : Nat) (f : Group → Group) : (s.modGroup k f).failedLinks = s.failedLinks := rfl
@[simp] theorem awayLines_modGroup (s : State) (k : Nat) (f : Group → Group) : (s.modGroup k f).awayLines = s.awayLines := rfl
@[simp] theorem awayOuts_modGroup (s : State) (k : Nat) (f : Group → Group) : (s.modGroup k f).awayOuts = s.awayOuts := rfl
@[simp] theorem lastPushes_modGroup (s : State) (k : Nat) (f : Group → Group) : (s.modGroup k f).lastPushes = s.lastPushes := rfl
@[simp] theorem acksOut_modGroup (s : State) (k : Nat) (f : Group → Group) : (s.modGroup k f).acksOut = s.acksOut := rfl
@[simp] theorem invReps_modGroup (s : State) (k : Nat) (f : Group → Group) : (s.modGroup k f).invReps = s.invReps := rfl
@[simp] theorem frameCompls_modGroup (s : State) (k : Nat) (f : Group → Group) : (s.modGroup k f).frameCompls = s.frameCompls := rfl
@[simp] theorem migCount_modGroup (s : State) (k : Nat) (f : Group → Group) : (s.modGroup k f).migCount = s.migCount := rfl
@[simp] theorem migPend_modGroup (s : State) (k : Nat) (f : Group → Group) : (s.modGroup k f).migPend = s.migPend := rfl
@[simp] theorem hostq_modGroup (s : State) (k : Nat) (f : Group → Group) : (s.modGroup k f).hostq = s.hostq := rfl
@[simp] theorem dpages_modGroup (s : State) (k : Nat) (f : Group → Group) : (s.modGroup k f).dpages = s.dpages := rfl
@[simp] theorem dev_modGroup (s : State) (k : Nat) (f : Group → Group) : (s.modGroup k f).dev = s.dev := rfl

/-! modLaunch changes launches only. -/

@[simp] theorem cur_modLaunch (s : State) (k : Nat) (f : Launch → Launch) : (s.modLaunch k f).cur = s.cur := rfl
@[simp] theorem turns_modLaunch (s : State) (k : Nat) (f : Launch → Launch) : (s.modLaunch k f).turns = s.turns := rfl
@[simp] theorem nextId_modLaunch (s : State) (k : Nat) (f : Launch → Launch) : (s.modLaunch k f).nextId = s.nextId := rfl
@[simp] theorem free_modLaunch (s : State) (k : Nat) (f : Launch → Launch) : (s.modLaunch k f).free = s.free := rfl
@[simp] theorem pace_modLaunch (s : State) (k : Nat) (f : Launch → Launch) : (s.modLaunch k f).pace = s.pace := rfl
@[simp] theorem time_modLaunch (s : State) (k : Nat) (f : Launch → Launch) : (s.modLaunch k f).time = s.time := rfl
@[simp] theorem pkgId_modLaunch (s : State) (k : Nat) (f : Launch → Launch) : (s.modLaunch k f).pkgId = s.pkgId := rfl
@[simp] theorem hbm_modLaunch (s : State) (k : Nat) (f : Launch → Launch) : (s.modLaunch k f).hbm = s.hbm := rfl
@[simp] theorem poison_modLaunch (s : State) (k : Nat) (f : Launch → Launch) : (s.modLaunch k f).poison = s.poison := rfl
@[simp] theorem hostMem_modLaunch (s : State) (k : Nat) (f : Launch → Launch) : (s.modLaunch k f).hostMem = s.hostMem := rfl
@[simp] theorem cores_modLaunch (s : State) (k : Nat) (f : Launch → Launch) : (s.modLaunch k f).cores = s.cores := rfl
@[simp] theorem clusters_modLaunch (s : State) (k : Nat) (f : Launch → Launch) : (s.modLaunch k f).clusters = s.clusters := rfl
@[simp] theorem dies_modLaunch (s : State) (k : Nat) (f : Launch → Launch) : (s.modLaunch k f).dies = s.dies := rfl
@[simp] theorem quads_modLaunch (s : State) (k : Nat) (f : Launch → Launch) : (s.modLaunch k f).quads = s.quads := rfl
@[simp] theorem shadows_modLaunch (s : State) (k : Nat) (f : Launch → Launch) : (s.modLaunch k f).shadows = s.shadows := rfl
@[simp] theorem parts_modLaunch (s : State) (k : Nat) (f : Launch → Launch) : (s.modLaunch k f).parts = s.parts := rfl
@[simp] theorem groups_modLaunch (s : State) (k : Nat) (f : Launch → Launch) : (s.modLaunch k f).groups = s.groups := rfl
@[simp] theorem counters_modLaunch (s : State) (k : Nat) (f : Launch → Launch) : (s.modLaunch k f).counters = s.counters := rfl
@[simp] theorem graphs_modLaunch (s : State) (k : Nat) (f : Launch → Launch) : (s.modLaunch k f).graphs = s.graphs := rfl
@[simp] theorem ready_modLaunch (s : State) (k : Nat) (f : Launch → Launch) : (s.modLaunch k f).ready = s.ready := rfl
@[simp] theorem flights_modLaunch (s : State) (k : Nat) (f : Launch → Launch) : (s.modLaunch k f).flights = s.flights := rfl
@[simp] theorem svcs_modLaunch (s : State) (k : Nat) (f : Launch → Launch) : (s.modLaunch k f).svcs = s.svcs := rfl
@[simp] theorem errs_modLaunch (s : State) (k : Nat) (f : Launch → Launch) : (s.modLaunch k f).errs = s.errs := rfl
@[simp] theorem invals_modLaunch (s : State) (k : Nat) (f : Launch → Launch) : (s.modLaunch k f).invals = s.invals := rfl
@[simp] theorem rows_modLaunch (s : State) (k : Nat) (f : Launch → Launch) : (s.modLaunch k f).rows = s.rows := rfl
@[simp] theorem waiters_modLaunch (s : State) (k : Nat) (f : Launch → Launch) : (s.modLaunch k f).waiters = s.waiters := rfl
@[simp] theorem pkts_modLaunch (s : State) (k : Nat) (f : Launch → Launch) : (s.modLaunch k f).pkts = s.pkts := rfl
@[simp] theorem inbound_modLaunch (s : State) (k : Nat) (f : Launch → Launch) : (s.modLaunch k f).inbound = s.inbound := rfl
@[simp] theorem seqs_modLaunch (s : State) (k : Nat) (f : Launch → Launch) : (s.modLaunch k f).seqs = s.seqs := rfl
@[simp] theorem routes_modLaunch (s : State) (k : Nat) (f : Launch → Launch) : (s.modLaunch k f).routes = s.routes := rfl
@[simp] theorem failedLinks_modLaunch (s : State) (k : Nat) (f : Launch → Launch) : (s.modLaunch k f).failedLinks = s.failedLinks := rfl
@[simp] theorem awayLines_modLaunch (s : State) (k : Nat) (f : Launch → Launch) : (s.modLaunch k f).awayLines = s.awayLines := rfl
@[simp] theorem awayOuts_modLaunch (s : State) (k : Nat) (f : Launch → Launch) : (s.modLaunch k f).awayOuts = s.awayOuts := rfl
@[simp] theorem lastPushes_modLaunch (s : State) (k : Nat) (f : Launch → Launch) : (s.modLaunch k f).lastPushes = s.lastPushes := rfl
@[simp] theorem acksOut_modLaunch (s : State) (k : Nat) (f : Launch → Launch) : (s.modLaunch k f).acksOut = s.acksOut := rfl
@[simp] theorem invReps_modLaunch (s : State) (k : Nat) (f : Launch → Launch) : (s.modLaunch k f).invReps = s.invReps := rfl
@[simp] theorem frameCompls_modLaunch (s : State) (k : Nat) (f : Launch → Launch) : (s.modLaunch k f).frameCompls = s.frameCompls := rfl
@[simp] theorem migCount_modLaunch (s : State) (k : Nat) (f : Launch → Launch) : (s.modLaunch k f).migCount = s.migCount := rfl
@[simp] theorem migPend_modLaunch (s : State) (k : Nat) (f : Launch → Launch) : (s.modLaunch k f).migPend = s.migPend := rfl
@[simp] theorem hostq_modLaunch (s : State) (k : Nat) (f : Launch → Launch) : (s.modLaunch k f).hostq = s.hostq := rfl
@[simp] theorem dpages_modLaunch (s : State) (k : Nat) (f : Launch → Launch) : (s.modLaunch k f).dpages = s.dpages := rfl
@[simp] theorem dev_modLaunch (s : State) (k : Nat) (f : Launch → Launch) : (s.modLaunch k f).dev = s.dev := rfl

/-! modMe changes cores only. -/

@[simp] theorem turns_modMe (s : State) (f : Core → Core) : (s.modMe f).turns = s.turns := rfl
@[simp] theorem nextId_modMe (s : State) (f : Core → Core) : (s.modMe f).nextId = s.nextId := rfl
@[simp] theorem free_modMe (s : State) (f : Core → Core) : (s.modMe f).free = s.free := rfl
@[simp] theorem pace_modMe (s : State) (f : Core → Core) : (s.modMe f).pace = s.pace := rfl
@[simp] theorem time_modMe (s : State) (f : Core → Core) : (s.modMe f).time = s.time := rfl
@[simp] theorem pkgId_modMe (s : State) (f : Core → Core) : (s.modMe f).pkgId = s.pkgId := rfl
@[simp] theorem hbm_modMe (s : State) (f : Core → Core) : (s.modMe f).hbm = s.hbm := rfl
@[simp] theorem poison_modMe (s : State) (f : Core → Core) : (s.modMe f).poison = s.poison := rfl
@[simp] theorem hostMem_modMe (s : State) (f : Core → Core) : (s.modMe f).hostMem = s.hostMem := rfl
@[simp] theorem clusters_modMe (s : State) (f : Core → Core) : (s.modMe f).clusters = s.clusters := rfl
@[simp] theorem dies_modMe (s : State) (f : Core → Core) : (s.modMe f).dies = s.dies := rfl
@[simp] theorem quads_modMe (s : State) (f : Core → Core) : (s.modMe f).quads = s.quads := rfl
@[simp] theorem shadows_modMe (s : State) (f : Core → Core) : (s.modMe f).shadows = s.shadows := rfl
@[simp] theorem parts_modMe (s : State) (f : Core → Core) : (s.modMe f).parts = s.parts := rfl
@[simp] theorem groups_modMe (s : State) (f : Core → Core) : (s.modMe f).groups = s.groups := rfl
@[simp] theorem launches_modMe (s : State) (f : Core → Core) : (s.modMe f).launches = s.launches := rfl
@[simp] theorem counters_modMe (s : State) (f : Core → Core) : (s.modMe f).counters = s.counters := rfl
@[simp] theorem graphs_modMe (s : State) (f : Core → Core) : (s.modMe f).graphs = s.graphs := rfl
@[simp] theorem ready_modMe (s : State) (f : Core → Core) : (s.modMe f).ready = s.ready := rfl
@[simp] theorem flights_modMe (s : State) (f : Core → Core) : (s.modMe f).flights = s.flights := rfl
@[simp] theorem svcs_modMe (s : State) (f : Core → Core) : (s.modMe f).svcs = s.svcs := rfl
@[simp] theorem errs_modMe (s : State) (f : Core → Core) : (s.modMe f).errs = s.errs := rfl
@[simp] theorem invals_modMe (s : State) (f : Core → Core) : (s.modMe f).invals = s.invals := rfl
@[simp] theorem rows_modMe (s : State) (f : Core → Core) : (s.modMe f).rows = s.rows := rfl
@[simp] theorem waiters_modMe (s : State) (f : Core → Core) : (s.modMe f).waiters = s.waiters := rfl
@[simp] theorem pkts_modMe (s : State) (f : Core → Core) : (s.modMe f).pkts = s.pkts := rfl
@[simp] theorem inbound_modMe (s : State) (f : Core → Core) : (s.modMe f).inbound = s.inbound := rfl
@[simp] theorem seqs_modMe (s : State) (f : Core → Core) : (s.modMe f).seqs = s.seqs := rfl
@[simp] theorem routes_modMe (s : State) (f : Core → Core) : (s.modMe f).routes = s.routes := rfl
@[simp] theorem failedLinks_modMe (s : State) (f : Core → Core) : (s.modMe f).failedLinks = s.failedLinks := rfl
@[simp] theorem awayLines_modMe (s : State) (f : Core → Core) : (s.modMe f).awayLines = s.awayLines := rfl
@[simp] theorem awayOuts_modMe (s : State) (f : Core → Core) : (s.modMe f).awayOuts = s.awayOuts := rfl
@[simp] theorem lastPushes_modMe (s : State) (f : Core → Core) : (s.modMe f).lastPushes = s.lastPushes := rfl
@[simp] theorem acksOut_modMe (s : State) (f : Core → Core) : (s.modMe f).acksOut = s.acksOut := rfl
@[simp] theorem invReps_modMe (s : State) (f : Core → Core) : (s.modMe f).invReps = s.invReps := rfl
@[simp] theorem frameCompls_modMe (s : State) (f : Core → Core) : (s.modMe f).frameCompls = s.frameCompls := rfl
@[simp] theorem migCount_modMe (s : State) (f : Core → Core) : (s.modMe f).migCount = s.migCount := rfl
@[simp] theorem migPend_modMe (s : State) (f : Core → Core) : (s.modMe f).migPend = s.migPend := rfl
@[simp] theorem hostq_modMe (s : State) (f : Core → Core) : (s.modMe f).hostq = s.hostq := rfl
@[simp] theorem dpages_modMe (s : State) (f : Core → Core) : (s.modMe f).dpages = s.dpages := rfl
@[simp] theorem dev_modMe (s : State) (f : Core → Core) : (s.modMe f).dev = s.dev := rfl

/-! modCtx changes cores only. -/

@[simp] theorem cur_modCtx (s : State) (f : Ctx → Ctx) : (s.modCtx f).cur = s.cur := rfl
@[simp] theorem turns_modCtx (s : State) (f : Ctx → Ctx) : (s.modCtx f).turns = s.turns := rfl
@[simp] theorem nextId_modCtx (s : State) (f : Ctx → Ctx) : (s.modCtx f).nextId = s.nextId := rfl
@[simp] theorem free_modCtx (s : State) (f : Ctx → Ctx) : (s.modCtx f).free = s.free := rfl
@[simp] theorem pace_modCtx (s : State) (f : Ctx → Ctx) : (s.modCtx f).pace = s.pace := rfl
@[simp] theorem time_modCtx (s : State) (f : Ctx → Ctx) : (s.modCtx f).time = s.time := rfl
@[simp] theorem pkgId_modCtx (s : State) (f : Ctx → Ctx) : (s.modCtx f).pkgId = s.pkgId := rfl
@[simp] theorem hbm_modCtx (s : State) (f : Ctx → Ctx) : (s.modCtx f).hbm = s.hbm := rfl
@[simp] theorem poison_modCtx (s : State) (f : Ctx → Ctx) : (s.modCtx f).poison = s.poison := rfl
@[simp] theorem hostMem_modCtx (s : State) (f : Ctx → Ctx) : (s.modCtx f).hostMem = s.hostMem := rfl
@[simp] theorem clusters_modCtx (s : State) (f : Ctx → Ctx) : (s.modCtx f).clusters = s.clusters := rfl
@[simp] theorem dies_modCtx (s : State) (f : Ctx → Ctx) : (s.modCtx f).dies = s.dies := rfl
@[simp] theorem quads_modCtx (s : State) (f : Ctx → Ctx) : (s.modCtx f).quads = s.quads := rfl
@[simp] theorem shadows_modCtx (s : State) (f : Ctx → Ctx) : (s.modCtx f).shadows = s.shadows := rfl
@[simp] theorem parts_modCtx (s : State) (f : Ctx → Ctx) : (s.modCtx f).parts = s.parts := rfl
@[simp] theorem groups_modCtx (s : State) (f : Ctx → Ctx) : (s.modCtx f).groups = s.groups := rfl
@[simp] theorem launches_modCtx (s : State) (f : Ctx → Ctx) : (s.modCtx f).launches = s.launches := rfl
@[simp] theorem counters_modCtx (s : State) (f : Ctx → Ctx) : (s.modCtx f).counters = s.counters := rfl
@[simp] theorem graphs_modCtx (s : State) (f : Ctx → Ctx) : (s.modCtx f).graphs = s.graphs := rfl
@[simp] theorem ready_modCtx (s : State) (f : Ctx → Ctx) : (s.modCtx f).ready = s.ready := rfl
@[simp] theorem flights_modCtx (s : State) (f : Ctx → Ctx) : (s.modCtx f).flights = s.flights := rfl
@[simp] theorem svcs_modCtx (s : State) (f : Ctx → Ctx) : (s.modCtx f).svcs = s.svcs := rfl
@[simp] theorem errs_modCtx (s : State) (f : Ctx → Ctx) : (s.modCtx f).errs = s.errs := rfl
@[simp] theorem invals_modCtx (s : State) (f : Ctx → Ctx) : (s.modCtx f).invals = s.invals := rfl
@[simp] theorem rows_modCtx (s : State) (f : Ctx → Ctx) : (s.modCtx f).rows = s.rows := rfl
@[simp] theorem waiters_modCtx (s : State) (f : Ctx → Ctx) : (s.modCtx f).waiters = s.waiters := rfl
@[simp] theorem pkts_modCtx (s : State) (f : Ctx → Ctx) : (s.modCtx f).pkts = s.pkts := rfl
@[simp] theorem inbound_modCtx (s : State) (f : Ctx → Ctx) : (s.modCtx f).inbound = s.inbound := rfl
@[simp] theorem seqs_modCtx (s : State) (f : Ctx → Ctx) : (s.modCtx f).seqs = s.seqs := rfl
@[simp] theorem routes_modCtx (s : State) (f : Ctx → Ctx) : (s.modCtx f).routes = s.routes := rfl
@[simp] theorem failedLinks_modCtx (s : State) (f : Ctx → Ctx) : (s.modCtx f).failedLinks = s.failedLinks := rfl
@[simp] theorem awayLines_modCtx (s : State) (f : Ctx → Ctx) : (s.modCtx f).awayLines = s.awayLines := rfl
@[simp] theorem awayOuts_modCtx (s : State) (f : Ctx → Ctx) : (s.modCtx f).awayOuts = s.awayOuts := rfl
@[simp] theorem lastPushes_modCtx (s : State) (f : Ctx → Ctx) : (s.modCtx f).lastPushes = s.lastPushes := rfl
@[simp] theorem acksOut_modCtx (s : State) (f : Ctx → Ctx) : (s.modCtx f).acksOut = s.acksOut := rfl
@[simp] theorem invReps_modCtx (s : State) (f : Ctx → Ctx) : (s.modCtx f).invReps = s.invReps := rfl
@[simp] theorem frameCompls_modCtx (s : State) (f : Ctx → Ctx) : (s.modCtx f).frameCompls = s.frameCompls := rfl
@[simp] theorem migCount_modCtx (s : State) (f : Ctx → Ctx) : (s.modCtx f).migCount = s.migCount := rfl
@[simp] theorem migPend_modCtx (s : State) (f : Ctx → Ctx) : (s.modCtx f).migPend = s.migPend := rfl
@[simp] theorem hostq_modCtx (s : State) (f : Ctx → Ctx) : (s.modCtx f).hostq = s.hostq := rfl
@[simp] theorem dpages_modCtx (s : State) (f : Ctx → Ctx) : (s.modCtx f).dpages = s.dpages := rfl
@[simp] theorem dev_modCtx (s : State) (f : Ctx → Ctx) : (s.modCtx f).dev = s.dev := rfl

/-! modLs changes cores only. -/

@[simp] theorem cur_modLs (s : State) (f : LState → LState) : (s.modLs f).cur = s.cur := rfl
@[simp] theorem turns_modLs (s : State) (f : LState → LState) : (s.modLs f).turns = s.turns := rfl
@[simp] theorem nextId_modLs (s : State) (f : LState → LState) : (s.modLs f).nextId = s.nextId := rfl
@[simp] theorem free_modLs (s : State) (f : LState → LState) : (s.modLs f).free = s.free := rfl
@[simp] theorem pace_modLs (s : State) (f : LState → LState) : (s.modLs f).pace = s.pace := rfl
@[simp] theorem time_modLs (s : State) (f : LState → LState) : (s.modLs f).time = s.time := rfl
@[simp] theorem pkgId_modLs (s : State) (f : LState → LState) : (s.modLs f).pkgId = s.pkgId := rfl
@[simp] theorem hbm_modLs (s : State) (f : LState → LState) : (s.modLs f).hbm = s.hbm := rfl
@[simp] theorem poison_modLs (s : State) (f : LState → LState) : (s.modLs f).poison = s.poison := rfl
@[simp] theorem hostMem_modLs (s : State) (f : LState → LState) : (s.modLs f).hostMem = s.hostMem := rfl
@[simp] theorem clusters_modLs (s : State) (f : LState → LState) : (s.modLs f).clusters = s.clusters := rfl
@[simp] theorem dies_modLs (s : State) (f : LState → LState) : (s.modLs f).dies = s.dies := rfl
@[simp] theorem quads_modLs (s : State) (f : LState → LState) : (s.modLs f).quads = s.quads := rfl
@[simp] theorem shadows_modLs (s : State) (f : LState → LState) : (s.modLs f).shadows = s.shadows := rfl
@[simp] theorem parts_modLs (s : State) (f : LState → LState) : (s.modLs f).parts = s.parts := rfl
@[simp] theorem groups_modLs (s : State) (f : LState → LState) : (s.modLs f).groups = s.groups := rfl
@[simp] theorem launches_modLs (s : State) (f : LState → LState) : (s.modLs f).launches = s.launches := rfl
@[simp] theorem counters_modLs (s : State) (f : LState → LState) : (s.modLs f).counters = s.counters := rfl
@[simp] theorem graphs_modLs (s : State) (f : LState → LState) : (s.modLs f).graphs = s.graphs := rfl
@[simp] theorem ready_modLs (s : State) (f : LState → LState) : (s.modLs f).ready = s.ready := rfl
@[simp] theorem flights_modLs (s : State) (f : LState → LState) : (s.modLs f).flights = s.flights := rfl
@[simp] theorem svcs_modLs (s : State) (f : LState → LState) : (s.modLs f).svcs = s.svcs := rfl
@[simp] theorem errs_modLs (s : State) (f : LState → LState) : (s.modLs f).errs = s.errs := rfl
@[simp] theorem invals_modLs (s : State) (f : LState → LState) : (s.modLs f).invals = s.invals := rfl
@[simp] theorem rows_modLs (s : State) (f : LState → LState) : (s.modLs f).rows = s.rows := rfl
@[simp] theorem waiters_modLs (s : State) (f : LState → LState) : (s.modLs f).waiters = s.waiters := rfl
@[simp] theorem pkts_modLs (s : State) (f : LState → LState) : (s.modLs f).pkts = s.pkts := rfl
@[simp] theorem inbound_modLs (s : State) (f : LState → LState) : (s.modLs f).inbound = s.inbound := rfl
@[simp] theorem seqs_modLs (s : State) (f : LState → LState) : (s.modLs f).seqs = s.seqs := rfl
@[simp] theorem routes_modLs (s : State) (f : LState → LState) : (s.modLs f).routes = s.routes := rfl
@[simp] theorem failedLinks_modLs (s : State) (f : LState → LState) : (s.modLs f).failedLinks = s.failedLinks := rfl
@[simp] theorem awayLines_modLs (s : State) (f : LState → LState) : (s.modLs f).awayLines = s.awayLines := rfl
@[simp] theorem awayOuts_modLs (s : State) (f : LState → LState) : (s.modLs f).awayOuts = s.awayOuts := rfl
@[simp] theorem lastPushes_modLs (s : State) (f : LState → LState) : (s.modLs f).lastPushes = s.lastPushes := rfl
@[simp] theorem acksOut_modLs (s : State) (f : LState → LState) : (s.modLs f).acksOut = s.acksOut := rfl
@[simp] theorem invReps_modLs (s : State) (f : LState → LState) : (s.modLs f).invReps = s.invReps := rfl
@[simp] theorem frameCompls_modLs (s : State) (f : LState → LState) : (s.modLs f).frameCompls = s.frameCompls := rfl
@[simp] theorem migCount_modLs (s : State) (f : LState → LState) : (s.modLs f).migCount = s.migCount := rfl
@[simp] theorem migPend_modLs (s : State) (f : LState → LState) : (s.modLs f).migPend = s.migPend := rfl
@[simp] theorem hostq_modLs (s : State) (f : LState → LState) : (s.modLs f).hostq = s.hostq := rfl
@[simp] theorem dpages_modLs (s : State) (f : LState → LState) : (s.modLs f).dpages = s.dpages := rfl
@[simp] theorem dev_modLs (s : State) (f : LState → LState) : (s.modLs f).dev = s.dev := rfl

/-! post changes turns only. -/

@[simp] theorem cur_post (s : State) (a : Act) : (s.post a).cur = s.cur := rfl
@[simp] theorem nextId_post (s : State) (a : Act) : (s.post a).nextId = s.nextId := rfl
@[simp] theorem free_post (s : State) (a : Act) : (s.post a).free = s.free := rfl
@[simp] theorem pace_post (s : State) (a : Act) : (s.post a).pace = s.pace := rfl
@[simp] theorem time_post (s : State) (a : Act) : (s.post a).time = s.time := rfl
@[simp] theorem pkgId_post (s : State) (a : Act) : (s.post a).pkgId = s.pkgId := rfl
@[simp] theorem hbm_post (s : State) (a : Act) : (s.post a).hbm = s.hbm := rfl
@[simp] theorem poison_post (s : State) (a : Act) : (s.post a).poison = s.poison := rfl
@[simp] theorem hostMem_post (s : State) (a : Act) : (s.post a).hostMem = s.hostMem := rfl
@[simp] theorem cores_post (s : State) (a : Act) : (s.post a).cores = s.cores := rfl
@[simp] theorem clusters_post (s : State) (a : Act) : (s.post a).clusters = s.clusters := rfl
@[simp] theorem dies_post (s : State) (a : Act) : (s.post a).dies = s.dies := rfl
@[simp] theorem quads_post (s : State) (a : Act) : (s.post a).quads = s.quads := rfl
@[simp] theorem shadows_post (s : State) (a : Act) : (s.post a).shadows = s.shadows := rfl
@[simp] theorem parts_post (s : State) (a : Act) : (s.post a).parts = s.parts := rfl
@[simp] theorem groups_post (s : State) (a : Act) : (s.post a).groups = s.groups := rfl
@[simp] theorem launches_post (s : State) (a : Act) : (s.post a).launches = s.launches := rfl
@[simp] theorem counters_post (s : State) (a : Act) : (s.post a).counters = s.counters := rfl
@[simp] theorem graphs_post (s : State) (a : Act) : (s.post a).graphs = s.graphs := rfl
@[simp] theorem ready_post (s : State) (a : Act) : (s.post a).ready = s.ready := rfl
@[simp] theorem flights_post (s : State) (a : Act) : (s.post a).flights = s.flights := rfl
@[simp] theorem svcs_post (s : State) (a : Act) : (s.post a).svcs = s.svcs := rfl
@[simp] theorem errs_post (s : State) (a : Act) : (s.post a).errs = s.errs := rfl
@[simp] theorem invals_post (s : State) (a : Act) : (s.post a).invals = s.invals := rfl
@[simp] theorem rows_post (s : State) (a : Act) : (s.post a).rows = s.rows := rfl
@[simp] theorem waiters_post (s : State) (a : Act) : (s.post a).waiters = s.waiters := rfl
@[simp] theorem pkts_post (s : State) (a : Act) : (s.post a).pkts = s.pkts := rfl
@[simp] theorem inbound_post (s : State) (a : Act) : (s.post a).inbound = s.inbound := rfl
@[simp] theorem seqs_post (s : State) (a : Act) : (s.post a).seqs = s.seqs := rfl
@[simp] theorem routes_post (s : State) (a : Act) : (s.post a).routes = s.routes := rfl
@[simp] theorem failedLinks_post (s : State) (a : Act) : (s.post a).failedLinks = s.failedLinks := rfl
@[simp] theorem awayLines_post (s : State) (a : Act) : (s.post a).awayLines = s.awayLines := rfl
@[simp] theorem awayOuts_post (s : State) (a : Act) : (s.post a).awayOuts = s.awayOuts := rfl
@[simp] theorem lastPushes_post (s : State) (a : Act) : (s.post a).lastPushes = s.lastPushes := rfl
@[simp] theorem acksOut_post (s : State) (a : Act) : (s.post a).acksOut = s.acksOut := rfl
@[simp] theorem invReps_post (s : State) (a : Act) : (s.post a).invReps = s.invReps := rfl
@[simp] theorem frameCompls_post (s : State) (a : Act) : (s.post a).frameCompls = s.frameCompls := rfl
@[simp] theorem migCount_post (s : State) (a : Act) : (s.post a).migCount = s.migCount := rfl
@[simp] theorem migPend_post (s : State) (a : Act) : (s.post a).migPend = s.migPend := rfl
@[simp] theorem hostq_post (s : State) (a : Act) : (s.post a).hostq = s.hostq := rfl
@[simp] theorem dpages_post (s : State) (a : Act) : (s.post a).dpages = s.dpages := rfl
@[simp] theorem dev_post (s : State) (a : Act) : (s.post a).dev = s.dev := rfl

/-! The part that an update changes, and the others of its kind. -/

@[simp] theorem coreAt_modCore (s : State) (k : Nat) (f : Core → Core) : (s.modCore k f).coreAt k = f (s.coreAt k) := get_set_same _ _ _ _
theorem coreAt_modCore_other (s : State) (k j : Nat) (f : Core → Core) (h : j ≠ k) : (s.modCore k f).coreAt j = s.coreAt j := get_set_other _ _ _ _ _ h
@[simp] theorem clusterAt_modCluster (s : State) (k : Nat) (f : Cluster → Cluster) : (s.modCluster k f).clusterAt k = f (s.clusterAt k) := get_set_same _ _ _ _
theorem clusterAt_modCluster_other (s : State) (k j : Nat) (f : Cluster → Cluster) (h : j ≠ k) : (s.modCluster k f).clusterAt j = s.clusterAt j := get_set_other _ _ _ _ _ h
@[simp] theorem dieAt_modDie (s : State) (k : Nat) (f : Die → Die) : (s.modDie k f).dieAt k = f (s.dieAt k) := get_set_same _ _ _ _
theorem dieAt_modDie_other (s : State) (k j : Nat) (f : Die → Die) (h : j ≠ k) : (s.modDie k f).dieAt j = s.dieAt j := get_set_other _ _ _ _ _ h
@[simp] theorem partAt_modPart (s : State) (k : Nat) (f : Part → Part) : (s.modPart k f).partAt k = f (s.partAt k) := get_set_same _ _ _ _
theorem partAt_modPart_other (s : State) (k j : Nat) (f : Part → Part) (h : j ≠ k) : (s.modPart k f).partAt j = s.partAt j := get_set_other _ _ _ _ _ h
@[simp] theorem groupAt_modGroup (s : State) (k : Nat) (f : Group → Group) : (s.modGroup k f).groupAt k = f (s.groupAt k) := get_set_same _ _ _ _
theorem groupAt_modGroup_other (s : State) (k j : Nat) (f : Group → Group) (h : j ≠ k) : (s.modGroup k f).groupAt j = s.groupAt j := get_set_other _ _ _ _ _ h
@[simp] theorem launchAt_modLaunch (s : State) (k : Nat) (f : Launch → Launch) : (s.modLaunch k f).launchAt k = f (s.launchAt k) := get_set_same _ _ _ _
theorem launchAt_modLaunch_other (s : State) (k j : Nat) (f : Launch → Launch) (h : j ≠ k) : (s.modLaunch k f).launchAt j = s.launchAt j := get_set_other _ _ _ _ _ h

/-! Reading a part is not touched by an update of another kind. -/

@[simp] theorem clusterAt_modCore_free (s : State) (k : Nat) (f : Core → Core) (j : Nat) : (s.modCore k f).clusterAt j = s.clusterAt j := rfl
@[simp] theorem dieAt_modCore_free (s : State) (k : Nat) (f : Core → Core) (j : Nat) : (s.modCore k f).dieAt j = s.dieAt j := rfl
@[simp] theorem partAt_modCore_free (s : State) (k : Nat) (f : Core → Core) (j : Nat) : (s.modCore k f).partAt j = s.partAt j := rfl
@[simp] theorem groupAt_modCore_free (s : State) (k : Nat) (f : Core → Core) (j : Nat) : (s.modCore k f).groupAt j = s.groupAt j := rfl
@[simp] theorem launchAt_modCore_free (s : State) (k : Nat) (f : Core → Core) (j : Nat) : (s.modCore k f).launchAt j = s.launchAt j := rfl
@[simp] theorem coreAt_modCluster_free (s : State) (k : Nat) (f : Cluster → Cluster) (j : Nat) : (s.modCluster k f).coreAt j = s.coreAt j := rfl
@[simp] theorem dieAt_modCluster_free (s : State) (k : Nat) (f : Cluster → Cluster) (j : Nat) : (s.modCluster k f).dieAt j = s.dieAt j := rfl
@[simp] theorem partAt_modCluster_free (s : State) (k : Nat) (f : Cluster → Cluster) (j : Nat) : (s.modCluster k f).partAt j = s.partAt j := rfl
@[simp] theorem groupAt_modCluster_free (s : State) (k : Nat) (f : Cluster → Cluster) (j : Nat) : (s.modCluster k f).groupAt j = s.groupAt j := rfl
@[simp] theorem launchAt_modCluster_free (s : State) (k : Nat) (f : Cluster → Cluster) (j : Nat) : (s.modCluster k f).launchAt j = s.launchAt j := rfl
@[simp] theorem coreAt_modDie_free (s : State) (k : Nat) (f : Die → Die) (j : Nat) : (s.modDie k f).coreAt j = s.coreAt j := rfl
@[simp] theorem clusterAt_modDie_free (s : State) (k : Nat) (f : Die → Die) (j : Nat) : (s.modDie k f).clusterAt j = s.clusterAt j := rfl
@[simp] theorem partAt_modDie_free (s : State) (k : Nat) (f : Die → Die) (j : Nat) : (s.modDie k f).partAt j = s.partAt j := rfl
@[simp] theorem groupAt_modDie_free (s : State) (k : Nat) (f : Die → Die) (j : Nat) : (s.modDie k f).groupAt j = s.groupAt j := rfl
@[simp] theorem launchAt_modDie_free (s : State) (k : Nat) (f : Die → Die) (j : Nat) : (s.modDie k f).launchAt j = s.launchAt j := rfl
@[simp] theorem coreAt_modPart_free (s : State) (k : Nat) (f : Part → Part) (j : Nat) : (s.modPart k f).coreAt j = s.coreAt j := rfl
@[simp] theorem clusterAt_modPart_free (s : State) (k : Nat) (f : Part → Part) (j : Nat) : (s.modPart k f).clusterAt j = s.clusterAt j := rfl
@[simp] theorem dieAt_modPart_free (s : State) (k : Nat) (f : Part → Part) (j : Nat) : (s.modPart k f).dieAt j = s.dieAt j := rfl
@[simp] theorem groupAt_modPart_free (s : State) (k : Nat) (f : Part → Part) (j : Nat) : (s.modPart k f).groupAt j = s.groupAt j := rfl
@[simp] theorem launchAt_modPart_free (s : State) (k : Nat) (f : Part → Part) (j : Nat) : (s.modPart k f).launchAt j = s.launchAt j := rfl
@[simp] theorem coreAt_modGroup_free (s : State) (k : Nat) (f : Group → Group) (j : Nat) : (s.modGroup k f).coreAt j = s.coreAt j := rfl
@[simp] theorem clusterAt_modGroup_free (s : State) (k : Nat) (f : Group → Group) (j : Nat) : (s.modGroup k f).clusterAt j = s.clusterAt j := rfl
@[simp] theorem dieAt_modGroup_free (s : State) (k : Nat) (f : Group → Group) (j : Nat) : (s.modGroup k f).dieAt j = s.dieAt j := rfl
@[simp] theorem partAt_modGroup_free (s : State) (k : Nat) (f : Group → Group) (j : Nat) : (s.modGroup k f).partAt j = s.partAt j := rfl
@[simp] theorem launchAt_modGroup_free (s : State) (k : Nat) (f : Group → Group) (j : Nat) : (s.modGroup k f).launchAt j = s.launchAt j := rfl
@[simp] theorem coreAt_modLaunch_free (s : State) (k : Nat) (f : Launch → Launch) (j : Nat) : (s.modLaunch k f).coreAt j = s.coreAt j := rfl
@[simp] theorem clusterAt_modLaunch_free (s : State) (k : Nat) (f : Launch → Launch) (j : Nat) : (s.modLaunch k f).clusterAt j = s.clusterAt j := rfl
@[simp] theorem dieAt_modLaunch_free (s : State) (k : Nat) (f : Launch → Launch) (j : Nat) : (s.modLaunch k f).dieAt j = s.dieAt j := rfl
@[simp] theorem partAt_modLaunch_free (s : State) (k : Nat) (f : Launch → Launch) (j : Nat) : (s.modLaunch k f).partAt j = s.partAt j := rfl
@[simp] theorem groupAt_modLaunch_free (s : State) (k : Nat) (f : Launch → Launch) (j : Nat) : (s.modLaunch k f).groupAt j = s.groupAt j := rfl
@[simp] theorem clusterAt_modMe_free (s : State) (f : Core → Core) (j : Nat) : (s.modMe f).clusterAt j = s.clusterAt j := rfl
@[simp] theorem dieAt_modMe_free (s : State) (f : Core → Core) (j : Nat) : (s.modMe f).dieAt j = s.dieAt j := rfl
@[simp] theorem partAt_modMe_free (s : State) (f : Core → Core) (j : Nat) : (s.modMe f).partAt j = s.partAt j := rfl
@[simp] theorem groupAt_modMe_free (s : State) (f : Core → Core) (j : Nat) : (s.modMe f).groupAt j = s.groupAt j := rfl
@[simp] theorem launchAt_modMe_free (s : State) (f : Core → Core) (j : Nat) : (s.modMe f).launchAt j = s.launchAt j := rfl
@[simp] theorem clusterAt_modCtx_free (s : State) (f : Ctx → Ctx) (j : Nat) : (s.modCtx f).clusterAt j = s.clusterAt j := rfl
@[simp] theorem dieAt_modCtx_free (s : State) (f : Ctx → Ctx) (j : Nat) : (s.modCtx f).dieAt j = s.dieAt j := rfl
@[simp] theorem partAt_modCtx_free (s : State) (f : Ctx → Ctx) (j : Nat) : (s.modCtx f).partAt j = s.partAt j := rfl
@[simp] theorem groupAt_modCtx_free (s : State) (f : Ctx → Ctx) (j : Nat) : (s.modCtx f).groupAt j = s.groupAt j := rfl
@[simp] theorem launchAt_modCtx_free (s : State) (f : Ctx → Ctx) (j : Nat) : (s.modCtx f).launchAt j = s.launchAt j := rfl
@[simp] theorem clusterAt_modLs_free (s : State) (f : LState → LState) (j : Nat) : (s.modLs f).clusterAt j = s.clusterAt j := rfl
@[simp] theorem dieAt_modLs_free (s : State) (f : LState → LState) (j : Nat) : (s.modLs f).dieAt j = s.dieAt j := rfl
@[simp] theorem partAt_modLs_free (s : State) (f : LState → LState) (j : Nat) : (s.modLs f).partAt j = s.partAt j := rfl
@[simp] theorem groupAt_modLs_free (s : State) (f : LState → LState) (j : Nat) : (s.modLs f).groupAt j = s.groupAt j := rfl
@[simp] theorem launchAt_modLs_free (s : State) (f : LState → LState) (j : Nat) : (s.modLs f).launchAt j = s.launchAt j := rfl
@[simp] theorem coreAt_post_free (s : State) (a : Act) (j : Nat) : (s.post a).coreAt j = s.coreAt j := rfl
@[simp] theorem clusterAt_post_free (s : State) (a : Act) (j : Nat) : (s.post a).clusterAt j = s.clusterAt j := rfl
@[simp] theorem dieAt_post_free (s : State) (a : Act) (j : Nat) : (s.post a).dieAt j = s.dieAt j := rfl
@[simp] theorem partAt_post_free (s : State) (a : Act) (j : Nat) : (s.post a).partAt j = s.partAt j := rfl
@[simp] theorem groupAt_post_free (s : State) (a : Act) (j : Nat) : (s.post a).groupAt j = s.groupAt j := rfl
@[simp] theorem launchAt_post_free (s : State) (a : Act) (j : Nat) : (s.post a).launchAt j = s.launchAt j := rfl

/-- An owed act is among the turns. -/
@[simp] theorem mem_turns_post (s : State) (a : Act) : Turn.act a ∈ (s.post a).turns := by simp [State.post]
/-- Owing an act keeps every turn that was due. -/
theorem mem_turns_post_of (s : State) (a : Act) (t : Turn) (h : t ∈ s.turns) : t ∈ (s.post a).turns := by simp [State.post, h]

end Sys2Proof.Laws
end

