-- ==== Sys2Proof/Laws/Memory.lean ====
section
/-! SUPPORT. Byte memories: what a write reads as, that it leaves every other byte alone and keeps the canonical form, and the same of the
memories of the state. -/

namespace Sys2Proof.Laws

open Sys2Proof.Machine Sys2Proof.Claims

/-- An erased key is absent. -/
theorem find?_erase_same {α : Type} (t : Tab α) (k : Nat) : Tab.find? (Tab.erase t k) k = none := by
  induction t with
  | nil => rfl
  | cons e t ih =>
    obtain ⟨k', v⟩ := e
    simp only [Tab.erase]
    split
    · exact ih
    · rename_i h
      simpa [Tab.find?, h] using ih

/-- Erasing a key leaves every other one alone. -/
theorem find?_erase_other {α : Type} (t : Tab α) (k j : Nat) (h : j ≠ k) : Tab.find? (Tab.erase t k) j = Tab.find? t j := by
  induction t with
  | nil => rfl
  | cons e t ih =>
    obtain ⟨k', v⟩ := e
    simp only [Tab.erase]
    split
    · rename_i hk
      subst hk
      simpa [Tab.find?, Ne.symm h] using ih
    · simp only [Tab.find?]
      split
      · rfl
      · exact ih

/-- A byte written is the byte read. -/
theorem read_write_same (m : Memory) (a : Nat) (b : Byte) : (m.write a b).read a = b := by
  unfold Memory.write Memory.read
  split
  · rename_i h
    subst h
    simp [Tab.get, find?_erase_same]
  · exact get_set_same m a b 0

/-- A write leaves every other byte alone. -/
theorem read_write_other (m : Memory) (a c : Nat) (b : Byte) (h : c ≠ a) : (m.write a b).read c = m.read c := by
  unfold Memory.write Memory.read
  split
  · simp [Tab.get, find?_erase_other m a c h]
  · exact get_set_other m a c b 0 h

/-- A lower bound is a weaker form. -/
theorem wfFrom_le : ∀ (m : Memory) (lo lo' : Nat), lo' ≤ lo → m.wfFrom lo = true → m.wfFrom lo' = true
  | [], _, _, _, _ => rfl
  | (a, b) :: m, lo, lo', hl, h => by
    simp only [Memory.wfFrom, Bool.and_eq_true, decide_eq_true_eq] at h ⊢
    exact ⟨⟨by omega, h.1.2⟩, h.2⟩

/-- Erasing keeps the form. -/
theorem wfFrom_erase : ∀ (m : Memory) (lo a : Nat), m.wfFrom lo = true → Memory.wfFrom lo (Tab.erase m a) = true
  | [], _, _, _ => rfl
  | (a', b') :: m, lo, a, h => by
    simp only [Memory.wfFrom, Bool.and_eq_true, decide_eq_true_eq] at h
    have ih := wfFrom_erase m (a' + 1) a h.2
    simp only [Tab.erase]
    split
    · exact wfFrom_le _ (a' + 1) lo (by omega) ih
    · simp only [Memory.wfFrom, Bool.and_eq_true, decide_eq_true_eq]
      exact ⟨h.1, ih⟩

/-- Setting a byte that is not zero keeps the form. -/
theorem wfFrom_set : ∀ (m : Memory) (lo a : Nat) (b : Byte), b ≠ 0 → lo ≤ a → m.wfFrom lo = true → Memory.wfFrom lo (Tab.set m a b) = true
  | [], lo, a, b, hb, hl, _ => by
    simp only [Tab.set, Memory.wfFrom, Bool.and_eq_true, decide_eq_true_eq]
    exact ⟨⟨hl, by simpa using hb⟩, trivial⟩
  | (a', b') :: m, lo, a, b, hb, hl, h => by
    have h' := h
    simp only [Memory.wfFrom, Bool.and_eq_true, decide_eq_true_eq] at h
    simp only [Tab.set]
    split
    · rename_i heq
      subst heq
      simp only [Memory.wfFrom, Bool.and_eq_true, decide_eq_true_eq]
      exact ⟨⟨hl, by simpa using hb⟩, h.2⟩
    · split
      · rename_i hlt
        simp only [Memory.wfFrom, Bool.and_eq_true, decide_eq_true_eq]
        exact ⟨⟨hl, by simpa using hb⟩, ⟨by omega, h.1.2⟩, h.2⟩
      · simp only [Memory.wfFrom, Bool.and_eq_true, decide_eq_true_eq]
        exact ⟨h.1, wfFrom_set m (a' + 1) a b hb (by omega) h.2⟩

/-- A write keeps the canonical form. -/
theorem wf_write (m : Memory) (a : Nat) (b : Byte) (h : m.wf = true) : (m.write a b).wf = true := by
  unfold Memory.write
  split
  · exact wfFrom_erase m 0 a h
  · rename_i hb
    exact wfFrom_set m 0 a b hb (Nat.zero_le a) h

/-- So does a write of several bytes. -/
theorem wf_writeN : ∀ (bs : List Byte) (m : Memory) (a : Nat), m.wf = true → (m.writeN a bs).wf = true
  | [], _, _, h => h
  | b :: bs, m, a, h => wf_writeN bs (m.write a b) (a + 1) (wf_write m a b h)

/-- Bytes outside a write of several read as before. -/
theorem read_writeN_other : ∀ (bs : List Byte) (m : Memory) (a c : Nat), (c < a ∨ a + bs.length ≤ c) → (m.writeN a bs).read c = m.read c
  | [], _, _, _, _ => rfl
  | b :: bs, m, a, c, h => by
    simp only [List.length_cons] at h
    show ((m.write a b).writeN (a + 1) bs).read c = m.read c
    rw [read_writeN_other bs (m.write a b) (a + 1) c (by omega), read_write_other m a c b (by omega)]

/-- Bytes of a write of several read as written. -/
theorem read_writeN_same : ∀ (bs : List Byte) (m : Memory) (a i : Nat), i < bs.length → (m.writeN a bs).read (a + i) = bs.getD i 0
  | [], _, _, _, h => by simp at h
  | b :: bs, m, a, 0, _ => by
    show ((m.write a b).writeN (a + 1) bs).read (a + 0) = _
    rw [read_writeN_other bs _ (a + 1) (a + 0) (by omega)]
    simpa using read_write_same m a b
  | b :: bs, m, a, i + 1, h => by
    have ih := read_writeN_same bs (m.write a b) (a + 1) i (by simpa using h)
    show ((m.write a b).writeN (a + 1) bs).read (a + (i + 1)) = _
    rw [show a + (i + 1) = a + 1 + i by omega, ih]
    simp

/-- The entries of a table after a set are the value set and entries that were there. -/
theorem mem_set {α : Type} (t : Tab α) (k : Nat) (v : α) : ∀ e ∈ Tab.set t k v, e.2 = v ∨ e ∈ t := by
  induction t with
  | nil => intro e h; simp only [Tab.set, List.mem_singleton] at h; exact .inl (by rw [h])
  | cons x t ih =>
    obtain ⟨k', v'⟩ := x
    intro e h
    simp only [Tab.set] at h
    split at h
    · rcases List.mem_cons.1 h with h | h
      · exact .inl (by rw [h])
      · exact .inr (List.mem_cons_of_mem _ h)
    · split at h
      · rcases List.mem_cons.1 h with h | h
        · exact .inl (by rw [h])
        · exact .inr h
      · rcases List.mem_cons.1 h with h | h
        · exact .inr (by rw [h]; exact List.mem_cons_self)
        · exact (ih e h).imp id (List.mem_cons_of_mem _)

/-- The entry that a key finds is in the table. -/
theorem find?_mem {α : Type} (t : Tab α) (k : Nat) (v : α) (h : Tab.find? t k = some v) : (k, v) ∈ t := by
  induction t with
  | nil => simp [Tab.find?] at h
  | cons x t ih =>
    obtain ⟨k', v'⟩ := x
    simp only [Tab.find?] at h
    split at h
    · rename_i hk
      simp_all
    · exact List.mem_cons_of_mem _ (ih h)

/-- A property of every entry and of the default holds of what a key reads as. -/
theorem get_of_all {α : Type} (p : α → Prop) (t : Tab α) (k : Nat) (d : α) (hd : p d) (h : ∀ e ∈ t, p e.2) : p (Tab.get t k d) := by
  unfold Tab.get
  cases hf : Tab.find? t k with
  | none => exact hd
  | some v => exact h _ (find?_mem t k v hf)

/-- The private memory of every core is canonical, listed or not. -/
theorem MemoryCanonical_priv {s : State} (h : MemoryCanonical s) (k : Nat) : (s.coreAt k).priv.wf = true :=
  get_of_all (fun c : Core => c.priv.wf = true) s.cores k {} rfl h.2.2.2.1
/-- The scratchpad of every cluster is canonical, listed or not. -/
theorem MemoryCanonical_scratch {s : State} (h : MemoryCanonical s) (cl : Nat) : (s.clusterAt cl).scratch.wf = true :=
  get_of_all (fun c : Cluster => c.scratch.wf = true) s.clusters cl {} rfl h.2.2.1

/-- A change of one core keeps the memories canonical when it keeps that core's canonical. -/
theorem MemoryCanonical_modCore {s : State} (h : MemoryCanonical s) (k : Nat) (f : Core → Core)
    (hf : (s.coreAt k).priv.wf = true → (f (s.coreAt k)).priv.wf = true) : MemoryCanonical (s.modCore k f) := by
  refine ⟨h.1, h.2.1, h.2.2.1, fun e he => ?_, h.2.2.2.2⟩
  rcases mem_set _ _ _ e he with hv | hm
  · rw [hv]; exact hf (MemoryCanonical_priv h k)
  · exact h.2.2.2.1 e hm

/-- A change of one cluster keeps the memories canonical when it keeps that cluster's canonical. -/
theorem MemoryCanonical_modCluster {s : State} (h : MemoryCanonical s) (k : Nat) (f : Cluster → Cluster)
    (hf : (s.clusterAt k).scratch.wf = true → (f (s.clusterAt k)).scratch.wf = true) : MemoryCanonical (s.modCluster k f) := by
  refine ⟨h.1, h.2.1, fun e he => ?_, h.2.2.2.1, h.2.2.2.2⟩
  rcases mem_set _ _ _ e he with hv | hm
  · rw [hv]; exact hf (MemoryCanonical_scratch h k)
  · exact h.2.2.1 e hm

/-- A change that leaves the memories, cores, clusters and shadow images alone keeps them canonical. -/
theorem MemoryCanonical_of_same {s t : State} (h : MemoryCanonical s) (h1 : t.hbm = s.hbm) (h2 : t.hostMem = s.hostMem) (h3 : t.clusters = s.clusters)
    (h4 : t.cores = s.cores) (h5 : t.shadows = s.shadows) : MemoryCanonical t := by
  unfold MemoryCanonical
  rw [h1, h2, h3, h4, h5]
  exact h

/-- A write at a place keeps the memories canonical. -/
theorem MemoryCanonical_writeAt {s : State} (h : MemoryCanonical s) (l : Loc) (bs : List Byte) : MemoryCanonical (s.writeAt l bs) := by
  cases l with
  | hbm pa => exact ⟨wf_writeN bs s.hbm pa h.1, h.2⟩
  | scratch cl off => exact MemoryCanonical_modCluster h cl _ fun hw => wf_writeN bs _ off hw
  | priv k off => exact MemoryCanonical_modCore h k _ fun hw => wf_writeN bs _ off hw
  | remote pkg pa => exact h

/-- Reset has them canonical. -/
theorem MemoryCanonical_reset_hbm : State.reset.hbm.wf = true := rfl

/-- A write at a place of this package reads as written there. -/
theorem byteAt_writeAt_same (s : State) (l : Loc) (bs : List Byte) (i : Nat) (hi : i < bs.length) (hl : ∀ k a, l ≠ .remote k a) :
    (s.writeAt l bs).byteAt (l.plus i) = bs.getD i 0 := by
  cases l with
  | hbm pa => exact read_writeN_same bs s.hbm pa i hi
  | scratch cl off =>
    show Memory.read ((s.modCluster cl _).clusterAt cl).scratch (off + i) = _
    rw [clusterAt_modCluster]
    exact read_writeN_same bs _ off i hi
  | priv k off =>
    show Memory.read ((s.modCore k _).coreAt k).priv (off + i) = _
    rw [coreAt_modCore]
    exact read_writeN_same bs _ off i hi
  | remote pkg pa => exact absurd rfl (hl pkg pa)

/-- A write at a place leaves every other byte alone. -/
theorem byteAt_writeAt_other (s : State) (l l' : Loc) (bs : List Byte) (h : ∀ i, i < bs.length → l' ≠ l.plus i) :
    (s.writeAt l bs).byteAt l' = s.byteAt l' := by
  have out : ∀ (m : Memory) (a c : Nat), (∀ i, i < bs.length → c ≠ a + i) → (m.writeN a bs).read c = m.read c := by
    intro m a c hc
    refine read_writeN_other bs m a c ?_
    by_cases hl : c < a
    · exact .inl hl
    · right
      by_contra hn
      exact hc (c - a) (by omega) (by omega)
  cases l with
  | hbm pa =>
    cases l' with
    | hbm a => exact out s.hbm pa a fun i hi heq => h i hi (by rw [heq]; rfl)
    | _ => rfl
  | scratch cl off =>
    cases l' with
    | scratch c a =>
      show Memory.read ((s.modCluster cl _).clusterAt c).scratch a = _
      by_cases hc : c = cl
      · subst hc
        rw [clusterAt_modCluster]
        exact out _ off a fun i hi heq => h i hi (by rw [heq]; rfl)
      · rw [clusterAt_modCluster_other _ _ _ _ hc]; rfl
    | _ => rfl
  | priv k off =>
    cases l' with
    | priv c a =>
      show Memory.read ((s.modCore k _).coreAt c).priv a = _
      by_cases hc : c = k
      · subst hc
        rw [coreAt_modCore]
        exact out _ off a fun i hi heq => h i hi (by rw [heq]; rfl)
      · rw [coreAt_modCore_other _ _ _ _ hc]; rfl
    | _ => rfl
  | remote pkg pa => rfl

end Sys2Proof.Laws
end

