-- ==== Sys2Proof/Laws/Ops.lean ====
section
/-! SUPPORT. What each shared operation can do: how the effect of an instruction or an event becomes a step, and what translation, the window
checks and the checks of an access change. -/

namespace Sys2Proof.Laws

open Sys2Proof.Machine Sys2Proof.Claims

/-- However an effect ends, the step goes on. -/
theorem finish_goes (r : Except Stop (Word × State)) (s : State) : Goes (finish r s) := by
  cases r with
  | ok p => exact ⟨_, rfl⟩
  | error e =>
    cases e with
    | trap c tv zp => exact ⟨_, rfl⟩
    | report c tv t => exact ⟨_, rfl⟩
    | hold o => cases o <;> exact ⟨_, rfl⟩
    | want ask => exact ⟨_, rfl⟩
    | late c tv t => exact ⟨_, rfl⟩

theorem run_goes (m : M Unit) (s : State) : Goes (run m s) := finish_goes _ s
theorem runTo_goes (m : M Word) (s : State) : Goes (runTo m s) := finish_goes _ s
theorem runEnd_goes (m : M Unit) (s : State) : Goes (runEnd m s) := by
  unfold runEnd
  cases settle m s with
  | ok p => exact ⟨_, rfl⟩
  | error e =>
    cases e with
    | trap c tv zp => exact ⟨_, rfl⟩
    | report c tv t => exact ⟨_, rfl⟩
    | hold o => cases o <;> exact ⟨_, rfl⟩
    | want ask => exact ⟨_, rfl⟩
    | late c tv t => exact ⟨_, rfl⟩
theorem act_goes (r : Option State) (s : State) : Goes (act r s) := by cases r <;> exact ⟨_, rfl⟩

/-- An event that may happen gives its state; one that may not changes nothing. -/
theorem act_some {r : Option State} {s t : State} (h : r = some t) : act r s = .next t := by subst h; rfl
theorem act_none {r : Option State} {s : State} (h : r = none) : act r s = .next s := by subst h; rfl

/-- The packets under way without their marks to fill an L1 line. -/
def unfilled (s : State) : List (Nat × Packet) := s.pkts.map fun (x : Nat × Packet) => (x.1, { x.2 with fill := false })

/-- What translation may change: the TLBs, the walk caches of the dies, L1 lines that it drops, and the marks of lines under way to fill an L1 (R338,
R339). -/
def Walked (s t : State) : Prop :=
  { t with clusters := s.clusters, cores := s.cores, dies := s.dies, pkts := s.pkts } = s
    ∧ (∀ cl, { t.clusterAt cl with tlb := (s.clusterAt cl).tlb } = s.clusterAt cl)
    ∧ (∀ k, { t.coreAt k with l1 := (s.coreAt k).l1 } = s.coreAt k)
    ∧ (∀ d, { t.dieAt d with walks := (s.dieAt d).walks } = s.dieAt d)
    ∧ unfilled t = unfilled s

theorem Walked.refl (s : State) : Walked s s := ⟨rfl, fun _ => rfl, fun _ => rfl, fun _ => rfl, rfl⟩

theorem Walked.trans {s t u : State} (h : Walked s t) (g : Walked t u) : Walked s u := by
  refine ⟨?_, fun cl => ?_, fun k => ?_, fun d => ?_, g.2.2.2.2.trans h.2.2.2.2⟩
  · rw [← h.1, ← g.1]
  · rw [← h.2.1 cl, ← g.2.1 cl]
  · rw [← h.2.2.1 k, ← g.2.2.1 k]
  · rw [← h.2.2.2.1 d, ← g.2.2.2.1 d]

theorem Walked.putL1 (s : State) (k : Nat) (ls : List L1Line) : Walked s (s.modCore k fun c => { c with l1 := ls }) := by
  refine ⟨rfl, fun _ => rfl, fun j => ?_, fun _ => rfl, rfl⟩
  by_cases h : j = k
  · subst h; rw [coreAt_modCore]
  · rw [coreAt_modCore_other _ _ _ _ h]

theorem Walked.putTlb (s : State) (cl : Nat) (f : List Tlb → List Tlb) : Walked s (s.modCluster cl fun c => { c with tlb := f c.tlb }) := by
  refine ⟨rfl, fun j => ?_, fun _ => rfl, fun _ => rfl, rfl⟩
  by_cases h : j = cl
  · subst h; rw [clusterAt_modCluster]
  · rw [clusterAt_modCluster_other _ _ _ _ h]

theorem Walked.putWalks (s : State) (d : Nat) (f : List WalkEnt → List WalkEnt) : Walked s (s.modDie d fun x => { x with walks := f x.walks }) := by
  refine ⟨rfl, fun _ => rfl, fun _ => rfl, fun j => ?_, rfl⟩
  by_cases h : j = d
  · subst h; rw [dieAt_modDie]
  · rw [dieAt_modDie_other _ _ _ _ h]

theorem unfillRun_walked (s : State) (cl : Nat) (e : Tlb) : Walked s (s.unfillRun cl e) := by
  refine ⟨rfl, fun _ => rfl, fun _ => rfl, fun _ => rfl, ?_⟩
  simp only [unfilled, State.unfillRun, List.map_map]
  refine List.map_congr_left fun x _ => ?_
  simp only [Function.comp_apply]
  split <;> rfl

/-- A fold of steps that change no more than translation may. -/
theorem Walked.foldl {α : Type} (f : State → α → State) (hf : ∀ s a, Walked s (f s a)) : ∀ (l : List α) (s : State), Walked s (l.foldl f s)
  | [], s => Walked.refl s
  | a :: l, s => (hf s a).trans (Walked.foldl f hf l (f s a))

theorem dropL1_walked (s : State) (cl : Nat) (p : L1Line → Bool) : Walked s (s.dropL1 cl p) := by
  refine Walked.foldl _ (fun s i => ?_) _ s
  cases h : Tab.find? s.cores (cl * 8 + i) with
  | none => exact Walked.refl s
  | some c =>
    have hc : s.coreAt (cl * 8 + i) = c := by simp [State.coreAt, Tab.get, h]
    have := Walked.putL1 s (cl * 8 + i) ((s.coreAt (cl * 8 + i)).l1.filter fun x => !p x)
    simpa [State.modCore, hc] using this

theorem tlbFill_walked (s : State) (cl : Nat) (n : Tlb) : Walked s (s.tlbFill cl n) := by
  unfold State.tlbFill
  extract_lets old used keep
  split
  exact (Walked.foldl (fun (s : State) (e : Tlb) => (s.dropL1 cl e.ofLine).unfillRun cl e)
    (fun s _ => (dropL1_walked s cl _).trans (unfillRun_walked _ cl _)) _ s).trans (Walked.putTlb _ cl fun _ => _)

theorem tlbLookup_walked {s t : State} {cl p job va : Nat} {k : AKind} {e : Tlb} (h : s.tlbLookup cl p job va k = .ok (e, t)) : Walked s t := by
  unfold State.tlbLookup at h
  simp only at h
  split at h
  · simp only [Except.ok.injEq, Prod.mk.injEq] at h
    rw [← h.2]
    exact Walked.putTlb s cl fun _ => _
  · split at h
    · cases h
    · cases h
    · cases h
    · simp only [Except.ok.injEq, Prod.mk.injEq] at h
      rw [← h.2]
      exact (Walked.putWalks s (cl / 64) fun _ => _).trans (tlbFill_walked _ cl _)

/-- Translation changes TLBs and L1 lines only (R337, R338). -/
theorem xlate_walked {s t : State} {o : Origin} {va : Nat} {k : AKind} {pg : Page} (h : s.xlate o va k = .ok (pg, t)) : Walked s t := by
  unfold State.xlate at h
  simp only [bind, Except.bind] at h
  split at h
  · cases h
  · rename_i v hv
    obtain ⟨e, s1⟩ := v
    simp only at h
    split at h
    · cases h
    · simp only [Except.ok.injEq, Prod.mk.injEq] at h
      rw [← h.2]
      exact tlbLookup_walked hv

/-- So do the window checks. -/
theorem place_walked {s t : State} {o : Origin} {p : Word} {n : Nat} {k : AKind} {r : Reach} (h : s.place o p n k = .ok (r, t)) : Walked s t := by
  unfold State.place at h
  simp only at h
  repeat' split at h
  all_goals cases h
  all_goals first
    | exact Walked.refl _
    | (apply xlate_walked; assumption)

/-- And the checks of an access (R61). -/
theorem reach_walked {s t : State} {o : Origin} {p : Word} {n : Nat} {k : AKind} {r : Reach} (h : s.reach o p n k = .ok (r, t)) : Walked s t := by
  unfold State.reach at h
  repeat' split at h
  all_goals first
    | cases h
    | exact place_walked h

/-- Translation changes no byte of memory. -/
theorem Walked.bytes {s t : State} (h : Walked s t) : Bytes s t := by
  intro l
  cases l with
  | hbm pa =>
    have := congrArg (fun u : State => Memory.read u.hbm pa) h.1
    exact this
  | scratch cl off =>
    have := congrArg (fun u : Cluster => Memory.read u.scratch off) (h.2.1 cl)
    exact this
  | priv k off =>
    have := congrArg (fun u : Core => Memory.read u.priv off) (h.2.2.1 k)
    exact this
  | remote pkg pa => rfl

end Sys2Proof.Laws
end

