-- ==== Sys2Proof/Laws/PerInstr.lean ====
section
/-! SUPPORT. The family RoundTrip: decoding the word of a well-formed instruction gives the instruction back, one lemma per
constructor; an event has no word, and its lemma says nothing more. -/

namespace Sys2Proof.Laws
set_option Elab.async false

/-- The word of a well-formed instruction decodes to that instruction. -/
def RoundTrip.Statement (i : Instr) : Prop := i.isWord = true → i.wellFormed = true → decode (encode i) = .ok i

/-- An instruction that its own word names, with no unused field set, decodes back. -/
theorem RoundTrip.of_pick (i : Instr) (hp : pick (encode i) = .ok i) (hu : unusedZero (encode i) i = true) :
    RoundTrip.Statement i := by
  intro _ hw
  simp only [Instr.wellFormed, Instr.check] at hw
  simp only [decode, checkWord, hp, hu]
  cases h1 : i.opcodeOk <;> simp [h1] at hw ⊢
  cases h2 : i.patternOk <;> simp [h2] at hw ⊢
  cases h3 : i.fieldsOk <;> simp [h3] at hw ⊢
  cases h4 : i.roundingOk <;> simp [h4] at hw ⊢

/-- An event has no word. -/
theorem RoundTrip.of_event (i : Instr) (h : i.isWord = false) : RoundTrip.Statement i := by
  intro hw
  simp [h] at hw

/-- MXA's rounding code is no field of it (R227). -/
theorem mxa_unused (n : BitVec 1) (p q : BitVec 4) : unusedZero (encode (.mxa n p q)) (.mxa n p q) = true := by
  refine decide_eq_true ?_
  show encZM 2 0 0 (n ++ p) ((0 : BitVec 1) ++ q) 0 = encZM 2 0 0 (n ++ p) ((0 : BitVec 1) ++ q) 0 &&& 0xF1FFFFFF
  apply BitVec.eq_of_getLsbD_eq
  intro i hi
  simp only [encZM, custom2, BitVec.getLsbD_and, BitVec.getLsbD_append]
  all_goals interval_cases i
  all_goals simp

theorem RoundTrip.lui (imm20 : BitVec 20) (rd : BitVec 5) : RoundTrip.Statement (.lui imm20 rd) :=
  RoundTrip.of_pick _ (by
    show pick (encU 0b0110111 imm20 rd) = _
    simp [pick, pickWith]) (decide_eq_true rfl)

theorem RoundTrip.auipc (imm20 : BitVec 20) (rd : BitVec 5) : RoundTrip.Statement (.auipc imm20 rd) :=
  RoundTrip.of_pick _ (by
    show pick (encU 0b0010111 imm20 rd) = _
    simp [pick, pickWith]) (decide_eq_true rfl)

theorem RoundTrip.jal (imm20 : BitVec 20) (rd : BitVec 5) : RoundTrip.Statement (.jal imm20 rd) :=
  RoundTrip.of_pick _ (by
    show pick (encJ 0b1101111 imm20 rd) = _
    simp [pick, pickWith]) (decide_eq_true rfl)

theorem RoundTrip.jalr (imm12 : BitVec 12) (rs1 : BitVec 5) (rd : BitVec 5) : RoundTrip.Statement (.jalr imm12 rs1 rd) :=
  RoundTrip.of_pick _ (by
    show pick (encI 0b1100111 0 imm12 rs1 rd) = _
    simp [pick, pickWith, onF3]) (decide_eq_true rfl)

theorem RoundTrip.beq (imm12 : BitVec 12) (rs2 : BitVec 5) (rs1 : BitVec 5) : RoundTrip.Statement (.beq imm12 rs2 rs1) :=
  RoundTrip.of_pick _ (by
    show pick (encB 0b1100011 0 imm12 rs2 rs1) = _
    simp [pick, pickWith, decBranch]) (decide_eq_true rfl)

theorem RoundTrip.bne (imm12 : BitVec 12) (rs2 : BitVec 5) (rs1 : BitVec 5) : RoundTrip.Statement (.bne imm12 rs2 rs1) :=
  RoundTrip.of_pick _ (by
    show pick (encB 0b1100011 1 imm12 rs2 rs1) = _
    simp [pick, pickWith, decBranch]) (decide_eq_true rfl)

theorem RoundTrip.blt (imm12 : BitVec 12) (rs2 : BitVec 5) (rs1 : BitVec 5) : RoundTrip.Statement (.blt imm12 rs2 rs1) :=
  RoundTrip.of_pick _ (by
    show pick (encB 0b1100011 4 imm12 rs2 rs1) = _
    simp [pick, pickWith, decBranch]) (decide_eq_true rfl)

theorem RoundTrip.bge (imm12 : BitVec 12) (rs2 : BitVec 5) (rs1 : BitVec 5) : RoundTrip.Statement (.bge imm12 rs2 rs1) :=
  RoundTrip.of_pick _ (by
    show pick (encB 0b1100011 5 imm12 rs2 rs1) = _
    simp [pick, pickWith, decBranch]) (decide_eq_true rfl)

theorem RoundTrip.bltu (imm12 : BitVec 12) (rs2 : BitVec 5) (rs1 : BitVec 5) : RoundTrip.Statement (.bltu imm12 rs2 rs1) :=
  RoundTrip.of_pick _ (by
    show pick (encB 0b1100011 6 imm12 rs2 rs1) = _
    simp [pick, pickWith, decBranch]) (decide_eq_true rfl)

theorem RoundTrip.bgeu (imm12 : BitVec 12) (rs2 : BitVec 5) (rs1 : BitVec 5) : RoundTrip.Statement (.bgeu imm12 rs2 rs1) :=
  RoundTrip.of_pick _ (by
    show pick (encB 0b1100011 7 imm12 rs2 rs1) = _
    simp [pick, pickWith, decBranch]) (decide_eq_true rfl)

theorem RoundTrip.lb (imm12 : BitVec 12) (rs1 : BitVec 5) (rd : BitVec 5) : RoundTrip.Statement (.lb imm12 rs1 rd) :=
  RoundTrip.of_pick _ (by
    show pick (encI 0b0000011 0 imm12 rs1 rd) = _
    simp [pick, pickWith, decLoad]) (decide_eq_true rfl)

theorem RoundTrip.lh (imm12 : BitVec 12) (rs1 : BitVec 5) (rd : BitVec 5) : RoundTrip.Statement (.lh imm12 rs1 rd) :=
  RoundTrip.of_pick _ (by
    show pick (encI 0b0000011 1 imm12 rs1 rd) = _
    simp [pick, pickWith, decLoad]) (decide_eq_true rfl)

theorem RoundTrip.lw (imm12 : BitVec 12) (rs1 : BitVec 5) (rd : BitVec 5) : RoundTrip.Statement (.lw imm12 rs1 rd) :=
  RoundTrip.of_pick _ (by
    show pick (encI 0b0000011 2 imm12 rs1 rd) = _
    simp [pick, pickWith, decLoad]) (decide_eq_true rfl)

theorem RoundTrip.ld (imm12 : BitVec 12) (rs1 : BitVec 5) (rd : BitVec 5) : RoundTrip.Statement (.ld imm12 rs1 rd) :=
  RoundTrip.of_pick _ (by
    show pick (encI 0b0000011 3 imm12 rs1 rd) = _
    simp [pick, pickWith, decLoad]) (decide_eq_true rfl)

theorem RoundTrip.lbu (imm12 : BitVec 12) (rs1 : BitVec 5) (rd : BitVec 5) : RoundTrip.Statement (.lbu imm12 rs1 rd) :=
  RoundTrip.of_pick _ (by
    show pick (encI 0b0000011 4 imm12 rs1 rd) = _
    simp [pick, pickWith, decLoad]) (decide_eq_true rfl)

theorem RoundTrip.lhu (imm12 : BitVec 12) (rs1 : BitVec 5) (rd : BitVec 5) : RoundTrip.Statement (.lhu imm12 rs1 rd) :=
  RoundTrip.of_pick _ (by
    show pick (encI 0b0000011 5 imm12 rs1 rd) = _
    simp [pick, pickWith, decLoad]) (decide_eq_true rfl)

theorem RoundTrip.lwu (imm12 : BitVec 12) (rs1 : BitVec 5) (rd : BitVec 5) : RoundTrip.Statement (.lwu imm12 rs1 rd) :=
  RoundTrip.of_pick _ (by
    show pick (encI 0b0000011 6 imm12 rs1 rd) = _
    simp [pick, pickWith, decLoad]) (decide_eq_true rfl)

theorem RoundTrip.sb (imm12 : BitVec 12) (rs2 : BitVec 5) (rs1 : BitVec 5) : RoundTrip.Statement (.sb imm12 rs2 rs1) :=
  RoundTrip.of_pick _ (by
    show pick (encS 0b0100011 0 imm12 rs2 rs1) = _
    simp [pick, pickWith, decStore]) (decide_eq_true rfl)

theorem RoundTrip.sh (imm12 : BitVec 12) (rs2 : BitVec 5) (rs1 : BitVec 5) : RoundTrip.Statement (.sh imm12 rs2 rs1) :=
  RoundTrip.of_pick _ (by
    show pick (encS 0b0100011 1 imm12 rs2 rs1) = _
    simp [pick, pickWith, decStore]) (decide_eq_true rfl)

theorem RoundTrip.sw (imm12 : BitVec 12) (rs2 : BitVec 5) (rs1 : BitVec 5) : RoundTrip.Statement (.sw imm12 rs2 rs1) :=
  RoundTrip.of_pick _ (by
    show pick (encS 0b0100011 2 imm12 rs2 rs1) = _
    simp [pick, pickWith, decStore]) (decide_eq_true rfl)

theorem RoundTrip.sd (imm12 : BitVec 12) (rs2 : BitVec 5) (rs1 : BitVec 5) : RoundTrip.Statement (.sd imm12 rs2 rs1) :=
  RoundTrip.of_pick _ (by
    show pick (encS 0b0100011 3 imm12 rs2 rs1) = _
    simp [pick, pickWith, decStore]) (decide_eq_true rfl)

theorem RoundTrip.addi (imm12 : BitVec 12) (rs1 : BitVec 5) (rd : BitVec 5) : RoundTrip.Statement (.addi imm12 rs1 rd) :=
  RoundTrip.of_pick _ (by
    show pick (encI 0b0010011 0 imm12 rs1 rd) = _
    simp [pick, pickWith, decOpImm]) (decide_eq_true rfl)

theorem RoundTrip.slti (imm12 : BitVec 12) (rs1 : BitVec 5) (rd : BitVec 5) : RoundTrip.Statement (.slti imm12 rs1 rd) :=
  RoundTrip.of_pick _ (by
    show pick (encI 0b0010011 2 imm12 rs1 rd) = _
    simp [pick, pickWith, decOpImm]) (decide_eq_true rfl)

theorem RoundTrip.sltiu (imm12 : BitVec 12) (rs1 : BitVec 5) (rd : BitVec 5) : RoundTrip.Statement (.sltiu imm12 rs1 rd) :=
  RoundTrip.of_pick _ (by
    show pick (encI 0b0010011 3 imm12 rs1 rd) = _
    simp [pick, pickWith, decOpImm]) (decide_eq_true rfl)

theorem RoundTrip.xori (imm12 : BitVec 12) (rs1 : BitVec 5) (rd : BitVec 5) : RoundTrip.Statement (.xori imm12 rs1 rd) :=
  RoundTrip.of_pick _ (by
    show pick (encI 0b0010011 4 imm12 rs1 rd) = _
    simp [pick, pickWith, decOpImm]) (decide_eq_true rfl)

theorem RoundTrip.ori (imm12 : BitVec 12) (rs1 : BitVec 5) (rd : BitVec 5) : RoundTrip.Statement (.ori imm12 rs1 rd) :=
  RoundTrip.of_pick _ (by
    show pick (encI 0b0010011 6 imm12 rs1 rd) = _
    simp [pick, pickWith, decOpImm]) (decide_eq_true rfl)

theorem RoundTrip.andi (imm12 : BitVec 12) (rs1 : BitVec 5) (rd : BitVec 5) : RoundTrip.Statement (.andi imm12 rs1 rd) :=
  RoundTrip.of_pick _ (by
    show pick (encI 0b0010011 7 imm12 rs1 rd) = _
    simp [pick, pickWith, decOpImm]) (decide_eq_true rfl)

theorem RoundTrip.slli (sh6 : BitVec 6) (rs1 : BitVec 5) (rd : BitVec 5) : RoundTrip.Statement (.slli sh6 rs1 rd) :=
  RoundTrip.of_pick _ (by
    show pick (encR6 0b0010011 1 0 sh6 rs1 rd) = _
    simp [pick, pickWith, decOpImm]) (decide_eq_true rfl)

theorem RoundTrip.srli (sh6 : BitVec 6) (rs1 : BitVec 5) (rd : BitVec 5) : RoundTrip.Statement (.srli sh6 rs1 rd) :=
  RoundTrip.of_pick _ (by
    show pick (encR6 0b0010011 5 0 sh6 rs1 rd) = _
    simp [pick, pickWith, decOpImm]) (decide_eq_true rfl)

theorem RoundTrip.srai (sh6 : BitVec 6) (rs1 : BitVec 5) (rd : BitVec 5) : RoundTrip.Statement (.srai sh6 rs1 rd) :=
  RoundTrip.of_pick _ (by
    show pick (encR6 0b0010011 5 16 sh6 rs1 rd) = _
    simp [pick, pickWith, decOpImm]) (decide_eq_true rfl)

theorem RoundTrip.addiw (imm12 : BitVec 12) (rs1 : BitVec 5) (rd : BitVec 5) : RoundTrip.Statement (.addiw imm12 rs1 rd) :=
  RoundTrip.of_pick _ (by
    show pick (encI 0b0011011 0 imm12 rs1 rd) = _
    simp [pick, pickWith, decOpImm32]) (decide_eq_true rfl)

theorem RoundTrip.slliw (sh5 : BitVec 5) (rs1 : BitVec 5) (rd : BitVec 5) : RoundTrip.Statement (.slliw sh5 rs1 rd) :=
  RoundTrip.of_pick _ (by
    show pick (encR 0b0011011 1 0 sh5 rs1 rd) = _
    simp [pick, pickWith, decOpImm32]) (decide_eq_true rfl)

theorem RoundTrip.srliw (sh5 : BitVec 5) (rs1 : BitVec 5) (rd : BitVec 5) : RoundTrip.Statement (.srliw sh5 rs1 rd) :=
  RoundTrip.of_pick _ (by
    show pick (encR 0b0011011 5 0 sh5 rs1 rd) = _
    simp [pick, pickWith, decOpImm32]) (decide_eq_true rfl)

theorem RoundTrip.sraiw (sh5 : BitVec 5) (rs1 : BitVec 5) (rd : BitVec 5) : RoundTrip.Statement (.sraiw sh5 rs1 rd) :=
  RoundTrip.of_pick _ (by
    show pick (encR 0b0011011 5 32 sh5 rs1 rd) = _
    simp [pick, pickWith, decOpImm32]) (decide_eq_true rfl)

theorem RoundTrip.add (rs2 : BitVec 5) (rs1 : BitVec 5) (rd : BitVec 5) : RoundTrip.Statement (.add rs2 rs1 rd) :=
  RoundTrip.of_pick _ (by
    show pick (encR 0b0110011 0 0 rs2 rs1 rd) = _
    simp [pick, pickWith, decOp]) (decide_eq_true rfl)

theorem RoundTrip.sll (rs2 : BitVec 5) (rs1 : BitVec 5) (rd : BitVec 5) : RoundTrip.Statement (.sll rs2 rs1 rd) :=
  RoundTrip.of_pick _ (by
    show pick (encR 0b0110011 1 0 rs2 rs1 rd) = _
    simp [pick, pickWith, decOp]) (decide_eq_true rfl)

theorem RoundTrip.slt (rs2 : BitVec 5) (rs1 : BitVec 5) (rd : BitVec 5) : RoundTrip.Statement (.slt rs2 rs1 rd) :=
  RoundTrip.of_pick _ (by
    show pick (encR 0b0110011 2 0 rs2 rs1 rd) = _
    simp [pick, pickWith, decOp]) (decide_eq_true rfl)

theorem RoundTrip.sltu (rs2 : BitVec 5) (rs1 : BitVec 5) (rd : BitVec 5) : RoundTrip.Statement (.sltu rs2 rs1 rd) :=
  RoundTrip.of_pick _ (by
    show pick (encR 0b0110011 3 0 rs2 rs1 rd) = _
    simp [pick, pickWith, decOp]) (decide_eq_true rfl)

theorem RoundTrip.xor (rs2 : BitVec 5) (rs1 : BitVec 5) (rd : BitVec 5) : RoundTrip.Statement (.xor rs2 rs1 rd) :=
  RoundTrip.of_pick _ (by
    show pick (encR 0b0110011 4 0 rs2 rs1 rd) = _
    simp [pick, pickWith, decOp]) (decide_eq_true rfl)

theorem RoundTrip.srl (rs2 : BitVec 5) (rs1 : BitVec 5) (rd : BitVec 5) : RoundTrip.Statement (.srl rs2 rs1 rd) :=
  RoundTrip.of_pick _ (by
    show pick (encR 0b0110011 5 0 rs2 rs1 rd) = _
    simp [pick, pickWith, decOp]) (decide_eq_true rfl)

theorem RoundTrip.or (rs2 : BitVec 5) (rs1 : BitVec 5) (rd : BitVec 5) : RoundTrip.Statement (.or rs2 rs1 rd) :=
  RoundTrip.of_pick _ (by
    show pick (encR 0b0110011 6 0 rs2 rs1 rd) = _
    simp [pick, pickWith, decOp]) (decide_eq_true rfl)

theorem RoundTrip.and (rs2 : BitVec 5) (rs1 : BitVec 5) (rd : BitVec 5) : RoundTrip.Statement (.and rs2 rs1 rd) :=
  RoundTrip.of_pick _ (by
    show pick (encR 0b0110011 7 0 rs2 rs1 rd) = _
    simp [pick, pickWith, decOp]) (decide_eq_true rfl)

theorem RoundTrip.sub (rs2 : BitVec 5) (rs1 : BitVec 5) (rd : BitVec 5) : RoundTrip.Statement (.sub rs2 rs1 rd) :=
  RoundTrip.of_pick _ (by
    show pick (encR 0b0110011 0 32 rs2 rs1 rd) = _
    simp [pick, pickWith, decOp]) (decide_eq_true rfl)

theorem RoundTrip.sra (rs2 : BitVec 5) (rs1 : BitVec 5) (rd : BitVec 5) : RoundTrip.Statement (.sra rs2 rs1 rd) :=
  RoundTrip.of_pick _ (by
    show pick (encR 0b0110011 5 32 rs2 rs1 rd) = _
    simp [pick, pickWith, decOp]) (decide_eq_true rfl)

theorem RoundTrip.mul (rs2 : BitVec 5) (rs1 : BitVec 5) (rd : BitVec 5) : RoundTrip.Statement (.mul rs2 rs1 rd) :=
  RoundTrip.of_pick _ (by
    show pick (encR 0b0110011 0 1 rs2 rs1 rd) = _
    simp [pick, pickWith, decOp]) (decide_eq_true rfl)

theorem RoundTrip.mulh (rs2 : BitVec 5) (rs1 : BitVec 5) (rd : BitVec 5) : RoundTrip.Statement (.mulh rs2 rs1 rd) :=
  RoundTrip.of_pick _ (by
    show pick (encR 0b0110011 1 1 rs2 rs1 rd) = _
    simp [pick, pickWith, decOp]) (decide_eq_true rfl)

theorem RoundTrip.mulhsu (rs2 : BitVec 5) (rs1 : BitVec 5) (rd : BitVec 5) : RoundTrip.Statement (.mulhsu rs2 rs1 rd) :=
  RoundTrip.of_pick _ (by
    show pick (encR 0b0110011 2 1 rs2 rs1 rd) = _
    simp [pick, pickWith, decOp]) (decide_eq_true rfl)

theorem RoundTrip.mulhu (rs2 : BitVec 5) (rs1 : BitVec 5) (rd : BitVec 5) : RoundTrip.Statement (.mulhu rs2 rs1 rd) :=
  RoundTrip.of_pick _ (by
    show pick (encR 0b0110011 3 1 rs2 rs1 rd) = _
    simp [pick, pickWith, decOp]) (decide_eq_true rfl)

theorem RoundTrip.div (rs2 : BitVec 5) (rs1 : BitVec 5) (rd : BitVec 5) : RoundTrip.Statement (.div rs2 rs1 rd) :=
  RoundTrip.of_pick _ (by
    show pick (encR 0b0110011 4 1 rs2 rs1 rd) = _
    simp [pick, pickWith, decOp]) (decide_eq_true rfl)

theorem RoundTrip.divu (rs2 : BitVec 5) (rs1 : BitVec 5) (rd : BitVec 5) : RoundTrip.Statement (.divu rs2 rs1 rd) :=
  RoundTrip.of_pick _ (by
    show pick (encR 0b0110011 5 1 rs2 rs1 rd) = _
    simp [pick, pickWith, decOp]) (decide_eq_true rfl)

theorem RoundTrip.rem (rs2 : BitVec 5) (rs1 : BitVec 5) (rd : BitVec 5) : RoundTrip.Statement (.rem rs2 rs1 rd) :=
  RoundTrip.of_pick _ (by
    show pick (encR 0b0110011 6 1 rs2 rs1 rd) = _
    simp [pick, pickWith, decOp]) (decide_eq_true rfl)

theorem RoundTrip.remu (rs2 : BitVec 5) (rs1 : BitVec 5) (rd : BitVec 5) : RoundTrip.Statement (.remu rs2 rs1 rd) :=
  RoundTrip.of_pick _ (by
    show pick (encR 0b0110011 7 1 rs2 rs1 rd) = _
    simp [pick, pickWith, decOp]) (decide_eq_true rfl)

theorem RoundTrip.addw (rs2 : BitVec 5) (rs1 : BitVec 5) (rd : BitVec 5) : RoundTrip.Statement (.addw rs2 rs1 rd) :=
  RoundTrip.of_pick _ (by
    show pick (encR 0b0111011 0 0 rs2 rs1 rd) = _
    simp [pick, pickWith, decOp32]) (decide_eq_true rfl)

theorem RoundTrip.sllw (rs2 : BitVec 5) (rs1 : BitVec 5) (rd : BitVec 5) : RoundTrip.Statement (.sllw rs2 rs1 rd) :=
  RoundTrip.of_pick _ (by
    show pick (encR 0b0111011 1 0 rs2 rs1 rd) = _
    simp [pick, pickWith, decOp32]) (decide_eq_true rfl)

theorem RoundTrip.srlw (rs2 : BitVec 5) (rs1 : BitVec 5) (rd : BitVec 5) : RoundTrip.Statement (.srlw rs2 rs1 rd) :=
  RoundTrip.of_pick _ (by
    show pick (encR 0b0111011 5 0 rs2 rs1 rd) = _
    simp [pick, pickWith, decOp32]) (decide_eq_true rfl)

theorem RoundTrip.subw (rs2 : BitVec 5) (rs1 : BitVec 5) (rd : BitVec 5) : RoundTrip.Statement (.subw rs2 rs1 rd) :=
  RoundTrip.of_pick _ (by
    show pick (encR 0b0111011 0 32 rs2 rs1 rd) = _
    simp [pick, pickWith, decOp32]) (decide_eq_true rfl)

theorem RoundTrip.sraw (rs2 : BitVec 5) (rs1 : BitVec 5) (rd : BitVec 5) : RoundTrip.Statement (.sraw rs2 rs1 rd) :=
  RoundTrip.of_pick _ (by
    show pick (encR 0b0111011 5 32 rs2 rs1 rd) = _
    simp [pick, pickWith, decOp32]) (decide_eq_true rfl)

theorem RoundTrip.mulw (rs2 : BitVec 5) (rs1 : BitVec 5) (rd : BitVec 5) : RoundTrip.Statement (.mulw rs2 rs1 rd) :=
  RoundTrip.of_pick _ (by
    show pick (encR 0b0111011 0 1 rs2 rs1 rd) = _
    simp [pick, pickWith, decOp32]) (decide_eq_true rfl)

theorem RoundTrip.divw (rs2 : BitVec 5) (rs1 : BitVec 5) (rd : BitVec 5) : RoundTrip.Statement (.divw rs2 rs1 rd) :=
  RoundTrip.of_pick _ (by
    show pick (encR 0b0111011 4 1 rs2 rs1 rd) = _
    simp [pick, pickWith, decOp32]) (decide_eq_true rfl)

theorem RoundTrip.divuw (rs2 : BitVec 5) (rs1 : BitVec 5) (rd : BitVec 5) : RoundTrip.Statement (.divuw rs2 rs1 rd) :=
  RoundTrip.of_pick _ (by
    show pick (encR 0b0111011 5 1 rs2 rs1 rd) = _
    simp [pick, pickWith, decOp32]) (decide_eq_true rfl)

theorem RoundTrip.remw (rs2 : BitVec 5) (rs1 : BitVec 5) (rd : BitVec 5) : RoundTrip.Statement (.remw rs2 rs1 rd) :=
  RoundTrip.of_pick _ (by
    show pick (encR 0b0111011 6 1 rs2 rs1 rd) = _
    simp [pick, pickWith, decOp32]) (decide_eq_true rfl)

theorem RoundTrip.remuw (rs2 : BitVec 5) (rs1 : BitVec 5) (rd : BitVec 5) : RoundTrip.Statement (.remuw rs2 rs1 rd) :=
  RoundTrip.of_pick _ (by
    show pick (encR 0b0111011 7 1 rs2 rs1 rd) = _
    simp [pick, pickWith, decOp32]) (decide_eq_true rfl)

theorem RoundTrip.fence (imm12 : BitVec 12) (rs1 : BitVec 5) (rd : BitVec 5) : RoundTrip.Statement (.fence imm12 rs1 rd) :=
  RoundTrip.of_pick _ (by
    show pick (encI 0b0001111 0 imm12 rs1 rd) = _
    simp [pick, pickWith, onF3]) (decide_eq_true rfl)

theorem RoundTrip.ecall : RoundTrip.Statement (.ecall) :=
  RoundTrip.of_pick _ (by decide) (rfl)

theorem RoundTrip.ebreak : RoundTrip.Statement (.ebreak) :=
  RoundTrip.of_pick _ (by decide) (rfl)

theorem RoundTrip.csrrw (csr : BitVec 12) (rs1 : BitVec 5) (rd : BitVec 5) : RoundTrip.Statement (.csrrw csr rs1 rd) :=
  RoundTrip.of_pick _ (by
    show pick (encI 0b1110011 1 csr rs1 rd) = _
    simp [pick, pickWith, decSystem]) (decide_eq_true rfl)

theorem RoundTrip.csrrs (csr : BitVec 12) (rs1 : BitVec 5) (rd : BitVec 5) : RoundTrip.Statement (.csrrs csr rs1 rd) :=
  RoundTrip.of_pick _ (by
    show pick (encI 0b1110011 2 csr rs1 rd) = _
    simp [pick, pickWith, decSystem]) (decide_eq_true rfl)

theorem RoundTrip.csrrc (csr : BitVec 12) (rs1 : BitVec 5) (rd : BitVec 5) : RoundTrip.Statement (.csrrc csr rs1 rd) :=
  RoundTrip.of_pick _ (by
    show pick (encI 0b1110011 3 csr rs1 rd) = _
    simp [pick, pickWith, decSystem]) (decide_eq_true rfl)

theorem RoundTrip.csrrwi (csr : BitVec 12) (zimm : BitVec 5) (rd : BitVec 5) : RoundTrip.Statement (.csrrwi csr zimm rd) :=
  RoundTrip.of_pick _ (by
    show pick (encI 0b1110011 5 csr zimm rd) = _
    simp [pick, pickWith, decSystem]) (decide_eq_true rfl)

theorem RoundTrip.csrrsi (csr : BitVec 12) (zimm : BitVec 5) (rd : BitVec 5) : RoundTrip.Statement (.csrrsi csr zimm rd) :=
  RoundTrip.of_pick _ (by
    show pick (encI 0b1110011 6 csr zimm rd) = _
    simp [pick, pickWith, decSystem]) (decide_eq_true rfl)

theorem RoundTrip.csrrci (csr : BitVec 12) (zimm : BitVec 5) (rd : BitVec 5) : RoundTrip.Statement (.csrrci csr zimm rd) :=
  RoundTrip.of_pick _ (by
    show pick (encI 0b1110011 7 csr zimm rd) = _
    simp [pick, pickWith, decSystem]) (decide_eq_true rfl)

theorem RoundTrip.amoaddW (aq : BitVec 1) (rl : BitVec 1) (rs2 : BitVec 5) (rs1 : BitVec 5) (rd : BitVec 5) : RoundTrip.Statement (.amoaddW aq rl rs2 rs1 rd) :=
  RoundTrip.of_pick _ (by
    show pick (encAmo 2 0 aq rl rs2 rs1 rd) = _
    simp [pick, pickWith, decAmo]) (decide_eq_true rfl)

theorem RoundTrip.amoaddD (aq : BitVec 1) (rl : BitVec 1) (rs2 : BitVec 5) (rs1 : BitVec 5) (rd : BitVec 5) : RoundTrip.Statement (.amoaddD aq rl rs2 rs1 rd) :=
  RoundTrip.of_pick _ (by
    show pick (encAmo 3 0 aq rl rs2 rs1 rd) = _
    simp [pick, pickWith, decAmo]) (decide_eq_true rfl)

theorem RoundTrip.amoswapW (aq : BitVec 1) (rl : BitVec 1) (rs2 : BitVec 5) (rs1 : BitVec 5) (rd : BitVec 5) : RoundTrip.Statement (.amoswapW aq rl rs2 rs1 rd) :=
  RoundTrip.of_pick _ (by
    show pick (encAmo 2 1 aq rl rs2 rs1 rd) = _
    simp [pick, pickWith, decAmo]) (decide_eq_true rfl)

theorem RoundTrip.amoswapD (aq : BitVec 1) (rl : BitVec 1) (rs2 : BitVec 5) (rs1 : BitVec 5) (rd : BitVec 5) : RoundTrip.Statement (.amoswapD aq rl rs2 rs1 rd) :=
  RoundTrip.of_pick _ (by
    show pick (encAmo 3 1 aq rl rs2 rs1 rd) = _
    simp [pick, pickWith, decAmo]) (decide_eq_true rfl)

theorem RoundTrip.amoxorW (aq : BitVec 1) (rl : BitVec 1) (rs2 : BitVec 5) (rs1 : BitVec 5) (rd : BitVec 5) : RoundTrip.Statement (.amoxorW aq rl rs2 rs1 rd) :=
  RoundTrip.of_pick _ (by
    show pick (encAmo 2 4 aq rl rs2 rs1 rd) = _
    simp [pick, pickWith, decAmo]) (decide_eq_true rfl)

theorem RoundTrip.amoxorD (aq : BitVec 1) (rl : BitVec 1) (rs2 : BitVec 5) (rs1 : BitVec 5) (rd : BitVec 5) : RoundTrip.Statement (.amoxorD aq rl rs2 rs1 rd) :=
  RoundTrip.of_pick _ (by
    show pick (encAmo 3 4 aq rl rs2 rs1 rd) = _
    simp [pick, pickWith, decAmo]) (decide_eq_true rfl)

theorem RoundTrip.amoorW (aq : BitVec 1) (rl : BitVec 1) (rs2 : BitVec 5) (rs1 : BitVec 5) (rd : BitVec 5) : RoundTrip.Statement (.amoorW aq rl rs2 rs1 rd) :=
  RoundTrip.of_pick _ (by
    show pick (encAmo 2 8 aq rl rs2 rs1 rd) = _
    simp [pick, pickWith, decAmo]) (decide_eq_true rfl)

theorem RoundTrip.amoorD (aq : BitVec 1) (rl : BitVec 1) (rs2 : BitVec 5) (rs1 : BitVec 5) (rd : BitVec 5) : RoundTrip.Statement (.amoorD aq rl rs2 rs1 rd) :=
  RoundTrip.of_pick _ (by
    show pick (encAmo 3 8 aq rl rs2 rs1 rd) = _
    simp [pick, pickWith, decAmo]) (decide_eq_true rfl)

theorem RoundTrip.amoandW (aq : BitVec 1) (rl : BitVec 1) (rs2 : BitVec 5) (rs1 : BitVec 5) (rd : BitVec 5) : RoundTrip.Statement (.amoandW aq rl rs2 rs1 rd) :=
  RoundTrip.of_pick _ (by
    show pick (encAmo 2 12 aq rl rs2 rs1 rd) = _
    simp [pick, pickWith, decAmo]) (decide_eq_true rfl)

theorem RoundTrip.amoandD (aq : BitVec 1) (rl : BitVec 1) (rs2 : BitVec 5) (rs1 : BitVec 5) (rd : BitVec 5) : RoundTrip.Statement (.amoandD aq rl rs2 rs1 rd) :=
  RoundTrip.of_pick _ (by
    show pick (encAmo 3 12 aq rl rs2 rs1 rd) = _
    simp [pick, pickWith, decAmo]) (decide_eq_true rfl)

theorem RoundTrip.amominW (aq : BitVec 1) (rl : BitVec 1) (rs2 : BitVec 5) (rs1 : BitVec 5) (rd : BitVec 5) : RoundTrip.Statement (.amominW aq rl rs2 rs1 rd) :=
  RoundTrip.of_pick _ (by
    show pick (encAmo 2 16 aq rl rs2 rs1 rd) = _
    simp [pick, pickWith, decAmo]) (decide_eq_true rfl)

theorem RoundTrip.amominD (aq : BitVec 1) (rl : BitVec 1) (rs2 : BitVec 5) (rs1 : BitVec 5) (rd : BitVec 5) : RoundTrip.Statement (.amominD aq rl rs2 rs1 rd) :=
  RoundTrip.of_pick _ (by
    show pick (encAmo 3 16 aq rl rs2 rs1 rd) = _
    simp [pick, pickWith, decAmo]) (decide_eq_true rfl)

theorem RoundTrip.amomaxW (aq : BitVec 1) (rl : BitVec 1) (rs2 : BitVec 5) (rs1 : BitVec 5) (rd : BitVec 5) : RoundTrip.Statement (.amomaxW aq rl rs2 rs1 rd) :=
  RoundTrip.of_pick _ (by
    show pick (encAmo 2 20 aq rl rs2 rs1 rd) = _
    simp [pick, pickWith, decAmo]) (decide_eq_true rfl)

theorem RoundTrip.amomaxD (aq : BitVec 1) (rl : BitVec 1) (rs2 : BitVec 5) (rs1 : BitVec 5) (rd : BitVec 5) : RoundTrip.Statement (.amomaxD aq rl rs2 rs1 rd) :=
  RoundTrip.of_pick _ (by
    show pick (encAmo 3 20 aq rl rs2 rs1 rd) = _
    simp [pick, pickWith, decAmo]) (decide_eq_true rfl)

theorem RoundTrip.amominuW (aq : BitVec 1) (rl : BitVec 1) (rs2 : BitVec 5) (rs1 : BitVec 5) (rd : BitVec 5) : RoundTrip.Statement (.amominuW aq rl rs2 rs1 rd) :=
  RoundTrip.of_pick _ (by
    show pick (encAmo 2 24 aq rl rs2 rs1 rd) = _
    simp [pick, pickWith, decAmo]) (decide_eq_true rfl)

theorem RoundTrip.amominuD (aq : BitVec 1) (rl : BitVec 1) (rs2 : BitVec 5) (rs1 : BitVec 5) (rd : BitVec 5) : RoundTrip.Statement (.amominuD aq rl rs2 rs1 rd) :=
  RoundTrip.of_pick _ (by
    show pick (encAmo 3 24 aq rl rs2 rs1 rd) = _
    simp [pick, pickWith, decAmo]) (decide_eq_true rfl)

theorem RoundTrip.amomaxuW (aq : BitVec 1) (rl : BitVec 1) (rs2 : BitVec 5) (rs1 : BitVec 5) (rd : BitVec 5) : RoundTrip.Statement (.amomaxuW aq rl rs2 rs1 rd) :=
  RoundTrip.of_pick _ (by
    show pick (encAmo 2 28 aq rl rs2 rs1 rd) = _
    simp [pick, pickWith, decAmo]) (decide_eq_true rfl)

theorem RoundTrip.amomaxuD (aq : BitVec 1) (rl : BitVec 1) (rs2 : BitVec 5) (rs1 : BitVec 5) (rd : BitVec 5) : RoundTrip.Statement (.amomaxuD aq rl rs2 rs1 rd) :=
  RoundTrip.of_pick _ (by
    show pick (encAmo 3 28 aq rl rs2 rs1 rd) = _
    simp [pick, pickWith, decAmo]) (decide_eq_true rfl)

theorem RoundTrip.flw (imm12 : BitVec 12) (rs1 : BitVec 5) (rd : BitVec 5) : RoundTrip.Statement (.flw imm12 rs1 rd) :=
  RoundTrip.of_pick _ (by
    show pick (encI 0b0000111 2 imm12 rs1 rd) = _
    simp [pick, pickWith, onF3]) (decide_eq_true rfl)

theorem RoundTrip.fsw (imm12 : BitVec 12) (rs2 : BitVec 5) (rs1 : BitVec 5) : RoundTrip.Statement (.fsw imm12 rs2 rs1) :=
  RoundTrip.of_pick _ (by
    show pick (encS 0b0100111 2 imm12 rs2 rs1) = _
    simp [pick, pickWith, onF3]) (decide_eq_true rfl)

theorem RoundTrip.fmaddS (rs3 : BitVec 5) (rs2 : BitVec 5) (rs1 : BitVec 5) (rm : BitVec 3) (rd : BitVec 5) : RoundTrip.Statement (.fmaddS rs3 rs2 rs1 rm rd) :=
  RoundTrip.of_pick _ (by
    show pick (encR4 0b1000011 rs3 rs2 rs1 rm rd) = _
    simp [pick, pickWith, onFmt0]) (decide_eq_true rfl)

theorem RoundTrip.fmsubS (rs3 : BitVec 5) (rs2 : BitVec 5) (rs1 : BitVec 5) (rm : BitVec 3) (rd : BitVec 5) : RoundTrip.Statement (.fmsubS rs3 rs2 rs1 rm rd) :=
  RoundTrip.of_pick _ (by
    show pick (encR4 0b1000111 rs3 rs2 rs1 rm rd) = _
    simp [pick, pickWith, onFmt0]) (decide_eq_true rfl)

theorem RoundTrip.fnmsubS (rs3 : BitVec 5) (rs2 : BitVec 5) (rs1 : BitVec 5) (rm : BitVec 3) (rd : BitVec 5) : RoundTrip.Statement (.fnmsubS rs3 rs2 rs1 rm rd) :=
  RoundTrip.of_pick _ (by
    show pick (encR4 0b1001011 rs3 rs2 rs1 rm rd) = _
    simp [pick, pickWith, onFmt0]) (decide_eq_true rfl)

theorem RoundTrip.fnmaddS (rs3 : BitVec 5) (rs2 : BitVec 5) (rs1 : BitVec 5) (rm : BitVec 3) (rd : BitVec 5) : RoundTrip.Statement (.fnmaddS rs3 rs2 rs1 rm rd) :=
  RoundTrip.of_pick _ (by
    show pick (encR4 0b1001111 rs3 rs2 rs1 rm rd) = _
    simp [pick, pickWith, onFmt0]) (decide_eq_true rfl)

theorem RoundTrip.faddS (rs2 : BitVec 5) (rs1 : BitVec 5) (rm : BitVec 3) (rd : BitVec 5) : RoundTrip.Statement (.faddS rs2 rs1 rm rd) :=
  RoundTrip.of_pick _ (by
    show pick (encR 0b1010011 rm 0 rs2 rs1 rd) = _
    simp [pick, pickWith, decOpFp]) (decide_eq_true rfl)

theorem RoundTrip.fsubS (rs2 : BitVec 5) (rs1 : BitVec 5) (rm : BitVec 3) (rd : BitVec 5) : RoundTrip.Statement (.fsubS rs2 rs1 rm rd) :=
  RoundTrip.of_pick _ (by
    show pick (encR 0b1010011 rm 4 rs2 rs1 rd) = _
    simp [pick, pickWith, decOpFp]) (decide_eq_true rfl)

theorem RoundTrip.fmulS (rs2 : BitVec 5) (rs1 : BitVec 5) (rm : BitVec 3) (rd : BitVec 5) : RoundTrip.Statement (.fmulS rs2 rs1 rm rd) :=
  RoundTrip.of_pick _ (by
    show pick (encR 0b1010011 rm 8 rs2 rs1 rd) = _
    simp [pick, pickWith, decOpFp]) (decide_eq_true rfl)

theorem RoundTrip.fdivS (rs2 : BitVec 5) (rs1 : BitVec 5) (rm : BitVec 3) (rd : BitVec 5) : RoundTrip.Statement (.fdivS rs2 rs1 rm rd) :=
  RoundTrip.of_pick _ (by
    show pick (encR 0b1010011 rm 12 rs2 rs1 rd) = _
    simp [pick, pickWith, decOpFp]) (decide_eq_true rfl)

theorem RoundTrip.fsqrtS (rs1 : BitVec 5) (rm : BitVec 3) (rd : BitVec 5) : RoundTrip.Statement (.fsqrtS rs1 rm rd) :=
  RoundTrip.of_pick _ (by
    show pick (encR 0b1010011 rm 44 0 rs1 rd) = _
    simp [pick, pickWith, decOpFp]) (decide_eq_true rfl)

theorem RoundTrip.fsgnjS (rs2 : BitVec 5) (rs1 : BitVec 5) (rd : BitVec 5) : RoundTrip.Statement (.fsgnjS rs2 rs1 rd) :=
  RoundTrip.of_pick _ (by
    show pick (encR 0b1010011 0 16 rs2 rs1 rd) = _
    simp [pick, pickWith, decOpFp]) (decide_eq_true rfl)

theorem RoundTrip.fsgnjnS (rs2 : BitVec 5) (rs1 : BitVec 5) (rd : BitVec 5) : RoundTrip.Statement (.fsgnjnS rs2 rs1 rd) :=
  RoundTrip.of_pick _ (by
    show pick (encR 0b1010011 1 16 rs2 rs1 rd) = _
    simp [pick, pickWith, decOpFp]) (decide_eq_true rfl)

theorem RoundTrip.fsgnjxS (rs2 : BitVec 5) (rs1 : BitVec 5) (rd : BitVec 5) : RoundTrip.Statement (.fsgnjxS rs2 rs1 rd) :=
  RoundTrip.of_pick _ (by
    show pick (encR 0b1010011 2 16 rs2 rs1 rd) = _
    simp [pick, pickWith, decOpFp]) (decide_eq_true rfl)

theorem RoundTrip.fminS (rs2 : BitVec 5) (rs1 : BitVec 5) (rd : BitVec 5) : RoundTrip.Statement (.fminS rs2 rs1 rd) :=
  RoundTrip.of_pick _ (by
    show pick (encR 0b1010011 0 20 rs2 rs1 rd) = _
    simp [pick, pickWith, decOpFp]) (decide_eq_true rfl)

theorem RoundTrip.fmaxS (rs2 : BitVec 5) (rs1 : BitVec 5) (rd : BitVec 5) : RoundTrip.Statement (.fmaxS rs2 rs1 rd) :=
  RoundTrip.of_pick _ (by
    show pick (encR 0b1010011 1 20 rs2 rs1 rd) = _
    simp [pick, pickWith, decOpFp]) (decide_eq_true rfl)

theorem RoundTrip.fleS (rs2 : BitVec 5) (rs1 : BitVec 5) (rd : BitVec 5) : RoundTrip.Statement (.fleS rs2 rs1 rd) :=
  RoundTrip.of_pick _ (by
    show pick (encR 0b1010011 0 80 rs2 rs1 rd) = _
    simp [pick, pickWith, decOpFp]) (decide_eq_true rfl)

theorem RoundTrip.fltS (rs2 : BitVec 5) (rs1 : BitVec 5) (rd : BitVec 5) : RoundTrip.Statement (.fltS rs2 rs1 rd) :=
  RoundTrip.of_pick _ (by
    show pick (encR 0b1010011 1 80 rs2 rs1 rd) = _
    simp [pick, pickWith, decOpFp]) (decide_eq_true rfl)

theorem RoundTrip.feqS (rs2 : BitVec 5) (rs1 : BitVec 5) (rd : BitVec 5) : RoundTrip.Statement (.feqS rs2 rs1 rd) :=
  RoundTrip.of_pick _ (by
    show pick (encR 0b1010011 2 80 rs2 rs1 rd) = _
    simp [pick, pickWith, decOpFp]) (decide_eq_true rfl)

theorem RoundTrip.fcvtWS (rs1 : BitVec 5) (rm : BitVec 3) (rd : BitVec 5) : RoundTrip.Statement (.fcvtWS rs1 rm rd) :=
  RoundTrip.of_pick _ (by
    show pick (encR 0b1010011 rm 96 0 rs1 rd) = _
    simp [pick, pickWith, decOpFp]) (decide_eq_true rfl)

theorem RoundTrip.fcvtWuS (rs1 : BitVec 5) (rm : BitVec 3) (rd : BitVec 5) : RoundTrip.Statement (.fcvtWuS rs1 rm rd) :=
  RoundTrip.of_pick _ (by
    show pick (encR 0b1010011 rm 96 1 rs1 rd) = _
    simp [pick, pickWith, decOpFp]) (decide_eq_true rfl)

theorem RoundTrip.fcvtLS (rs1 : BitVec 5) (rm : BitVec 3) (rd : BitVec 5) : RoundTrip.Statement (.fcvtLS rs1 rm rd) :=
  RoundTrip.of_pick _ (by
    show pick (encR 0b1010011 rm 96 2 rs1 rd) = _
    simp [pick, pickWith, decOpFp]) (decide_eq_true rfl)

theorem RoundTrip.fcvtLuS (rs1 : BitVec 5) (rm : BitVec 3) (rd : BitVec 5) : RoundTrip.Statement (.fcvtLuS rs1 rm rd) :=
  RoundTrip.of_pick _ (by
    show pick (encR 0b1010011 rm 96 3 rs1 rd) = _
    simp [pick, pickWith, decOpFp]) (decide_eq_true rfl)

theorem RoundTrip.fcvtSW (rs1 : BitVec 5) (rm : BitVec 3) (rd : BitVec 5) : RoundTrip.Statement (.fcvtSW rs1 rm rd) :=
  RoundTrip.of_pick _ (by
    show pick (encR 0b1010011 rm 104 0 rs1 rd) = _
    simp [pick, pickWith, decOpFp]) (decide_eq_true rfl)

theorem RoundTrip.fcvtSWu (rs1 : BitVec 5) (rm : BitVec 3) (rd : BitVec 5) : RoundTrip.Statement (.fcvtSWu rs1 rm rd) :=
  RoundTrip.of_pick _ (by
    show pick (encR 0b1010011 rm 104 1 rs1 rd) = _
    simp [pick, pickWith, decOpFp]) (decide_eq_true rfl)

theorem RoundTrip.fcvtSL (rs1 : BitVec 5) (rm : BitVec 3) (rd : BitVec 5) : RoundTrip.Statement (.fcvtSL rs1 rm rd) :=
  RoundTrip.of_pick _ (by
    show pick (encR 0b1010011 rm 104 2 rs1 rd) = _
    simp [pick, pickWith, decOpFp]) (decide_eq_true rfl)

theorem RoundTrip.fcvtSLu (rs1 : BitVec 5) (rm : BitVec 3) (rd : BitVec 5) : RoundTrip.Statement (.fcvtSLu rs1 rm rd) :=
  RoundTrip.of_pick _ (by
    show pick (encR 0b1010011 rm 104 3 rs1 rd) = _
    simp [pick, pickWith, decOpFp]) (decide_eq_true rfl)

theorem RoundTrip.fmvXW (rs1 : BitVec 5) (rd : BitVec 5) : RoundTrip.Statement (.fmvXW rs1 rd) :=
  RoundTrip.of_pick _ (by
    show pick (encR 0b1010011 0 112 0 rs1 rd) = _
    simp [pick, pickWith, decOpFp]) (decide_eq_true rfl)

theorem RoundTrip.fclassS (rs1 : BitVec 5) (rd : BitVec 5) : RoundTrip.Statement (.fclassS rs1 rd) :=
  RoundTrip.of_pick _ (by
    show pick (encR 0b1010011 1 112 0 rs1 rd) = _
    simp [pick, pickWith, decOpFp]) (decide_eq_true rfl)

theorem RoundTrip.fmvWX (rs1 : BitVec 5) (rd : BitVec 5) : RoundTrip.Statement (.fmvWX rs1 rd) :=
  RoundTrip.of_pick _ (by
    show pick (encR 0b1010011 0 120 0 rs1 rd) = _
    simp [pick, pickWith, decOpFp]) (decide_eq_true rfl)

theorem RoundTrip.scfgw (imm7 : BitVec 7) (a : BitVec 5) (d : BitVec 5) : RoundTrip.Statement (.scfgw imm7 a d) :=
  RoundTrip.of_pick _ (by
    show pick (encZI custom0 0 0 imm7 a d) = _
    simp [pick, pickWith, custom0, decCustom0F0]) (decide_eq_true rfl)

theorem RoundTrip.scfgr (imm7 : BitVec 7) (a : BitVec 5) (d : BitVec 5) : RoundTrip.Statement (.scfgr imm7 a d) :=
  RoundTrip.of_pick _ (by
    show pick (encZI custom0 0 1 imm7 a d) = _
    simp [pick, pickWith, custom0, decCustom0F0]) (decide_eq_true rfl)

theorem RoundTrip.sbind (b : BitVec 5) (a : BitVec 5) (d : BitVec 5) : RoundTrip.Statement (.sbind b a d) :=
  RoundTrip.of_pick _ (by
    show pick (encZR custom0 0 2 0 0 b a d) = _
    simp [pick, pickWith, custom0, decCustom0F0]) (decide_eq_true rfl)

theorem RoundTrip.sfree (a : BitVec 5) : RoundTrip.Statement (.sfree a) :=
  RoundTrip.of_pick _ (by
    show pick (encZR custom0 0 3 0 0 0 a 0) = _
    simp [pick, pickWith, custom0, decCustom0F0]) (decide_eq_true rfl)

theorem RoundTrip.sstat (a : BitVec 5) (d : BitVec 5) : RoundTrip.Statement (.sstat a d) :=
  RoundTrip.of_pick _ (by
    show pick (encZR custom0 0 4 0 0 0 a d) = _
    simp [pick, pickWith, custom0, decCustom0F0]) (decide_eq_true rfl)

theorem RoundTrip.sdrain (a : BitVec 5) : RoundTrip.Statement (.sdrain a) :=
  RoundTrip.of_pick _ (by
    show pick (encZR custom0 0 5 0 0 0 a 0) = _
    simp [pick, pickWith, custom0, decCustom0F0]) (decide_eq_true rfl)

theorem RoundTrip.rpt (eb1 : BitVec 1) (a : BitVec 5) (d : BitVec 5) : RoundTrip.Statement (.rpt eb1 a d) :=
  RoundTrip.of_pick _ (by
    show pick (encZR custom0 0 6 0 eb1 0 a d) = _
    simp [pick, pickWith, custom0, decCustom0F0]) (decide_eq_true rfl)

theorem RoundTrip.rpti (imm7 : BitVec 7) (a : BitVec 5) (d : BitVec 5) : RoundTrip.Statement (.rpti imm7 a d) :=
  RoundTrip.of_pick _ (by
    show pick (encZI custom0 0 7 imm7 a d) = _
    simp [pick, pickWith, custom0, decCustom0F0]) (decide_eq_true rfl)

theorem RoundTrip.send (imm7 : BitVec 7) (a : BitVec 5) (d : BitVec 5) : RoundTrip.Statement (.send imm7 a d) :=
  RoundTrip.of_pick _ (by
    show pick (encZI custom0 1 0 imm7 a d) = _
    simp [pick, pickWith, custom0, decCustom0F1]) (decide_eq_true rfl)

theorem RoundTrip.sendw (imm7 : BitVec 7) (a : BitVec 5) (d : BitVec 5) : RoundTrip.Statement (.sendw imm7 a d) :=
  RoundTrip.of_pick _ (by
    show pick (encZI custom0 1 1 imm7 a d) = _
    simp [pick, pickWith, custom0, decCustom0F1]) (decide_eq_true rfl)

theorem RoundTrip.senda (imm7 : BitVec 7) (a : BitVec 5) (d : BitVec 5) : RoundTrip.Statement (.senda imm7 a d) :=
  RoundTrip.of_pick _ (by
    show pick (encZI custom0 1 2 imm7 a d) = _
    simp [pick, pickWith, custom0, decCustom0F1]) (decide_eq_true rfl)

theorem RoundTrip.sendaw (imm7 : BitVec 7) (a : BitVec 5) (d : BitVec 5) : RoundTrip.Statement (.sendaw imm7 a d) :=
  RoundTrip.of_pick _ (by
    show pick (encZI custom0 1 3 imm7 a d) = _
    simp [pick, pickWith, custom0, decCustom0F1]) (decide_eq_true rfl)

theorem RoundTrip.recv (eb1 : BitVec 1) (a : BitVec 5) (d : BitVec 5) : RoundTrip.Statement (.recv eb1 a d) :=
  RoundTrip.of_pick _ (by
    show pick (encZR custom0 1 4 0 eb1 0 a d) = _
    simp [pick, pickWith, custom0, decCustom0F1]) (decide_eq_true rfl)

theorem RoundTrip.recvw (eb1 : BitVec 1) (a : BitVec 5) (d : BitVec 5) : RoundTrip.Statement (.recvw eb1 a d) :=
  RoundTrip.of_pick _ (by
    show pick (encZR custom0 1 5 0 eb1 0 a d) = _
    simp [pick, pickWith, custom0, decCustom0F1]) (decide_eq_true rfl)

theorem RoundTrip.mcount (eb1 : BitVec 1) (a : BitVec 5) (d : BitVec 5) : RoundTrip.Statement (.mcount eb1 a d) :=
  RoundTrip.of_pick _ (by
    show pick (encZR custom0 1 6 0 eb1 0 a d) = _
    simp [pick, pickWith, custom0, decCustom0F1]) (decide_eq_true rfl)

theorem RoundTrip.endF : RoundTrip.Statement (.endF) :=
  RoundTrip.of_pick _ (by
    show pick (encZR custom0 1 7 0 0 0 0 0) = _
    simp [pick, pickWith, custom0, decCustom0F1]) (rfl)

theorem RoundTrip.rearm : RoundTrip.Statement (.rearm) :=
  RoundTrip.of_pick _ (by
    show pick (encZR custom0 1 8 0 0 0 0 0) = _
    simp [pick, pickWith, custom0, decCustom0F1]) (rfl)

theorem RoundTrip.get (imm7 : BitVec 7) (a : BitVec 5) (d : BitVec 5) : RoundTrip.Statement (.get imm7 a d) :=
  RoundTrip.of_pick _ (by
    show pick (encZI custom0 1 9 imm7 a d) = _
    simp [pick, pickWith, custom0, decCustom0F1]) (decide_eq_true rfl)

theorem RoundTrip.put (imm7 : BitVec 7) (a : BitVec 5) (d : BitVec 5) : RoundTrip.Statement (.put imm7 a d) :=
  RoundTrip.of_pick _ (by
    show pick (encZI custom0 1 10 imm7 a d) = _
    simp [pick, pickWith, custom0, decCustom0F1]) (decide_eq_true rfl)

theorem RoundTrip.sadd (imm7 : BitVec 7) (a : BitVec 5) (d : BitVec 5) : RoundTrip.Statement (.sadd imm7 a d) :=
  RoundTrip.of_pick _ (by
    show pick (encZI custom0 1 11 imm7 a d) = _
    simp [pick, pickWith, custom0, decCustom0F1]) (decide_eq_true rfl)

theorem RoundTrip.ordAcq (eb1 : BitVec 1) (a : BitVec 5) : RoundTrip.Statement (.ordAcq eb1 a) :=
  RoundTrip.of_pick _ (by
    show pick (encZR custom0 2 0 0 eb1 0 a 0) = _
    simp [pick, pickWith, custom0, decCustom0F2]) (decide_eq_true rfl)

theorem RoundTrip.ordRel (eb1 : BitVec 1) (a : BitVec 5) : RoundTrip.Statement (.ordRel eb1 a) :=
  RoundTrip.of_pick _ (by
    show pick (encZR custom0 2 1 0 eb1 0 a 0) = _
    simp [pick, pickWith, custom0, decCustom0F2]) (decide_eq_true rfl)

theorem RoundTrip.ordFull (eb1 : BitVec 1) (a : BitVec 5) : RoundTrip.Statement (.ordFull eb1 a) :=
  RoundTrip.of_pick _ (by
    show pick (encZR custom0 2 2 0 eb1 0 a 0) = _
    simp [pick, pickWith, custom0, decCustom0F2]) (decide_eq_true rfl)

theorem RoundTrip.ldAcq (eb2 : BitVec 1) (eb1 : BitVec 1) (b : BitVec 5) (a : BitVec 5) (d : BitVec 5) : RoundTrip.Statement (.ldAcq eb2 eb1 b a d) :=
  RoundTrip.of_pick _ (by
    show pick (encZR custom0 2 3 eb2 eb1 b a d) = _
    simp [pick, pickWith, custom0, decCustom0F2]) (decide_eq_true rfl)

theorem RoundTrip.sdRel (eb2 : BitVec 1) (eb1 : BitVec 1) (b : BitVec 5) (a : BitVec 5) (d : BitVec 5) : RoundTrip.Statement (.sdRel eb2 eb1 b a d) :=
  RoundTrip.of_pick _ (by
    show pick (encZR custom0 2 4 eb2 eb1 b a d) = _
    simp [pick, pickWith, custom0, decCustom0F2]) (decide_eq_true rfl)

theorem RoundTrip.binit (eb2 : BitVec 1) (eb1 : BitVec 1) (b : BitVec 5) (a : BitVec 5) : RoundTrip.Statement (.binit eb2 eb1 b a) :=
  RoundTrip.of_pick _ (by
    show pick (encZR custom0 2 5 eb2 eb1 b a 0) = _
    simp [pick, pickWith, custom0, decCustom0F2]) (decide_eq_true rfl)

theorem RoundTrip.barr (eb1 : BitVec 1) (a : BitVec 5) (d : BitVec 5) : RoundTrip.Statement (.barr eb1 a d) :=
  RoundTrip.of_pick _ (by
    show pick (encZR custom0 2 6 0 eb1 0 a d) = _
    simp [pick, pickWith, custom0, decCustom0F2]) (decide_eq_true rfl)

theorem RoundTrip.bwait (eb2 : BitVec 1) (eb1 : BitVec 1) (b : BitVec 5) (a : BitVec 5) : RoundTrip.Statement (.bwait eb2 eb1 b a) :=
  RoundTrip.of_pick _ (by
    show pick (encZR custom0 2 7 eb2 eb1 b a 0) = _
    simp [pick, pickWith, custom0, decCustom0F2]) (decide_eq_true rfl)

theorem RoundTrip.btest (eb2 : BitVec 1) (eb1 : BitVec 1) (b : BitVec 5) (a : BitVec 5) (d : BitVec 5) : RoundTrip.Statement (.btest eb2 eb1 b a d) :=
  RoundTrip.of_pick _ (by
    show pick (encZR custom0 2 8 eb2 eb1 b a d) = _
    simp [pick, pickWith, custom0, decCustom0F2]) (decide_eq_true rfl)

theorem RoundTrip.jinit (eb2 : BitVec 1) (eb1 : BitVec 1) (b : BitVec 5) (a : BitVec 5) : RoundTrip.Statement (.jinit eb2 eb1 b a) :=
  RoundTrip.of_pick _ (by
    show pick (encZR custom0 2 9 eb2 eb1 b a 0) = _
    simp [pick, pickWith, custom0, decCustom0F2]) (decide_eq_true rfl)

theorem RoundTrip.jarr (eb1 : BitVec 1) (a : BitVec 5) (d : BitVec 5) : RoundTrip.Statement (.jarr eb1 a d) :=
  RoundTrip.of_pick _ (by
    show pick (encZR custom0 2 10 0 eb1 0 a d) = _
    simp [pick, pickWith, custom0, decCustom0F2]) (decide_eq_true rfl)

theorem RoundTrip.acas (eb2 : BitVec 1) (eb1 : BitVec 1) (b : BitVec 5) (a : BitVec 5) (d : BitVec 5) : RoundTrip.Statement (.acas eb2 eb1 b a d) :=
  RoundTrip.of_pick _ (by
    show pick (encZR custom0 3 0 eb2 eb1 b a d) = _
    simp [pick, pickWith, custom0, decCustom0F3]) (decide_eq_true rfl)

theorem RoundTrip.afadd (eb2 : BitVec 1) (eb1 : BitVec 1) (b : BitVec 5) (a : BitVec 5) (d : BitVec 5) : RoundTrip.Statement (.afadd eb2 eb1 b a d) :=
  RoundTrip.of_pick _ (by
    show pick (encZR custom0 3 1 eb2 eb1 b a d) = _
    simp [pick, pickWith, custom0, decCustom0F3]) (decide_eq_true rfl)

theorem RoundTrip.afmax (eb2 : BitVec 1) (eb1 : BitVec 1) (b : BitVec 5) (a : BitVec 5) (d : BitVec 5) : RoundTrip.Statement (.afmax eb2 eb1 b a d) :=
  RoundTrip.of_pick _ (by
    show pick (encZR custom0 3 2 eb2 eb1 b a d) = _
    simp [pick, pickWith, custom0, decCustom0F3]) (decide_eq_true rfl)

theorem RoundTrip.afmin (eb2 : BitVec 1) (eb1 : BitVec 1) (b : BitVec 5) (a : BitVec 5) (d : BitVec 5) : RoundTrip.Statement (.afmin eb2 eb1 b a d) :=
  RoundTrip.of_pick _ (by
    show pick (encZR custom0 3 3 eb2 eb1 b a d) = _
    simp [pick, pickWith, custom0, decCustom0F3]) (decide_eq_true rfl)

theorem RoundTrip.atkt (eb2 : BitVec 1) (eb1 : BitVec 1) (b : BitVec 5) (a : BitVec 5) (d : BitVec 5) : RoundTrip.Statement (.atkt eb2 eb1 b a d) :=
  RoundTrip.of_pick _ (by
    show pick (encZR custom0 3 4 eb2 eb1 b a d) = _
    simp [pick, pickWith, custom0, decCustom0F3]) (decide_eq_true rfl)

theorem RoundTrip.qpush (eb2 : BitVec 1) (eb1 : BitVec 1) (b : BitVec 5) (a : BitVec 5) (d : BitVec 5) : RoundTrip.Statement (.qpush eb2 eb1 b a d) :=
  RoundTrip.of_pick _ (by
    show pick (encZR custom0 3 5 eb2 eb1 b a d) = _
    simp [pick, pickWith, custom0, decCustom0F3]) (decide_eq_true rfl)

theorem RoundTrip.qpushw (eb2 : BitVec 1) (eb1 : BitVec 1) (b : BitVec 5) (a : BitVec 5) (d : BitVec 5) : RoundTrip.Statement (.qpushw eb2 eb1 b a d) :=
  RoundTrip.of_pick _ (by
    show pick (encZR custom0 3 6 eb2 eb1 b a d) = _
    simp [pick, pickWith, custom0, decCustom0F3]) (decide_eq_true rfl)

theorem RoundTrip.qpop (eb1 : BitVec 1) (a : BitVec 5) (d : BitVec 5) : RoundTrip.Statement (.qpop eb1 a d) :=
  RoundTrip.of_pick _ (by
    show pick (encZR custom0 3 7 0 eb1 0 a d) = _
    simp [pick, pickWith, custom0, decCustom0F3]) (decide_eq_true rfl)

theorem RoundTrip.qpopw (eb1 : BitVec 1) (a : BitVec 5) (d : BitVec 5) : RoundTrip.Statement (.qpopw eb1 a d) :=
  RoundTrip.of_pick _ (by
    show pick (encZR custom0 3 8 0 eb1 0 a d) = _
    simp [pick, pickWith, custom0, decCustom0F3]) (decide_eq_true rfl)

theorem RoundTrip.qinit (eb2 : BitVec 1) (eb1 : BitVec 1) (b : BitVec 5) (a : BitVec 5) : RoundTrip.Statement (.qinit eb2 eb1 b a) :=
  RoundTrip.of_pick _ (by
    show pick (encZR custom0 3 9 eb2 eb1 b a 0) = _
    simp [pick, pickWith, custom0, decCustom0F3]) (decide_eq_true rfl)

theorem RoundTrip.spawn (eb2 : BitVec 1) (eb1 : BitVec 1) (b : BitVec 5) (a : BitVec 5) (d : BitVec 5) : RoundTrip.Statement (.spawn eb2 eb1 b a d) :=
  RoundTrip.of_pick _ (by
    show pick (encZR custom0 4 0 eb2 eb1 b a d) = _
    simp [pick, pickWith, custom0, decCustom0F4]) (decide_eq_true rfl)

theorem RoundTrip.spawnw (eb2 : BitVec 1) (eb1 : BitVec 1) (b : BitVec 5) (a : BitVec 5) (d : BitVec 5) : RoundTrip.Statement (.spawnw eb2 eb1 b a d) :=
  RoundTrip.of_pick _ (by
    show pick (encZR custom0 4 1 eb2 eb1 b a d) = _
    simp [pick, pickWith, custom0, decCustom0F4]) (decide_eq_true rfl)

theorem RoundTrip.cancel (imm7 : BitVec 7) (a : BitVec 5) : RoundTrip.Statement (.cancel imm7 a) :=
  RoundTrip.of_pick _ (by
    show pick (encZI custom0 4 2 imm7 a 0) = _
    simp [pick, pickWith, custom0, decCustom0F4]) (decide_eq_true rfl)

theorem RoundTrip.wstat (imm7 : BitVec 7) (a : BitVec 5) (d : BitVec 5) : RoundTrip.Statement (.wstat imm7 a d) :=
  RoundTrip.of_pick _ (by
    show pick (encZI custom0 4 3 imm7 a d) = _
    simp [pick, pickWith, custom0, decCustom0F4]) (decide_eq_true rfl)

theorem RoundTrip.gcond (eb2 : BitVec 1) (eb1 : BitVec 1) (b : BitVec 5) (a : BitVec 5) : RoundTrip.Statement (.gcond eb2 eb1 b a) :=
  RoundTrip.of_pick _ (by
    show pick (encZR custom0 4 4 eb2 eb1 b a 0) = _
    simp [pick, pickWith, custom0, decCustom0F4]) (decide_eq_true rfl)

theorem RoundTrip.invk (imm7 : BitVec 7) (a : BitVec 5) (d : BitVec 5) : RoundTrip.Statement (.invk imm7 a d) :=
  RoundTrip.of_pick _ (by
    show pick (encZI custom0 5 0 imm7 a d) = _
    simp [pick, pickWith, custom0, decCustom0F5]) (decide_eq_true rfl)

theorem RoundTrip.invkw (imm7 : BitVec 7) (a : BitVec 5) (d : BitVec 5) : RoundTrip.Statement (.invkw imm7 a d) :=
  RoundTrip.of_pick _ (by
    show pick (encZI custom0 5 1 imm7 a d) = _
    simp [pick, pickWith, custom0, decCustom0F5]) (decide_eq_true rfl)

theorem RoundTrip.rstatInvoke (eb1 : BitVec 1) (a : BitVec 5) (d : BitVec 5) : RoundTrip.Statement (.rstatInvoke eb1 a d) :=
  RoundTrip.of_pick _ (by
    show pick (encZR custom0 5 2 0 eb1 0 a d) = _
    simp [pick, pickWith, custom0, decCustom0F5]) (decide_eq_true rfl)

theorem RoundTrip.rdref (d : BitVec 5) : RoundTrip.Statement (.rdref d) :=
  RoundTrip.of_pick _ (by
    show pick (encZR custom0 5 3 0 0 0 0 d) = _
    simp [pick, pickWith, custom0, decCustom0F5]) (decide_eq_true rfl)

theorem RoundTrip.rddcyc (d : BitVec 5) : RoundTrip.Statement (.rddcyc d) :=
  RoundTrip.of_pick _ (by
    show pick (encZR custom0 5 4 0 0 0 0 d) = _
    simp [pick, pickWith, custom0, decCustom0F5]) (decide_eq_true rfl)

theorem RoundTrip.rdratio (d : BitVec 5) : RoundTrip.Statement (.rdratio d) :=
  RoundTrip.of_pick _ (by
    show pick (encZR custom0 5 5 0 0 0 0 d) = _
    simp [pick, pickWith, custom0, decCustom0F5]) (decide_eq_true rfl)

theorem RoundTrip.tret : RoundTrip.Statement (.tret) :=
  RoundTrip.of_pick _ (by
    show pick (encZR custom0 6 0 0 0 0 0 0) = _
    simp [pick, pickWith, custom0, decCustom0F6]) (rfl)

theorem RoundTrip.tlbinv (eb2 : BitVec 1) (eb1 : BitVec 1) (b : BitVec 5) (a : BitVec 5) : RoundTrip.Statement (.tlbinv eb2 eb1 b a) :=
  RoundTrip.of_pick _ (by
    show pick (encZR custom0 6 1 eb2 eb1 b a 0) = _
    simp [pick, pickWith, custom0, decCustom0F6]) (decide_eq_true rfl)

theorem RoundTrip.tlbsync : RoundTrip.Statement (.tlbsync) :=
  RoundTrip.of_pick _ (by
    show pick (encZR custom0 6 2 0 0 0 0 0) = _
    simp [pick, pickWith, custom0, decCustom0F6]) (rfl)

theorem RoundTrip.htabw (eb2 : BitVec 1) (eb1 : BitVec 1) (b : BitVec 5) (a : BitVec 5) : RoundTrip.Statement (.htabw eb2 eb1 b a) :=
  RoundTrip.of_pick _ (by
    show pick (encZR custom0 6 3 eb2 eb1 b a 0) = _
    simp [pick, pickWith, custom0, decCustom0F6]) (decide_eq_true rfl)

theorem RoundTrip.aperw (imm7 : BitVec 7) (a : BitVec 5) : RoundTrip.Statement (.aperw imm7 a) :=
  RoundTrip.of_pick _ (by
    show pick (encZI custom0 6 4 imm7 a 0) = _
    simp [pick, pickWith, custom0, decCustom0F6]) (decide_eq_true rfl)

theorem RoundTrip.wfm : RoundTrip.Statement (.wfm) :=
  RoundTrip.of_pick _ (by
    show pick (encZR custom0 6 5 0 0 0 0 0) = _
    simp [pick, pickWith, custom0, decCustom0F6]) (rfl)

theorem RoundTrip.dhalt : RoundTrip.Statement (.dhalt) :=
  RoundTrip.of_pick _ (by
    show pick (encZR custom0 6 6 0 0 0 0 0) = _
    simp [pick, pickWith, custom0, decCustom0F6]) (rfl)

theorem RoundTrip.padd (k8 : BitVec 8) (eb1 : BitVec 1) (a : BitVec 5) (d : BitVec 5) : RoundTrip.Statement (.padd k8 eb1 a d) :=
  RoundTrip.of_pick _ (by
    show pick (encZK 7 k8 0 eb1 a d) = _
    simp [pick, pickWith, custom0, decCustom0F7]) (decide_eq_true rfl)

theorem RoundTrip.paddi (k8 : BitVec 8) (eb1 : BitVec 1) (a : BitVec 5) (d : BitVec 5) : RoundTrip.Statement (.paddi k8 eb1 a d) :=
  RoundTrip.of_pick _ (by
    show pick (encZK 7 k8 1 eb1 a d) = _
    simp [pick, pickWith, custom0, decCustom0F7]) (decide_eq_true rfl)

theorem RoundTrip.psetf (k8 : BitVec 8) (eb1 : BitVec 1) (a : BitVec 5) (d : BitVec 5) : RoundTrip.Statement (.psetf k8 eb1 a d) :=
  RoundTrip.of_pick _ (by
    show pick (encZK 7 k8 2 eb1 a d) = _
    simp [pick, pickWith, custom0, decCustom0F7]) (decide_eq_true rfl)

theorem RoundTrip.pgetf (eb1 : BitVec 1) (a : BitVec 5) (d : BitVec 5) : RoundTrip.Statement (.pgetf eb1 a d) :=
  RoundTrip.of_pick _ (by
    show pick (encZK 7 0 3 eb1 a d) = _
    simp [pick, pickWith, custom0, decCustom0F7]) (decide_eq_true rfl)

theorem RoundTrip.kld (k8 : BitVec 8) (d : BitVec 5) : RoundTrip.Statement (.kld k8 d) :=
  RoundTrip.of_pick _ (by
    show pick (encZK 7 k8 4 0 0 d) = _
    simp [pick, pickWith, custom0, decCustom0F7]) (decide_eq_true rfl)

theorem RoundTrip.kldf (k8 : BitVec 8) (d : BitVec 5) : RoundTrip.Statement (.kldf k8 d) :=
  RoundTrip.of_pick _ (by
    show pick (encZK 7 k8 5 0 0 d) = _
    simp [pick, pickWith, custom0, decCustom0F7]) (decide_eq_true rfl)

theorem RoundTrip.vadd (pred : BitVec 3) (eb2 : BitVec 1) (eb1 : BitVec 1) (vb : BitVec 4) (va : BitVec 4) (fmt : BitVec 3) (vd : BitVec 4) : RoundTrip.Statement (.vadd pred eb2 eb1 vb va fmt vd) :=
  RoundTrip.of_pick _ (by
    show pick (encZV 0 pred eb2 eb1 vb va fmt vd) = _
    simp [pick, pickWith, custom1, decCustom1]) (decide_eq_true rfl)

theorem RoundTrip.vsub (pred : BitVec 3) (eb2 : BitVec 1) (eb1 : BitVec 1) (vb : BitVec 4) (va : BitVec 4) (fmt : BitVec 3) (vd : BitVec 4) : RoundTrip.Statement (.vsub pred eb2 eb1 vb va fmt vd) :=
  RoundTrip.of_pick _ (by
    show pick (encZV 1 pred eb2 eb1 vb va fmt vd) = _
    simp [pick, pickWith, custom1, decCustom1]) (decide_eq_true rfl)

theorem RoundTrip.vmul (pred : BitVec 3) (eb2 : BitVec 1) (eb1 : BitVec 1) (vb : BitVec 4) (va : BitVec 4) (fmt : BitVec 3) (vd : BitVec 4) : RoundTrip.Statement (.vmul pred eb2 eb1 vb va fmt vd) :=
  RoundTrip.of_pick _ (by
    show pick (encZV 2 pred eb2 eb1 vb va fmt vd) = _
    simp [pick, pickWith, custom1, decCustom1]) (decide_eq_true rfl)

theorem RoundTrip.vfma (pred : BitVec 3) (eb2 : BitVec 1) (eb1 : BitVec 1) (vb : BitVec 4) (va : BitVec 4) (fmt : BitVec 3) (vd : BitVec 4) : RoundTrip.Statement (.vfma pred eb2 eb1 vb va fmt vd) :=
  RoundTrip.of_pick _ (by
    show pick (encZV 3 pred eb2 eb1 vb va fmt vd) = _
    simp [pick, pickWith, custom1, decCustom1]) (decide_eq_true rfl)

theorem RoundTrip.vfms (pred : BitVec 3) (eb2 : BitVec 1) (eb1 : BitVec 1) (vb : BitVec 4) (va : BitVec 4) (fmt : BitVec 3) (vd : BitVec 4) : RoundTrip.Statement (.vfms pred eb2 eb1 vb va fmt vd) :=
  RoundTrip.of_pick _ (by
    show pick (encZV 4 pred eb2 eb1 vb va fmt vd) = _
    simp [pick, pickWith, custom1, decCustom1]) (decide_eq_true rfl)

theorem RoundTrip.vfnma (pred : BitVec 3) (eb2 : BitVec 1) (eb1 : BitVec 1) (vb : BitVec 4) (va : BitVec 4) (fmt : BitVec 3) (vd : BitVec 4) : RoundTrip.Statement (.vfnma pred eb2 eb1 vb va fmt vd) :=
  RoundTrip.of_pick _ (by
    show pick (encZV 5 pred eb2 eb1 vb va fmt vd) = _
    simp [pick, pickWith, custom1, decCustom1]) (decide_eq_true rfl)

theorem RoundTrip.vmin (pred : BitVec 3) (eb2 : BitVec 1) (eb1 : BitVec 1) (vb : BitVec 4) (va : BitVec 4) (fmt : BitVec 3) (vd : BitVec 4) : RoundTrip.Statement (.vmin pred eb2 eb1 vb va fmt vd) :=
  RoundTrip.of_pick _ (by
    show pick (encZV 6 pred eb2 eb1 vb va fmt vd) = _
    simp [pick, pickWith, custom1, decCustom1]) (decide_eq_true rfl)

theorem RoundTrip.vmax (pred : BitVec 3) (eb2 : BitVec 1) (eb1 : BitVec 1) (vb : BitVec 4) (va : BitVec 4) (fmt : BitVec 3) (vd : BitVec 4) : RoundTrip.Statement (.vmax pred eb2 eb1 vb va fmt vd) :=
  RoundTrip.of_pick _ (by
    show pick (encZV 7 pred eb2 eb1 vb va fmt vd) = _
    simp [pick, pickWith, custom1, decCustom1]) (decide_eq_true rfl)

theorem RoundTrip.vabs (pred : BitVec 3) (eb2 : BitVec 1) (eb1 : BitVec 1) (vb : BitVec 4) (va : BitVec 4) (fmt : BitVec 3) (vd : BitVec 4) : RoundTrip.Statement (.vabs pred eb2 eb1 vb va fmt vd) :=
  RoundTrip.of_pick _ (by
    show pick (encZV 8 pred eb2 eb1 vb va fmt vd) = _
    simp [pick, pickWith, custom1, decCustom1]) (decide_eq_true rfl)

theorem RoundTrip.vneg (pred : BitVec 3) (eb2 : BitVec 1) (eb1 : BitVec 1) (vb : BitVec 4) (va : BitVec 4) (fmt : BitVec 3) (vd : BitVec 4) : RoundTrip.Statement (.vneg pred eb2 eb1 vb va fmt vd) :=
  RoundTrip.of_pick _ (by
    show pick (encZV 9 pred eb2 eb1 vb va fmt vd) = _
    simp [pick, pickWith, custom1, decCustom1]) (decide_eq_true rfl)

theorem RoundTrip.vdiv (pred : BitVec 3) (eb2 : BitVec 1) (eb1 : BitVec 1) (vb : BitVec 4) (va : BitVec 4) (fmt : BitVec 3) (vd : BitVec 4) : RoundTrip.Statement (.vdiv pred eb2 eb1 vb va fmt vd) :=
  RoundTrip.of_pick _ (by
    show pick (encZV 10 pred eb2 eb1 vb va fmt vd) = _
    simp [pick, pickWith, custom1, decCustom1]) (decide_eq_true rfl)

theorem RoundTrip.vsqrt (pred : BitVec 3) (eb2 : BitVec 1) (eb1 : BitVec 1) (vb : BitVec 4) (va : BitVec 4) (fmt : BitVec 3) (vd : BitVec 4) : RoundTrip.Statement (.vsqrt pred eb2 eb1 vb va fmt vd) :=
  RoundTrip.of_pick _ (by
    show pick (encZV 11 pred eb2 eb1 vb va fmt vd) = _
    simp [pick, pickWith, custom1, decCustom1]) (decide_eq_true rfl)

theorem RoundTrip.vrcp (pred : BitVec 3) (eb2 : BitVec 1) (eb1 : BitVec 1) (vb : BitVec 4) (va : BitVec 4) (fmt : BitVec 3) (vd : BitVec 4) : RoundTrip.Statement (.vrcp pred eb2 eb1 vb va fmt vd) :=
  RoundTrip.of_pick _ (by
    show pick (encZV 12 pred eb2 eb1 vb va fmt vd) = _
    simp [pick, pickWith, custom1, decCustom1]) (decide_eq_true rfl)

theorem RoundTrip.vexp2 (pred : BitVec 3) (eb2 : BitVec 1) (eb1 : BitVec 1) (vb : BitVec 4) (va : BitVec 4) (fmt : BitVec 3) (vd : BitVec 4) : RoundTrip.Statement (.vexp2 pred eb2 eb1 vb va fmt vd) :=
  RoundTrip.of_pick _ (by
    show pick (encZV 13 pred eb2 eb1 vb va fmt vd) = _
    simp [pick, pickWith, custom1, decCustom1]) (decide_eq_true rfl)

theorem RoundTrip.vceq (pred : BitVec 3) (eb2 : BitVec 1) (eb1 : BitVec 1) (vb : BitVec 4) (va : BitVec 4) (fmt : BitVec 3) (vd : BitVec 4) : RoundTrip.Statement (.vceq pred eb2 eb1 vb va fmt vd) :=
  RoundTrip.of_pick _ (by
    show pick (encZV 14 pred eb2 eb1 vb va fmt vd) = _
    simp [pick, pickWith, custom1, decCustom1]) (decide_eq_true rfl)

theorem RoundTrip.vclt (pred : BitVec 3) (eb2 : BitVec 1) (eb1 : BitVec 1) (vb : BitVec 4) (va : BitVec 4) (fmt : BitVec 3) (vd : BitVec 4) : RoundTrip.Statement (.vclt pred eb2 eb1 vb va fmt vd) :=
  RoundTrip.of_pick _ (by
    show pick (encZV 15 pred eb2 eb1 vb va fmt vd) = _
    simp [pick, pickWith, custom1, decCustom1]) (decide_eq_true rfl)

theorem RoundTrip.vcle (pred : BitVec 3) (eb2 : BitVec 1) (eb1 : BitVec 1) (vb : BitVec 4) (va : BitVec 4) (fmt : BitVec 3) (vd : BitVec 4) : RoundTrip.Statement (.vcle pred eb2 eb1 vb va fmt vd) :=
  RoundTrip.of_pick _ (by
    show pick (encZV 16 pred eb2 eb1 vb va fmt vd) = _
    simp [pick, pickWith, custom1, decCustom1]) (decide_eq_true rfl)

theorem RoundTrip.vand (pred : BitVec 3) (eb2 : BitVec 1) (eb1 : BitVec 1) (vb : BitVec 4) (va : BitVec 4) (fmt : BitVec 3) (vd : BitVec 4) : RoundTrip.Statement (.vand pred eb2 eb1 vb va fmt vd) :=
  RoundTrip.of_pick _ (by
    show pick (encZV 17 pred eb2 eb1 vb va fmt vd) = _
    simp [pick, pickWith, custom1, decCustom1]) (decide_eq_true rfl)

theorem RoundTrip.vor (pred : BitVec 3) (eb2 : BitVec 1) (eb1 : BitVec 1) (vb : BitVec 4) (va : BitVec 4) (fmt : BitVec 3) (vd : BitVec 4) : RoundTrip.Statement (.vor pred eb2 eb1 vb va fmt vd) :=
  RoundTrip.of_pick _ (by
    show pick (encZV 18 pred eb2 eb1 vb va fmt vd) = _
    simp [pick, pickWith, custom1, decCustom1]) (decide_eq_true rfl)

theorem RoundTrip.vxor (pred : BitVec 3) (eb2 : BitVec 1) (eb1 : BitVec 1) (vb : BitVec 4) (va : BitVec 4) (fmt : BitVec 3) (vd : BitVec 4) : RoundTrip.Statement (.vxor pred eb2 eb1 vb va fmt vd) :=
  RoundTrip.of_pick _ (by
    show pick (encZV 19 pred eb2 eb1 vb va fmt vd) = _
    simp [pick, pickWith, custom1, decCustom1]) (decide_eq_true rfl)

theorem RoundTrip.vshl (pred : BitVec 3) (eb2 : BitVec 1) (eb1 : BitVec 1) (vb : BitVec 4) (va : BitVec 4) (fmt : BitVec 3) (vd : BitVec 4) : RoundTrip.Statement (.vshl pred eb2 eb1 vb va fmt vd) :=
  RoundTrip.of_pick _ (by
    show pick (encZV 20 pred eb2 eb1 vb va fmt vd) = _
    simp [pick, pickWith, custom1, decCustom1]) (decide_eq_true rfl)

theorem RoundTrip.vshr (pred : BitVec 3) (eb2 : BitVec 1) (eb1 : BitVec 1) (vb : BitVec 4) (va : BitVec 4) (fmt : BitVec 3) (vd : BitVec 4) : RoundTrip.Statement (.vshr pred eb2 eb1 vb va fmt vd) :=
  RoundTrip.of_pick _ (by
    show pick (encZV 21 pred eb2 eb1 vb va fmt vd) = _
    simp [pick, pickWith, custom1, decCustom1]) (decide_eq_true rfl)

theorem RoundTrip.vsra (pred : BitVec 3) (eb2 : BitVec 1) (eb1 : BitVec 1) (vb : BitVec 4) (va : BitVec 4) (fmt : BitVec 3) (vd : BitVec 4) : RoundTrip.Statement (.vsra pred eb2 eb1 vb va fmt vd) :=
  RoundTrip.of_pick _ (by
    show pick (encZV 22 pred eb2 eb1 vb va fmt vd) = _
    simp [pick, pickWith, custom1, decCustom1]) (decide_eq_true rfl)

theorem RoundTrip.vsel (pred : BitVec 3) (eb2 : BitVec 1) (eb1 : BitVec 1) (vb : BitVec 4) (va : BitVec 4) (fmt : BitVec 3) (vd : BitVec 4) : RoundTrip.Statement (.vsel pred eb2 eb1 vb va fmt vd) :=
  RoundTrip.of_pick _ (by
    show pick (encZV 23 pred eb2 eb1 vb va fmt vd) = _
    simp [pick, pickWith, custom1, decCustom1]) (decide_eq_true rfl)

theorem RoundTrip.vperm (pred : BitVec 3) (eb2 : BitVec 1) (eb1 : BitVec 1) (vb : BitVec 4) (va : BitVec 4) (fmt : BitVec 3) (vd : BitVec 4) : RoundTrip.Statement (.vperm pred eb2 eb1 vb va fmt vd) :=
  RoundTrip.of_pick _ (by
    show pick (encZV 24 pred eb2 eb1 vb va fmt vd) = _
    simp [pick, pickWith, custom1, decCustom1]) (decide_eq_true rfl)

theorem RoundTrip.vsplat (pred : BitVec 3) (eb2 : BitVec 1) (eb1 : BitVec 1) (vb : BitVec 4) (va : BitVec 4) (fmt : BitVec 3) (vd : BitVec 4) : RoundTrip.Statement (.vsplat pred eb2 eb1 vb va fmt vd) :=
  RoundTrip.of_pick _ (by
    show pick (encZV 25 pred eb2 eb1 vb va fmt vd) = _
    simp [pick, pickWith, custom1, decCustom1]) (decide_eq_true rfl)

theorem RoundTrip.vextr (pred : BitVec 3) (eb2 : BitVec 1) (eb1 : BitVec 1) (vb : BitVec 4) (va : BitVec 4) (fmt : BitVec 3) (vd : BitVec 4) : RoundTrip.Statement (.vextr pred eb2 eb1 vb va fmt vd) :=
  RoundTrip.of_pick _ (by
    show pick (encZV 26 pred eb2 eb1 vb va fmt vd) = _
    simp [pick, pickWith, custom1, decCustom1]) (decide_eq_true rfl)

theorem RoundTrip.vins (pred : BitVec 3) (eb2 : BitVec 1) (eb1 : BitVec 1) (vb : BitVec 4) (va : BitVec 4) (fmt : BitVec 3) (vd : BitVec 4) : RoundTrip.Statement (.vins pred eb2 eb1 vb va fmt vd) :=
  RoundTrip.of_pick _ (by
    show pick (encZV 27 pred eb2 eb1 vb va fmt vd) = _
    simp [pick, pickWith, custom1, decCustom1]) (decide_eq_true rfl)

theorem RoundTrip.vrsum (pred : BitVec 3) (eb2 : BitVec 1) (eb1 : BitVec 1) (vb : BitVec 4) (va : BitVec 4) (fmt : BitVec 3) (vd : BitVec 4) : RoundTrip.Statement (.vrsum pred eb2 eb1 vb va fmt vd) :=
  RoundTrip.of_pick _ (by
    show pick (encZV 28 pred eb2 eb1 vb va fmt vd) = _
    simp [pick, pickWith, custom1, decCustom1]) (decide_eq_true rfl)

theorem RoundTrip.vrmax (pred : BitVec 3) (eb2 : BitVec 1) (eb1 : BitVec 1) (vb : BitVec 4) (va : BitVec 4) (fmt : BitVec 3) (vd : BitVec 4) : RoundTrip.Statement (.vrmax pred eb2 eb1 vb va fmt vd) :=
  RoundTrip.of_pick _ (by
    show pick (encZV 29 pred eb2 eb1 vb va fmt vd) = _
    simp [pick, pickWith, custom1, decCustom1]) (decide_eq_true rfl)

theorem RoundTrip.vmov (pred : BitVec 3) (eb2 : BitVec 1) (eb1 : BitVec 1) (vb : BitVec 4) (va : BitVec 4) (fmt : BitVec 3) (vd : BitVec 4) : RoundTrip.Statement (.vmov pred eb2 eb1 vb va fmt vd) :=
  RoundTrip.of_pick _ (by
    show pick (encZV 30 pred eb2 eb1 vb va fmt vd) = _
    simp [pick, pickWith, custom1, decCustom1]) (decide_eq_true rfl)

theorem RoundTrip.vclass (pred : BitVec 3) (eb2 : BitVec 1) (eb1 : BitVec 1) (vb : BitVec 4) (va : BitVec 4) (fmt : BitVec 3) (vd : BitVec 4) : RoundTrip.Statement (.vclass pred eb2 eb1 vb va fmt vd) :=
  RoundTrip.of_pick _ (by
    show pick (encZV 31 pred eb2 eb1 vb va fmt vd) = _
    simp [pick, pickWith, custom1, decCustom1]) (decide_eq_true rfl)

theorem RoundTrip.vld (imm7 : BitVec 7) (a : BitVec 5) (d : BitVec 5) : RoundTrip.Statement (.vld imm7 a d) :=
  RoundTrip.of_pick _ (by
    show pick (encZI custom2 0 0 imm7 a d) = _
    simp [pick, pickWith, custom2, decCustom2F0]) (decide_eq_true rfl)

theorem RoundTrip.vst (imm7 : BitVec 7) (a : BitVec 5) (d : BitVec 5) : RoundTrip.Statement (.vst imm7 a d) :=
  RoundTrip.of_pick _ (by
    show pick (encZI custom2 0 1 imm7 a d) = _
    simp [pick, pickWith, custom2, decCustom2F0]) (decide_eq_true rfl)

theorem RoundTrip.vlds (eb2 : BitVec 1) (eb1 : BitVec 1) (b : BitVec 5) (a : BitVec 5) (d : BitVec 5) : RoundTrip.Statement (.vlds eb2 eb1 b a d) :=
  RoundTrip.of_pick _ (by
    show pick (encZR custom2 0 2 eb2 eb1 b a d) = _
    simp [pick, pickWith, custom2, decCustom2F0]) (decide_eq_true rfl)

theorem RoundTrip.vsts (eb2 : BitVec 1) (eb1 : BitVec 1) (b : BitVec 5) (a : BitVec 5) (d : BitVec 5) : RoundTrip.Statement (.vsts eb2 eb1 b a d) :=
  RoundTrip.of_pick _ (by
    show pick (encZR custom2 0 3 eb2 eb1 b a d) = _
    simp [pick, pickWith, custom2, decCustom2F0]) (decide_eq_true rfl)

theorem RoundTrip.vgath (eb2 : BitVec 1) (eb1 : BitVec 1) (b : BitVec 5) (a : BitVec 5) (d : BitVec 5) : RoundTrip.Statement (.vgath eb2 eb1 b a d) :=
  RoundTrip.of_pick _ (by
    show pick (encZR custom2 0 4 eb2 eb1 b a d) = _
    simp [pick, pickWith, custom2, decCustom2F0]) (decide_eq_true rfl)

theorem RoundTrip.vscat (eb2 : BitVec 1) (eb1 : BitVec 1) (b : BitVec 5) (a : BitVec 5) (d : BitVec 5) : RoundTrip.Statement (.vscat eb2 eb1 b a d) :=
  RoundTrip.of_pick _ (by
    show pick (encZR custom2 0 5 eb2 eb1 b a d) = _
    simp [pick, pickWith, custom2, decCustom2F0]) (decide_eq_true rfl)

theorem RoundTrip.vsadd (eb2 : BitVec 1) (eb1 : BitVec 1) (b : BitVec 5) (a : BitVec 5) (d : BitVec 5) : RoundTrip.Statement (.vsadd eb2 eb1 b a d) :=
  RoundTrip.of_pick _ (by
    show pick (encZR custom2 0 6 eb2 eb1 b a d) = _
    simp [pick, pickWith, custom2, decCustom2F0]) (decide_eq_true rfl)

theorem RoundTrip.vaccr (eb1 : BitVec 1) (b : BitVec 5) (a : BitVec 5) (d : BitVec 5) : RoundTrip.Statement (.vaccr eb1 b a d) :=
  RoundTrip.of_pick _ (by
    show pick (encZR custom2 0 7 0 eb1 b a d) = _
    simp [pick, pickWith, custom2, decCustom2F0]) (decide_eq_true rfl)

theorem RoundTrip.vaccw (eb1 : BitVec 1) (b : BitVec 5) (a : BitVec 5) (d : BitVec 5) : RoundTrip.Statement (.vaccw eb1 b a d) :=
  RoundTrip.of_pick _ (by
    show pick (encZR custom2 0 8 0 eb1 b a d) = _
    simp [pick, pickWith, custom2, decCustom2F0]) (decide_eq_true rfl)

theorem RoundTrip.vldp (imm7 : BitVec 7) (a : BitVec 5) (d : BitVec 5) : RoundTrip.Statement (.vldp imm7 a d) :=
  RoundTrip.of_pick _ (by
    show pick (encZI custom2 0 9 imm7 a d) = _
    simp [pick, pickWith, custom2, decCustom2F0]) (decide_eq_true rfl)

theorem RoundTrip.cvt (rnd : BitVec 3) (a : BitVec 5) (b : BitVec 5) (d : BitVec 5) : RoundTrip.Statement (.cvt rnd a b d) :=
  RoundTrip.of_pick _ (by
    show pick (encZM 1 0 rnd a b d) = _
    simp [pick, pickWith, custom2, decCustom2F1]) (decide_eq_true rfl)

theorem RoundTrip.fcvtz (rnd : BitVec 3) (a : BitVec 5) (b : BitVec 5) (d : BitVec 5) : RoundTrip.Statement (.fcvtz rnd a b d) :=
  RoundTrip.of_pick _ (by
    show pick (encZM 1 1 rnd a b d) = _
    simp [pick, pickWith, custom2, decCustom2F1]) (decide_eq_true rfl)

theorem RoundTrip.packb (rnd : BitVec 3) (a : BitVec 5) (b : BitVec 5) (d : BitVec 5) : RoundTrip.Statement (.packb rnd a b d) :=
  RoundTrip.of_pick _ (by
    show pick (encZM 1 2 rnd a b d) = _
    simp [pick, pickWith, custom2, decCustom2F1]) (decide_eq_true rfl)

theorem RoundTrip.unpkb (a : BitVec 5) (b : BitVec 5) : RoundTrip.Statement (.unpkb a b) :=
  RoundTrip.of_pick _ (by
    show pick (encZM 1 3 0 a b 0) = _
    simp [pick, pickWith, custom2, decCustom2F1]) (decide_eq_true rfl)

theorem RoundTrip.lutw (a : BitVec 5) : RoundTrip.Statement (.lutw a) :=
  RoundTrip.of_pick _ (by
    show pick (encZM 1 4 0 a 0 0) = _
    simp [pick, pickWith, custom2, decCustom2F1]) (decide_eq_true rfl)

theorem RoundTrip.lutx (a : BitVec 5) (d : BitVec 5) : RoundTrip.Statement (.lutx a d) :=
  RoundTrip.of_pick _ (by
    show pick (encZM 1 5 0 a 0 d) = _
    simp [pick, pickWith, custom2, decCustom2F1]) (decide_eq_true rfl)

theorem RoundTrip.zpsub (a : BitVec 5) (b : BitVec 5) (d : BitVec 5) : RoundTrip.Statement (.zpsub a b d) :=
  RoundTrip.of_pick _ (by
    show pick (encZM 1 6 0 a b d) = _
    simp [pick, pickWith, custom2, decCustom2F1]) (decide_eq_true rfl)

theorem RoundTrip.mxa (n : BitVec 1) (p : BitVec 4) (q : BitVec 4) : RoundTrip.Statement (.mxa n p q) :=
  RoundTrip.of_pick _ (by
    show pick (encZM 2 0 0 (n ++ p) ((0 : BitVec 1) ++ q) 0) = _
    simp [pick, pickWith, custom2, decCustom2F2]) (mxa_unused n p q)

theorem RoundTrip.mxz (a : BitVec 5) (d : BitVec 5) : RoundTrip.Statement (.mxz a d) :=
  RoundTrip.of_pick _ (by
    show pick (encZM 2 1 0 a 0 d) = _
    simp [pick, pickWith, custom2, decCustom2F2]) (decide_eq_true rfl)

theorem RoundTrip.mxrd (rnd : BitVec 3) (a : BitVec 5) (d : BitVec 5) : RoundTrip.Statement (.mxrd rnd a d) :=
  RoundTrip.of_pick _ (by
    show pick (encZM 2 2 rnd a 0 d) = _
    simp [pick, pickWith, custom2, decCustom2F2]) (decide_eq_true rfl)

theorem RoundTrip.mxwr (a : BitVec 5) (d : BitVec 5) : RoundTrip.Statement (.mxwr a d) :=
  RoundTrip.of_pick _ (by
    show pick (encZM 2 3 0 a 0 d) = _
    simp [pick, pickWith, custom2, decCustom2F2]) (decide_eq_true rfl)

theorem RoundTrip.mxstat (a : BitVec 5) (d : BitVec 5) : RoundTrip.Statement (.mxstat a d) :=
  RoundTrip.of_pick _ (by
    show pick (encZM 2 4 0 a 0 d) = _
    simp [pick, pickWith, custom2, decCustom2F2]) (decide_eq_true rfl)

theorem RoundTrip.mxsync (a : BitVec 5) : RoundTrip.Statement (.mxsync a) :=
  RoundTrip.of_pick _ (by
    show pick (encZM 2 5 0 a 0 0) = _
    simp [pick, pickWith, custom2, decCustom2F2]) (decide_eq_true rfl)

theorem RoundTrip.mxtest (a : BitVec 5) (d : BitVec 5) : RoundTrip.Statement (.mxtest a d) :=
  RoundTrip.of_pick _ (by
    show pick (encZM 2 6 0 a 0 d) = _
    simp [pick, pickWith, custom2, decCustom2F2]) (decide_eq_true rfl)

theorem RoundTrip.mxas (pat : BitVec 3) (n : BitVec 1) (p : BitVec 4) (q : BitVec 4) (d : BitVec 5) : RoundTrip.Statement (.mxas pat n p q d) :=
  RoundTrip.of_pick _ (by
    show pick (encZM 3 0 pat (n ++ p) ((0 : BitVec 1) ++ q) d) = _
    simp [pick, pickWith, custom2, decCustom2F3, pickRest]) (decide_eq_true rfl)

theorem RoundTrip.mxcmp (pat : BitVec 3) (a : BitVec 5) (b : BitVec 5) (d : BitVec 5) : RoundTrip.Statement (.mxcmp pat a b d) :=
  RoundTrip.of_pick _ (by
    show pick (encZM 3 1 pat a b d) = _
    simp [pick, pickWith, custom2, decCustom2F3, pickRest]) (decide_eq_true rfl)

theorem RoundTrip.mxmchk (pat : BitVec 3) (a : BitVec 5) (b : BitVec 5) (d : BitVec 5) : RoundTrip.Statement (.mxmchk pat a b d) :=
  RoundTrip.of_pick _ (by
    show pick (encZM 3 2 pat a b d) = _
    simp [pick, pickWith, custom2, decCustom2F3, pickRest]) (decide_eq_true rfl)

theorem RoundTrip.bset (a : BitVec 5) (d : BitVec 5) : RoundTrip.Statement (.bset a d) :=
  RoundTrip.of_pick _ (by
    show pick (encZM 4 0 0 a 0 d) = _
    simp [pick, pickWith, custom2, decCustom2F4, pickRest]) (decide_eq_true rfl)

theorem RoundTrip.bget (a : BitVec 5) (d : BitVec 5) : RoundTrip.Statement (.bget a d) :=
  RoundTrip.of_pick _ (by
    show pick (encZM 4 1 0 a 0 d) = _
    simp [pick, pickWith, custom2, decCustom2F4, pickRest]) (decide_eq_true rfl)

theorem RoundTrip.tbnd (a : BitVec 5) (b : BitVec 5) : RoundTrip.Statement (.tbnd a b) :=
  RoundTrip.of_pick _ (by
    show pick (encZM 4 2 0 a b 0) = _
    simp [pick, pickWith, custom2, decCustom2F4, pickRest]) (decide_eq_true rfl)

theorem RoundTrip.tcon (rnd : BitVec 3) (a : BitVec 5) (b : BitVec 5) : RoundTrip.Statement (.tcon rnd a b) :=
  RoundTrip.of_pick _ (by
    show pick (encZM 4 3 rnd a b 0) = _
    simp [pick, pickWith, custom2, decCustom2F4, pickRest]) (decide_eq_true rfl)

theorem RoundTrip.twalk (a : BitVec 5) (b : BitVec 5) : RoundTrip.Statement (.twalk a b) :=
  RoundTrip.of_pick _ (by
    show pick (encZM 4 4 0 a b 0) = _
    simp [pick, pickWith, custom2, decCustom2F4, pickRest]) (decide_eq_true rfl)

theorem RoundTrip.tstat (d : BitVec 5) : RoundTrip.Statement (.tstat d) :=
  RoundTrip.of_pick _ (by
    show pick (encZM 4 5 0 0 0 d) = _
    simp [pick, pickWith, custom2, decCustom2F4, pickRest]) (decide_eq_true rfl)

theorem RoundTrip.copy (rnd : BitVec 3) (a : BitVec 5) (b : BitVec 5) (d : BitVec 5) : RoundTrip.Statement (.copy rnd a b d) :=
  RoundTrip.of_pick _ (by
    show pick (encZM 5 0 rnd a b d) = _
    simp [pick, pickWith, custom2, decCustom2F5, pickRest]) (decide_eq_true rfl)

theorem RoundTrip.ctile (rnd : BitVec 3) (a : BitVec 5) (b : BitVec 5) (d : BitVec 5) : RoundTrip.Statement (.ctile rnd a b d) :=
  RoundTrip.of_pick _ (by
    show pick (encZM 5 1 rnd a b d) = _
    simp [pick, pickWith, custom2, decCustom2F5, pickRest]) (decide_eq_true rfl)

theorem RoundTrip.sealB (d : BitVec 5) : RoundTrip.Statement (.sealB d) :=
  RoundTrip.of_pick _ (by
    show pick (encZM 5 2 0 0 0 d) = _
    simp [pick, pickWith, custom2, decCustom2F5, pickRest]) (decide_eq_true rfl)

theorem RoundTrip.waitb (a : BitVec 5) : RoundTrip.Statement (.waitb a) :=
  RoundTrip.of_pick _ (by
    show pick (encZM 5 3 0 a 0 0) = _
    simp [pick, pickWith, custom2, decCustom2F5, pickRest]) (decide_eq_true rfl)

theorem RoundTrip.testb (a : BitVec 5) (d : BitVec 5) : RoundTrip.Statement (.testb a d) :=
  RoundTrip.of_pick _ (by
    show pick (encZM 5 4 0 a 0 d) = _
    simp [pick, pickWith, custom2, decCustom2F5, pickRest]) (decide_eq_true rfl)

theorem RoundTrip.cstage (d : BitVec 5) : RoundTrip.Statement (.cstage d) :=
  RoundTrip.of_pick _ (by
    show pick (encZM 5 5 0 0 0 d) = _
    simp [pick, pickWith, custom2, decCustom2F5, pickRest]) (decide_eq_true rfl)

theorem RoundTrip.rcfg (eb2 : BitVec 1) (eb1 : BitVec 1) (b : BitVec 5) (a : BitVec 5) (d : BitVec 5) : RoundTrip.Statement (.rcfg eb2 eb1 b a d) :=
  RoundTrip.of_pick _ (by
    show pick (encZR custom2 6 0 eb2 eb1 b a d) = _
    simp [pick, pickWith, custom2, decCustom2F6, pickRest]) (decide_eq_true rfl)

theorem RoundTrip.rfree (d : BitVec 5) : RoundTrip.Statement (.rfree d) :=
  RoundTrip.of_pick _ (by
    show pick (encZR custom2 6 1 0 0 0 0 d) = _
    simp [pick, pickWith, custom2, decCustom2F6, pickRest]) (decide_eq_true rfl)

theorem RoundTrip.rpop (a : BitVec 5) (d : BitVec 5) : RoundTrip.Statement (.rpop a d) :=
  RoundTrip.of_pick _ (by
    show pick (encZR custom2 6 2 0 0 0 a d) = _
    simp [pick, pickWith, custom2, decCustom2F6, pickRest]) (decide_eq_true rfl)

theorem RoundTrip.rpush (d : BitVec 5) : RoundTrip.Statement (.rpush d) :=
  RoundTrip.of_pick _ (by
    show pick (encZR custom2 6 3 0 0 0 0 d) = _
    simp [pick, pickWith, custom2, decCustom2F6, pickRest]) (decide_eq_true rfl)

theorem RoundTrip.rstatRing (a : BitVec 5) (d : BitVec 5) : RoundTrip.Statement (.rstatRing a d) :=
  RoundTrip.of_pick _ (by
    show pick (encZR custom2 6 4 0 0 0 a d) = _
    simp [pick, pickWith, custom2, decCustom2F6, pickRest]) (decide_eq_true rfl)

theorem RoundTrip.subs (eb2 : BitVec 1) (eb1 : BitVec 1) (b : BitVec 5) (a : BitVec 5) (d : BitVec 5) : RoundTrip.Statement (.subs eb2 eb1 b a d) :=
  RoundTrip.of_pick _ (by
    show pick (encZR custom2 6 5 eb2 eb1 b a d) = _
    simp [pick, pickWith, custom2, decCustom2F6, pickRest]) (decide_eq_true rfl)

theorem RoundTrip.unsubs (d : BitVec 5) : RoundTrip.Statement (.unsubs d) :=
  RoundTrip.of_pick _ (by
    show pick (encZR custom2 6 6 0 0 0 0 d) = _
    simp [pick, pickWith, custom2, decCustom2F6, pickRest]) (decide_eq_true rfl)

theorem RoundTrip.drain (eb1 : BitVec 1) (a : BitVec 5) (d : BitVec 5) : RoundTrip.Statement (.drain eb1 a d) :=
  RoundTrip.of_pick _ (by
    show pick (encZR custom2 6 7 0 eb1 0 a d) = _
    simp [pick, pickWith, custom2, decCustom2F6, pickRest]) (decide_eq_true rfl)

theorem RoundTrip.registerLanding (k : Nat) (h : Bool) (reg : Nat) : RoundTrip.Statement (.registerLanding k h reg) :=
  RoundTrip.of_event _ rfl

theorem RoundTrip.repeatInstanceIssue (k : Nat) : RoundTrip.Statement (.repeatInstanceIssue k) :=
  RoundTrip.of_event _ rfl

theorem RoundTrip.streamPrefetch (k : Nat) (port : Nat) : RoundTrip.Statement (.streamPrefetch k port) :=
  RoundTrip.of_event _ rfl

theorem RoundTrip.streamPushPerformed (k : Nat) (port : Nat) : RoundTrip.Statement (.streamPushPerformed k port) :=
  RoundTrip.of_event _ rfl

theorem RoundTrip.messageValidation (id : Nat) : RoundTrip.Statement (.messageValidation id) :=
  RoundTrip.of_event _ rfl

theorem RoundTrip.messagePlacement (id : Nat) : RoundTrip.Statement (.messagePlacement id) :=
  RoundTrip.of_event _ rfl

theorem RoundTrip.errorReplyArrival (id : Nat) : RoundTrip.Statement (.errorReplyArrival id) :=
  RoundTrip.of_event _ rfl

theorem RoundTrip.impreciseCauseRaise (k : Nat) (h : Bool) : RoundTrip.Statement (.impreciseCauseRaise k h) :=
  RoundTrip.of_event _ rfl

theorem RoundTrip.firingStart (k : Nat) : RoundTrip.Statement (.firingStart k) :=
  RoundTrip.of_event _ rfl

theorem RoundTrip.hFiringStart (k : Nat) : RoundTrip.Statement (.hFiringStart k) :=
  RoundTrip.of_event _ rfl

theorem RoundTrip.serviceRequest (id : Nat) : RoundTrip.Statement (.serviceRequest id) :=
  RoundTrip.of_event _ rfl

theorem RoundTrip.serviceReplyArrival (id : Nat) : RoundTrip.Statement (.serviceReplyArrival id) :=
  RoundTrip.of_event _ rfl

theorem RoundTrip.engineWake (k : Nat) (h : Bool) : RoundTrip.Statement (.engineWake k h) :=
  RoundTrip.of_event _ rfl

theorem RoundTrip.atomicEngineServe (cl : Nat) : RoundTrip.Statement (.atomicEngineServe cl) :=
  RoundTrip.of_event _ rfl

theorem RoundTrip.leaseGrant (cl : Nat) (line : Nat) (grant : Bool) : RoundTrip.Statement (.leaseGrant cl line grant) :=
  RoundTrip.of_event _ rfl

theorem RoundTrip.leaseEviction (cl : Nat) : RoundTrip.Statement (.leaseEviction cl) :=
  RoundTrip.of_event _ rfl

theorem RoundTrip.leaseRecall (line : Nat) : RoundTrip.Statement (.leaseRecall line) :=
  RoundTrip.of_event _ rfl

theorem RoundTrip.queueRowPerformed (id : Nat) : RoundTrip.Statement (.queueRowPerformed id) :=
  RoundTrip.of_event _ rfl

theorem RoundTrip.barrierWake (k : Nat) (h : Bool) : RoundTrip.Statement (.barrierWake k h) :=
  RoundTrip.of_event _ rfl

theorem RoundTrip.commandAcceptance (cl : Nat) : RoundTrip.Statement (.commandAcceptance cl) :=
  RoundTrip.of_event _ rfl

theorem RoundTrip.copyCompletion (cl : Nat) (id : Nat) (err : Nat) : RoundTrip.Statement (.copyCompletion cl id err) :=
  RoundTrip.of_event _ rfl

theorem RoundTrip.batchCompletion (k : Nat) : RoundTrip.Statement (.batchCompletion k) :=
  RoundTrip.of_event _ rfl

theorem RoundTrip.scoreboardRetire (cl : Nat) (id : Nat) : RoundTrip.Statement (.scoreboardRetire cl id) :=
  RoundTrip.of_event _ rfl

theorem RoundTrip.springTile (cl : Nat) (rg : Nat) : RoundTrip.Statement (.springTile cl rg) :=
  RoundTrip.of_event _ rfl

theorem RoundTrip.outletTile (cl : Nat) (rg : Nat) : RoundTrip.Statement (.outletTile cl rg) :=
  RoundTrip.of_event _ rfl

theorem RoundTrip.engineCommandArrival (cl : Nat) : RoundTrip.Statement (.engineCommandArrival cl) :=
  RoundTrip.of_event _ rfl

theorem RoundTrip.matrixStepStart (cl : Nat) : RoundTrip.Statement (.matrixStepStart cl) :=
  RoundTrip.of_event _ rfl

theorem RoundTrip.matrixStepRetire (cl : Nat) (err : Nat) : RoundTrip.Statement (.matrixStepRetire cl err) :=
  RoundTrip.of_event _ rfl

theorem RoundTrip.engineSelfTest (cl : Nat) (ok : Bool) : RoundTrip.Statement (.engineSelfTest cl ok) :=
  RoundTrip.of_event _ rfl

theorem RoundTrip.mxzPerformed (cl : Nat) (acc : Nat) : RoundTrip.Statement (.mxzPerformed cl acc) :=
  RoundTrip.of_event _ rfl

theorem RoundTrip.mxrdPerformed (cl : Nat) (acc : Nat) (err : Nat) : RoundTrip.Statement (.mxrdPerformed cl acc err) :=
  RoundTrip.of_event _ rfl

theorem RoundTrip.mxwrPerformed (cl : Nat) (acc : Nat) : RoundTrip.Statement (.mxwrPerformed cl acc) :=
  RoundTrip.of_event _ rfl

theorem RoundTrip.vaccPerformed (cl : Nat) (acc : Nat) (err : Nat) : RoundTrip.Statement (.vaccPerformed cl acc err) :=
  RoundTrip.of_event _ rfl

theorem RoundTrip.syncMarkerComplete (cl : Nat) (id : Nat) : RoundTrip.Statement (.syncMarkerComplete cl id) :=
  RoundTrip.of_event _ rfl

theorem RoundTrip.mxcmpRetire (cl : Nat) : RoundTrip.Statement (.mxcmpRetire cl) :=
  RoundTrip.of_event _ rfl

theorem RoundTrip.chainStepStart (cl : Nat) : RoundTrip.Statement (.chainStepStart cl) :=
  RoundTrip.of_event _ rfl

theorem RoundTrip.chainStepRetire (cl : Nat) (err : Nat) : RoundTrip.Statement (.chainStepRetire cl err) :=
  RoundTrip.of_event _ rfl

theorem RoundTrip.tlbWalk (cl : Nat) (job : Nat) (va : BitVec 64) : RoundTrip.Statement (.tlbWalk cl job va) :=
  RoundTrip.of_event _ rfl

theorem RoundTrip.tlbInvalidationApply (id : Nat) : RoundTrip.Statement (.tlbInvalidationApply id) :=
  RoundTrip.of_event _ rfl

theorem RoundTrip.csrPropagation (p : Nat) : RoundTrip.Statement (.csrPropagation p) :=
  RoundTrip.of_event _ rfl

theorem RoundTrip.workQueueAcceptance : RoundTrip.Statement (.workQueueAcceptance) :=
  RoundTrip.of_event _ rfl

theorem RoundTrip.readyQueueHandover (g : Nat) : RoundTrip.Statement (.readyQueueHandover g) :=
  RoundTrip.of_event _ rfl

theorem RoundTrip.stealRequest (p : Nat) (v : Nat) : RoundTrip.Statement (.stealRequest p v) :=
  RoundTrip.of_event _ rfl

theorem RoundTrip.stealAnswer (p : Nat) (v : Nat) (thief : Nat) : RoundTrip.Statement (.stealAnswer p v thief) :=
  RoundTrip.of_event _ rfl

theorem RoundTrip.groupPlacement (p : Nat) (v : Nat) : RoundTrip.Statement (.groupPlacement p v) :=
  RoundTrip.of_event _ rfl

theorem RoundTrip.groupBlocksQueue (g : Nat) : RoundTrip.Statement (.groupBlocksQueue g) :=
  RoundTrip.of_event _ rfl

theorem RoundTrip.preemptionTrigger (g : Nat) : RoundTrip.Statement (.preemptionTrigger g) :=
  RoundTrip.of_event _ rfl

theorem RoundTrip.groupPreemption (g : Nat) : RoundTrip.Statement (.groupPreemption g) :=
  RoundTrip.of_event _ rfl

theorem RoundTrip.groupResume (g : Nat) : RoundTrip.Statement (.groupResume g) :=
  RoundTrip.of_event _ rfl

theorem RoundTrip.groupCompletion (g : Nat) : RoundTrip.Statement (.groupCompletion g) :=
  RoundTrip.of_event _ rfl

theorem RoundTrip.launchTimeout (l : Nat) : RoundTrip.Statement (.launchTimeout l) :=
  RoundTrip.of_event _ rfl

theorem RoundTrip.groupKill (g : Nat) (c : Cause) (tv : BitVec 64) : RoundTrip.Statement (.groupKill g c tv) :=
  RoundTrip.of_event _ rfl

theorem RoundTrip.graphLoad (qn : Nat) (w0 : BitVec 64) (w1 : BitVec 64) : RoundTrip.Statement (.graphLoad qn w0 w1) :=
  RoundTrip.of_event _ rfl

theorem RoundTrip.graphRun (qn : Nat) (w0 : BitVec 64) (w4 : BitVec 64) (w5 : BitVec 64) : RoundTrip.Statement (.graphRun qn w0 w4 w5) :=
  RoundTrip.of_event _ rfl

theorem RoundTrip.graphUnload (qn : Nat) (w0 : BitVec 64) : RoundTrip.Statement (.graphUnload qn w0) :=
  RoundTrip.of_event _ rfl

theorem RoundTrip.graphNodeStart (p : Nat) (job : Nat) (gid : Nat) (node : Nat) : RoundTrip.Statement (.graphNodeStart p job gid node) :=
  RoundTrip.of_event _ rfl

theorem RoundTrip.faultDelivery (k : Nat) : RoundTrip.Statement (.faultDelivery k) :=
  RoundTrip.of_event _ rfl

theorem RoundTrip.park (k : Nat) : RoundTrip.Statement (.park k) :=
  RoundTrip.of_event _ rfl

theorem RoundTrip.parkedFiringResume (k : Nat) (src : Nat) (slot : Nat) : RoundTrip.Statement (.parkedFiringResume k src slot) :=
  RoundTrip.of_event _ rfl

theorem RoundTrip.completionIntoFrame (id : Nat) : RoundTrip.Statement (.completionIntoFrame id) :=
  RoundTrip.of_event _ rfl

theorem RoundTrip.quarantine (k : Nat) (site : Nat) (reg : Nat) (second : Bool) : RoundTrip.Statement (.quarantine k site reg second) :=
  RoundTrip.of_event _ rfl

theorem RoundTrip.watchdogExpiry (k : Nat) (h : Bool) : RoundTrip.Statement (.watchdogExpiry k h) :=
  RoundTrip.of_event _ rfl

theorem RoundTrip.wfmTimeout (k : Nat) (h : Bool) : RoundTrip.Statement (.wfmTimeout k h) :=
  RoundTrip.of_event _ rfl

theorem RoundTrip.crossDieDeadline (id : Nat) : RoundTrip.Statement (.crossDieDeadline id) :=
  RoundTrip.of_event _ rfl

theorem RoundTrip.virtualDieRemap (p : Nat) (v : Nat) (sk : Nat) : RoundTrip.Statement (.virtualDieRemap p v sk) :=
  RoundTrip.of_event _ rfl

theorem RoundTrip.dieFaultOffline (sk : Nat) : RoundTrip.Statement (.dieFaultOffline sk) :=
  RoundTrip.of_event _ rfl

theorem RoundTrip.dieOnline (sk : Nat) : RoundTrip.Statement (.dieOnline sk) :=
  RoundTrip.of_event _ rfl

theorem RoundTrip.frequencyStepStop (sk : Nat) : RoundTrip.Statement (.frequencyStepStop sk) :=
  RoundTrip.of_event _ rfl

theorem RoundTrip.frequencyStepRestart (sk : Nat) : RoundTrip.Statement (.frequencyStepRestart sk) :=
  RoundTrip.of_event _ rfl

theorem RoundTrip.fabricPacketArrival (pkt : List (BitVec 64)) : RoundTrip.Statement (.fabricPacketArrival pkt) :=
  RoundTrip.of_event _ rfl

theorem RoundTrip.invocationArrival (id : Nat) : RoundTrip.Statement (.invocationArrival id) :=
  RoundTrip.of_event _ rfl

theorem RoundTrip.remoteAccessArrival (id : Nat) : RoundTrip.Statement (.remoteAccessArrival id) :=
  RoundTrip.of_event _ rfl

theorem RoundTrip.acknowledgementArrival (id : Nat) (code : Nat) (data : List (BitVec 8)) : RoundTrip.Statement (.acknowledgementArrival id code data) :=
  RoundTrip.of_event _ rfl

theorem RoundTrip.invocationReplyArrival (id : Nat) : RoundTrip.Statement (.invocationReplyArrival id) :=
  RoundTrip.of_event _ rfl

theorem RoundTrip.invocationReplyTimeout (id : Nat) : RoundTrip.Statement (.invocationReplyTimeout id) :=
  RoundTrip.of_event _ rfl

theorem RoundTrip.fabricResend (id : Nat) : RoundTrip.Statement (.fabricResend id) :=
  RoundTrip.of_event _ rfl

theorem RoundTrip.fabricGiveUp (id : Nat) : RoundTrip.Statement (.fabricGiveUp id) :=
  RoundTrip.of_event _ rfl

theorem RoundTrip.linkFailure (link : Nat) : RoundTrip.Statement (.linkFailure link) :=
  RoundTrip.of_event _ rfl

theorem RoundTrip.domainTableUpdate (p : Nat) : RoundTrip.Statement (.domainTableUpdate p) :=
  RoundTrip.of_event _ rfl

theorem RoundTrip.hostCxlMemAccess (write : Bool) (pa : Nat) (data : List (BitVec 8)) : RoundTrip.Statement (.hostCxlMemAccess write pa data) :=
  RoundTrip.of_event _ rfl

theorem RoundTrip.doorbellWrite (qn : Nat) (v : BitVec 64) : RoundTrip.Statement (.doorbellWrite qn v) :=
  RoundTrip.of_event _ rfl

theorem RoundTrip.qcfgWrite (qn : Nat) (v : BitVec 64) : RoundTrip.Statement (.qcfgWrite qn v) :=
  RoundTrip.of_event _ rfl

theorem RoundTrip.qerrClear (qn : Nat) (v : BitVec 64) : RoundTrip.Statement (.qerrClear qn v) :=
  RoundTrip.of_event _ rfl

theorem RoundTrip.icfg0Write (p : Nat) (v : BitVec 64) : RoundTrip.Statement (.icfg0Write p v) :=
  RoundTrip.of_event _ rfl

theorem RoundTrip.ntqconsWrite (p : Nat) (v : BitVec 64) : RoundTrip.Statement (.ntqconsWrite p v) :=
  RoundTrip.of_event _ rfl

theorem RoundTrip.pageReady (p : Nat) : RoundTrip.Statement (.pageReady p) :=
  RoundTrip.of_event _ rfl

theorem RoundTrip.growAllotment (p : Nat) : RoundTrip.Statement (.growAllotment p) :=
  RoundTrip.of_event _ rfl

theorem RoundTrip.frequencyStep (p : Nat) : RoundTrip.Statement (.frequencyStep p) :=
  RoundTrip.of_event _ rfl

theorem RoundTrip.dieOffline (p : Nat) : RoundTrip.Statement (.dieOffline p) :=
  RoundTrip.of_event _ rfl

theorem RoundTrip.partitionSwitch (p : Nat) : RoundTrip.Statement (.partitionSwitch p) :=
  RoundTrip.of_event _ rfl

theorem RoundTrip.attestationReport : RoundTrip.Statement (.attestationReport) :=
  RoundTrip.of_event _ rfl

theorem RoundTrip.powerCapWrite (v : BitVec 64) : RoundTrip.Statement (.powerCapWrite v) :=
  RoundTrip.of_event _ rfl

theorem RoundTrip.registerWrite (off : Nat) (v : BitVec 64) : RoundTrip.Statement (.registerWrite off v) :=
  RoundTrip.of_event _ rfl

theorem RoundTrip.debugAttach (page : Nat) : RoundTrip.Statement (.debugAttach page) :=
  RoundTrip.of_event _ rfl

theorem RoundTrip.debugDetach (page : Nat) : RoundTrip.Statement (.debugDetach page) :=
  RoundTrip.of_event _ rfl

theorem RoundTrip.debugHalt (page : Nat) : RoundTrip.Statement (.debugHalt page) :=
  RoundTrip.of_event _ rfl

theorem RoundTrip.debugRun (page : Nat) : RoundTrip.Statement (.debugRun page) :=
  RoundTrip.of_event _ rfl

theorem RoundTrip.singleStep (page : Nat) : RoundTrip.Statement (.singleStep page) :=
  RoundTrip.of_event _ rfl

theorem RoundTrip.stepAbandon (page : Nat) : RoundTrip.Statement (.stepAbandon page) :=
  RoundTrip.of_event _ rfl

theorem RoundTrip.powerOnBoot (okA : Bool) (okB : Bool) (ident : Bool) (bad : List Nat) : RoundTrip.Statement (.powerOnBoot okA okB ident bad) :=
  RoundTrip.of_event _ rfl

theorem RoundTrip.standbyEntry : RoundTrip.Statement (.standbyEntry) :=
  RoundTrip.of_event _ rfl

theorem RoundTrip.standbyExit : RoundTrip.Statement (.standbyExit) :=
  RoundTrip.of_event _ rfl

theorem RoundTrip.ioDieFailover : RoundTrip.Statement (.ioDieFailover) :=
  RoundTrip.of_event _ rfl

theorem RoundTrip.hbmScrub (stack : Nat) (lines : List Nat) : RoundTrip.Statement (.hbmScrub stack lines) :=
  RoundTrip.of_event _ rfl

theorem RoundTrip.instructionWordFault (c : Cause) (tv : BitVec 64) : RoundTrip.Statement (.instructionWordFault c tv) :=
  RoundTrip.of_event _ rfl

theorem RoundTrip.homeWriteAcknowledgement (k : Nat) (id : Nat) : RoundTrip.Statement (.homeWriteAcknowledgement k id) :=
  RoundTrip.of_event _ rfl

theorem RoundTrip.partitionCreation (p : Nat) (quads : List Nat) : RoundTrip.Statement (.partitionCreation p quads) :=
  RoundTrip.of_event _ rfl

theorem RoundTrip.firmwareFrequencyStep (sk : Nat) (mult : Nat) : RoundTrip.Statement (.firmwareFrequencyStep sk mult) :=
  RoundTrip.of_event _ rfl

theorem RoundTrip.powerOff : RoundTrip.Statement (.powerOff) :=
  RoundTrip.of_event _ rfl

theorem RoundTrip.firmwareImageUpdate (image : List (BitVec 8)) : RoundTrip.Statement (.firmwareImageUpdate image) :=
  RoundTrip.of_event _ rfl

end Sys2Proof.Laws
end

