-- ==== Sys2Proof/Tests/Slice0.lean ====
section
/-! SUPPORT. Tests: every check of WellFormed refuses an ill-formed term; words written out from the encodings of the spec decode to their
instructions; single steps give the results that the spec's tables and examples give; and for each statement with hypotheses a state and
operands that meet them. -/

namespace Sys2Proof.Tests

open Sys2Proof.Machine Sys2Proof.Claims

set_option Elab.async false
set_option maxRecDepth 100000

/-! Ill-formed terms, one for each check (R34, R36, R40, R42). -/

theorem test_pattern_refused : Instr.check (.mxas 6 0 0 0 1) = some .sparsePatternUnsupported := by decide
theorem test_rounding_refused : Instr.check (.copy 2 5 7 6) = some .reservedRounding := by decide
theorem test_rounding_float_refused : Instr.check (.faddS 1 2 5 3) = some .reservedRounding := by decide
theorem test_csr_refused : Instr.check (.csrrw 0x8C2 1 2) = some .reservedField := by decide
theorem test_stream_field_refused : Instr.check (.scfgw 8 1 0) = some .reservedField := by decide
theorem test_port_refused : Instr.check (.sfree 4) = some .reservedField := by decide
theorem test_vector_field_refused : Instr.check (.vld 0 5 16) = some .reservedField := by decide
theorem test_predicate_field_refused : Instr.check (.vceq 0 0 0 1 2 2 0) = some .reservedField := by decide
theorem test_accumulator_field_refused : Instr.check (.mxz 2 0) = some .reservedField := by decide
theorem test_bond_field_refused : Instr.check (.bset 1 16) = some .reservedField := by decide
theorem test_format_field_refused : Instr.check (.psetf 0x0D 0 6 5) = some .reservedField := by decide
theorem test_aperture_field_refused : Instr.check (.aperw 0x50 1) = some .reservedField := by decide

/-! Words of the base set and of F, bit by bit from R31 and the standard formats, then the words that the spec works out. -/

theorem test_word_addi : decode 0x00500093 = .ok (.addi 5 0 1) := by decide
theorem test_word_add : decode 0x002081B3 = .ok (.add 2 1 3) := by decide
theorem test_word_lui : decode 0x123452B7 = .ok (.lui 0x12345 5) := by decide
theorem test_word_ld : decode 0x0081B283 = .ok (.ld 8 3 5) := by decide
theorem test_word_sd : decode 0xFE51BC23 = .ok (.sd 0xFF8 5 3) := by decide
theorem test_word_jal : decode 0x008000EF = .ok (.jal 4 1) := by decide
theorem test_word_beq : decode 0xFE208EE3 = .ok (.beq 0xFFE 2 1) := by decide
theorem test_word_mul : decode 0x022081B3 = .ok (.mul 2 1 3) := by decide
theorem test_word_csrrw : decode 0x003111F3 = .ok (.csrrw 3 2 3) := by decide
theorem test_word_ecall : decode 0x00000073 = .ok .ecall := by decide
theorem test_word_amoadd : decode 0x0020A1AF = .ok (.amoaddW 0 0 2 1 3) := by decide
theorem test_word_fadd : decode 0x002081D3 = .ok (.faddS 2 1 0 3) := by decide
theorem test_word_fmadd : decode 0x202081C3 = .ok (.fmaddS 4 2 1 0 3) := by decide
theorem test_word_cvt : decode 0x0221125B = .ok (.cvt 1 2 2 4) := by decide
theorem test_word_vceq : decode 0x7010412B = .ok (.vceq 0 0 0 4 1 0 2) := by decide
theorem test_word_sbind : decode 0x1020800B = .ok (.sbind 2 1 0) := by decide
theorem test_word_rpti : decode 0x3801800B = .ok (.rpti 0 3 0) ∧ decode 0x381F808B = .ok (.rpti 1 31 1) := by decide
theorem test_word_order : decode 0x1893228B = .ok (.ldAcq 0 0 9 6 5) ∧ decode 0x3004238B = .ok (.barr 0 8 7) := by decide
theorem test_word_queue : decode 0x2863B28B = .ok (.qpush 0 0 6 7 5) ∧ decode 0x3803B40B = .ok (.qpop 0 7 8) := by decide
theorem test_word_rings : decode 0x0062E1DB = .ok (.rcfg 0 0 6 5 3) := by decide
theorem test_word_rpop : decode 0x100163DB = .ok (.rpop 2 7) := by decide
theorem test_word_system : decode 0x2800600B = .ok .wfm ∧ decode 0x3000600B = .ok .dhalt ∧ decode 0x1800528B = .ok (.rdref 5) := by decide
theorem test_word_pointers : decode 0x0242F30B = .ok (.psetf 0x02 0 5 6) ∧ decode 0xF023738B = .ok (.paddi 0xF0 0 6 7) := by decide
/-- A register field of RCFG above 15 is reserved (R34). -/
theorem test_word_refused : decode 0x0062E9DB = .error .reservedField := by decide
/-- bits 1:0 other than 0b11 are no instruction (R30). -/
theorem test_word_short : decode 0x00500090 = .error .illegalOpcode := by decide
theorem test_table_word : decodeTableWord 32 0x00500093 = some (.addi 5 0 1) := by decide

/-! The state that the single steps and the witnesses start from. -/

/-- A user launch firing on core 0 whose next word is ADDI x1, x0, 5, with a scratch allotment of one unit (notes/assumptions/22.md). -/
def base : State := State.reset.withFetchWord 32 0x00500093
/-- Its own-cluster window, private data and a place of mapped device memory. -/
def own : Word := 0xFFFFE0000000
def data : Word := 0xFFFFF0000E00
def glob : Word := 0x4000

/-- The state with an x register set. -/
def xset (s : State) (r : Nat) (v : Word) : State := s.modCtx fun x => { x with x := Tab.set x.x r v }
/-- The state with an f register set. -/
def fset (s : State) (r : Nat) (v : Word) : State := s.modCtx fun x => { x with f := Tab.set x.f r v }
/-- The state with its running firing changed. -/
def firing (s : State) (f : Firing → Firing) : State := s.modCtx fun x => { x with fir := f x.fir }
/-- A supervisor handler firing and a user handler firing. -/
def sup : State := firing base fun f => { f with sup := true, kind := 1 }
def hand : State := firing base fun f => { f with kind := 1 }
/-- An H firing over the L firing. -/
def high : State := base.modCore 0 fun c => { c with h := { c.l with fir := { c.l.fir with kind := 1 } } }
/-- A property of the state that an outcome goes on in. -/
def after (o : Host.Outcome State Fault Refusal) (p : State → Bool) : Bool :=
  match o with
  | .next t => p t
  | _ => false

/-- A state without streams, empty registers and producers has every register ready. -/
theorem ready_of {s : State} (h1 : s.ls.ports = []) (h2 : s.ctx.empty = []) (h3 : s.ctx.pend = []) (srcs dsts : List Nat) : Ready s srcs dsts :=
  ⟨fun _ _ => .inr ⟨by simp [State.portOf, h1], by simp [h2]⟩, fun _ _ => .inr ⟨by simp [State.portOf, h1], by simp [h3]⟩⟩
/-- The same of a core whose L context, or H context, is in play. -/
theorem ready_x {s : State} (h2 : s.ctx.empty = []) (h3 : s.ctx.pend = []) (srcs dsts : List (BitVec 5)) : Ready s (srcs.map xr) (dsts.map xr) := by
  have hx : ∀ r : BitVec 5, s.portOf (xr r / 256) (xr r % 256) = none := fun r => by
    have : xr r / 256 = 0 := Nat.div_eq_of_lt (by unfold xr; omega)
    rw [this]; exact Laws.portOf_x _ _
  refine ⟨fun r hr => ?_, fun r hr => ?_⟩ <;> obtain ⟨q, _, rfl⟩ := List.mem_map.1 hr
  · exact .inr ⟨hx q, by simp [h2]⟩
  · exact .inr ⟨hx q, by simp [h3]⟩

theorem base_ready (srcs dsts : List Nat) : Ready base srcs dsts := ready_of (by decide) (by decide) (by decide) srcs dsts

/-- The step of a word placed where the next step fetches: ADDI x1, x0, 5 runs and the pc goes on. -/
theorem test_step_addi : after (step base) (fun t => X t 1 == 5 && (t.coreAt 0).l.pc == 0x100004 && (t.coreAt 0).instret == 1) = true := by decide
/-- An illegal word takes ILLEGAL_OPCODE, and with no fault handler registered the group is killed (R42, R314). -/
theorem test_step_illegal : after (step (State.reset.withFetchWord 32 0)) (fun t => (t.groupAt 1).st == 5) = true := by decide

/-! Witnesses: the integer, float, load and store statements. -/

/-- IntegerArithmetic: every register ready; x0 as destination; the division corners. -/
theorem witness_IntegerArithmetic : Ready base [xr 31, xr 1] [xr 0] ∧ Ready base [xr 0] [xr 31]
    ∧ X (xset base 1 (BitVec.intMin 64)) 1 = BitVec.intMin 64 ∧ X (xset base 2 (-1)) 2 = -1 ∧ X base 2 = 0 :=
  ⟨base_ready _ _, base_ready _ _, by decide, by decide, by decide⟩

/-- JumpForms: a target whose bit 1 is clear and one whose bit 1 is set, a condition that holds and one that does not. -/
theorem witness_JumpForms : Ready base [xr 1, xr 2] [xr 0] ∧ (base.ctx.pc + ((4 : BitVec 20) ++ (0 : BitVec 1)).signExtend 64).getLsbD 1 = false
    ∧ (base.ctx.pc + ((1 : BitVec 20) ++ (0 : BitVec 1)).signExtend 64).getLsbD 1 = true
    ∧ ((X (xset base 1 6) 1 + (0 : BitVec 12).signExtend 64) &&& 0x00FFFFFFFFFFFFFE).getLsbD 1 = true ∧ X base 1 = X base 2 ∧ X (xset base 1 6) 1 ≠ X base 2 :=
  ⟨base_ready _ _, by decide, by decide, by decide, by decide, by decide⟩

/-- FloatArithmetic, FloatPlain: a rounding mode from rm, one from frm, none; L and H contexts; a landing. -/
theorem witness_FloatArithmetic : Idle base ∧ Rounding base 0 = some .rne ∧ Rounding base 7 = some .rne ∧ Rounding base 5 = none
    ∧ Rounding (base.modCtx fun x => { x with fcsr := 0xA0 }) 7 = none ∧ Named base [31] ∧ Ready base [fr 31, fr 1] [fr 0]
    ∧ Idle high ∧ Named high [7] ∧ high.me.inH = true := by
  refine ⟨by unfold Idle; decide, by decide, by decide, by decide, by decide, fun h => absurd h (by decide), base_ready _ _, by unfold Idle; decide,
    fun _ r hr => ?_, by decide⟩
  simp only [List.mem_singleton] at hr
  subst hr
  decide
/-- FloatDivideLater: a producer of f3 that has its value lands. -/
theorem witness_FloatDivideLater :
    ((base.modCtx fun x => { x with pend := [{ id := 9, reg := fr 3, val := 5, fl := 1, div := true }], empty := [fr 3] }).coreAt 0 |>.ctxAt false).pend.find?
      (fun p => p.reg == fr 3 && p.wait == 0) = some { id := 9, reg := fr 3, val := 5, fl := 1, div := true } := by decide
/-- FloatConversions, FloatNan: a NaN, an infinity, a value. -/
theorem witness_FloatPlain : fp32.decode 0x7FC00000 = .nan false ∧ fp32.decode 0xFF800000 = .inf true ∧ (∃ m e, fp32.decode 0x3F800000 = .fin false m e)
    ∧ fp32.decode (fp32.fadd .rne 0x7F800000 0xFF800000).1 = .nan false ∧ ∀ q, fp32.decode 0x3F800000 ≠ .nan q := by
  refine ⟨by decide, by decide, ⟨_, _, rfl⟩, by decide, fun q => by cases q <;> decide⟩

/-- What a computation that completes answers, as a check. -/
def gives {α : Type} (r : Except Cause α) (p : α → Bool) : Bool :=
  match r with
  | .ok a => p a
  | .error _ => false
theorem of_gives {α : Type} [DecidableEq α] {r : Except Cause α} {a : α} (h : gives r (fun b => decide (b = a)) = true) : r = .ok a := by
  cases r with
  | error e => cases h
  | ok b => exact congrArg Except.ok (of_decide_eq_true h)
/-- An access to a place without translation passes the checks. -/
theorem reached_at {s : State} {p : Word} {n : Nat} {k : AKind} {l : Loc}
    (h : gives (s.reach s.org p n k) (fun b => decide (b = ({ spot := .flat l }, s))) = true) : Reached s p n k (.flat l) s := ⟨false, of_gives h⟩
/-- What an access that passes its checks reaches. -/
theorem reached_of {s : State} {p : Word} {n : Nat} {k : AKind} {sp : Spot}
    (h : (match s.reach s.org p n k with | .ok r => r.1.spot == sp | .error _ => false) = true) : ∃ s1, Reached s p n k sp s1 := by
  cases hr : s.reach s.org p n k with
  | error e => simp [hr] at h
  | ok r =>
    obtain ⟨⟨sp', c⟩, s1⟩ := r
    simp only [hr, beq_iff_eq] at h
    subst h
    exact ⟨s1, c, hr⟩

/-- base with a package 5 that the domain admits: its memory's first page is mapped at 0x40000000, and a port of the active I/O die leads there. -/
def abroad : State :=
  let s := base.writeAt (.hbm 0x12010) ([15 * 2 ^ 60 + 2 ^ 59 + 2 ^ 51 + 5 * 2 ^ 39, 2 ^ 64 - 1].flatMap (leBytes 8))
  { s.modPart 0 (fun p => { p with domain := [(5, 15 * 2 ^ 60)] }) with routes := [(routeKey 0 5, [0])], dev := { base.dev with ioUp := [true, true] } }
def far5 : Word := 0x40000040
/-- base with a second group of the job on cluster 1, which holds the first unit of its scratchpad. -/
def beside : State := { base with groups := base.groups ++ [(2, { base.groupAt 1 with cl := 1, cores := [8] })] }
/-- The outcome of a read of 8 bytes of global memory, once its pointer has passed the checks. -/
def reads (s : State) (p : Word) (p1 : Reach × State → Bool) (p2 : Fetch × State → Bool) : Bool :=
  match s.reach s.org p 8 .load with
  | .ok (r, s1) => p1 (r, s1) && !s1.blocked r.spot 8 false && p2 (s1.readGlobal s.org p r 8)
  | .error _ => false

/-- Loads, Stores: the own scratchpad at both ends of the allotment, the private data, device memory, another cluster's scratch and another
package's memory. -/
theorem witness_Loads : Unwatched base ∧ AtOnce (.scratch 0 0) ∧ AtOnce (.priv 0 0xE00) ∧ Room base ∧ Room abroad
    ∧ Reached (xset base 1 own) (X (xset base 1 own) 1 + (0 : BitVec 12).signExtend 64) 8 .load (.flat (.scratch 0 0)) (xset base 1 own)
    ∧ Reached (xset base 1 own) (X (xset base 1 own) 1 + (2047 : BitVec 12).signExtend 64) 1 .store (.flat (.scratch 0 2047)) (xset base 1 own)
    ∧ Reached (xset base 1 data) (X (xset base 1 data) 1 + (0 : BitVec 12).signExtend 64) 8 .store (.flat (.priv 0 0xE00)) (xset base 1 data)
    ∧ (xset base 1 own).blocked (.flat (.scratch 0 0)) 8 true = false
    ∧ reads base glob (fun r => r.1.spot == .flat (.hbm 0x4000)) (fun r => match r.1 with | .soon bs => bs == List.replicate 8 0 | _ => false) = true
    ∧ (∃ s1, Reached beside 0xFFFE00080000 8 .load (.far 1 0) s1) ∧ beside.dieHolds (.far 1 0) false = false ∧ beside.farBad base.org 1 0 8 = none
    ∧ reads abroad far5 (fun r => r.1.spot == .flat (.remote 5 64) && (r.2.me.l1Find 0 0 0x40000040).isNone
        && r.2.mayIssue 0 0 (r.2.endpoint abroad.org) 3 0) (fun _ => true) = true :=
  ⟨by unfold Unwatched; decide, trivial, trivial, by unfold Room; decide, by unfold Room; decide, reached_at (by decide), reached_at (by decide), reached_at (by decide),
    by decide, by decide, reached_of (by decide), by decide, by decide, by decide⟩

/-- Loads, the global read: the line it asks for is in the L1 or not. -/
theorem witness_Loads_line : glob.toNat % 2 ^ 48 % 64 + 64 ≤ 64 ∧ glob.toNat % 64 = 0x4000 % 64 ∧ base.me.l1Find 0 0 0x4000 = none
    ∧ base.poisoned (.flat (.hbm (0x4000 / 64 * 64))) 64 = false ∧ base.homeOf 0x4000 = base.org.k / 512
    ∧ ∃ x, (base.modMe fun c => { c with l1 := [{ va := 0x4000, data := List.replicate 64 7 }] }).me.l1Find 0 0 0x4000 = some x :=
  ⟨by decide, by decide, by decide, by decide, by decide, ⟨_, rfl⟩⟩

/-- Stores: a core with a store to acknowledge, alone and behind an earlier one to the same bytes. -/
def storing : State := base.modMe fun c => { c with stores :=
  [{ id := 3, parts := [.at (.hbm 64) ((List.range 2).map (byteOf 0x1234))] }, { id := 4, parts := [.at (.hbm 65) ((List.range 2).map (byteOf 5))] }] }
theorem witness_Stores : (storing.coreAt 0).stores = [] ++ { id := 3, parts := [.at (.hbm 64) ((List.range 2).map (byteOf 0x1234))] } :: [{ id := 4, parts := [.at (.hbm 65) ((List.range 2).map (byteOf 5))] }]
    ∧ (∃ y ∈ [({ id := 3, parts := [.at (.hbm 64) ((List.range 2).map (byteOf 0x1234))] } : PStore)], y.away = false
      ∧ storesMeet { id := 4, parts := [.at (.hbm 65) ((List.range 2).map (byteOf 5))] } y = true) :=
  ⟨rfl, _, List.mem_singleton.2 rfl, rfl, by decide⟩
/-- FLW and FSW at an FP32 place, at a place of tag 8 and of global memory; a tag of 9, a block log, bits 55:48, a misaligned and an unmapped address (R65). -/
theorem witness_Stores_float : (xset base 1 (2 ^ 59 + own)).reachF base.org (2 ^ 59 + own) .load = .ok ({ spot := .flat (.scratch 0 0) }, xset base 1 (2 ^ 59 + own))
    ∧ (xset base 1 own).reachF base.org (8 * 2 ^ 59 + data) .store = .ok ({ spot := .flat (.priv 0 0xE00) }, xset base 1 own)
    ∧ gives (base.reachF base.org (2 ^ 59 + glob) .store) (fun r => r.1 == { spot := .flat (.hbm 0x4000) } && !r.2.blocked r.1.spot 4 true) = true
    ∧ 9 ≤ ((9 * 2 ^ 59 : Word).extractLsb' 59 5).toNat ∧ blogOk 1 (1 : Nat) = false ∧ blogOk 1 0 = true ∧ (2 ^ 48 : Word).extractLsb' 48 8 ≠ 0
    ∧ (match base.place base.org (2 ^ 59 + 0x40000000) 4 .load with | .error c => c == .loadPageFault | .ok _ => false) = true :=
  ⟨of_gives (by decide), of_gives (by decide), by decide, by decide, by decide, by decide, by decide, by decide⟩

/-- FLW and FSW at another cluster's scratchpad and in another package. -/
theorem witness_Stores_float_away : gives (beside.reachF beside.org (2 ^ 59 + 0xFFFE00080000) .load) (fun r => r.1.spot == .far 1 0 && !r.2.blocked r.1.spot 4 false
      && !r.2.dieHolds r.1.spot false && (r.2.farBad beside.org 1 0 4).isNone) = true
    ∧ gives (beside.reachF beside.org (2 ^ 59 + 0xFFFE00080000) .store) (fun r => r.1.spot == .far 1 0 && !r.2.blocked r.1.spot 4 true) = true
    ∧ gives (abroad.reachF abroad.org (2 ^ 59 + far5) .load) (fun r => r.1.spot == .flat (.remote 5 64) && !r.2.blocked r.1.spot 4 false
      && (r.2.me.l1Find 0 0 ((2 ^ 59 + far5).toNat % 2 ^ 48)).isNone && r.2.mayIssue 0 0 (r.2.endpoint abroad.org) 3 0) = true
    ∧ gives (abroad.reachF abroad.org (2 ^ 59 + far5) .store) (fun r => r.1.spot == .flat (.remote 5 64) && !r.2.blocked r.1.spot 4 true) = true := by decide

/-- AddressChecks: a reserved tag, bits 55:48 set, a misaligned address, an address of no page; the windows' edges. -/
theorem witness_AddressChecks : base.ctx.aw = .none ∧ 13 ≤ ((13 * 2 ^ 59 : Word).extractLsb' 59 5).toNat
    ∧ ((1 * 2 ^ 48 : Word).extractLsb' 48 8 ≠ 0 ∧ ((1 * 2 ^ 48 : Word).extractLsb' 59 5).toNat < 13) ∧ (own + 7).toNat % 8 ≠ 0
    ∧ (match base.place base.org 0x40000000 8 .load with | .error c => c == .loadPageFault | .ok _ => false) = true
    ∧ (own.toNat % 2 ^ 48 = 0xFFFFE0000000 ∧ (own + 0x7FFFF).toNat % 2 ^ 48 < 0xFFFFE0080000 ∧ (own + 0x80000).toNat % 2 ^ 48 = 0xFFFFE0080000) := by
  decide
/-- PointersAndConstants: a constant that is loaded and the first that is not. -/
theorem witness_PointersAndConstants : Idle base ∧ Ready base [xr 1, xr 2] [xr 3] ∧ ((15 : BitVec 8).toNat < 16 ∧ base.me.constLen = 0)
    ∧ ¬ ((16 : BitVec 8).toNat < 16 ∨ (16 : BitVec 8).toNat - 16 < base.me.constLen) ∧ Idle high ∧ high.me.inH = true :=
  ⟨by unfold Idle; decide, base_ready _ _, by decide, by decide, by unfold Idle; decide, by decide⟩

/-! Single steps of the scalar forms. -/

theorem test_sub_wraps : after (exec (.sub 2 1 3) (xset base 2 1)) (fun t => X t 3 == BitVec.allOnes 64) = true := by decide
theorem test_addiw_sign : after (exec (.addiw 1 1 3) (xset base 1 0x7FFFFFFF)) (fun t => X t 3 == 0xFFFFFFFF80000000) = true := by decide
theorem test_x0_discards : after (exec (.addi 5 0 0) base) (fun t => X t 0 == 0) = true := by decide
theorem test_div_zero : after (exec (.div 2 1 3) (xset base 1 7)) (fun t => X t 3 == BitVec.allOnes 64) = true := by decide
theorem test_mulhsu : after (exec (.mulhsu 2 1 3) (xset (xset base 1 (-1)) 2 (-1))) (fun t => X t 3 == BitVec.allOnes 64) = true := by decide
theorem test_sra : after (exec (.srai 63 1 3) (xset base 1 (BitVec.intMin 64))) (fun t => X t 3 == BitVec.allOnes 64) = true := by decide
theorem test_lui_sign : after (exec (.lui 0x80000 3) base) (fun t => X t 3 == 0xFFFFFFFF80000000) = true := by decide
theorem test_jalr_clears : after (exec (.jalr 0 1 5) (xset base 1 0x0800000000000101)) (fun t => (t.coreAt 0).l.pc == 0x100 && X t 5 == 0x100004) = true := by
  decide
theorem test_branch_back : after (exec (.beq 0xFFE 2 1) base) (fun t => (t.coreAt 0).l.pc == 0xFFFFC) = true := by decide
theorem test_fadd : after (exec (.faddS 2 1 0 3) (fset (fset base 1 0x3F800000) 2 0x40000000)) (fun t => F t 3 == 0x40400000) = true := by decide
theorem test_fadd_nan : after (exec (.faddS 2 1 0 3) (fset (fset base 1 0x7F800000) 2 0xFF800000)) (fun t => F t 3 == 0x7FC00000 && t.ctx.fcsr == 0x10) = true := by
  decide
theorem test_fcvt_saturates : after (exec (.fcvtWS 1 1 3) (fset base 1 0x7F800000)) (fun t => X t 3 == 0x7FFFFFFF && t.ctx.fcsr == 0x10) = true := by decide
theorem test_sb_bytes : after (exec (.sh 0 2 1) (xset (xset base 1 data) 2 0xABCD)) (fun t =>
    t.byteAt (.priv 0 0xE00) == 0xCD && t.byteAt (.priv 0 0xE01) == 0xAB && t.byteAt (.priv 0 0xE02) == 0) = true := by decide
theorem test_lb_sign : after (exec (.lb 0 1 3) (xset (base.writeNum (.priv 0 0xE00) 1 0x80) 1 data)) (fun t => X t 3 == 0xFFFFFFFFFFFFFF80) = true := by decide
theorem test_ld_page_fault : after (exec (.ld 0 1 3) (xset base 1 0x40000000)) (fun t => (t.coreAt 0).l.pc == 0x100000
    && (t.coreAt 0).faultDue.isSome || (t.coreAt 0).slots.any fun e => e.2.st == 2 && e.2.cause == 17) = true := by decide
theorem test_kld_unloaded : after (exec (.kld 16 3) base) (fun t => (t.groupAt 1).st == 5) = true := by decide

/-! Witnesses: atomics, queues, barriers, joins, ordering, control registers. -/

/-- The state that an operation of `n` bytes at the start of the own scratchpad is performed in. -/
def found (s : State) (n : Nat) : State := engineState s { spot := .flat (.scratch 0 0) } n
/-- An operation of `n` bytes there is performed at once. -/
theorem performs_own {s : State} {n : Nat} {p : Word} (h : gives (s.reach s.org p n .amo) (fun b => decide (b = ({ spot := .flat (.scratch 0 0) }, s))) = true)
    (h2 : (s.blocked (.flat (.scratch 0 0)) n true || s.dieHolds (.flat (.scratch 0 0)) true || !s.amoFirst s.cl s.amoMine
      || s.poisoned (.flat (.scratch 0 0)) n) = false) (h5 : s.ctx.aw = .none) : Performs s p n (.scratch 0 0) (found s n) := by
  simp only [Bool.or_eq_false_iff, Bool.not_eq_false'] at h2
  exact ⟨s, false, of_gives h, fun _ _ => by simp, h2.1.1.1, h2.1.1.2, h2.1.2, h2.2, h5, rfl⟩
/-- base with words of the own scratchpad, x1 at its start and x2 a value. -/
def cell (ws : List Nat) (v : Word) : State :=
  xset (xset (base.writeAt (.scratch 0 0) (ws.flatMap (leBytes 8))) 1 own) 2 v
theorem cell_ready (ws : List Nat) (v : Word) (srcs dsts : List (BitVec 5)) : Ready (cell ws v) (srcs.map xr) (dsts.map xr) :=
  ready_x rfl rfl srcs dsts

/-- StandardAtomics, and CompareTicketFloat with a value that equals the old one, a bound above, at and of 0, and the two float tags. -/
theorem witness_StandardAtomics : Ready (cell [7] 3) ([1, 2].map xr) ([3].map xr) ∧ Unwatched (cell [7] 3) ∧ Performs (cell [7] 3) own 8 (.scratch 0 0) (found (cell [7] 3) 8)
    ∧ Performs (cell [7] 3) own 4 (.scratch 0 0) (found (cell [7] 3) 4) ∧ X (cell [7] 3) 1 = own :=
  ⟨cell_ready _ _ _ _, by unfold Unwatched; decide, performs_own (by decide) (by decide) (by decide),
    performs_own (by decide) (by decide) (by decide), by decide⟩
theorem witness_CompareTicketFloat : Idle (cell [7] 8) ∧ Performs (cell [7] 8) own 8 (.scratch 0 0) (found (cell [7] 8) 8)
    ∧ ((found (cell [7] 8) 8).numAt (.scratch 0 0) 8 = 7 ∧ 7 < (X (cell [7] 8) 2).toNat) ∧ X (cell [7] 0) 2 = 0
    ∧ (X (xset (cell [7] 8) 3 7) 3).toNat = 7
    ∧ Performs (cell [7] 8) (1 * 2 ^ 59 + own) 4 (.scratch 0 0) (found (cell [7] 8) 4) ∧ ((1 * 2 ^ 59 + own : Word).extractLsb' 59 5).toNat = 1
    ∧ Performs (cell [7] 8) (2 * 2 ^ 59 + own) 2 (.scratch 0 0) (found (cell [7] 8) 2) ∧ ((2 * 2 ^ 59 + own : Word).extractLsb' 56 3) = 0 :=
  ⟨by unfold Idle; decide, performs_own (by decide) (by decide) (by decide), by decide, by decide, by decide,
    performs_own (by decide) (by decide) (by decide), by decide,
    performs_own (by decide) (by decide) (by decide), by decide⟩

/-- A queue header of limit 4 with the given ticket, pop and publish counts, its row base in the own scratchpad at byte 64. -/
def queue (tkt pop pub : Nat) (v : Word) : State := cell [4 * 2 ^ 32 + tkt, pop * 2 ^ 32 + pub, own.toNat + 64, own.toNat + 64] v
/-- TicketQueues: a queue with room, full, with a published row, empty; a corrupt header; limits 1, 2^31 and 0. -/
theorem witness_TicketQueues : Performs (queue 0 0 0 1) own 32 (.scratch 0 0) (found (queue 0 0 0 1) 32) ∧ (queue 0 0 0 1).fir.kind = 0
    ∧ gives ((found (queue 0 0 0 1) 32).rowReach (queue 0 0 0 1).org (ptrAdd (own + 64) 0)) (fun r => r.1.spot == .flat (.scratch 0 64)) = true
    ∧ ((found (queue 4 0 0 1) 32).numAt (.scratch 0 0) 8 = 4 * 2 ^ 32 + 4) ∧ (found (queue 2 0 1 1) 32).numAt ((Loc.scratch 0 0).plus 8) 8 = 1
    ∧ (found (cell [0] 1) 32).numAt (.scratch 0 0) 8 / 2 ^ 32 = 0 ∧ (found (queue 0 0 0 1) 32).rowBaseBad (queue 0 0 0 1).org (own + 64) = none
    ∧ (X (queue 0 0 0 (2 ^ 31)) 2).toNat ≤ 2 ^ 31 ∧ X (queue 0 0 0 0) 2 = 0 := by
  refine ⟨performs_own ?_ ?_ ?_, ?_⟩ <;> decide
/-- A row whose place fails its checks. -/
theorem witness_TicketQueues_row : (match (found (cell [4 * 2 ^ 32, 0, 0, 0x40000000] 1) 32).rowReach (queue 0 0 0 1).org 0x40000000 with
    | .error c => c == .storePageFault | .ok _ => false) = true := by decide

/-- BarrierForms: an initialised object of generation 3, count 2, one arrival; one that is not initialised; counts 1, 65,535 and 0. -/
theorem witness_BarrierForms : Performs (cell [3 * 2 ^ 32 + 2 ^ 16 + 2, 1] 2) own 16 (.scratch 0 0) (found (cell [3 * 2 ^ 32 + 2 ^ 16 + 2, 1] 2) 16)
    ∧ Released (cell [3 * 2 ^ 32 + 2 ^ 16 + 2, 1] 2) ∧ (found (cell [3 * 2 ^ 32 + 2 ^ 16 + 2, 1] 2) 16).numAt ((Loc.scratch 0 0).plus 8) 8 = 1
    ∧ (cell [3 * 2 ^ 32 + 2 ^ 16 + 2, 1] 2).ctx.arrivals = [] ∧ (X (cell [3 * 2 ^ 32 + 2 ^ 16 + 2, 1] 2) 2).toNat % 2 ^ 32 ≠ 3
    ∧ (X (cell [3 * 2 ^ 32 + 2 ^ 16 + 2, 1] 3) 2).toNat % 2 ^ 32 = 3
    ∧ (own, 3) ∈ ((cell [3 * 2 ^ 32 + 2 ^ 16 + 2, 1] 2).modCtx fun x => { x with arrivals := [(own, 3)] }).ctx.arrivals
    ∧ (found (cell [5] 65535) 16).numAt ((Loc.scratch 0 0).plus 8) 8 ≠ 1 ∧ (X (cell [5] 65535) 2).toNat ≤ 65535 ∧ X (cell [5] 0) 2 = 0 := by
  refine ⟨performs_own ?_ ?_ ?_, ?_⟩
  all_goals first
    | decide
    | (unfold Released; decide)
/-- JoinForms: counts of 2, 1 and 0, a reserved slot, none left in a handler firing, a continuation for handler 16 of the own core. -/
theorem witness_JoinForms : Released (cell [2, 16, 0, 5] 1) ∧ Performs (firing (cell [2, 16, 0, 5] 1) fun f => { f with resv := 1 }) own 32 (.scratch 0 0)
      (found (firing (cell [2, 16, 0, 5] 1) fun f => { f with resv := 1 }) 32)
    ∧ 0 < (firing (cell [2, 16, 0, 5] 1) fun f => { f with resv := 1 }).fir.resv ∧ (found (cell [2, 16, 0, 5] 1) 32).numAt (.scratch 0 0) 8 % 2 ^ 32 = 2
    ∧ (found (cell [1, 16, 0, 5] 1) 32).numAt (.scratch 0 0) 8 % 2 ^ 32 = 1 ∧ (found (cell [0, 16, 0, 5] 1) 32).numAt (.scratch 0 0) 8 % 2 ^ 32 = 0
    ∧ gives (base.contTarget 0 16 0) (fun t => match t with | .core c => c == 0 | _ => false) = true ∧ (firing base fun f => { f with kind := 1 }).fir.resv = 0
    ∧ (X (cell [2] (2 ^ 32 - 1)) 2).toNat < 2 ^ 32 ∧ (X (cell [2] (2 ^ 32)) 2).toNat = 2 ^ 32 := by
  refine ⟨by unfold Released; decide, performs_own ?_ ?_ ?_, ?_⟩ <;> decide

/-- StandardAtomics, other clusters: an address in cluster 1; a reply that stands, with and without success, with and without a value. -/
theorem witness_StandardAtomics_remote : (∃ s1, Reached (xset base 1 0xFFFE00080000) 0xFFFE00080000 8 .amo (.far 1 0) s1)
    ∧ base.owes base.cur (.far 1 0) 8 true = false ∧ base.ctx.aw = .none ∧ Idle base ∧ Unwatched base ∧ Cause.loadPageFault ≠ .crossDieTimeout
    ∧ (base.modCtx fun x => { x with aw := .replied true .serviceRange [5] }).ctx.aw = .replied true .serviceRange (5 :: [])
    ∧ (base.modCtx fun x => { x with aw := .replied false .serviceRange [5] }).ctx.aw = .replied false .serviceRange (5 :: [])
    ∧ (base.modCtx fun x => { x with aw := .replied false .loadPageFault [] }).ctx.aw = .replied false .loadPageFault [] :=
  ⟨reached_of (by decide), by decide, by decide, by unfold Idle; decide, by unfold Unwatched; decide, by decide, rfl, rfl, rfl⟩

/-- StandardAtomics, other packages: an address whose page is another package's; a failure of the fabric that stands. -/
theorem witness_StandardAtomics_abroad : (∃ s1, Reached abroad far5 8 .amo (.flat (.remote 5 64)) s1) ∧ abroad.owes abroad.cur (.flat (.remote 5 64)) 8 true = false
    ∧ abroad.mayIssue 0 0 (abroad.endpoint abroad.org) 3 abroad.me.accCtr.toNat = true ∧ lateCause .fabricUnreachable = true ∧ lateCause .serviceRange = false
    ∧ (abroad.modCtx fun x => { x with aw := .replied false .remoteDenied [] }).ctx.aw = .replied false .remoteDenied [] ∧ abroad.fir.active = true ∧ abroad.ctx.causes.length < 4 :=
  ⟨reached_of (by decide), by decide, by decide, by decide, by decide, rfl, by decide, by decide⟩

/-- OrderingForms: the domain scope, the core's, one that is not admitted, with nothing under way; a store to another package that failed; an acquiring
load of private memory, of the own and another cluster's scratch and of global memory, a reply that stands, a releasing store. -/
theorem witness_OrderingForms : Idle base ∧ Released base ∧ ReadsBack base ∧ base.quietAbroad base.cur = true ∧ base.scopeOk 0 0 0xFFFFFFFFFFFFFFFF = true
    ∧ base.scopeOk 0 0 0x100000001 = false ∧ base.scopeOk 0 0 0 = true ∧ X (xset base 1 0xFFFFFFFFFFFFFFFF) 1 = 0xFFFFFFFFFFFFFFFF
    ∧ Reached (xset base 1 own) own 8 .load (.flat (.scratch 0 0)) (xset base 1 own) ∧ base.ctx.aw = .none
    ∧ Reached (xset base 1 data) data 8 .store (.flat (.priv 0 0xE00)) (xset base 1 data) ∧ base.blocked (.flat (.priv 0 0xE00)) 8 true = false
    ∧ (∃ s1, Reached beside 0xFFFE00080000 8 .load (.far 1 0) s1) ∧ (beside.blocked (.far 1 0) 8 false || beside.dieHolds (.far 1 0) false) = false
    ∧ beside.farBad base.org 1 0 8 = none :=
  ⟨by unfold Idle; decide, by unfold Released; decide, by unfold ReadsBack; decide, by decide, by decide, by decide, by decide, by decide, reached_at (by decide), by decide,
    reached_at (by decide), by decide, reached_of (by decide), by decide, by decide⟩
theorem witness_OrderingForms_global : (match base.reach base.org glob 8 .load with
      | .ok (r, s1) => !s1.blocked r.spot 8 false && match s1.readGlobal base.org glob r 8 with
        | (.soon bs, _) => bs.length == 8
        | _ => false
      | .error _ => false) = true
    ∧ (base.modMe fun c => { c with stores := [{ id := 3, away := true, bad := some .remoteDenied }] }).me.stores.find? (·.bad.isSome)
      = some { id := 3, away := true, bad := some .remoteDenied }
    ∧ (base.modCtx fun x => { x with aw := .replied true .loadPageFault [5] }).ctx.aw = .replied true .loadPageFault [5] := ⟨by decide, rfl, rfl⟩

/-- ControlRegisters: a register of each kind, a reserved and a supervisor address, a user firing and an H firing; no frequency step asked for. -/
theorem witness_ControlRegisters : Idle base ∧ (∀ q ∈ base.ctx.pend, q.div = false) ∧ csrReserved 0x8C2 = true ∧ csrReserved 0x8FF = true ∧ base.fir.sup = false
    ∧ base.me.inH = false ∧ high.me.inH = true ∧ (∀ e ∈ base.dies, e.2.next = none ∧ e.2.asked = []) ∧ Idle high ∧ base.dev.power ≠ 0 ∧ State.reset.dev.power = 0 := by
  refine ⟨by unfold Idle; decide, ?_⟩
  unfold Idle
  decide
/-- SupervisorForms: a supervisor firing with nothing outstanding, a user firing; aperture words that are valid, that are not, and 1 to 3; legal
kinds 0 to 2 and targets 0 and 1 of TLBINV, the first reserved value of each; a WFM with and without an entry placed; a group that is debugged. -/
theorem witness_SupervisorForms : Idle sup ∧ sup.fir.sup = true ∧ Ready sup [xr 1, xr 2] [xr 2] ∧ sup.invals = [] ∧ sup.me.csrWait = [] ∧ base.fir.sup = false
    ∧ 1 ≤ (0x1F : BitVec 7).toNat / 16 ∧ (0x3F : BitVec 7).toNat / 16 ≤ 3 ∧ ({ w := [0], reced := [] } : Aper).ok [] = false ∧ ({ w := [2 ^ 63, 1, 0, 0] } : Aper).ok [] = true :=
  ⟨by unfold Idle; decide, by decide, ready_of (by decide) (by decide) (by decide) _ _, by decide, by decide, by decide, by decide, by decide, by decide, by decide⟩
theorem witness_SupervisorForms_system : Released sup ∧ (X (xset sup 2 6) 2).toNat = 6 ∧ (X (xset sup 2 16) 2).toNat = 16 ∧ (X (xset sup 2 3) 2).toNat % 4 = 3
    ∧ (X (xset sup 2 8) 2).toNat / 4 % 4 = 2 ∧ canonical own = true ∧ canonical (2 ^ 48 : Word) = false
    ∧ (base.modCtx fun x => { x with wfm := true }).ctx.wfm = true ∧ base.ctx.wfm = false ∧ sup.pageOf sup.fir.gid = none
    ∧ ({ sup with dpages := [(0, { att := true, gid := sup.fir.gid })] }.pageOf sup.fir.gid).isSome = true := by
  unfold Released
  decide
/-- EnvironmentTraps: a user and a supervisor firing with no active repetition. -/
theorem witness_EnvironmentTraps : Idle base ∧ base.fir.sup = false ∧ Idle sup ∧ sup.fir.sup = true :=
  ⟨by unfold Idle; decide, by decide, by unfold Idle; decide, by decide⟩

/-! Single steps. -/

theorem test_amoadd : after (exec (.amoaddD 0 0 2 1 3) (cell [7] 3)) (fun t => X t 3 == 7 && t.numAt (.scratch 0 0) 8 == 10) = true := by decide
theorem test_amomin_sign : after (exec (.amominW 0 0 2 1 3) (cell [0xFFFFFFFF] 3)) (fun t => X t 3 == 0xFFFFFFFFFFFFFFFF && t.numAt (.scratch 0 0) 4 == 0xFFFFFFFF)
    = true := by decide
theorem test_acas_differs : after (exec (.acas 0 0 2 1 3) (xset (cell [7] 9) 3 6)) (fun t => X t 3 == 7 && t.numAt (.scratch 0 0) 8 == 7) = true := by decide
theorem test_atkt_bound : after (exec (.atkt 0 0 2 1 3) (cell [7] 7)) (fun t => X t 3 == BitVec.allOnes 64 && t.numAt (.scratch 0 0) 8 == 7) = true := by decide
theorem test_qpush_full : after (exec (.qpush 0 0 2 1 3) (queue 4 0 0 1)) (fun t => X t 3 == BitVec.allOnes 64) = true := by decide
theorem test_qpop : after (exec (.qpop 0 1 3) (queue 2 1 2 0)) (fun t => X t 3 == 1 && t.numAt (.scratch 0 8) 8 == 2 * 2 ^ 32 + 2) = true := by decide
theorem test_barr_last : after (exec (.barr 0 1 3) (cell [3 * 2 ^ 32 + 2 ^ 16 + 2, 1] 0)) (fun t => X t 3 == 3 && t.numAt (.scratch 0 0) 8 == 4 * 2 ^ 32 + 2) = true := by
  decide
theorem test_jinit_low_word : after (exec (.jinit 0 0 2 1) (cell [2 ^ 40] 5)) (fun t => t.numAt (.scratch 0 0) 8 == 2 ^ 40 + 5) = true := by decide
theorem test_csr_set_clear : after (exec (.csrrsi 3 0x1F 3) (base.modCtx fun x => { x with fcsr := 0x40 })) (fun t => X t 3 == 0x40 && t.ctx.fcsr == 0x5F) = true := by
  decide
theorem test_ecall_supervisor_kills : after (exec .ecall sup) (fun t => (t.groupAt 1).st == 5) = true := by decide
theorem test_tlbsync_user : after (exec .tlbsync base) (fun t => (t.groupAt 1).st == 5) = true := by decide
theorem test_rdref : after (exec (.rdref 3) { base with time := 77 }) (fun t => X t 3 == 77) = true := by decide

/-! Witnesses: messages, streams, launches, invocations. -/

/-- A message of handler 16 and an H firing's context. -/
def note : Msg := { words := [5, 11, 12, 13, 14, 15, 16, 17], hdl := 16, ord := 3, src := 0 }
/-- base with messages of two handlers in its L mailbox and a completion in its area. -/
def mailed : State := base.modMe fun c => { c with lq := [note, { note with hdl := 17, ord := 1 }], ca := [{ id := 9, msg := some { note with src := 6, hdl := 0 } }] }

/-- An address that routes to a scratchpad, its conditions spelled out. -/
theorem routed_of {s : State} {p : Word} {cl off : Nat} (h : tagOk p = true ∧ canonical p = true ∧ ((0xFFFE00000000 ≤ p.toNat % 2 ^ 48 ∧ p.toNat % 2 ^ 48 < 0xFFFE10000000
      ∧ s.clusterOf s.fir.part (p.toNat % 2 ^ 48 / 2 ^ 25 % 8) (p.toNat % 2 ^ 48 / 2 ^ 19 % 64) = some cl ∧ off = p.toNat % 2 ^ 48 % 2 ^ 19)
    ∨ (0xFFFFE0000000 ≤ p.toNat % 2 ^ 48 ∧ p.toNat % 2 ^ 48 < 0xFFFFE0080000 ∧ cl = s.cur / 8 ∧ off = p.toNat % 2 ^ 48 - 0xFFFFE0000000))) : Routed s p cl off := h
/-- MessageForms: a launch firing with a free egress slot, one with a reserved one, a handler firing without; a target word of core 0 and
scratch addresses; selectors of an index below 16, of 63, and of a loaded constant; a closed die, a retired cluster. -/
theorem witness_MessageForms : Idle base ∧ Ready base [xr 1] [xr 2] ∧ Selects base 16 16 ∧ Selects base 63 63 ∧ Selects base 15 15
    ∧ Selects (base.modMe fun c => { c with constLen := 1 }) 64 0 ∧ Targets base 0 0 ∧ Egressed base ∧ Released base ∧ (∀ j, j < 7 → Readable base (10 + j))
    ∧ base.ctx.relWait = none ∧ base.ctx.passedAll = false ∧ base.dieOpen 0 = true ∧ (base.clusterAt 0).retired = false ∧ base.dieOpen 1 = false ∧ hand.fir.resv = 0 ∧ hand.fir.kind ≠ 0 ∧ ¬ Egressed hand
    ∧ Egressed (firing hand fun f => { f with resv := 1 }) := by
  refine ⟨by unfold Idle; decide, base_ready _ _, ?_, ?_, ?_, ?_, ?_⟩
  · unfold Selects; decide
  · unfold Selects; decide
  · unfold Selects; decide
  · unfold Selects; decide
  · unfold Targets Egressed Released Readable
    decide
theorem witness_MessageForms_routed : Routed base own 0 0 ∧ Routed base (own + 0x7FFFF) 0 0x7FFFF ∧ Routed base 0xFFFE00000040 0 64 :=
  ⟨routed_of (by decide), routed_of (by decide), routed_of (by decide)⟩
/-- No egress slot in a launch firing. -/
theorem witness_MessageForms_full : (base.egressFree 0 false == 0) = false ∧ Targets base 0 0 := by
  unfold Targets
  decide

/-- A target word of another package that the domain admits, with a path and without; target words that name nothing: bit 62, a package word without
bit 63, a package that is not admitted, a core that is not there. -/
theorem witness_MessageForms_away : ((2 ^ 63 + 5 * 2 ^ 48) / 2 ^ 63 = 1 ∧ 5 ≠ abroad.pkgId ∧ abroad.domainBit 0 5 61 = true) ∧ Egressed abroad
    ∧ abroad.workingPaths 5 ≠ [] ∧ { abroad with routes := [] }.workingPaths 5 = [] ∧ Released abroad ∧ abroad.quietAbroad abroad.cur = true
    ∧ abroad.mayIssue 0 0 (abroad.endpoint abroad.org) 0 abroad.me.sendCtr.toNat = true ∧ Readable abroad 10
    ∧ 2 ^ 62 / 2 ^ 62 % 2 = 1 ∧ abroad.domainBit 0 6 61 = false ∧ base.coreOf 0 127 31 = none := by
  unfold Egressed Released Readable
  decide

/-- MessageForms, RECV and MCOUNT: a pick by rotation and one of a handler, of the completion area, and nothing that matches; legal and illegal filters. -/
theorem witness_MessageForms_receives : Idle mailed ∧ mailed.me.pick false 0 0 mailed.ls.zrr.toNat = some (note, 16) ∧ (mailed.me.pick false 0 17 0).isSome = true
    ∧ (mailed.me.pick false 1 0 0).isSome = true ∧ mailed.me.pick false 0 4095 0 = none ∧ base.me.pick false 0 0 base.ls.zrr.toNat = none ∧ mailed.fir.kind = 0
    ∧ Ready mailed [xr 1] (xr 2 :: (List.range 6).map (10 + ·)) ∧ (X (xset mailed 1 0x2FFF) 1).toNat < 2 ^ 14 ∧ (X (xset mailed 1 0x3000) 1).toNat / 2 ^ 12 % 4 = 3
    ∧ (X (xset mailed 1 15) 1).toNat % 2 ^ 12 = 15 ∧ (X (xset mailed 1 0x4000) 1).toNat = 2 ^ 14 ∧ high.me.inH = true ∧ (X (xset high 1 0x1000) 1).toNat / 2 ^ 12 % 4 = 1 :=
  ⟨by unfold Idle; decide, by decide, by decide, by decide, by decide, by decide, by decide, ready_of (by decide) (by decide) (by decide) _ _, by decide, by decide, by decide,
    by decide, by decide, by decide⟩

/-- FiringEnds: an L and an H firing with nothing under way. -/
theorem witness_FiringEnds : Idle mailed ∧ ((∀ e ∈ mailed.ls.ports, e.2.pushes = []) ∧ ∀ r ∈ mailed.ls.invs, r.st ≠ 1)
    ∧ (∀ e ∈ mailed.flights, ¬ (e.2.org.fid = mailed.fir.fid ∧ e.2.org.gid = mailed.fir.gid))
    ∧ (∀ e ∈ mailed.errs, ¬ (e.2.send = true ∧ e.2.org.fid = mailed.fir.fid ∧ e.2.org.gid = mailed.fir.gid))
    ∧ mailed.fir.kind ≠ 2 ∧ mailed.ctx.causes = [] ∧ Idle high ∧ high.me.inH = true ∧ high.ctx.causes = [] := by
  unfold Idle
  decide
/-- VectorIndexed, service requests: an aligned and a misaligned place, tags of bytes, fp32, i32 and bf16. -/
theorem witness_VectorIndexed_requests : Unwatched base ∧ Routed base (ptrAdd (X (xset base 1 own) 1) ((0 : BitVec 7).toInt * 8)) 0 0
    ∧ Routed base (ptrAdd (X (xset base 1 (own + 512)) 1) ((64 : BitVec 7).toInt * 8)) 0 0 ∧ Routed base (1 * 2 ^ 59 + own) 0 0 ∧ Routed base (6 * 2 ^ 59 + own) 0 0
    ∧ Ready base [xr 1] [xr 2] ∧ tagOk (3 * 2 ^ 59 : Word) = true ∧ (3 * 2 ^ 59 : Word).toNat / 2 ^ 59 = 3 ∧ canonical (own + 4) = true ∧ (own + 4).toNat % 8 ≠ 0 := by
  exact ⟨by unfold Unwatched; decide, routed_of (by decide), routed_of (by decide), routed_of (by decide), routed_of (by decide), base_ready _ _, by decide, by decide,
    by decide, by decide⟩

/-- A source port of one FP32 vector of four items and a destination port, both in the own scratchpad, bound to f1 and f2. -/
def ported : State := base.modCtx id |>.modMe fun c => { c with ls := { c.ls with ports :=
  [(0, { fields := [(0, 2 ^ 59 + own), (2, 4 * 2 ^ 32 + 3)], cfg := true, bnd := true, kind := 0, reg := 1, pre := [{ val := 7 }] }),
    (1, { fields := [(0, 2 ^ 59 + own + 64), (2, 4 * 2 ^ 32 + 3)], cfg := true, bnd := true, kind := 1, reg := 2 }),
    (2, { fields := [(0, 2 ^ 59 + own), (2, 4 * 2 ^ 32 + 3)], cfg := true })] } }
/-- StreamForms: unbound, bound, configured and unconfigured ports; legal fields and the first reserved values; an H firing. -/
theorem witness_StreamForms : Idle ported ∧ ported.me.inH = false ∧ (ported.portAt 3).bnd = false ∧ (ported.portAt 3).cfg = false
    ∧ (ported.portAt 0).bnd = true ∧ (ported.portAt 0).pushes = [] ∧ (ported.portAt 0).reg < 256 ∧ (ported.portAt 2).cfg = true
    ∧ ({ ported.portAt 2 with kind := 0 } : Port).badFormat 0 = none ∧ (({ fields := [(0, 9 * 2 ^ 59 + own)], cfg := true } : Port).badFormat 0).isSome = true
    ∧ ported.portOf 1 3 = none ∧ ported.portOf 1 1 ≠ none ∧ (∀ q ∈ ported.ctx.pend, q.reg ≠ 256 + 3) ∧ (X (xset ported 1 7) 1).toNat < 8
    ∧ (X (xset ported 1 8) 1).toNat = 8 ∧ (X (xset ported 1 65536) 1).toNat / 2 ^ 16 % 2 ^ 16 ≠ 0 ∧ high.me.inH = true ∧ Idle high := by
  unfold Idle
  decide
theorem witness_StreamForms_ready : Ready ported [xr 1] [xr 2] := ready_x (by decide) (by decide) [1] [2]
/-- StreamItems: an item, a recorded failure, an exhausted port, and a push with room. -/
theorem witness_StreamItems : (ported.portOf 1 1).map (·.1) = some 0 ∧ (ported.portOf 1 1).map (·.2) = some (ported.portAt 0) ∧ Unwatched ported
    ∧ (ported.portAt 0).exhausted = false ∧ (ported.portAt 0).pre = { val := 7 } :: [] ∧ ({ ported.portAt 0 with pos := 4 } : Port).exhausted = true
    ∧ ({ val := 0, fail := some (.loadPageFault, 64) } : PreItem).fail = some (.loadPageFault, 64) ∧ (ported.portOf 1 2).map (·.1) = some 1
    ∧ (ported.portAt 1).exhausted = false ∧ (ported.portAt 1).ind = false ∧ (ported.portAt 1).pushes.length < Config.portDepth
    ∧ gives (ported.streamReaches ported.org ((ported.portAt 1).addrAt 0) (ported.portAt 1).itemUnit .store ((ported.portAt 1).itemSize / (ported.portAt 1).itemUnit))
      (fun r => r.1.all (fun q => !q.cnt) && r.1.map (·.spot) == [.flat (.scratch 0 64)] && decide (r.2 = ported)) = true := by
  unfold Unwatched
  decide
/-- StreamForms, RPT and RPTI: a body of one word, counts of 0, 1, 65,536 and 65,537. -/
theorem witness_StreamForms_repeat : Idle base ∧ base.me.inH = false ∧ (match fetchBody (base.ctx.pc + 4) 1 (base.writeNum (.hbm 0x100004) 4 0x002081D3) with
      | .ok (ws, t) => ws == [0x002081D3] && decide (t.ctx = base.ctx) && decide (t.ls = base.ls) && t.cur == base.cur
      | .error _ => false) = true
    ∧ Ready base [xr 1] [] ∧ (X (xset base 1 65536) 1).toNat ≤ 65536 ∧ X base 1 = 0 ∧ 65536 < (X (xset base 1 65537) 1).toNat :=
  ⟨by unfold Idle; decide, by decide, by decide, base_ready _ _, by decide, by decide, by decide⟩

/-- base with a launch record at 0x4000: kind 1, one group of one core, launch id 5, entry 16. -/
def recorded (w0 w4 : Nat) : State := xset (base.writeAt (.hbm 0x4000) ([w0, 2 ^ 52, 0, 0, w4, 0, 0, 0].flatMap (leBytes 8))) 1 glob
/-- SpawnForms: a record that is launched, one of no launch, one without room, and the affinities 0, 1, 8, 9 and 15. -/
theorem witness_SpawnForms : Idle (recorded (2 ^ 60 + 16 * 2 ^ 12 + 16) (5 * 2 ^ 48)) ∧ Unwatched base ∧ Released base ∧ base.quietAbroad base.cur = true
    ∧ (match globalReach glob 64 64 .load .privateRange (recorded (2 ^ 60 + 16 * 2 ^ 12 + 16) (5 * 2 ^ 48)) with
      | .ok (r, s1) => r.spot == .flat (.hbm 0x4000) && !s1.dieHolds r.spot true && !s1.poisoned r.spot 64 && !s1.lidActive 0 0 5 && s1.hasPool 0 0 && s1.vdiesHeld 0 == [0] && (s1.roomDie 0 0 false).isSome && s1.vdieOpen 0 0 && !s1.lidActive 0 0 6
      | .error _ => false) = true
    ∧ (X base 2).toNat = 0 ∧ (X (xset base 2 15) 2).toNat = 15 ∧ 8 < (X (xset base 2 9) 2).toNat ∧ hand.fir.kind ≠ 0 := by
  unfold Idle Unwatched Released
  decide
/-- The fields of that record are legal, its allotment is, and its constant block is read. -/
theorem witness_SpawnForms_fields :
    recFields ((recorded (2 ^ 60 + 16 * 2 ^ 12 + 16) (5 * 2 ^ 48)).spotBytes (.flat (.hbm 0x4000)) 64 |> wordsOf) = true
    ∧ recF [BitVec.ofNat 64 (2 ^ 60 + 16 * 2 ^ 12 + 16), 2 ^ 52, 0, 0, BitVec.ofNat 64 (5 * 2 ^ 48)] 0 60 4 = 1
    ∧ recAllot (base.partAt 0).csr.lim [BitVec.ofNat 64 (2 ^ 60 + 16 * 2 ^ 12 + 16), 2 ^ 52, 0, 0, BitVec.ofNat 64 (5 * 2 ^ 48), 0, 0, 0] = true
    ∧ (match base.constBlock 0 0 [BitVec.ofNat 64 (2 ^ 60 + 16 * 2 ^ 12 + 16), 2 ^ 52, 0, 0, BitVec.ofNat 64 (5 * 2 ^ 48), 0, 0, 0] with
      | .ok _ => true
      | .error _ => false) = true := by
  decide
/-- LaunchCounters: a counter that is active with no launch, one that is not, ids in and out of the limits of each level, another job. -/
theorem witness_LaunchCounters : Idle base ∧ Ready base [xr 1] [xr 2] ∧ (base.ctr (ctrKey 0 0 0 5)).st ≠ 1
    ∧ ({ base with counters := [(ctrKey 0 0 0 5, { st := 1 })], launches := [] }.ctr (ctrKey 0 0 0 5)).st = 1 ∧ (base.groups.map (·.1)).Nodup ∧ (base.launches.map (·.1)).Nodup ∧ (∀ e ∈ base.launches, e.2.src ≠ 2) ∧ base.graphsUnder 0 0 0 5 = []
    ∧ { base with launches := [] }.graphsUnder 0 0 0 5 = [] ∧ (X (xset base 1 65536) 1).toNat = 65536 ∧ (X base 1).toNat = 0 ∧ (X (xset base 1 4095) 1).toNat ≤ 4095
    ∧ (base.fir.sup = false ∧ (X (xset base 1 1) 1).toNat ≠ base.fir.job) :=
  ⟨by unfold Idle; decide, base_ready _ _, by decide, by decide, by decide, by decide, by decide, by decide, by decide, by decide, by decide, by decide, by decide⟩
/-- LaunchCounters, GCOND and HTABW: a place of mapped device memory, a misaligned one, the windows, a user and a supervisor firing. -/
theorem witness_LaunchCounters_words : Unwatched base ∧ base.me.stores = [] ∧ Released base ∧ (match globalReach glob 8 8 .store .privateRange base with
      | .ok (r, s1) => r.spot == .flat (.hbm 0x4000) && !s1.blocked r.spot 8 true && !s1.dieHolds r.spot true
      | .error _ => false) = true
    ∧ Ready base [xr 1, xr 2] [] ∧ sup.fir.sup = true ∧ (own + 4).toNat % 2 ^ 48 % 8 ≠ 0 ∧ (0xFFFFF0002000 : Nat) % 8 = 0 ∧ (0xFFFE00000000 ≤ own.toNat % 2 ^ 48 ∧ own.toNat % 2 ^ 48 < 0xFFFFF0000000)
    ∧ 0xFFFFF0000000 ≤ data.toNat % 2 ^ 48 ∧ tagOk data = true ∧ canonical data = true :=
  ⟨by unfold Unwatched; decide, by decide, by unfold Released; decide, by decide, base_ready _ _, by decide, by decide, by decide, by decide, by decide, by decide, by decide⟩
/-- SpawnForms, invocations: an own-package word that may be invoked, a malformed one, a record in use, eight records, a reply placed, and another package
without a path. -/
theorem witness_SpawnForms_invocations : base.me.inH = false ∧ base.ctx.aw = .none ∧ base.ctx.relWait = none ∧ base.ctx.passed = 0 ∧ base.quietAbroad base.cur = true ∧ Selects base 16 16 ∧ Selects base 15 15 ∧ base.me.caRoom = true
    ∧ (∀ r ∈ base.ls.invs, r.tag ≠ 0) ∧ base.ls.invs.length < 8 ∧ 8 ≤ (List.replicate 8 ({ tag := 3, st := 1 } : InvRec)).length
    ∧ base.workingPaths 1 = [] ∧ Released base ∧ (∀ j, j < 7 → Readable base (10 + j))
    ∧ (base.modMe fun c => { c with ca := [{ id := 4, fid := base.fir.fid, msg := some { note with words := [0, 7 * 2 ^ 32, 0], src := 8 } }] }).me.replyOf 7
      = some { note with words := [0, 7 * 2 ^ 32, 0], src := 8 }
    ∧ (base.modCtx fun x => { x with aw := .invoked 7 }).ctx.aw = .invoked 7 ∧ high.me.inH = true ∧ Idle high := by
  unfold Selects Released Readable Idle
  decide
theorem witness_SpawnForms_words : invWordBad 0 = false ∧ (∃ n, n < 2 ^ 64 ∧ invWordBad n = true)
    ∧ (base.modPart 0 fun p => { p with domain := [(0, 3 * 2 ^ 62)] }).domainBit 0 0 62 = true ∧ base.domainBit 0 0 62 = false :=
  ⟨by decide, ⟨2 ^ 60, by decide, by decide⟩, by decide, by decide⟩
/-- FiringEnds, TRET: a launch firing, and a fault handler firing of a slot with a saved image: block 0 literal, its version 1, the others zero. -/
def faulted : State :=
  let s := (firing base fun f => { f with kind := 2, slot := 0, sup := true }).modMe fun c => { c with slots := [(0, { st := 1, fir := base.fir })] }
  let a := (s.imageVa 0 0).toNat
  (s.writeNum (.hbm a) 8 (2 ^ 56)).writeNum (.hbm (a + 0x2000)) 8 2
theorem witness_FiringEnds_return : Idle base ∧ base.fir.kind ≠ 2 ∧ Idle faulted ∧ faulted.fir.kind = 2 ∧ faulted.me.inH = false ∧ faulted.ctx.causes = []
    ∧ faulted.me.stores = [] ∧ (∀ e ∈ faulted.ls.ports, e.2.pushes = []) ∧ (∀ r ∈ faulted.ls.invs, r.st ≠ 1) ∧ faulted.flights = [] ∧ faulted.errs = []
    ∧ faulted.slotCore faulted.fir = 0 ∧ faulted.sending base.fir.fid base.fir.gid = false ∧ faulted.invReps = [] ∧ faulted.egressFits 0 false base.fir.prod base.fir.fid = true := by
  unfold Idle
  decide
theorem witness_FiringEnds_image : (match (faulted.modMe fun c => c.dropCompletions faulted.fir.fid) with
    | s1 =>
      match s1.savedCodes base.org (faulted.imageVa 0 0 + 0x2000) 32 [] with
      | .ok codes => (match s1.blockReads base.org (faulted.imageVa 0 0) codes (List.range 32) with
        | .ok ws => imageOk (s1.groupAt faulted.fir.gid) ws
        | .error _ => false)
      | .error _ => false) = true := by decide

/-! Single steps. -/

theorem test_send_posts : after (exec (.send 16 1 2) (xset base 10 9)) (fun t => X t 2 == 0 && t.flights.length == 1 && (t.coreAt 0).sendCtr == 1) = true := by decide
theorem test_recv_none : after (exec (.recv 0 0 2) base) (fun t => X t 2 == 0 && (t.coreAt 0).l.pc == 0x100004) = true := by decide
/-- R172: the rotation goes on from the index after zrrstate, 16 follows 4,095; a named handler is the earliest placed. -/
theorem test_recv_pick : mailed.me.pick false 0 0 16 = some ({ note with hdl := 17, ord := 1 }, 17) ∧ mailed.me.pick false 0 0 17 = some (note, 16)
    ∧ mailed.me.pick false 2 0 0 = some ({ note with hdl := 17, ord := 1 }, 0) := by decide
theorem test_mcount : after (exec (.mcount 0 0 2) mailed) (fun t => X t 2 == 2) = true := by decide
theorem test_rearm : after (exec .rearm base) (fun t => (t.coreAt 0).armed && !(t.coreAt 0).l.fir.active) = true := by decide
theorem test_sfree : after (exec (.sfree 0) ported) (fun t => !(t.portAt 0).bnd && F t 1 == 0) = true := by decide
theorem test_stream_pop : after (exec (.faddS 3 1 0 4) ported) (fun t => F t 4 == 7 && (t.portAt 0).pos == 1) = true := by decide
theorem test_wstat_idle : after (exec (.wstat 0 1 2) (xset base 1 5)) (fun t => X t 2 == 0) = true := by decide
theorem test_wfm_waits : after (exec .wfm base) (fun t => (t.coreAt 0).l.pc == 0x100000 && (t.coreAt 0).instret == 0) = true := by decide
theorem test_tret_illegal : after (exec .tret base) (fun t => (t.groupAt 1).st == 5) = true := by decide

/-! Witnesses: vectors, strides, indexes, conversions. -/

/-- base with a vector register set, and with an address in x1. -/
def vset (s : State) (n v : Nat) : State := s.modMe fun c => { c with ls := { c.ls with v := Tab.set c.ls.v n (BitVec.ofNat 256 v) } }
def at1 (p : Word) : State := xset base 1 p

/-- The vector forms: ready registers of an L firing, with and without the old vd; formats on both sides of the last float; predicates p0 and
p7; an H firing. -/
theorem witness_VectorLanes : Idle base ∧ base.me.inH = false ∧ Ready base (vr 1 :: vr 2 :: if (0 : BitVec 3) = 0 ∧ false = false then [] else [vr 15]) [vr 15]
    ∧ Ready base (vr 1 :: vr 2 :: if (7 : BitVec 3) = 0 ∧ true = false then [] else [vr 15]) [vr 15] ∧ (4 : BitVec 3).toNat < 5 ∧ ¬ (5 : BitVec 3).toNat < 5
    ∧ high.me.inH = true ∧ Idle high :=
  ⟨by unfold Idle; decide, by decide, base_ready _ _, base_ready _ _, by decide, by decide, by decide, by unfold Idle; decide⟩
theorem witness_VectorLanes_one : Ready base (vr 1 :: if (0 : BitVec 3) = 0 then [] else [vr 15]) [vr 15]
    ∧ Ready base ([vr 1, vr 2] ++ if (1 : BitVec 3) = 0 then [] else [vr 0]) [vr 0] := ⟨base_ready _ _, base_ready _ _⟩
theorem witness_VectorMoves_compares : Ready base [vr 1, vr 2] [] ∧ (7 : BitVec 4) ≠ 0 := ⟨base_ready _ _, by decide⟩
/-- VectorMoves: a scalar of an integer and of a float format; lane indexes at and past the last. -/
theorem witness_VectorMoves : Ready base [vr 1, 2] [256 + 3] ∧ Ready base [vr 1, 2] [3] ∧ Ready base [256 + 1, 2, vr 3] [vr 3] ∧ Ready base [1, 2, vr 3] [vr 3]
    ∧ (X (xset base 2 31) 2).toNat % (256 / vW 7) = 31 ∧ (X (xset base 2 32) 2).toNat % (256 / vW 7) = 0 :=
  ⟨base_ready _ _, base_ready _ _, base_ready _ _, base_ready _ _, by decide, by decide⟩
theorem witness_VectorMoves_reductions : Ready base [vr 1] [vr 0] ∧ floatFmt ((5 : BitVec 3).toNat + 1) = none ∧ ∃ f, floatFmt ((4 : BitVec 3).toNat + 1) = some f :=
  ⟨base_ready _ _, by decide, ⟨_, rfl⟩⟩

/-- VectorLoadsStores: the own scratchpad, private data and device memory; a block tag, a reserved tag and a misaligned pointer. -/
theorem witness_VectorLoadsStores : Unwatched (at1 own) ∧ Ready (at1 own) ([1].map xr) ([].map xr)
    ∧ Reached (at1 own) (ptrAdd (X (at1 own) 1) ((0 : BitVec 7).toInt * 32)) 32 .load (.flat (.scratch 0 0)) (at1 own) ∧ (at1 own).blocked (.flat (.scratch 0 0)) 32 true = false
    ∧ Reached (at1 own) (ptrAdd (X (at1 own) 1) ((63 : BitVec 7).toInt * 32)) 32 .store (.flat (.scratch 0 2016)) (at1 own)
    ∧ Reached (at1 own) (ptrAdd (X (at1 own) 1) ((63 : BitVec 7).toInt * 4)) 4 .load (.flat (.scratch 0 252)) (at1 own)
    ∧ (X (at1 own) 1).toNat / 2 ^ 59 ∉ [9, 10] ∧ blogOk 0 0 = true ∧ (9 * 2 ^ 59 : Word).toNat / 2 ^ 59 ∈ [9, 10] ∧ 12 < (13 * 2 ^ 59 : Word).toNat / 2 ^ 59
    ∧ (own + 4).toNat % 32 ≠ 0 ∧ canonical (own + 4) = true :=
  ⟨by unfold Unwatched; decide, ready_x rfl rfl [1] [], reached_at (by decide), by decide, reached_at (by decide), reached_at (by decide), by decide, by decide, by decide,
    by decide, by decide, by decide⟩
/-- The read of global memory is answered at once. -/
theorem witness_VectorLoadsStores_global : (match base.reach base.org glob 32 .load with
    | .ok (r, s1) => r.spot == .flat (.hbm 0x4000) && !s1.blocked r.spot 32 false && (match s1.readGlobal s1.org glob r 32 with
      | (.soon bs, _) => bs.length == 32
      | _ => false)
    | .error _ => false) = true := by decide
/-- VST and VLDP at device memory and in another package; a reply that stands. -/
theorem witness_VectorLoadsStores_away : gives (base.reach base.org glob 32 .store) (fun r => r.1.spot == .flat (.hbm 0x4000) && !r.2.blocked r.1.spot 32 true) = true
    ∧ gives (abroad.reach abroad.org far5 32 .store) (fun r => r.1.spot == .flat (.remote 5 64) && !r.2.blocked r.1.spot 32 true
      && r.2.mayIssue 0 0 (r.2.endpoint abroad.org) 3 0) = true
    ∧ gives (base.reach base.org glob 4 .load) (fun r => r.1.spot == .flat (.hbm 0x4000) && !r.2.blocked r.1.spot 4 false && !r.2.dieHolds r.1.spot true
      && (match r.2.readGlobal base.org glob r.1 4 with
        | (.soon bs, _) => bs.length == 4
        | _ => false)) = true
    ∧ gives (abroad.reach abroad.org far5 4 .load) (fun r => r.1.spot == .flat (.remote 5 64) && !r.2.blocked r.1.spot 4 false
      && (r.2.me.l1Find 0 0 (far5.toNat % 2 ^ 48)).isNone) = true
    ∧ base.ctx.aw = .none ∧ (base.modCtx fun x => { x with aw := .replied true .illegalOpcode [5] }).ctx.aw = .replied true .illegalOpcode [5]
    ∧ base.fir.active = true ∧ base.ctx.causes.length < 4 := by decide
/-- VectorLoadsStores, strided: eight fp32 lanes 4 bytes apart, and all lanes at one place (a stride of 0). -/
theorem witness_VectorLoadsStores_strided : (∀ i : Nat, i < 32 / elemSize 1 → Reached (at1 (2 ^ 59 + own)) (ptrAdd (2 ^ 59 + own) ((i : Int) * (4 : Word).toInt)) (elemSize 1) .store
      (.flat (.scratch 0 (4 * i))) (at1 (2 ^ 59 + own)) ∧ (at1 (2 ^ 59 + own)).blocked (.flat (.scratch 0 (4 * i))) (elemSize 1) true = false)
    ∧ (∀ i : Nat, i < 32 / elemSize 1 → Reached (at1 (2 ^ 59 + own)) (ptrAdd (2 ^ 59 + own) ((i : Int) * (0 : Word).toInt)) (elemSize 1) .load
      (.flat (.scratch 0 0)) (at1 (2 ^ 59 + own))) ∧ (at1 own).ctx.aw = .none ∧ blogOk 1 0 = true ∧ (∀ i : Nat, i < 32 / elemSize 1 → AtOnce (.scratch 0 (4 * i))) := by
  have h : ∀ i : Nat, i < 8 → gives ((at1 (2 ^ 59 + own)).reach (at1 (2 ^ 59 + own)).org (ptrAdd (2 ^ 59 + own) ((i : Int) * (4 : Word).toInt)) 4 .store)
      (fun b => decide (b = ({ spot := .flat (.scratch 0 (4 * i)) }, at1 (2 ^ 59 + own)))) = true
      ∧ (at1 (2 ^ 59 + own)).blocked (.flat (.scratch 0 (4 * i))) 4 true = false
      ∧ gives ((at1 (2 ^ 59 + own)).reach (at1 (2 ^ 59 + own)).org (ptrAdd (2 ^ 59 + own) ((i : Int) * (0 : Word).toInt)) 4 .load)
      (fun b => decide (b = ({ spot := .flat (.scratch 0 0) }, at1 (2 ^ 59 + own)))) = true := by decide
  exact ⟨fun i hi => ⟨reached_at (h i hi).1, (h i hi).2.1⟩, fun i hi => reached_at (h i hi).2.2, by decide, by decide, fun _ _ => trivial⟩
/-- VectorIndexed: index lanes of 0, so every lane at the start of the own scratchpad, in fp32 and in bytes. -/
theorem witness_VectorIndexed : (∀ i : Nat, i < 32 / elemSize 1 → Routed (at1 (2 ^ 59 + own)) (ptrAdd (2 ^ 59 + own) ((lane (8 * elemSize 1) (V (at1 (2 ^ 59 + own)) 2) i * elemSize 1 : Nat) : Int))
      0 0 ∧ (ptrAdd (2 ^ 59 + own) ((lane (8 * elemSize 1) (V (at1 (2 ^ 59 + own)) 2) i * elemSize 1 : Nat) : Int)).toNat % elemSize 1 = 0)
    ∧ Ready (at1 (2 ^ 59 + own)) [xr 1, 512 + 2] [512 + 3] ∧ (at1 (2 ^ 59 + own)).owes 0 (.flat (.scratch 0 0)) 4 true = false := by
  have h : ∀ i : Nat, i < 8 → ptrAdd (2 ^ 59 + own) ((lane 32 (V (at1 (2 ^ 59 + own)) 2) i * 4 : Nat) : Int) = 2 ^ 59 + own := by decide
  refine ⟨fun i hi => ?_, ready_of (by decide) (by decide) (by decide) _ _, by decide⟩
  have h' := h i hi
  simp only [show elemSize 1 = 4 from rfl] at *
  rw [h']
  exact ⟨routed_of (by decide), by decide⟩
/-- Conversions: an L firing with and without a table; group lengths 0 and 7. -/
theorem witness_Conversions : Ready base [512 + 31] [512 + 0] ∧ Named base [31, 0] ∧ Ready base [fr 31] [fr 0] ∧ base.ls.lutOk = false
    ∧ (base.modMe fun c => { c with ls := { c.ls with lutOk := true } }).ls.lutOk = true ∧ (X base 2).toNat / 2 ^ 32 % 8 = 0 ∧ (X (xset base 2 (7 * 2 ^ 32)) 2).toNat / 2 ^ 32 % 8 = 7
    ∧ Reached (at1 own) (X (at1 own) 1) 16 .load (.flat (.scratch 0 0)) (at1 own) :=
  ⟨base_ready _ _, fun h => absurd h (by decide), base_ready _ _, by decide, by decide, by decide, by decide, reached_at (by decide)⟩
/-- Conversions, PACKB and UNPKB: 32 fp32 elements and a block of tag 9 at places of the own scratchpad; tags that do not fit. -/
theorem witness_Conversions_blocks : (∀ i : Nat, i < 32 → Reached (at1 (2 ^ 59 + own)) (ptrAdd (2 ^ 59 + own) ((i * 4 : Nat) : Int)) 4 .load (.flat (.scratch 0 (i * 4))) (at1 (2 ^ 59 + own))
      ∧ (at1 (2 ^ 59 + own)).blocked (.flat (.scratch 0 (i * 4))) 4 false = false)
    ∧ (∀ i : Nat, i < bfpBytes 9 / 2 → Reached (at1 (2 ^ 59 + own)) (ptrAdd (9 * 2 ^ 59 + own + 256) ((i * 2 : Nat) : Int)) 2 .store (.flat (.scratch 0 (256 + i * 2))) (at1 (2 ^ 59 + own)))
    ∧ (1 : Nat) ∈ [1, 2, 3] ∧ blogOk 1 0 = true ∧ (4 : Nat) ∉ [1, 2, 3] ∧ glob.toNat % 2 ^ 48 + 256 ≤ 0xFFFE00000000 := by
  have h : ∀ i : Nat, i < 32 → gives ((at1 (2 ^ 59 + own)).reach (at1 (2 ^ 59 + own)).org (ptrAdd (2 ^ 59 + own) ((i * 4 : Nat) : Int)) 4 .load)
      (fun b => decide (b = ({ spot := .flat (.scratch 0 (i * 4)) }, at1 (2 ^ 59 + own)))) = true
      ∧ (at1 (2 ^ 59 + own)).blocked (.flat (.scratch 0 (i * 4))) 4 false = false := by decide
  have h2 : ∀ i : Nat, i < bfpBytes 9 / 2 → gives ((at1 (2 ^ 59 + own)).reach (at1 (2 ^ 59 + own)).org (ptrAdd (9 * 2 ^ 59 + own + 256) ((i * 2 : Nat) : Int)) 2 .store)
      (fun b => decide (b = ({ spot := .flat (.scratch 0 (256 + i * 2)) }, at1 (2 ^ 59 + own)))) = true := by decide
  exact ⟨fun i hi => ⟨reached_at (h i hi).1, (h i hi).2⟩, fun i hi => reached_at (h2 i hi), by decide, by decide, by decide, by decide⟩

/-- What a monadic computation answers, as a check. -/
def yields {α : Type} (m : M α) (s : State) (p : α → State → Bool) : Bool :=
  match m s with
  | .ok (a, t) => p a t
  | .error _ => false
/-- PACKB from 32 fp32 elements of device memory to a block there: both pointers, the units read, the units written; LUTW from there. -/
theorem witness_Conversions_heads : (match headCheck (2 ^ 59 + glob) 4 32 .load true base with
      | .ok (_, t) => decide (t = base)
      | .error _ => false) = true
    ∧ (match headCheck (10 * 2 ^ 59 + 3 * 2 ^ 56 + glob + 256) 2 9 .store true base with
      | .ok (_, t) => decide (t = base)
      | .error _ => false) = true ∧ bfpBytes 10 / 2 = 9 := by decide
theorem witness_Conversions_spans : yields (spanReach 4 .load (spanPtrs (2 ^ 59 + glob) 4 32)) base (fun rs s1 => rs.length == 32
      && yields (spanReach 2 .store (spanPtrs (10 * 2 ^ 59 + 3 * 2 ^ 56 + glob + 256) 2 9)) s1 fun ws s2 => yields (pipeRead 4 rs) s2 fun r s3 => (match r with
        | .ok bs => bs.length == 128
        | .error _ => false) && ws.all fun w => (match w.2.spot with
          | .flat (.hbm _) => !s3.blocked w.2.spot 2 true
          | _ => false)) = true := by decide +kernel
theorem witness_Conversions_table : gives (base.reach base.org glob 16 .load) (fun r => r.1.spot == .flat (.hbm 0x4000) && !r.2.blocked r.1.spot 16 false && !r.2.dieHolds r.1.spot true
      && (match r.2.readGlobal base.org glob r.1 16 with
        | (.soon bs, _) => bs.length == 16
        | _ => false)) = true := by decide

/-! Single steps. -/

theorem test_vadd_bytes : after (exec (.vadd 0 0 0 2 1 7 3) (vset (vset base 1 0x01FF) 2 0x0101)) (fun t => V t 3 == 0x0200) = true := by decide
theorem test_vadd_predicated : after (exec (.vadd 1 0 0 2 1 7 3) ((vset (vset (vset base 1 0x0505) 2 0x0101) 3 0x0909).modMe fun c => { c with ls := { c.ls with p := [(1, 2)] } }))
    (fun t => V t 3 == 0x0609) = true := by decide
theorem test_vceq : after (exec (.vceq 0 0 0 2 1 0 1) (vset (vset base 1 0x80000000) 2 (2 ^ 32))) (fun t => P t 1 == 0xFD) = true := by decide
theorem test_vextr_sign : after (exec (.vextr 0 0 0 2 1 7 3) (vset (xset base 2 1) 1 0x8000)) (fun t => X t 3 == 0xFFFFFFFFFFFFFF80) = true := by decide
theorem test_vrsum : after (exec (.vrsum 0 0 0 0 1 6 3) (vset base 1 (0x7FFF + 2 ^ 16))) (fun t => V t 3 == 0x8000) = true := by decide
theorem test_vst_vld : after (exec (.vst 0 1 2) (vset (at1 own) 2 0xABCDEF)) (fun t => t.numAt (.scratch 0 0) 32 == 0xABCDEF) = true := by decide
theorem test_vsts_last : after (exec (.vsts 0 0 2 1 3) (vset (at1 (2 ^ 59 + own)) 3 (5 + 9 * 2 ^ 224))) (fun t => t.numAt (.scratch 0 0) 4 == 9) = true := by decide
theorem test_vadd_high : after (exec (.vadd 0 0 0 2 1 7 3) high) (fun t => (t.coreAt 0).ls.v == []) = true := by decide

/-! Witnesses: the matrix engine, sparse and chain forms. -/

/-- base with an allotment of 64 units and two configured rings of bf16, in slots that an MXA takes. -/
def roomy : State := base.modGroup 1 fun g => { g with units := 64, rings := [0, 1] }
def ringed (tp tq sp sq : Nat) : State := roomy.modCluster 0 fun c => { c with rings :=
  [(0, { owner := some 1, cfg := true, base := BitVec.ofNat 64 (tp * 2 ^ 59) + own, size := sp, cnt := 2, slots := [{}, {}] }),
    (1, { owner := some 1, cfg := true, base := BitVec.ofNat 64 (tq * 2 ^ 59) + own, size := sq, cnt := 2, slots := [{}, {}] })] }

/-- MatrixForms: configured rings of bf16 that fit, of i8, of different classes, an absent ring, an accumulator of another group, ranges. -/
theorem witness_MatrixForms : Idle (ringed 2 2 (slotBytes 2 0 128) (slotBytes 2 0 128)) ∧ AccOpen (ringed 2 2 (slotBytes 2 0 128) (slotBytes 2 0 128)) 0
    ∧ ((ringed 2 2 (slotBytes 2 0 128) (slotBytes 2 0 128)).ringOf 1 0).isSome = true ∧ base.ringOf base.fir.gid 0 = none ∧ base.fir.gid = 1
    ∧ (opFloat 2 = some (!(base.acc 0).issueI32) ∧ opFloat 2 = opFloat 2) ∧ opFloat 8 ≠ some (!(base.acc 0).issueI32) ∧ 2048 / max (opWidth 2) (opWidth 2) = 128
    ∧ EngineRoom roomy 1 ∧ Sound own ∧ own.toNat % 64 = 0 ∧ GroupRange roomy own 16384 0 ∧ GroupRange roomy (2 ^ 59 + own) 16384 0 := by
  refine ⟨by unfold Idle; decide, ?_, by decide, by decide, by decide, by decide, by decide, by decide, by unfold EngineRoom Settled; decide, by unfold Sound; decide,
    by decide, by unfold GroupRange InWindow; decide, by unfold GroupRange InWindow; decide⟩
  intro g h
  have h2 : ((ringed 2 2 (slotBytes 2 0 128) (slotBytes 2 0 128)).acc 0).holder = none := by decide
  rw [h2] at h
  cases h
theorem witness_MatrixForms_conflict : ¬ AccOpen (base.modCluster 0 fun c => { c with acc0 := { c.acc0 with holder := some 7 } }) 0 := fun h =>
  absurd (h 7 (by decide)) (by decide)
theorem witness_MatrixForms_ready : Ready roomy [xr 1, xr 2] [] := ready_of (by decide) (by decide) (by decide) _ _
/-- MatrixForms, status and markers: an accumulator of the own group, of none; a marker that is placed. -/
theorem witness_MatrixForms_status : (base.acc 0).holder ≠ some base.fir.gid ∧ ((base.modCluster 0 fun c => { c with acc0 := { c.acc0 with holder := some 1 } }).acc 0).holder = some base.fir.gid
    ∧ base.fir.kind = 0 ∧ base.ctx.aw = .none ∧ base.me.caRoom = true ∧ EngineRoom base 0
    ∧ (∃ x ∈ (base.modMe fun c => { c with ca := [{ id := 9, fid := 1, hidden := true, msg := some note }] }).me.ca, x.id = 9 ∧ x.msg ≠ none)
    ∧ (∀ m ∈ base.me.walksOn 0 base.fir.fid, (m.words.getD 2 0).toNat / 2 ^ 8 % 2 = 0) := by
  unfold EngineRoom Settled
  decide
/-- MatrixForms, rows: the last index and the first that is out of range. -/
theorem witness_MatrixForms_rows : (X (xset base 1 511) 1).toNat < 512 ∧ 512 ≤ (X (xset base 1 512) 1).toNat ∧ Ready base [xr 1, 512 + 3] [512 + 3] ∧ EngineRoom base 0
    ∧ (base.acc 1).holder = none := ⟨by decide, by decide, base_ready _ _, by unfold EngineRoom Settled; decide, by decide⟩
/-- SparseForms: MXAS of pattern 0 with a compressed and a full bf16 ring; counts of masks 0, 1, 2^20 and 2^20 + 1; MXCMP's ranges; a request sent. -/
theorem witness_SparseForms : ((ringed 2 2 (slotBytes 2 0 256) (slotBytes 2 0 128)).ringOf 1 1).isSome = true ∧ patternOf 0 = (2, 4, 4) ∧ (2 : Nat) ∈ [2, 3, 4, 5, 8]
    ∧ 2048 / opWidth 2 = 128 ∧ 128 * 4 / 2 = 256 ∧ OwnRange roomy own (maskBytes 4 (64 / 4 * (256 / 4))) 0
    ∧ roomy.blocked (.flat (.scratch 0 0)) (maskBytes 4 (64 / 4 * (256 / 4))) false = false ∧ badMask 2 4 [3, 5, 12] = none ∧ badMask 2 4 [3, 7] = some 1
    ∧ (X base 2).toNat = 0 ∧ 2 ^ 20 < (X (xset base 2 (2 ^ 20 + 1)) 2).toNat ∧ OwnRange roomy own (maskBytes 4 1) 0 ∧ EngineRoom roomy 2
    ∧ OwnRange roomy (4 * 2 ^ 59 + own) (64 * (2048 / 8 * 4 / 2) * elemSize 4) 0 ∧ OwnRange roomy (4 * 2 ^ 59 + own + 32768) (64 * (2048 / 8) * elemSize 4) 32768
    ∧ (base.modCtx fun x => { x with aw := .compared 4 }).ctx.aw = .compared 4 ∧ (∀ e ∈ (base.clusterAt 0).eng, e.id ≠ 4) := by
  unfold OwnRange InWindow EngineRoom Settled
  decide
/-- base with bond registers 0 (extent 1) and 1 (extent 256), and a configured boundary of bf16. -/
def boundary : ChainSt := { cfg := true, base := 2 * 2 ^ 59 + own, hsz := 8, fmt := 2, m := 1, u := 1, v := 1 }
def bonded : State := roomy.modMe fun c => { c with ls := { c.ls with b := [(0, 1), (1, 256)], chainI := boundary } }
/-- ChainForms: extents 1, 256, 0 and 257; TBND with a set and an unset bond, with room and without; TCON over extents of 1. -/
theorem witness_ChainForms : Idle bonded ∧ bonded.me.inH = false ∧ (1 ≤ (X (xset base 1 256) 1).toNat ∧ (X (xset base 1 256) 1).toNat ≤ 256) ∧ 256 < (X (xset base 1 257) 1).toNat
    ∧ Sound (2 * 2 ^ 59 + own) ∧ OwnRange bonded (2 * 2 ^ 59 + own) (64 * 8) 0 ∧ (Tab.get bonded.ls.b 2 0).toNat = 0 ∧ (Tab.get bonded.ls.b 0 0).toNat = 1 ∧ (Tab.get bonded.ls.b 1 0).toNat = 256
    ∧ 256 < (Tab.get (bonded.modMe fun c => { c with ls := { c.ls with b := [(0, 257)] } }).ls.b 0 0).toNat
    ∧ (bonded.ls.chainI).bytes 1 ≤ 8 * 32 ∧ 8 * 32 < (bonded.ls.chainI).bytes 256 ∧ bonded.chainBusy bonded.cur = false ∧ bonded.ls.chainI.cfg = true
    ∧ (bonded.acc 0).issueI32 = false ∧ (bonded.acc 0).holder = none ∧ EngineRoom bonded 1 := by
  refine ⟨by unfold Idle; decide, by decide, by decide, by decide, by unfold Sound; decide, by unfold OwnRange InWindow; decide, ?_⟩
  unfold EngineRoom Settled
  decide
theorem witness_ChainForms_step : yields (stepRegs 0 0 (2 * 2 ^ 59 + own + 1024) 0) bonded (fun x t => decide (t = bonded) && x.i == 1 && x.o == 1
      && decide (bonded.ls.chainI.outBytes x ≤ 8 * 32)
      && yields (linkCheck x true fun w => w) bonded fun _ t => decide (t.cores = bonded.cores) && decide (t.clusters = bonded.clusters) && decide (t.hbm = bonded.hbm)) = true
    ∧ 0 % 16 = bonded.ls.chainI.bond := by decide
/-- ChainForms, walks: a table of one step in the own scratchpad; a count of 0. -/
def tabled : State := (bonded.writeAt (.scratch 0 512) ([2 * 2 ^ 59 + own.toNat + 1024, 2 ^ 20].flatMap (leBytes 8)))
theorem witness_ChainForms_walks : tabled.ctx.aw = .none ∧ GroupRange tabled (own + 512) (16 * 1) 512 ∧ Unwatched tabled ∧ tabled.blocked (.flat (.scratch 0 512)) 16 false = false
    ∧ yields (walkSteps (own + 512) 0 0 1 (walkWords [2 * 2 ^ 59 + own + 1024, 2 ^ 20])) tabled (fun xs t => decide (t = tabled) && xs.length == 1
      && yields (walkLinks true xs) tabled fun _ t => decide (t = tabled)) = true
    ∧ tabled.me.ca.length + 1 ≤ 16 ∧ (X (xset base 2 1) 2).toNat % 2 ^ 7 = 1 ∧ (X base 2).toNat % 2 ^ 7 = 0 := by
  unfold GroupRange InWindow Unwatched
  decide

theorem test_mxz_mode : after (exec (.mxz 1 0) base) (fun t => (t.acc 0).issueI32 && (t.acc 0).holder == some 1 && (t.clusterAt 0).eng.length == 1) = true := by decide
theorem test_mxstat_free : after (exec (.mxstat 1 2) base) (fun t => X t 2 == 0) = true := by decide
theorem test_vaccr_range : after (exec (.vaccr 0 0 1 2) (xset base 1 512)) (fun t => (t.clusterAt 0).eng == []) = true := by decide
theorem test_mxmchk : after (exec (.mxmchk 0 1 2 3) (xset (xset (roomy.writeNum (.scratch 0 0) 1 0x73) 1 own) 2 2)) (fun t => X t 3 == 1) = true := by decide
theorem test_bset : after (exec (.bset 1 3) (xset base 1 256)) (fun t => Tab.get t.ls.b 3 0 == 256) = true := by decide

/-! Witnesses: copies, batches, schedules, rings. -/

/-- A copy of 8 bytes from device memory to the own scratchpad. -/
def copyIn : DCmd := { kind := 1, org := roomy.org, src := glob, dst := own, cnt := 8, own := true }
/-- A tile descriptor of 16 rows and 16 columns, one element of it moved. -/
def tileWords : List Word := [16 * 2 ^ 32 + 16, 0, 0, 0]
/-- CopyCommands: a legal command with room, one whose source tag is reserved, a pair that is not converted, the first reserved value of X[b], a full
batch and a full completion area. -/
theorem witness_CopyCommands : Idle roomy ∧ roomy.me.inH = false ∧ CopySound roomy copyIn ∧ ((X (xset base 2 8) 2).toNat < 2 ^ 48 ∧ (8 : Nat) / 2 ^ 34 % 4 = 0)
    ∧ (X (xset base 2 (15 * 2 ^ 36)) 2).toNat / 2 ^ 36 % 2 ^ 12 = 15 ∧ tagOk (13 * 2 ^ 59 : Word) = false ∧ ¬ Convertible own (2 ^ 59 + own) 0 true
    ∧ roomy.me.caRoom = true ∧ roomy.ls.batchSize < 256 ∧ (∀ x ∈ (roomy.clusterAt (roomy.cur / 8)).dealer, x.accepted = true)
    ∧ (roomy.clusterAt (roomy.cur / 8)).score.length + 1 ≤ 32 ∧ Settled roomy
    ∧ (roomy.modMe fun c => { c with ca := List.replicate 16 {} }).me.caRoom = false ∧ 256 ≤ (roomy.modMe fun c => { c with ls := { c.ls with batchSize := 256 } }).ls.batchSize := by
  refine ⟨by unfold Idle; decide, by decide, ?_, ?_⟩
  · unfold CopySound Sound Convertible
    refine ⟨by decide, by decide, by decide, by decide, by decide, by decide, .inr (.inl (by decide)), .inr (.inr (.inl ⟨0, by decide⟩))⟩
  · unfold Convertible Settled
    decide
theorem witness_CopyCommands_ready : Ready roomy [xr 1, xr 2, xr 3] [] := ready_of (by decide) (by decide) (by decide) _ _
/-- CTILE: a descriptor in device memory that is read and admitted, one that is not. -/
theorem witness_CopyCommands_tile : yields (readNow glob 32) (roomy.writeAt (.hbm 0x4000) (tileWords.flatMap fun w => leBytes 8 w.toNat)) (fun bs _ => decide (wordsOf bs = tileWords)) = true
    ∧ tileOk tileWords 1 1 = true ∧ tileOk [0, 0, 0, 0] 1 1 = false ∧ glob.toNat % 32 = 0 := by decide

/-- BatchForms: no placed batch completion, one without a fault, one that reports a fault. -/
def batched (w1 : Word) : State := roomy.modMe fun c => { c with ca := [{ id := 9, fid := c.l.fir.fid, msg := some { words := [0, 0, w1, 64], src := 3, fid := c.l.fir.fid, ord := 2 } }] }
theorem witness_BatchForms : roomy.me.batchesDone roomy.fir.fid = [] ∧ (roomy.me.unplaced roomy.fir.fid).length ≤ (X roomy 1).toNat ∧ roomy.fir.kind = 0
    ∧ ((batched 0).me.batchesDone (batched 0).fir.fid).length = 1 ∧ (∀ m ∈ (batched 0).me.batchesDone (batched 0).fir.fid, ¬ (m.words.getD 2 0).toNat / 2 ^ 8 % 2 = 1)
    ∧ (∀ m ∈ (batched 0x153).me.batchesDone (batched 0x153).fir.fid, (m.words.getD 2 0).toNat / 2 ^ 8 % 2 = 1) ∧ (Cause.ofCode (0x153 % 2 ^ 8)).isSome = true
    ∧ hand.fir.kind ≠ 0 ∧ hand.me.inH = false := by decide
/-- BatchForms, CSTAGE: a launch without a schedule, and one whose schedule of one entry for all ranks at stage 1 is read. -/
def scheduled : State :=
  let s := roomy.writeAt (.hbm 0x4000) ([BitVec.ofNat 64 (2 ^ 16 + 1), 0, 0, 0, glob, own, (8 : Word), BitVec.ofNat 64 (15 * 2 ^ 12 + 1)].flatMap fun w => leBytes 8 w.toNat)
  { s with launches := [((s.groupAt 1).launch, { s.launchAt (s.groupAt 1).launch with sched := glob })] }
theorem witness_BatchForms_stages : (base.launchAt base.grp.launch).sched = 0 ∧ (scheduled.launchAt scheduled.grp.launch).sched = glob
    ∧ yields (dealerRead glob 32) scheduled (fun hd t => (hd.getD 0 0).toNat / 2 ^ 16 % 2 ^ 12 == 1 && (hd.getD 0 0).toNat % 2 ^ 12 == 1
      && yields (dealerRead (ptrAdd glob 32) 32) t fun ws u => decide ((ws.getD 3 0).toNat % 2 ^ 12 = 1) && u.me.caRoom) = true
    ∧ scheduled.ls.stage = 0 := by decide

/-- RingForms: an absent ring, one that is not configured, one with a free and a full slot, words at the edges of the fields. -/
def ringOn (slots : List RSlot) (sub : Option Subs) : State := roomy.modCluster 0 fun c => { c with rings :=
  [(0, { owner := some 1, cfg := true, base := own, size := 64, cnt := 2, slots := slots, sub := sub }), (1, { owner := some 1 })] }
theorem witness_RingForms : base.ringOf base.fir.gid 0 = none ∧ ((ringOn [{}, { st := 2 }] none).ringOf 1 0).map (·.1) = some 0
    ∧ (((ringOn [{}, { st := 2 }] none).ringOf 1 1).map fun e => e.2.cfg) = some false ∧ (((ringOn [{}, { st := 2 }] none).ringOf 1 0).map fun e => e.2.cfg) = some true
    ∧ ((X (xset base 2 (2 ^ 16 + 1)) 2).toNat < 2 ^ 22 ∧ (2 ^ 16 + 1) / 2 ^ 14 % 4 = 0) ∧ (X (xset base 2 (2 ^ 14)) 2).toNat / 2 ^ 14 % 4 ≠ 0
    ∧ (roomy.grp.holds 0 (1 * 64 * 2) = true) ∧ (∀ j, j < 2 → [({} : RSlot), { st := 2 }].getD j {} ≠ { st := 1, holder := 1000 })
    ∧ [({} : RSlot), { st := 1, holder := 1000 }].getD 1 {} = { st := 1, holder := 1000 } ∧ (ringOn [{}, { st := 1, holder := 1000 }] none).slotQuiet 0 64 128 = true
    ∧ (∃ x ∈ [({} : RSlot), { st := 1, holder := 1000 }], x.st = 1 ∨ x.st = 3) := by decide
/-- RingForms, subscriptions: a tensor of 2 by 32 bytes in tiles of one slot that is read and admitted, reserved tiling bits, a tile of another size, rings with a
subscription that moves a tile and that moves none. -/
def tensor : List Word := [glob, 32 * 2 ^ 32 + 2, 32, 31 * 2 ^ 12 + 1]
theorem witness_RingForms_subscriptions : tilingBad false (31 * 2 ^ 12 + 1) = false ∧ tilingBad false (2 ^ 25) = true ∧ tilingBad true (2 ^ 32) = true
    ∧ yields (readNow glob 32) ((ringOn [{}, {}] none).writeAt (.hbm 0x4000) (tensor.flatMap fun w => leBytes 8 w.toNat)) (fun bs t => decide (wordsOf bs = tensor)
      && !t.tensorBad tensor (31 * 2 ^ 12 + 1) && t.tensorBad [0, 0, 0, 0] 0 && t.me.caRoom && t.svcs.isEmpty && t.rows.isEmpty) = true
    ∧ (1 + 1) * 32 = 64 ∧ (((ringOn [{}, {}] (some { id := 5 })).ringOf 1 0).bind fun e => e.2.sub.map (·.busy)) = some none
    ∧ (((ringOn [{}, {}] (some { id := 5, busy := some 0 })).ringOf 1 0).bind fun e => e.2.sub.map (·.busy)) = some (some 0) := by decide

theorem test_copy_accepted : after (exec (.copy 0 1 2 3) (xset (xset (xset roomy 1 glob) 2 8) 3 own)) (fun t => ((t.clusterAt 0).dealer.map (·.accepted)) == [true]
    && t.ls.copySeq == 1 && t.ls.batchSize == 1) = true := by decide
theorem test_copy_batch_full : after (exec (.copy 0 1 2 3) ((xset (xset (xset roomy 1 glob) 2 8) 3 own).modMe fun c => { c with ls := { c.ls with batchSize := 256 } }))
    (fun t => (t.clusterAt 0).dealer == []) = true := by decide
theorem test_seal : after (exec (.sealB 3) (roomy.modMe fun c => { c with ls := { c.ls with seals := 4, batchSize := 2 } })) (fun t => X t 3 == 4 && t.ls.seals == 5
    && t.ls.batchSize == 0) = true := by decide
theorem test_rcfg : after (exec (.rcfg 0 0 2 1 1) (xset (xset (ringOn [] none) 1 own) 2 (2 ^ 16 + 1))) (fun t => (Tab.get (t.clusterAt 0).rings 1 {}).size == 64
    && (Tab.get (t.clusterAt 0).rings 1 {}).slots.length == 2) = true := by decide
theorem test_rpop : after (exec (.rpop 0 3) ((ringOn [{ st := 2 }, {}] none))) (fun t => X t 3 == own && (Tab.get (t.clusterAt 0).rings 0 {}).r == 1) = true := by decide
theorem test_rstat : after (exec (.rstatRing 1 3) (ringOn [{}, {}] none)) (fun t => X t 3 == 0) = true := by decide

/-! Witnesses: the events of a core, of messages, of service requests, of the dealer and of the engine. -/

/-- CoreEvents: complete producers of x3, f3 and v3; an active repetition of one word; a port that may prefetch; a push that has its value; a waiting
cause. -/
def producing (r : Nat) : State := base.modCtx fun x => { x with pend := [{ id := 9, reg := r, val := 5 }], empty := [r] }
theorem witness_CoreEvents : (∀ r ∈ [3, 256 + 3, 512 + 3], (((producing r).coreAt 0).ctxAt false).pend.find? (fun p => p.reg == r && p.wait == 0) = some { id := 9, reg := r, val := 5 })
    ∧ (base.modCtx fun x => { x with causes := [(.accRange, 4)] }).ctx.causes = (.accRange, 4) :: [] ∧ base.ctx.fir.active = true ∧ base.ctx.aw.busy = false
    ∧ (base.coreAt 0).faultDue = none ∧ (base.coreAt 0).pageWait = none ∧ (base.coreAt 0).h.fir.active = false := by decide
/-- The repeat state of one FADD.S run twice. -/
def repeating : Rep := { body := 0x100004, len := 1, count := 2, words := [0x002081D3] }
theorem witness_CoreEvents_rep : (base.modLs fun l => { l with rep := repeating }).lMoves 0 = true ∧ (base.modLs fun l => { l with rep := repeating }).breaks 0 0x100004 = false
    ∧ (match bodyEffect (.faddS 2 1 0 3) with
      | some m => yields m (base.modLs fun l => { l with rep := repeating }) fun _ t => t.cur == 0
      | none => false) = true ∧ decodeBody 0x002081D3 = .ok (.faddS 2 1 0 3) := by decide
theorem witness_CoreEvents_ports : (ported.coreAt 0).mayPrefetch 0 = true
    ∧ (match State.formItem { ported with cur := 0 } 0 (ported.lOrg 0) (ported.portAt 0) 1 with
      | .got it t => it.fail.isNone && t.cur == 0
      | _ => false) = true
    ∧ (∀ sp ∈ [Spot.flat (.scratch 0 64)], ported.stalled sp 4 true = false ∧ ported.served 0 sp 4 = false)
    ∧ (∀ d ∈ ({ spots := [.flat (.scratch 0 64)], unit := 4, val := [1, 2, 3, 4] } : Push).dests, ported.destWaits 0 d = none)
    ∧ ({ spots := [.flat (.scratch 0 64)], unit := 4 } : Push).gone = false ∧ ({ spots := [.flat (.scratch 0 64)], unit := 4 } : Push).abroad = []
    ∧ ({ spots := [.flat (.remote 5 64)], unit := 4, val := [1, 2, 3, 4] } : Push).abroad ≠ [] := by decide

/-- FiringStarts: an H message on a core with a free H context; an idle core with a ready handler, with a launch firing due. -/
def resting : State := base.modMe fun c => { c with l := {}, bound := some 1 }
/-- A message of handler 16, whose entry starts at 0x100000 and consumes one message. -/
def first : Msg := { note with entry := 0x100000 }
theorem witness_FiringStarts : (base.coreAt 0).h.fir.active = false ∧ (base.coreAt 0).pageWait = none ∧ (base.coreAt 0).fifthFault = false ∧ base.lStopped 0 = false ∧ (base.coreAt 0).step = 0
    ∧ base.egressFits 0 true (entProd first.entry.toNat) = true
    ∧ ((resting.coreAt 0).hq = [] ∧ (resting.coreAt 0).l.fir.active = false ∧ resting.lStopped 0 = false ∧ (resting.coreAt 0).step = 0 ∧ (resting.coreAt 0).faultDue = none
      ∧ resting.dueFiring 0 = none) ∧ oldest (resting.coreAt 0).readyHandlers = none ∧ resting.egressFits 0 false (entProd first.entry.toNat) = true
    ∧ ((oldest ((resting.modMe fun c => { c with lq := [{ first with entry := 0x100000 }] }).coreAt 0).readyHandlers).map (·.msgs.length)) = some 1
    ∧ (resting.modMe fun c => { c with launchDue := some 1 }).me.launchDue = some 1 := by decide

/-- MessageEvents: a message in flight whose target and entry are found, one whose are not; a validated message with room; an error reply. -/
def inFlight (st : Nat) : Flight := { org := base.org, dst := 0, words := note.words, hdl := 16, st := st, gid := 1, entry := 0x100000 }
theorem witness_MessageEvents : Tab.find? { base with flights := [(7, inFlight 0)] }.flights 7 = some (inFlight 0)
    ∧ (inFlight 0).pkg = none ∧ base.flightAwaited (inFlight 0) = false ∧ flightBefore (7, inFlight 0) (7, inFlight 0) = false
    ∧ (match base.flightTarget (inFlight 0) with
      | .ok (k, g) => k == 0 && g == 1 && (match base.flightEntry (inFlight 0) k g with
        | .ok _ => false
        | .error c => c == .handlerTableRange)
      | .error _ => false) = true
    ∧ { base with flights := [(7, inFlight 1)] }.savedBox (inFlight 1) = none ∧ base.clusterIn 0 0 = true ∧ (base.coreAt 0).lq.length < Config.lSlots
    ∧ (base.coreAt 0).bound = some 1 ∧ (base.modMe fun c => { c with bound := none }).me.bound ≠ some 1
    ∧ ((base.coreAt 0).ctxAt false).fir.fid = base.org.fid ∧ base.lastPushes = [] ∧ ((base.coreAt 0).ctxAt false).causes.length < 4
    ∧ Tab.find? { base with errs := [(7, { org := base.org, cause := .accRange })] }.errs 7 = some { org := base.org, cause := .accRange } := by decide
/-- A handler that the group has registered is found. -/
def registered : State :=
  let s := base.writeNum (.hbm 0x4000) 8 (2 ^ 63 + 0x100000)
  { s with launches := [((s.groupAt 1).launch, { s.launchAt (s.groupAt 1).launch with n := 1, tab := glob })] }
theorem witness_MessageEvents_entry : (match registered.flightEntry (inFlight 0) 0 1 with
    | .ok e => e == 2 ^ 63 + 0x100000
    | .error _ => false) = true := by decide

/-- ServiceEvents: a read of the own scratchpad that is allotted, offline, out of the allotment; served; answered. -/
def asking (st off : Nat) : Svc := { org := base.org, ask := { idx := 0 }, cl := 0, off := off, va := own, st := st }
theorem witness_ServiceEvents : Tab.find? { base with svcs := [(7, asking 0 0)] }.svcs 7 = some (asking 0 0) ∧ base.dieLeft 0 = false
    ∧ base.holderOf 0 0 0 0 8 ≠ none ∧ base.holderOf 0 0 0 0x7FFF8 8 = none ∧ base.dieLeft 3 = true
    ∧ ({ base with svcs := [(7, asking 1 0)], clusters := [(0, { base.clusterAt 0 with amoQ := [7] })] } : State).nextIncoming 0 = some (7, asking 1 0)
    ∧ (match base.perform base.org own (.scratch 0 0) { idx := 0 } with
      | .ok (ws, _) => decide (ws = [0])
      | .error _ => false) = true
    ∧ (producing 3).ctx.pend.find? (·.id == 9) = some { id := 9, reg := 3, val := 5 } ∧ (base.modCtx fun x => { x with aw := .sent 7 }).ctx.aw = .sent 7
    ∧ (∀ e ∈ base.clusters, 64 ∉ e.2.leases) ∧ (base.clusterAt 0).leases.length < Config.camLines
    ∧ Config.camLines ≤ (List.range Config.camLines).length := by decide
/-- A queue row to be written beside its header, and a sleeping waiter whose barrier has moved on. -/
theorem witness_ServiceEvents_rows : Tab.find? { base with rows := [(7, { hdr := .scratch 0 0, spot := .flat (.scratch 0 64), val := 5 })] }.rows 7
      = some { hdr := .scratch 0 0, spot := .flat (.scratch 0 64), val := 5 } ∧ base.stalled (.flat (.scratch 0 64)) 8 true = false
    ∧ (base.needsDie 0 (.flat (.scratch 0 64)) false).filter (base.dieWaits 0 (.flat (.scratch 0 64))) = none
    ∧ (∀ i, i < 32 → ∀ j, j < 8 → (Loc.scratch 0 0).plus i ≠ (Loc.scratch 0 64).plus j) ∧ 0 = base.wordAt (.scratch 0 0) 1 % 2 ^ 32
    ∧ (base.writeNum (.scratch 0 0) 8 (4 * 2 ^ 32)).waiterReady { kind := 0, obj := .scratch 0 0, gen := 3, k := 0 } = true
    ∧ (base.modCtx fun x => { x with aw := .asleep }).ctx.aw = .asleep := by decide

/-- DealerEvents: a waiting command with room and one with a cause; an accepted copy within the own scratch; a sealed batch without commands; the entries
of a command that has ended. -/
def inner : DCmd := { id := 5, kind := 1, org := roomy.org, src := own, dst := own + 64, cnt := 8, own := true }
def dealing (d : DCmd) : State := roomy.modCluster 0 fun c => { c with dealer := [d] }
theorem witness_DealerEvents : ((dealing inner).clusterAt 0).dealer.find? (fun x => !x.accepted) = some inner ∧ ((dealing inner).clusterAt 0).score.length + 1 ≤ 32
    ∧ ((dealing { inner with accepted := true }).clusterAt 0).dealer.find? (fun x => x.id == 5 && x.accepted) = some { inner with accepted := true }
    ∧ ((roomy.groupAt 1).holds 0 8 = true ∧ (roomy.groupAt 1).holds 64 8 = true) ∧ tagOf inner.src = tagOf inner.dst ∧ (0 + bytesFor 0 8 ≤ 64)
    ∧ (match (dealing { inner with accepted := true }).runCopy 0 { inner with accepted := true } with
      | .done bs [] _ => bs.length == 8
      | _ => false) = true
    ∧ (reportable 31).isSome = true ∧ reportable 1 = none
    ∧ (roomy.batchReady 0 [{ fid := 1, bid := 3, isSealed := true, id := 4 }]).isSome = true
    ∧ (dealing { inner with accepted := true }).dealerHeld 0 { inner with accepted := true } = false
    ∧ (∃ x ∈ ((roomy.modCluster 0 fun c => { c with score := [{ id := 5 }] }).clusterAt 0).score, x.id = 5) := by decide
/-- A copy into another package's memory has its writes to send. -/
theorem witness_DealerEvents_away : (match (abroad.modGroup 1 fun g => { g with units := 64 }).runCopy 0 { inner with dst := far5, accepted := true } with
    | .done bs todo _ => bs.length == 8 && !todo.isEmpty
    | _ => false) = true := by decide
theorem witness_DealerEvents_free : Unhindered (dealing { inner with accepted := true }) 0 5 ∧ Sound own ∧ Sound (own + 64)
    ∧ Reserved (roomy.modMe fun c => { c with ca := [{ id := 5, fid := c.l.fir.fid }] }) roomy.org 5 := by
  unfold Unhindered Sound Reserved
  decide

/-- DealerEvents, tiles: a subscribed ring with a free slot and a drained ring with a full one, of two rows of 32 bytes. -/
def tiling (out : Bool) (st : Nat) : State := ringOn [{ st := st }, {}] (some { out := out, org := roomy.org, id := 5, desc := tensor, tiling := 31 * 2 ^ 12 + 1, total := 1 })
theorem witness_DealerEvents_tiles : (∀ c ∈ [(false, 0), (true, 2)], (match (tiling c.1 c.2).takeTile 0 0 with
      | some (s1, x, k) => k == 0 && x.tile == 0 && x.out == c.1 && !x.moved && (match s1.tilePieces { x.org with h := false } (if x.out then .store else .load) (x.rows x.tile) with
        | .ok (ps, s2) => (s1.stuckPiece 0 ps).isNone && !anyAbroad ps
          && (match s2.piecesBytes (tileOwner 0 0 false) ps with
            | some (.ok bs) => bs.length == 64
            | _ => false)
          && (s1.clusterAt 0).score.all fun m => m.id != x.id || !conflicts x.id m.rd m.wr (s1.clusterAt 0).score
        | .error _ => false)
      | none => false) = true) := by decide

/-- EngineEvents: a command that has not arrived, a step whose slots are full, and commands that are the oldest on their accumulator. -/
def engine (op : EOp) (arrived : Bool) : State := (ringed 2 2 (slotBytes 2 0 128) (slotBytes 2 0 128)).modCluster 0 fun c =>
  { c with eng := [{ id := 5, org := roomy.org, op := op, arrived := arrived }], rings := c.rings.map fun e => (e.1, { e.2 with slots := [{ st := 2 }, {}] }) }
theorem witness_EngineEvents : (((engine (.mxz 0 0) false).clusterAt 0).eng.find? fun x => !x.arrived).isSome = true
    ∧ ((((engine (.mxa 0 0 1 []) true).freeArray 0).clusterAt 0).nextStep.map (·.id)) = some 5 ∧ (roomy.groupAt 1).stopping = false
    ∧ (((engine (.mxa 0 0 1 []) true).stepSlots 1 0 1).map fun p => (p.1.1, p.1.2.2, p.2.1, p.2.2.2)) = some (0, 0, 1, 0)
    ∧ conflicts 5 [(0, 16384)] [] ((engine (.mxa 0 0 1 []) true).clusterAt 0).score = false
    ∧ (((engine (.mxa 0 0 1 []) true).modCluster 0 fun c => { c with drain := [5], eng := c.eng.map fun x => { x with slots := [(0, 0), (1, 0)] } }).clusterAt 0).oldest.map (·.slots)
      = some [(0, 0), (1, 0)] ∧ ((engine (.mxz 0 0) true).clusterAt 0).selfTest = false
    ∧ (((engine (.mxz 0 0) true).modCluster 0 fun c => { c with selfTest := true }).clusterAt 0).selfTest = true := by decide
theorem witness_EngineEvents_oldest (op : EOp) (h : op ∈ [EOp.mxz 0 0, .mxrd 0 0 own, .mxwr 0 own, .vaccr 0 0 9 false, .vaccw 0 0 5, .sync 0 4]) :
    OldestOn ((engine op true).clusterAt 0) 0 { id := 5, org := roomy.org, op := op, arrived := true } ∧ Unhindered (engine op true) 0 5 := by
  refine ⟨⟨rfl, ?_, [], [], ?_, fun x hx => by cases hx⟩, ?_⟩
  · revert op
    decide
  · rfl
  · unfold Unhindered
    revert op
    decide

/-- ArrayEvents: a pruning that has the array, with its ranges apart; a chain step on its turn and a started one, with a link in the own window. -/
def walking (started : Bool) : State := bonded.modCluster 0 fun c => { c with array := if started then some 5 else none, eng := [{
  id := 5, org := roomy.org, arrived := true, started := started
  op := .walk 0 [{ link := 2 * 2 ^ 59 + own + 1024, dl := 1, dr := 1, o := 1, i := 1 }] 0 false false 0 [] [] boundary }] }
theorem witness_ArrayEvents : (((walking false).freeArray 0).clusterAt 0).chainNext.map (·.id) = some 5 ∧ ((walking true).clusterAt 0).oldest.map (·.id) = some 5
    ∧ (roomy.groupAt 1).stopping = false
    ∧ boundary.outBytes { link := 2 * 2 ^ 59 + own + 1024, dl := 1, dr := 1, o := 1, i := 1 } ≤ boundary.hsz * 32
    ∧ 0xFFFFE0000000 ≤ (2 * 2 ^ 59 + own + 1024).toNat % 2 ^ 48
    ∧ (let r := boundary.ranges { link := 2 * 2 ^ 59 + own + 1024, dl := 1, dr := 1, o := 1, i := 1 }
      (r.1.drop 1).all (fun r' => r.2.all fun w => !meets r' w) && !conflicts 5 r.1 r.2 ((walking false).clusterAt 0).score) = true
    ∧ (((engine (.mxcmp 0 own own own) true).modCluster 0 fun c => { c with array := some 5 }).clusterAt 0).oldest.map (·.id) = some 5
    ∧ (0 + 64 * (2048 / opWidth 4 * 4 / 2) * elemSize 4 ≤ 32768 ∧ 32768 + 64 * (2048 / opWidth 4) ≤ 49152) := by decide

theorem test_landing : after (exec (.registerLanding 0 false 3) (producing 3)) (fun t => X t 3 == 5 && t.ctx.empty == []) = true := by decide
theorem test_rep_instance : after (exec (.repeatInstanceIssue 0) (base.modLs fun l => { l with rep := repeating })) (fun t => t.ls.rep.iter == 1
    && (t.coreAt 0).instret == 1 && t.ctx.pc == 0x100000) = true := by decide
theorem test_launch_start : after (exec (.firingStart 0) (resting.modMe fun c => { c with launchDue := some 1 })) (fun t => (t.coreAt 0).l.fir.active
    && (t.coreAt 0).l.fir.kind == 0 && (t.coreAt 0).l.fir.gid == 1) = true := by decide
theorem test_validation_refuses : after (exec (.messageValidation 7) { base with flights := [(7, inFlight 0)] }) (fun t => t.flights == [] && t.errs.length == 1) = true := by
  decide
theorem test_mxz_performed : after (exec (.mxzPerformed 0 0) (engine (.mxz 0 1) true)) (fun t => ((t.clusterAt 0).acc 0).i32 && (t.clusterAt 0).eng == []) = true := by decide
theorem test_lease_evicts : after (exec (.leaseEviction 0) (base.modCluster 0 fun c => { c with leases := List.range Config.camLines })) (fun t =>
    ((t.clusterAt 0).leases.length == Config.camLines - 1) && !(t.clusterAt 0).leases.contains (Config.camLines - 1)) = true := by decide

/-! Witnesses: the dispatcher, groups, translation, faults, limits, clocks, dies, the fabric, the host, power and debugging. -/

/-- base booted, with a work queue of one launch record at 0x8000. -/
def queued (words : List Nat) : State :=
  let s := base.writeAt (.hbm 0x8000) (words.flatMap (leBytes 8))
  { s with dev := { s.dev with boot := 1 }, hostq := [(0, { qbase := 0x8000, qcfg := 2 ^ 63, qprod := 1 })] }
def launchWords : List Nat := [2 ^ 60 + 16 * 2 ^ 12 + 16, 2 ^ 52, 0, 0, 5 * 2 ^ 48, 0, 0, 0]
/-- DispatchEvents: an entry whose turn it is, valid and not; a launch with groups to hand over; graphs. -/
theorem witness_DispatchEvents : (match (queued launchWords).pickQueue with
      | some (qn, s1) => qn == 0 && (match s1.entryWords (s1.hq qn) with
        | some ws => recF ws 0 60 4 == 1 && recValid (s1.partAt 0).csr.lim ws && !s1.lidActive 0 0 5 && s1.hasPool 0 0 && s1.vdiesHeld 0 == [0]
        | none => false)
      | none => false) = true
    ∧ (match (queued [0]).pickQueue with
      | some (qn, s1) => (match s1.entryWords (s1.hq qn) with
        | some ws => decide (recF ws 0 60 4 ∉ [1, 2, 3, 4])
        | none => false)
      | none => false) = true
    ∧ ({ base with launches := [(3, { st := 1, ngrp := 2 })] }.launchAt 3).handed < ({ base with launches := [(3, { st := 1, ngrp := 2 })] }.launchAt 3).ngrp
    ∧ (∀ e ∈ ({ base with launches := [(3, { st := 1, ngrp := 2 })] } : State).launches, e.2.before { st := 1, ngrp := 2 } = false)
    ∧ ({ base with launches := [(3, { st := 1, ngrp := 2 })] }.roomDie 0 8 false) = some 0
    ∧ (recF [BitVec.ofNat 64 5, 0] 0 0 12 ≠ 0 ∧ (2 ^ 12 + 5) / 2 ^ 12 % 2 ^ 12 = 1)
    ∧ (match base.jobWords 0 0 0x4000 4 with
      | .ok img => img.length == 4
      | .error _ => false) = true
    ∧ Tab.find? base.graphs (graphKey 0 0 5) = none ∧ base.graphRuns (graphKey 0 0 5) = false
    ∧ recF [BitVec.ofNat 64 (2 * 2 ^ 60 + 3 * 2 ^ 48 + 2), 0] 0 60 4 = 2 := by decide
/-- A die that is idle and one neighbour of its partition; a launch past its limit. -/
def pair : State := ({ base with quads := base.quads ++ [(4, 0)], dies := base.dies ++ [(1, { online := true, running := true })] } : State).modPart 0 fun p => { p with vdies := [(0, { sock := some 0, quads := [0] }), (1, { sock := some 1, quads := [0] })] }
theorem witness_DispatchEvents_steal : (pair.partAt 0).made = true ∧ (pair.partAt 0).shadow = false ∧ pair.sockOf 0 0 = some 0 ∧ pair.dieIdle 0 1 = true ∧ (Tab.get (pair.partAt 0).vdies 0 {}).steal = false
    ∧ (sockNeighbours 0).filterMap (pair.vdieOf 0) ≠ [] ∧ pair.readyLen 0 1 false < 1024
    ∧ ({ base with launches := [(3, { st := 1, lid := 5, lim := 10, k15 := 0 })], time := 11 }.launchAt 3).lim < ({ base with time := 11 } : State).time.toNat := by decide
/-- A ready group of the other die that an idle die takes. -/
theorem witness_DispatchEvents_answer : ({ pair with groups := base.groups ++ [(9, { st := 1, launch := 3, vdie := 1, aff := 8 })], ready := [(readyKey 0 1 false, [9])], launches := [(3, { st := 1, scr := 1 })] } : State).stealable 0 1
    = some 9 := by decide

/-- GroupEvents: a waiting group that fits, one that others passed for its time, one stopped, one with nothing left, one to be killed. -/
def waiting : State := { base with groups := base.groups ++ [(9, { st := 1, launch := 3 })], ready := [(readyKey 0 0 false, [9])], launches := base.launches ++ [(3, { st := 1, scr := 1 })] }
theorem witness_GroupEvents : (waiting.pickGroup 0 [] []).isNone = true ∧ ((waiting.pickGroup 0 [] [9]).map (·.1)) = some 9 ∧ (waiting.groupAt 9).img = none
    ∧ waiting.pageOf 9 = none ∧ (match waiting.pickGroup 0 [] [9] with
      | some (_, f, past) => decide (f.cores.Nodup) && (f.cores.all fun k => k / 8 == f.cl) && past.isEmpty
      | none => false) = true
    ∧ (({ waiting with time := 100000 }.modGroup 9 fun g => { g with passed := true }).groupAt 9).since + 100000 ≤ 100000
    ∧ (base.groupAt 1).st ≠ 4 ∧ (base.groupAt 1).st ≠ 5 ∧ (Tab.find? base.groups 1).isSome = true ∧ rerunCause .watchdog = false
    ∧ (base.partAt 0).shadow = false ∧ waiting.stillSaving (waiting.groupAt 9).preAsked = false := by decide
/-- A high-priority group that has waited while the one group it may displace holds the cluster. -/
def pressing : State := { base with
  time := 100000
  groups := [(1, { base.groupAt 1 with units := 128 }), (9, { st := 1, launch := 3, job := 1 })]
  ready := [(readyKey 0 0 true, [9])]
  launches := [(2, { base.launchAt 2 with pre := true }), (3, { st := 1, job := 1, scr := 1, pri := true })]
  clusters := base.clusters ++ ((List.range 63).map fun i => (i + 1, { retired := true })) }
theorem witness_GroupEvents_victim : pressing.fitDie (pressing.groupAt 9) 0 = none ∧ pressing.victim (pressing.groupAt 9) = some 1 ∧ (pressing.launchAt 3).inv = none
    ∧ pressing.stillSaving (pressing.groupAt 9).preAsked = false := by decide
/-- GroupEvents: a pre-empted group with its cores free, whose image is read. -/
def imaged : State := ({ base with groups := [(1, { base.groupAt 1 with st := 3, img := some { va := 0x20000000 } })] } : State).modMe fun c => { c with l := {}, bound := none, armed := false }
theorem witness_GroupEvents_resume : imaged.groupFree 1 { va := 0x20000000 } = true ∧ (match imaged.restoreGroup 1 { va := 0x20000000 } with
      | .ok _ => true
      | _ => false) = true := by decide
/-- A group whose core holds nothing is complete. -/
theorem witness_GroupEvents_done : ((base.modMe fun c => { c with l := {}, armed := false }).groupDone 1) = true := by decide

/-- TranslationEvents: an address that the tables map; an invalidation; a page-ready command for cluster 0 and for a cluster that is not there. -/
theorem witness_TranslationEvents : Tab.find? base.quads (0 / 64 * 4 + quadOf (0 % 64)) = some 0 ∧ (match (base.dieWalk 0 0 0x4000 3 (base.rootOf 0 0) (base.dieAt 0).walks).1 with
      | .leaf .. => true
      | _ => false) = true
    ∧ base.walkersFull 0 = false ∧ Tab.find? { base with invals := [(7, { cls := [0] })] }.invals 7 = some { cls := [0] } ∧ base.usesRun { cls := [0] } 0 = false ∧ base.clusterOf 0 0 0 = some 0
    ∧ base.clusterOf 0 0 63 = none ∧ (base.namedGroup 0 0 0 0).isSome = true ∧ base.namedGroup 0 0 0 9 = none := by decide

/-- FaultEvents and TrapTaking: causes of the dispositions K, H, D and P; a group with and without a fault handler; room in the notice queue. -/
def registeredFault : State :=
  let s := base.writeNum (.hbm 0x4000) 8 (2 ^ 63 + 0x100000)
  { s with launches := [((s.groupAt 1).launch, { s.launchAt (s.groupAt 1).launch with n := 1, tab := glob, flt := 16 })] }
theorem witness_TrapTaking : Cause.disposition .accRange = .handler ∧ Cause.disposition .watchdog = .kill ∧ Cause.disposition .loadPageFault = .park
    ∧ Cause.disposition .debugBreakpoint = .debug ∧ base.me.inH = false ∧ high.me.inH = true ∧ base.me.pageWait = none ∧ (base.groupAt 1).halted = false
    ∧ base.faultEntry 1 0 = none ∧ registeredFault.faultEntry 1 0 = some (2 ^ 63 + 0x100000) ∧ registeredFault.egressFits 0 false 0 = true
    ∧ (base.partAt 0).ntqRoom = true ∧ base.pageOf 1 = none ∧ base.fir.sup = false ∧ base.fir.kind ≠ 2 ∧ sup.fir.sup = true
    ∧ Cause.accRange ∉ [Cause.fabricUnreachable, .remoteDenied] := by decide
theorem witness_TrapTaking_saves : (match registeredFault.saveFiring 0 Cause.accRange.code 4 0 true true 1 with
      | .ok .. => true
      | _ => false) = true
    ∧ (match base.saveFiring 0 Cause.loadPageFault.code 4 0 true false 2 with
      | .ok .. => true
      | _ => false) = true := by decide
/-- FaultEvents: a parked firing that is due is restored; a completion goes into its frame. -/
def parked : State := resting.modMe fun c => { c with slots := [(0, { st := 3, ready := 1, fir := base.ctx.fir, ca := [{ id := 5 }] })] }
theorem witness_FaultEvents_restored : (match parked.restoreFiring 0 0 0 false with
      | .ok _ => true
      | _ => false) = true
    ∧ (match parked.moment.2.writeCompl { base.org with sup := true } (parked.imageVa 0 0) (parked.imageVa 0 0 + 0x2000) 32 [] 0 0 { gid := 1, id := 5 } with
      | .ok _ => true
      | .error _ => false) = true := by decide
theorem witness_FaultEvents : ((base.modMe fun c => { c with faultDue := some (.accRange, 4, 0, true) }).coreAt 0).faultDue = some (.accRange, 4, 0, true)
    ∧ Cause.accRange.disposition ∉ [Disposition.park, .debug] ∧ (base.coreAt 0).freeSlot = some 0
    ∧ (resting.modMe fun c => { c with slots := [(0, { st := 3, ready := 1, fir := base.ctx.fir })] }).dueFiring 0 = some (0, 0, 1) ∧ parked.egressFits 0 false base.fir.prod base.fir.fid = true
    ∧ Tab.find? { base with frameCompls := [(7, { gid := 1, id := 5 })] }.frameCompls 7 = some { gid := 1, id := 5 }
    ∧ ((base.modMe fun c => { c with slots := [(0, { st := 2, ca := [{ id := 5 }] })] }).slotHolding [0] 5).map (fun e => (e.1, e.2.1)) = some (0, 0)
    ∧ base.slotHolding [0] 5 = none ∧ ((base.modMe fun c => { c with ca := [{ id := 5 }] }).coreAt 0).ca.any (·.id == 5) = true := by decide

/-- LimitEvents: rows with and without their spare; a core that can run again, one with a group; firings that have waited; requests to another die past their
deadline. -/
theorem witness_LimitEvents : base.rerunReady 0 = true ∧ base.groupOnCore 0 = [1] ∧ ((base.coreAt 0).ctxAt true).fir.active = false ∧ 0 ∉ (base.clusterAt 0).spareUsed ∧ 0 ∈ ((base.modCluster 0 fun c => { c with spareUsed := [0] }).clusterAt 0).spareUsed := by decide
theorem witness_LimitEvents_waits : ({ base with time := 1000000 }.modCtx fun x => { x with waitAt := some 0 }).ctx.waitAt = some 0 ∧ 0 + 1000000 ≤ ({ base with time := 1000000 } : State).time.toNat
    ∧ base.waitingAt 0 false = some 0x00500093 ∧ blockingWord 0x00500093 = false ∧ endingWord 0x00500093 = false ∧ endingWord 0x3800100B = true ∧ base.sendStuck 1 1 = false
    ∧ base.behindPage 0 = false ∧ base.streamWait 0 0x00500093 = false ∧ (base.coreAt 0).step ≠ 1 ∧ base.saveHeld 0 .accRange = false ∧ base.lastPushes = [] ∧ 0 + 4096 ≤ ((base.modPart 0 fun p => { p with vdies := [(0, { sock := some 0, cyc := 20 * 4096 })] }).cycles 0 0).toNat
    ∧ (asking 0 0).cl / 64 ≠ 512 / 512 ∧ ({ base with time := 10 ^ 9 } : State).deadlineOf 0 1 0 ≤ 10 ^ 9 := by decide

/-- ClockEvents: a die for which no step waits; multipliers 16 and 50 and the first outside; a die that is open; an announced step 1,000 ticks on; a stopped die 1,600 ticks on. -/
theorem witness_ClockEvents : base.stepWaits 0 = false ∧ (base.modDie 0 fun d => { d with next := some 30 }).stepWaits 0 = true
    ∧ base.sockOf 0 0 = some 0 ∧ base.sockOf 0 7 = none ∧ base.dieOpen 0 = true ∧ base.dieOpen 3 = false ∧ (base.dieAt 0).next = none
    ∧ (50 * 2 ^ 8 / 2 ^ 8 % 2 ^ 6 = 50) ∧ (51 * 2 ^ 8 / 2 ^ 8 % 2 ^ 6 = 51) ∧ (base.vdiesOn 0).Nodup ∧ (base.vdiesOn 0) = [(0, 0)]
    ∧ base.lastPushes = [] ∧ (stopCount (base.vd 0 0).cyc 40 0).isSome = true ∧ 0 + 1600 ≤ ({ base with time := 1600 } : State).time.toNat := by decide

/-- DieEvents: a virtual die that may move, a mask that names no switch, an online die, a die that is not, quadrants that are offered. -/
theorem witness_DieEvents : (base.vd 0 0).sock = some 0 ∧ (base.vd 0 0).dest ≠ some 1 ∧ (base.dieAt 0).evac = false ∧ base.switchOf 0 = none
    ∧ base.clustersQuiet [40] = true ∧ base.socketMoving 0 = false
    ∧ ({ base with parts := base.parts.map fun e => (e.1, { e.2 with vdies := [(0, { sock := some 0, dest := some 1 })] }) } : State).socketMoving 0 = true
    ∧ (base.dieAt 0).online = true ∧ (base.dieAt 3).online = false ∧ (base.partAt 5).made = false
    ∧ ({ base with dies := [(1, { online := true, running := true })] }.mayMove 0 0 0 1) = true
    ∧ { base with dies := [(1, { online := true, running := true })] }.quadOffered 4 = true ∧ [4, 5].Nodup := by decide

/-- FabricEvents: packets that are discarded and that are performed, a package that may send messages, accesses and invocations. -/
def packet (cls : Nat) : List Word := [BitVec.ofNat 64 (cls * 2 ^ 32 + 1 * 2 ^ 40), 0, BitVec.ofNat 64 (16 * 2 ^ 32), 1, 2, 3, 4, 5, 6, 7, 0]
def peered : State := base.modPart 0 fun p => { p with domain := [(1, BitVec.allOnes 64 - BitVec.ofNat 64 (2 ^ 52 - 1))] }
theorem witness_FabricEvents : envF (packet 0) 0 40 12 = 1 ∧ envF (packet 0) 0 32 3 = 0 ∧ peered.domainBit 0 1 58 = true ∧ base.domainBit 0 1 58 = false
    ∧ (Tab.get peered.seqs (seqKey (packet 0)) {}).holds (envF (packet 0) 0 16 12) = false ∧ peered.packetBad [BitVec.ofNat 64 (5 * 2 ^ 32)] = true
    ∧ Tab.find? { base with pkts := [(7, { kind := 1, pend := 9 })] }.pkts 7 = some { kind := 1, pend := 9 }
    ∧ Tab.find? { base with invReps := [(7, { tag := 3 })] }.invReps 7 = some { tag := 3 } ∧ base.parkedAway { tag := 3 } = false ∧ 4 ∉ base.failedLinks
    ∧ (Tab.find? { base with inbound := [(7, { words := packet 3 })] }.inbound 7).isSome = true ∧ 10 ≤ (packet 0).length
    ∧ base.mayReply (packet 1) = true ∧ base.accessWaits 7 { words := packet 3 } = false ∧ (∀ w ∈ base.awayOuts, w.todo = []) ∧ base.me.l.relWait ≠ some true ∧ base.me.h.relWait ≠ some true ∧ peered.coreOf 0 0 0 = some 0 ∧ peered.domainBit 0 1 57 = true
    ∧ base.domainBit 0 1 57 = false ∧ base.poisoned (.flat (.hbm 0)) 8 = false ∧ (match base.invocationCheck (packet 1) with | .ok _ => false | .error _ => true) = true := by decide
theorem witness_FabricEvents_good : peered.packetBad (packet 0) = false := by decide
/-- A packet of ours that awaits its acknowledgement, which names it. -/
theorem witness_FabricEvents_ack : ({ base with pkts := [(7, { cls := 0, dpkg := 1, words := [0, 0, 0, 0, 0, 0, 0, 0, 0, 0] })] } : State).ackFor 1 0 = some (7, { cls := 0, dpkg := 1, words := [0, 0, 0, 0, 0, 0, 0, 0, 0, 0] }) := by decide

/-- HostRegisters: a booted package, a queue of 256 entries with a legal and an illegal producer index, an enabled and a disabled queue. -/
theorem witness_HostRegisters : (queued []).dev.boot = 1 ∧ (queued []).dev.power = 2 ∧ 2 ^ 39 - 1 + 1 ≤ 2 ^ 39 ∧ (((5 : Word).toNat + 2 ^ 32 - 0) % 2 ^ 32 ≤ 256)
    ∧ ((queued []).hq 0).en = true ∧ ((queued []).hq 1).en = false ∧ (400 ≤ (1700 : Word).toNat ∧ (1700 : Word).toNat ≤ 1700) ∧ (base.partAt 0).notices = []
    ∧ (4 ≤ (15 : Word).toNat ∧ (15 : Word).toNat ≤ 15) ∧ (15 : Word).toNat < (16 : Word).toNat ∧ (base.partAt 0).pstat < 2 ^ 63 ∧ (base.dpage 0).srank < 8 ∧ (base.partAt 0).busy = 0 ∧ (1 ≤ (5 : Word).toNat % 2 ^ 8 ∧ (5 : Word).toNat % 2 ^ 8 ≤ 5) := by decide

/-- PowerEvents: a package without power, in standby, active and idle; both I/O dies up; a scrub of the last line of a stack; recovery. -/
theorem witness_PowerEvents : State.reset.dev.power = 0 ∧ base.dev.power = 2 ∧ ({ State.reset with dev := { power := 2 } } : State).idle = true
    ∧ ({ State.reset with dev := { power := 1 } } : State).dev.power = 1 ∧ ({ ioUp := [true, true] } : Device).ioUp = [true, true] ∧ ({} : Device).active = 16
    ∧ (2 ^ 30 - 1) / 2 ^ 30 = 0 ∧ ({ base with dev := { base.dev with boot := 1 } }.setReg 8 1).dev.reg 8 = 1 ∧ ({ boot := 2 } : Device).boot = 2
    ∧ [true, false].getD (16 - 16) false = true ∧ base.fir.active = true := by decide

/-- DebugEvents: a page whose target is the live group 1; a running, a halting and a halted group; a step that has waited. -/
def debugged (st : Nat) : State := { base with dpages := [(0, { att := true, gid := 1, st := st, dtgt := 0, stepping := st == 1 })] }
theorem witness_DebugEvents : (base.dpage 0).att = false ∧ base.pageOf 1 = none ∧ (base.debugTarget 0).isSome = true ∧ ((debugged 1).dpage 0).att = true
    ∧ ((debugged 1).groupAt 1).st = 2 ∧ ((debugged 1).groupAt 1).stopping = false ∧ (((debugged 2).modGroup 1 fun g => { g with halted := true }).groupAt 1).halted = true
    ∧ ((debugged 1).groupAt 1).halted = false ∧ (debugged 1).me.l.aw.busy = false := by
  decide
theorem witness_DebugEvents_still : (((debugged 2).modMe fun c => { c with l := {} }).coreAt 0).stillFor 1 = true ∧ ((debugged 3).dpage 0).st = 3
    ∧ (match (debugged 3).restoreAll 1 [0] with
      | .ok _ => true
      | _ => false) = true
    ∧ (debugged 1).pageOf 1 = some (0, { att := true, gid := 1, st := 1, dtgt := 0, stepping := true }) ∧ (debugged 1).me.bound = some 1 := by decide

/-- RegisterWaits: an empty register with a producer, without one, and full registers. -/
theorem witness_RegisterWaits : xr 3 ∈ (producing 3).ctx.empty ∧ (∃ q ∈ (producing 3).ctx.pend, q.reg = xr 3 ∧ q.port = none)
    ∧ xr 3 ∈ (base.modCtx fun x => { x with empty := [3] }).ctx.empty ∧ (∀ q ∈ (base.modCtx fun x => { x with empty := [3] }).ctx.pend, q.reg ≠ xr 3)
    ∧ (producing 3).portOf (xr 4 / 256) (xr 4 % 256) = none ∧ xr 4 ∉ (producing 3).ctx.empty
    ∧ fr 3 ∈ (producing (fr 3)).ctx.empty ∧ (producing (fr 3)).portOf 1 3 = none ∧ Idle (producing (fr 3)) ∧ Idle high ∧ Rounding high 0 ≠ none ∧ high.me.inH = true ∧ 8 ≤ (8 : BitVec 5).toNat := by
  unfold Idle
  decide
/-- StepRunsDecoded: base itself. -/
theorem witness_StepRunsDecoded : base.fetchStuck base.org base.ctx.pc = none ∧ tagOk base.ctx.pc = true ∧ base.turns = [] ∧ base.atBreak = false ∧ (match base.move with
      | .instr => true
      | _ => false) = true
    ∧ (match base.fetchWord base.org base.ctx.pc with
      | .ok (w, _) => w == 0x00500093
      | .error _ => false) = true
    ∧ decode 0x00500093 = .ok (.addi 5 0 1) ∧ (base.dieAt (base.cur / 512)).running = true ∧ base.me.pageWait = none ∧ base.coreHeld base.cur = false
    ∧ canonical base.ctx.pc = true ∧ base.ctx.pc.toNat % 4 = 0 ∧ base.me.icache = [] ∧ base.me.step ≠ 1
    ∧ (match base.place base.org base.ctx.pc 4 .fetch with
      | .ok (r, s0) => r.spot == .flat (.hbm 0x100000) && !s0.poisoned r.spot 4 && s0.me.icache == []
      | .error _ => false) = true := by decide
/-- A walk that the die's walker has room for, and one that waits behind 64 others that wait for room in the notice queue. -/
def crowded : State := (base.modPart 0 fun p => { p with ntqprod := 4096 }).modDie 0 fun d => { d with held := (List.range 64).map fun i => (0, 2 * i, 0) }
theorem witness_StepRunsDecoded_walks : after (exec (.ld 0 1 3) (xset base 1 glob)) (fun t => !(xset base 1 glob).missWaits t) = true
    ∧ after (exec (.ld 0 1 3) (xset crowded 1 glob)) (fun t => (xset crowded 1 glob).missWaits t) = true ∧ base.lastPushes = [] := by decide
/-- MemoryStaysCanonical: the state after reset, and the state of the tests. -/
theorem witness_MemoryStaysCanonical : MemoryCanonical State.reset ∧ ∃ t, step State.reset = .next t := ⟨by unfold MemoryCanonical; decide, ⟨_, rfl⟩⟩
/-- DecodeEncode, EncodeDecode: instructions of the table, and an event, which has no word. -/
theorem witness_DecodeEncode : (Instr.mxas 5 1 15 15 31).isWord = true ∧ (Instr.mxas 5 1 15 15 31).wellFormed = true ∧ decode (encode (.mxas 5 1 15 15 31)) = .ok (.mxas 5 1 15 15 31)
    ∧ decode 0x00500093 = .ok (.addi 5 0 1) ∧ Instr.powerOff.isWord = false := by decide

theorem test_standby : after (exec .standbyEntry { State.reset with dev := { power := 2 }, dies := [(2, { online := true, running := true })] }) (fun t => t.dev.power == 1
    && t.dev.slept == [2] && !(t.dieAt 2).online) = true := by decide
theorem test_recovery : after (exec (.powerOnBoot false false true []) State.reset) (fun t => t.dev.boot == 2 && t.dies == []) = true := by decide
theorem test_freq_refused : after (exec (.frequencyStep 0) (base.modPart 0 fun p => { p with parg0 := 51 * 2 ^ 8 })) (fun t => (t.partAt 0).pstat == 2) = true := by decide
theorem test_doorbell : after (exec (.doorbellWrite 0 1) (queued [])) (fun t => (t.hq 0).qprod == 1 && t.turns == [.act .queue]) = true := by decide
theorem test_fault_kills : after (exec (.faultDelivery 0) (base.modMe fun c => { c with faultDue := some (.accRange, 4, 0, true) })) (fun t => (t.groupAt 1).st == 5) = true := by
  decide

end Sys2Proof.Tests
end

section
/-! PROOFS. Every step keeps every byte memory in its canonical form (O57). The state goes through some hundreds of operations: each has one lemma
here, which says that it keeps a canonical state canonical, in the order in which the model defines them, and is proved from the lemmas of the
operations that it calls. A memory itself is written in few places: by a write at a place, by a new firing and a restored image, by the window of
a bound group, and when a quadrant's or a package's state is moved, swapped or lost. -/

namespace Sys2Proof
open Machine

-- One proof after another: proofs elaborated side by side take more memory than there is.
set_option Elab.async false

/-! The answers of the model's operations that may hold a state: each predicate says that a state so held has canonical memories. -/

/-- The state of an event that may happen is canonical. -/
def SomeCanonical (o : Option State) : Prop := ∀ ⦃t⦄, o = some t → MemoryCanonical t
/-- The state that an operation with a failure gives is canonical. -/
def OkCanonical {ε : Type} (r : Except ε State) : Prop := ∀ ⦃t⦄, r = .ok t → MemoryCanonical t
/-- The state that an operation with a failure gives beside a value is canonical. -/
def OkSndCanonical {ε α : Type} (r : Except ε (α × State)) : Prop := ∀ ⦃a t⦄, r = .ok (a, t) → MemoryCanonical t
/-- The state beside a value is canonical. -/
def SndCanonical {α : Type} (p : α × State) : Prop := ∀ ⦃a t⦄, p = (a, t) → MemoryCanonical t
/-- The state before a value is canonical. -/
def FstCanonical {α : Type} (p : State × α) : Prop := ∀ ⦃t a⦄, p = (t, a) → MemoryCanonical t
/-- The state that a step gives is canonical. -/
def OutCanonical (o : Out) : Prop := ∀ ⦃t⦄, o = .next t → MemoryCanonical t

theorem SomeCanonical.none : SomeCanonical none := fun _ e => nomatch e
theorem SomeCanonical.some {t : State} (h : MemoryCanonical t) : SomeCanonical (some t) := fun _ e => Option.some.inj e ▸ h
theorem SomeCanonical.getD {o : Option State} {s : State} (ho : SomeCanonical o) (h : MemoryCanonical s) : MemoryCanonical (o.getD s) := by
  cases o with
  | none => exact h
  | some t => exact ho rfl
theorem SomeCanonical.map {α : Type} {o : Option α} {f : α → State} (h : ∀ a, o = Option.some a → MemoryCanonical (f a)) :
    SomeCanonical (o.map f) := by
  cases o with
  | none => exact .none
  | some a => exact .some (h a rfl)
theorem SomeCanonical.filter {o : Option State} {p : State → Bool} (h : SomeCanonical o) : SomeCanonical (o.filter p) :=
  fun _ e => h (Option.eq_some_of_filter_eq_some e)

theorem SomeCanonical.findSome {α : Type} {l : List α} {f : α → Option State} (hf : ∀ a, SomeCanonical (f a)) : SomeCanonical (l.findSome? f) :=
  fun _ e => have ⟨a, _, ha⟩ := List.exists_of_findSome?_eq_some e; hf a ha
theorem SomeCanonical.orElse {o : Option State} {f : Unit → Option State} (ho : SomeCanonical o) (hf : ∀ u, SomeCanonical (f u)) :
    SomeCanonical (o.orElse f) := by
  cases o with
  | none => exact hf ()
  | some t => exact ho

theorem OkCanonical.error {ε : Type} {e : ε} : OkCanonical (.error e) := fun _ h => nomatch h
theorem OkCanonical.ok {ε : Type} {t : State} (h : MemoryCanonical t) : OkCanonical (.ok t : Except ε State) := fun _ e => Except.ok.inj e ▸ h
theorem OkCanonical.bind {ε α : Type} {r : Except ε α} {f : α → Except ε State} (h : ∀ a, r = .ok a → OkCanonical (f a)) :
    OkCanonical (r >>= f) := by
  cases r with
  | error e => exact .error
  | ok a => exact h a rfl

theorem OkSndCanonical.error {ε α : Type} {e : ε} : OkSndCanonical (.error e : Except ε (α × State)) := fun _ _ h => nomatch h
theorem OkSndCanonical.ok {ε α : Type} {a : α} {t : State} (h : MemoryCanonical t) : OkSndCanonical (.ok (a, t) : Except ε (α × State)) :=
  fun _ _ e => (Prod.mk.inj (Except.ok.inj e)).2 ▸ h
theorem OkSndCanonical.bind {ε α β : Type} {r : Except ε β} {f : β → Except ε (α × State)} (h : ∀ b, r = .ok b → OkSndCanonical (f b)) :
    OkSndCanonical (r >>= f) := by
  cases r with
  | error e => exact .error
  | ok b => exact h b rfl
theorem OkSndCanonical.mapError {ε δ α : Type} {r : Except ε (α × State)} {f : ε → δ} (h : OkSndCanonical r) : OkSndCanonical (r.mapError f) := by
  cases r with
  | error e => exact .error
  | ok p => exact .ok (h rfl)

theorem SndCanonical.mk {α : Type} {a : α} {t : State} (h : MemoryCanonical t) : SndCanonical (a, t) := fun _ _ e => (Prod.mk.inj e).2 ▸ h
theorem SndCanonical.snd {α : Type} {p : α × State} (h : SndCanonical p) : MemoryCanonical p.2 := h rfl
theorem SndCanonical.ite {α : Type} {p q : α × State} {c : Prop} {_ : Decidable c} (hp : SndCanonical p) (hq : SndCanonical q) :
    SndCanonical (if c then p else q) := by
  split
  · exact hp
  · exact hq
theorem SndCanonical.ok {ε α : Type} {p : α × State} (h : SndCanonical p) : OkSndCanonical (.ok p : Except ε (α × State)) :=
  fun _ _ e => h (Except.ok.inj e)
theorem FstCanonical.mk {α : Type} {a : α} {t : State} (h : MemoryCanonical t) : FstCanonical (t, a) := fun _ _ e => (Prod.mk.inj e).1 ▸ h
theorem FstCanonical.fst {α : Type} {p : State × α} (h : FstCanonical p) : MemoryCanonical p.1 := h rfl

theorem OutCanonical.next {t : State} (h : MemoryCanonical t) : OutCanonical (.next t) := fun _ e => Host.Outcome.next.inj e ▸ h
theorem OutCanonical.act {s : State} {r : Option State} (hr : SomeCanonical r) (h : MemoryCanonical s) : OutCanonical (act r s) :=
  .next (hr.getD h)

/-! Changes of the state. -/

theorem MemoryCanonical.ite {s t : State} {c : Prop} {_ : Decidable c} (hs : MemoryCanonical s) (ht : MemoryCanonical t) :
    MemoryCanonical (if c then s else t) := by
  split
  · exact hs
  · exact ht

/-- A change of anything but the memories, the cores, the clusters and the shadow images. -/
theorem MemoryCanonical.frame {cur turns nextId free pace time pkgId poison dies quads parts groups launches counters graphs ready flights svcs errs invals
    rows waiters pkts inbound seqs routes failedLinks awayLines awayOuts lastPushes acksOut invReps frameCompls migCount migPend hostq dpages dev}
    {s : State} (h : MemoryCanonical s) :
    MemoryCanonical ⟨cur, turns, nextId, free, pace, time, pkgId, s.hbm, poison, s.hostMem, s.cores, s.clusters, dies, quads, s.shadows, parts,
      groups,
      launches, counters, graphs, ready, flights, svcs, errs, invals, rows, waiters, pkts, inbound, seqs, routes, failedLinks, awayLines,
        awayOuts,
      lastPushes, acksOut, invReps, frameCompls, migCount, migPend, hostq, dpages, dev⟩ := h

theorem MemoryCanonical.foldl {α : Type} {f : State → α → State} {l : List α} {s : State} (h : MemoryCanonical s)
    (hf : ∀ s a, MemoryCanonical s → MemoryCanonical (f s a)) : MemoryCanonical (l.foldl f s) := by
  induction l generalizing s with
  | nil => exact h
  | cons a l ih => exact ih (hf s a h)

theorem FstCanonical.foldl {α β : Type} {f : State × β → α → State × β} {l : List α} {p : State × β} (h : FstCanonical p)
    (hf : ∀ s b a, MemoryCanonical s → FstCanonical (f (s, b) a)) : FstCanonical (l.foldl f p) := by
  induction l generalizing p with
  | nil => exact h
  | cons a l ih => exact ih (hf p.1 p.2 a h.fst)

/-! Effects. -/

/-- What an effect hands on when it does not complete is canonical, as is what a request makes of a canonical state. -/
def StopCanonical : Stop → Prop
  | .trap .. => True
  | .report _ _ t => MemoryCanonical t
  | .hold o => SomeCanonical o
  | .want ask => ∀ s, MemoryCanonical s → MemoryCanonical (ask s)
  | .late _ _ t => MemoryCanonical t

/-- However an effect ends, the state that it ends in or hands on is canonical. -/
def EndCanonical {α : Type} : Except Stop (α × State) → Prop
  | .ok (_, t) => MemoryCanonical t
  | .error e => StopCanonical e

/-- An effect is tidy: it keeps memories canonical however it ends. -/
def Tidy {α : Type} (m : M α) : Prop := ∀ s, MemoryCanonical s → EndCanonical (m s)

theorem tidy_pure {α : Type} {a : α} : Tidy (pure a : M α) := fun _ h => h
theorem Tidy.bind {α β : Type} {m : M α} {f : α → M β} (hm : Tidy m) (hf : ∀ a, Tidy (f a)) : Tidy (m >>= f) := by
  intro s h
  have hs := hm s h
  rw [Laws.bind_run]
  cases hr : m s with
  | error e => rw [hr] at hs; exact hs
  | ok p => rw [hr] at hs; exact hf p.1 p.2 hs
/-- What reads the state may count on its memories. -/
theorem tidy_get_bind {β : Type} {f : State → M β} (hf : ∀ s, MemoryCanonical s → Tidy (f s)) : Tidy (get >>= f) := fun s h => hf s h s h
theorem tidy_set {t : State} (h : MemoryCanonical t) : Tidy (set t : M PUnit) := fun _ _ => h
theorem tidy_trap {α : Type} {c : Cause} {tv : Word} : Tidy (trap c tv : M α) := fun _ _ => trivial
theorem tidy_trapAt {α : Type} {c : Cause} {tv zp : Word} : Tidy (trapAt c tv zp : M α) := fun _ _ => trivial
theorem tidy_report {α : Type} {c : Cause} {tv : Word} : Tidy (report c tv : M α) := fun _ h => h
theorem tidy_hold {α : Type} : Tidy (hold : M α) := fun _ _ => SomeCanonical.none
theorem tidy_holdKeep {α : Type} : Tidy (holdKeep : M α) := fun _ h => SomeCanonical.some h
theorem tidy_want {α : Type} {ask : State → State} (h : ∀ s, MemoryCanonical s → MemoryCanonical (ask s)) : Tidy (want ask : M α) := fun _ _ => h
theorem tidy_late {α : Type} {c : Cause} {tv : Word} : Tidy (late c tv : M α) := fun _ h => h
theorem tidy_ite {α : Type} {c : Prop} {_ : Decidable c} {m n : M α} (hm : Tidy m) (hn : Tidy n) : Tidy (if c then m else n) := by
  split
  · exact hm
  · exact hn
/-- An effect that is done only under a condition, before the rest. -/
theorem tidy_join {β : Type} {c : Prop} {_ : Decidable c} {m : M PUnit} {k : PUnit → M β} (hm : Tidy m) (hk : ∀ r, Tidy (k r)) :
    Tidy (if c then m >>= k else k ⟨⟩) :=
  tidy_ite (hm.bind hk) (hk _)
theorem tidy_forM {α : Type} {l : List α} {f : α → M PUnit} (hf : ∀ a, Tidy (f a)) : Tidy (l.forM f) := by
  induction l with
  | nil => exact tidy_pure
  | cons a l ih => exact (hf a).bind fun _ => ih
theorem tidy_me : Tidy me := fun _ h => h
theorem tidy_ctx : Tidy ctx := fun _ h => h
theorem tidy_upd {f : State → State} (hf : ∀ s, MemoryCanonical s → MemoryCanonical (f s)) : Tidy (upd f) := hf

/-! Cores and clusters. -/

theorem MemoryCanonical.modCore {s : State} {k : Nat} {f : Core → Core} (h : MemoryCanonical s)
    (hf : ∀ c, (f c).priv = c.priv := by intro; rfl) : MemoryCanonical (s.modCore k f) :=
  Laws.MemoryCanonical_modCore h k f fun hw => by rw [hf]; exact hw
theorem MemoryCanonical.modCluster {s : State} {cl : Nat} {f : Cluster → Cluster} (h : MemoryCanonical s)
    (hf : ∀ c, (f c).scratch = c.scratch := by intro; rfl) : MemoryCanonical (s.modCluster cl f) :=
  Laws.MemoryCanonical_modCluster h cl f fun hw => by rw [hf]; exact hw
/-- A change of one core that may write its own memory. -/
theorem MemoryCanonical.writeCore {s : State} {k : Nat} {f : Core → Core} (h : MemoryCanonical s)
    (hf : ∀ c, c.priv.wf = true → (f c).priv.wf = true) : MemoryCanonical (s.modCore k f) :=
  Laws.MemoryCanonical_modCore h k f (hf _)
/-- A change of clusters that leaves every scratchpad alone. -/
theorem MemoryCanonical.mapClusters {s : State} {g : Nat × Cluster → Nat × Cluster} (h : MemoryCanonical s)
    (hg : ∀ e, (g e).2.scratch = e.2.scratch) : MemoryCanonical { s with clusters := s.clusters.map g } := by
  obtain ⟨hbm, hhost, hcl, hrest⟩ := h
  refine ⟨hbm, hhost, fun e he => ?_, hrest⟩
  obtain ⟨e', he', rfl⟩ := List.mem_map.1 he
  rw [hg]
  exact hcl e' he'
/-- A change of cores that leaves every own memory of theirs alone. -/
theorem MemoryCanonical.mapCores {s : State} {g : Nat × Core → Nat × Core} (h : MemoryCanonical s)
    (hg : ∀ e, (g e).2.priv = e.2.priv) : MemoryCanonical { s with cores := s.cores.map g } := by
  obtain ⟨hbm, hhost, hcl, hcr, hsh⟩ := h
  refine ⟨hbm, hhost, hcl, fun e he => ?_, hsh⟩
  obtain ⟨e', he', rfl⟩ := List.mem_map.1 he
  rw [hg]
  exact hcr e' he'
theorem MemoryCanonical.writeAt {s : State} {l : Loc} {bs : List Byte} (h : MemoryCanonical s) : MemoryCanonical (s.writeAt l bs) :=
  Laws.MemoryCanonical_writeAt h l bs
theorem MemoryCanonical.putCore {s : State} {k : Nat} {c : Core} (h : MemoryCanonical s) (hc : c.priv.wf = true) :
    MemoryCanonical (s.putCore k c) :=
  Laws.MemoryCanonical_modCore h k (fun _ => c) fun _ => hc
theorem MemoryCanonical.putCluster {s : State} {cl : Nat} {c : Cluster} (h : MemoryCanonical s) (hc : c.scratch.wf = true) :
    MemoryCanonical (s.putCluster cl c) :=
  Laws.MemoryCanonical_modCluster h cl (fun _ => c) fun _ => hc

theorem MemoryCanonical.wf_of_core {s : State} {k : Nat} {c : Core} (h : MemoryCanonical s) (e : Tab.find? s.cores k = some c) :
    c.priv.wf = true := by
  obtain ⟨_, _, _, hcr, _⟩ := h
  exact hcr _ (Laws.find?_mem s.cores k c e)

theorem MemoryCanonical.modMe {s : State} {f : Core → Core} (h : MemoryCanonical s)
    (hf : ∀ c, (f c).priv = c.priv := by intro; rfl) : MemoryCanonical (s.modMe f) := h.modCore hf
theorem MemoryCanonical.modCtx {s : State} {f : Ctx → Ctx} (h : MemoryCanonical s) : MemoryCanonical (s.modCtx f) :=
  h.modCore fun c => Laws.putCtx_priv c _ _
theorem MemoryCanonical.modCtxAt {s : State} {k : Nat} {b : Bool} {f : Ctx → Ctx} (h : MemoryCanonical s) : MemoryCanonical (s.modCtxAt k b f) :=
  h.modCore fun c => Laws.putCtx_priv c _ _
theorem MemoryCanonical.modLs {s : State} {f : LState → LState} (h : MemoryCanonical s) : MemoryCanonical (s.modLs f) := h.modMe
theorem tidy_updCtx {f : Ctx → Ctx} : Tidy (updCtx f) := fun _ h => h.modCtx
theorem tidy_updMe {f : Core → Core} (hf : ∀ c, (f c).priv = c.priv := by intro; rfl) : Tidy (updMe f) := fun _ h => h.modMe hf
theorem tidy_updLs {f : LState → LState} : Tidy (updLs f) := fun _ h => h.modLs
theorem tidy_updLsIn {ns : List Nat} {f : LState → LState} : Tidy (updLsIn ns f) := tidy_updMe

/-! Effects and changes that every operation shares (Base.lean). -/

theorem tidy_holdUnless {b : Bool} : Tidy (holdUnless b) := tidy_ite tidy_pure tidy_hold
theorem tidy_trapIf {b : Bool} {c : Cause} {tv : Word} : Tidy (trapIf b c tv) := tidy_ite tidy_trap tidy_pure
theorem MemoryCanonical.modDie {s : State} {d : Nat} {f : Die → Die} (h : MemoryCanonical s) : MemoryCanonical (s.modDie d f) := h.frame
theorem MemoryCanonical.modPart {s : State} {p : Nat} {f : Machine.Part → Machine.Part} (h : MemoryCanonical s) :
    MemoryCanonical (s.modPart p f) :=
  h.frame
theorem MemoryCanonical.modGroup {s : State} {g : Nat} {f : Machine.Group → Machine.Group} (h : MemoryCanonical s) :
    MemoryCanonical (s.modGroup g f) :=
  h.frame
theorem MemoryCanonical.modLaunch {s : State} {l : Nat} {f : Launch → Launch} (h : MemoryCanonical s) : MemoryCanonical (s.modLaunch l f) :=
  h.frame
theorem MemoryCanonical.post {s : State} {a : Act} (h : MemoryCanonical s) : MemoryCanonical (s.post a) := h.frame
theorem MemoryCanonical.postOnce {s : State} {a : Act} (h : MemoryCanonical s) : MemoryCanonical (s.postOnce a) := h.ite h.post
theorem tidy_post {a : Act} : Tidy (post a) := tidy_upd fun _ h => h.post
theorem tidy_freshId : Tidy freshId := fun _ h => h.frame
theorem tidy_freeNat : Tidy freeNat := fun _ h => h.frame
theorem MemoryCanonical.freeBytes {s : State} {n : Nat} (h : MemoryCanonical s) : SndCanonical (s.freeBytes n) := .mk h.frame
theorem tidy_needL {w : BitVec 32} : Tidy (needL w) := tidy_me.bind fun _ => tidy_trapIf
theorem tidy_needSup {w : BitVec 32} : Tidy (needSup w) := tidy_ctx.bind fun _ => tidy_trapIf
theorem tidy_needLaunch {w : BitVec 32} : Tidy (needLaunch w) := tidy_ctx.bind fun _ => tidy_trapIf
theorem tidy_noRepeat : Tidy noRepeat := tidy_get_bind fun _ _ => tidy_holdUnless

/-! Places (Geometry.lean). -/

theorem MemoryCanonical.writeNum {s : State} {l : Loc} {n x : Nat} (h : MemoryCanonical s) : MemoryCanonical (s.writeNum l n x) := h.writeAt

/-! The notice queue and the migration counters (Notice.lean). -/

theorem MemoryCanonical.putNotice {s : State} {p : Nat} {ws : List Word} (h : MemoryCanonical s) : MemoryCanonical (s.putNotice p ws) :=
  h.writeAt.modPart
theorem MemoryCanonical.faultNotice {s : State} {o : Origin} {c : Cause} {va : Word} (h : MemoryCanonical s) :
    SomeCanonical (s.faultNotice o c va) := by
  unfold State.faultNotice
  split
  · exact .some h.putNotice
  · exact .none
theorem MemoryCanonical.holdWalk {s : State} {o : Origin} {va : Word} (h : MemoryCanonical s) : SomeCanonical (s.holdWalk o va) := by
  unfold State.holdWalk
  dsimp only
  split
  · exact .none
  · exact .some h.modDie
theorem MemoryCanonical.reportNotice {s : State} {p : Nat} {ws : List Word} (h : MemoryCanonical s) : MemoryCanonical (s.reportNotice p ws) :=
  h.putNotice.ite h.modPart
theorem MemoryCanonical.packageEvent {s : State} {event sock cl : Nat} (h : MemoryCanonical s) : MemoryCanonical (s.packageEvent event sock cl) :=
  h.foldl fun _ _ h1 => h1.reportNotice.ite h1
theorem MemoryCanonical.countRegion {s : State} {o : Origin} {pa : Nat} (h : MemoryCanonical s) : MemoryCanonical (s.countRegion o pa) :=
  (h.frame.ite (h.frame.putNotice.frame.ite h.frame.modPart)).ite h.frame

/-! Translation and address windows (Translate.lean). -/

theorem MemoryCanonical.dropL1 {s : State} {cl : Nat} {p : L1Line → Bool} (h : MemoryCanonical s) : MemoryCanonical (s.dropL1 cl p) := by
  unfold State.dropL1
  refine h.foldl fun s i h => ?_
  split
  · exact h
  · next e =>
    have hc := h.wf_of_core e
    exact h.putCore hc
theorem MemoryCanonical.unfillRun {s : State} {cl : Nat} {e : Tlb} (h : MemoryCanonical s) : MemoryCanonical (s.unfillRun cl e) := h.frame
theorem MemoryCanonical.tlbFill {s : State} {cl : Nat} {n : Tlb} (h : MemoryCanonical s) : MemoryCanonical (s.tlbFill cl n) :=
  (h.foldl fun _ _ h1 => h1.dropL1.unfillRun).modCluster
theorem MemoryCanonical.tlbLookup {s : State} {cl p job va : Nat} {k : AKind} (h : MemoryCanonical s) :
    OkSndCanonical (s.tlbLookup cl p job va k) := by
  unfold State.tlbLookup
  dsimp only
  split
  · exact .ok h.modCluster
  · split
    · exact .error
    · exact .error
    · exact .error
    · exact .ok h.modDie.tlbFill
theorem MemoryCanonical.xlate {s : State} {o : Origin} {va : Nat} {k : AKind} (h : MemoryCanonical s) : OkSndCanonical (s.xlate o va k) :=
  .bind fun _ _ => .bind fun _ _ => .ok (h.tlbLookup ‹_›)
theorem MemoryCanonical.putLine {s : State} {buf tags n : Nat} {bs : List Byte} (h : MemoryCanonical s) :
    MemoryCanonical (s.putLine buf tags n bs) :=
  (h.ite h.writeAt).writeNum
theorem MemoryCanonical.putPacked {s : State} {buf tags off : Nat} {bs : List Byte} (h : MemoryCanonical s) :
    MemoryCanonical (s.putPacked buf tags off bs) :=
  h.foldl fun _ _ h1 => h1.putLine
theorem MemoryCanonical.apply {s : State} {d : Dest} (h : MemoryCanonical s) : MemoryCanonical (s.apply d) := by
  unfold State.apply
  split
  · exact h.writeAt
  · exact h.putPacked
theorem MemoryCanonical.applyAll {s : State} {ds : List Dest} (h : MemoryCanonical s) : MemoryCanonical (s.applyAll ds) :=
  h.foldl fun _ _ h1 => h1.apply
theorem MemoryCanonical.place {s : State} {o : Origin} {p : Word} {n : Nat} {k : AKind} (h : MemoryCanonical s) :
    OkSndCanonical (s.place o p n k) := by
  unfold State.place
  dsimp only
  split
  · split
    · exact .error
    · split
      · exact .ok (h.xlate ‹_›)
      · split
        · exact .ok (h.xlate ‹_›)
        · split
          · exact .error
          · exact .ok (h.xlate ‹_›)
  · split
    · exact .error
    · split
      · split
        · exact .error
        · split
          · split
            · exact .ok h
            · exact .error
          · exact .ok h
      · split
        · exact .error
        · split
          · split
            · exact .ok h
            · exact .error
          · split
            · exact .error
            · split
              · split
                · exact .ok h
                · exact .error
              · exact .error
theorem MemoryCanonical.reach {s : State} {o : Origin} {p : Word} {n : Nat} {k : AKind} (h : MemoryCanonical s) :
    OkSndCanonical (s.reach o p n k) := by
  unfold State.reach
  split
  · exact .error
  · split
    · exact .error
    · split
      · exact .error
      · exact h.place
theorem MemoryCanonical.recallAt {s : State} {but pa n : Nat} (h : MemoryCanonical s) : MemoryCanonical (s.recallAt but pa n) :=
  h.mapClusters fun _ => by split <;> rfl
theorem MemoryCanonical.counted {s : State} {o : Origin} {r : Reach} {n : Nat} (h : MemoryCanonical s) : MemoryCanonical (s.counted o r n) := by
  unfold State.counted
  split
  · exact h
  · refine (h.countRegion.ite h).foldl fun _ _ h1 => ?_
    split
    · exact h1.recallAt
    · exact h1

/-! Loads, stores, releases, acquires and packets (Mem.lean). -/

theorem tidy_orTrap {α : Type} {tv : Word} {r : Except Cause α} : Tidy (orTrap tv r : M α) := by
  unfold orTrap
  split
  · exact tidy_pure
  · exact tidy_ite tidy_late tidy_trap
theorem tidy_orTrapS {α : Type} {tv : Word} {f : State → Except Cause (α × State)} (hf : ∀ s, MemoryCanonical s → OkSndCanonical (f s)) :
    Tidy (orTrapS tv f) := by
  unfold orTrapS
  refine tidy_get_bind fun s h => ?_
  cases hr : f s with
  | ok p => exact (tidy_set (hf s h hr)).bind fun _ => tidy_pure
  | error c =>
    simp only [orTrap]
    split
    · exact fun _ ht => ht
    · exact fun _ _ => trivial
theorem tidy_watch {p : Word} {n : Nat} {rd wr : Bool} {bs : List Byte} : Tidy (watch p n rd wr bs) := by
  unfold watch
  refine tidy_get_bind fun _ h => ?_
  split
  · exact tidy_pure
  · split
    · exact tidy_trap
    · exact tidy_pure
theorem tidy_reach {p : Word} {n : Nat} {k : AKind} : Tidy (reach p n k) := tidy_orTrapS fun _ h => h.reach
theorem tidy_readAt {p : Word} {r : Reach} {n : Nat} : Tidy (readAt p r n) := by
  unfold readAt
  refine tidy_get_bind fun _ h => tidy_holdUnless.bind fun _ => ?_
  split
  · exact tidy_pure
  · exact tidy_pure
  · split
    · exact tidy_ite tidy_pure tidy_hold
    · split <;> exact tidy_pure
  · refine .bind (tidy_set (SndCanonical.snd ?_)) fun _ => tidy_pure
    split
    · exact .mk h
    · split
      · exact .mk h
      · dsimp only
        split
        · exact .mk h.counted
        · split
          · exact .mk h.counted
          · exact .mk h.counted.modMe
theorem MemoryCanonical.sendPacket {s : State} {pk : Packet} {etype eidx w1 : Nat} {payload : List Word} (h : MemoryCanonical s) :
    MemoryCanonical (s.sendPacket pk etype eidx w1 payload) :=
  h.frame
theorem MemoryCanonical.unfill {s : State} {k : Nat} {line : Word → Bool} (h : MemoryCanonical s) : MemoryCanonical (s.unfill k line) := h.frame
theorem MemoryCanonical.coreAccess {s : State} {pk : Packet} {a : Ask} (h : MemoryCanonical s) : SomeCanonical (s.coreAccess pk a) := by
  unfold State.coreAccess
  dsimp only
  split
  · split
    · exact .none
    · exact .some h.unfill.sendPacket.modCore
  · split
    · exact .none
    · exact .some h.sendPacket.modCore
theorem MemoryCanonical.dealerAccess {s : State} {cl : Nat} {pk : Packet} {a : Ask} (h : MemoryCanonical s) :
    SomeCanonical (s.dealerAccess cl pk a) := by
  unfold State.dealerAccess
  dsimp only
  split
  · exact .none
  · exact .some h.sendPacket.modCluster
theorem tidy_sendAccess {pk : Packet} {a : Ask} : Tidy (sendAccess pk a) := by
  unfold sendAccess
  refine tidy_get_bind fun _ h => ?_
  split
  · exact tidy_hold
  · exact (tidy_set (h.coreAccess ‹_›)).bind fun _ => tidy_pure
theorem MemoryCanonical.sendErr {s : State} {o : Origin} {c : Cause} {tv : Word} {pend : Option Nat} (h : MemoryCanonical s) :
    MemoryCanonical (s.sendErr o c tv pend) :=
  h.frame.post
theorem MemoryCanonical.updateL1 {s : State} {p : Word} {r : Reach} {bs : List Byte} (h : MemoryCanonical s) :
    MemoryCanonical (s.updateL1 p r bs) :=
  h.modMe fun _ => by split <;> rfl
theorem tidy_writeTo {p : Word} {r : Reach} {bs : List Byte} : Tidy (writeTo p r bs) := by
  unfold writeTo
  refine tidy_get_bind fun _ h => tidy_holdUnless.bind fun _ => ?_
  split
  · exact tidy_upd fun _ h1 => h1.applyAll
  · exact tidy_upd fun _ h1 => h1.applyAll
  · split
    · exact tidy_ite (tidy_upd fun _ h1 => h1.sendErr) tidy_hold
    · split
      · exact tidy_upd fun _ h1 => h1.sendErr
      · exact tidy_upd fun _ h1 => h1.applyAll
  · exact tidy_freshId.bind fun _ => tidy_sendAccess.bind fun _ => (tidy_upd fun _ h1 => h1.updateL1.unfill).bind fun _ => tidy_updMe
  · exact tidy_freshId.bind fun _ => (tidy_upd fun _ h1 => h1.counted.updateL1).bind fun _ => .bind tidy_updMe fun _ => tidy_post
theorem tidy_storeRaw {p : Word} {bs : List Byte} : Tidy (storeRaw p bs) := tidy_reach.bind fun _ => tidy_watch.bind fun _ => tidy_writeTo
theorem MemoryCanonical.flush {s : State} {k : Nat} (h : MemoryCanonical s) : MemoryCanonical (s.flush k) :=
  (h.foldl fun _ _ h1 => h1.applyAll).modCore
theorem MemoryCanonical.wantItems {s : State} {k : Nat} (h : MemoryCanonical s) : MemoryCanonical (s.wantItems k) :=
  h.foldl fun _ _ h1 => h1.post.ite h1
theorem MemoryCanonical.forgetAhead {s : State} {k : Nat} (h : MemoryCanonical s) : MemoryCanonical (s.forgetAhead k) := h.unfill.frame
theorem MemoryCanonical.acquireAt {s : State} {k : Nat} (h : MemoryCanonical s) : MemoryCanonical (s.acquireAt k) :=
  h.modCore.forgetAhead.wantItems
theorem tidy_acquire : Tidy acquire := tidy_upd fun _ h => h.acquireAt
theorem MemoryCanonical.coldL1 {s : State} {k : Nat} (h : MemoryCanonical s) : MemoryCanonical (s.coldL1 k) := h.modCore.unfill
theorem tidy_ownServed : Tidy ownServed :=
  tidy_get_bind fun _ _ => tidy_holdUnless.bind fun _ => tidy_holdUnless.bind fun _ => tidy_upd fun _ h1 => h1.flush
theorem tidy_release {dom : Bool} : Tidy (release dom) := by
  unfold release
  refine tidy_get_bind fun _ h => ?_
  dsimp only
  split
  · exact tidy_trap
  · exact tidy_ite tidy_updCtx (tidy_updCtx.bind fun _ => tidy_holdKeep)
theorem tidy_pipeLoad {p : Word} {n : Nat} : Tidy (pipeLoad p n) := by
  unfold pipeLoad
  refine tidy_ctx.bind fun _ => ?_
  split
  · exact tidy_updCtx.bind fun _ => tidy_pure
  · refine tidy_reach.bind fun _ => tidy_watch.bind fun _ => tidy_get_bind fun _ h => tidy_readAt.bind fun _ => ?_
    split
    · exact tidy_pure
    · exact tidy_ite (tidy_ite ((tidy_set h).bind fun _ => tidy_pure) tidy_hold) tidy_pure
    · exact tidy_pure
    · exact tidy_sendAccess.bind fun _ => tidy_updCtx.bind fun _ => tidy_holdKeep
  · exact tidy_hold
theorem tidy_readNow {p : Word} {n : Nat} : Tidy (readNow p n) := tidy_pipeLoad.bind fun _ => tidy_orTrap

/-! The floating-point flags (Flags.lean). -/

theorem tidy_raiseFlags {fl : Nat} : Tidy (raiseFlags fl) := tidy_updCtx
theorem tidy_roundingOf {rm : BitVec 3} {w : BitVec 32} : Tidy (roundingOf rm w) := by
  unfold roundingOf
  refine tidy_ctx.bind fun _ => ?_
  dsimp only
  split
  · exact tidy_pure
  · exact tidy_trap
theorem tidy_flagsSettled : Tidy flagsSettled := tidy_ctx.bind fun _ => tidy_holdUnless
theorem tidy_withFlags {α : Type} {r : α × Flg} : Tidy (withFlags r : M α) := tidy_raiseFlags.bind fun _ => tidy_pure

/-! Accesses of agents to other packages (Away.lean). -/

theorem MemoryCanonical.agentAccess {s : State} {own : Owner} {pk : Packet} {a : Ask} (h : MemoryCanonical s) :
    SomeCanonical (s.agentAccess own pk a) := by
  unfold State.agentAccess
  split
  · exact h.dealerAccess
  · exact h.dealerAccess
  · exact h.dealerAccess
  · exact h.coreAccess
theorem MemoryCanonical.askLine {s : State} {own : Owner} {o : Origin} {va : Word} {pkg pa : Nat} {cnt : Bool} (h : MemoryCanonical s) :
    MemoryCanonical (s.askLine own o va pkg pa cnt) := by
  unfold State.askLine
  split
  · exact h
  · split
    · exact h
    · exact (h.agentAccess ‹_›).frame
theorem MemoryCanonical.askSpan {s : State} {own : Owner} {o : Origin} {va : Word} {pkg pa n : Nat} {cnt : Bool} (h : MemoryCanonical s) :
    MemoryCanonical (s.askSpan own o va pkg pa n cnt) :=
  h.foldl fun _ _ h1 => h1.askLine
theorem MemoryCanonical.dropLines {s : State} {own : Owner} (h : MemoryCanonical s) : MemoryCanonical (s.dropLines own) := h.frame
theorem MemoryCanonical.sendOuts {s : State} {w : AwayOut} {l : List OutPiece} (h : MemoryCanonical s) : SndCanonical (s.sendOuts w l) := by
  induction l generalizing s w with
  | nil =>
    unfold State.sendOuts
    exact .mk h
  | cons _ _ ih =>
    unfold State.sendOuts
    split
    · exact .mk h
    · exact ih (h.agentAccess ‹_›)
theorem MemoryCanonical.pump {s : State} {id : Nat} (h : MemoryCanonical s) : MemoryCanonical (s.pump id) := by
  unfold State.pump
  split
  · exact h
  · exact h.sendOuts.snd.frame
theorem MemoryCanonical.startOut {s : State} {own : Owner} {o : Origin} {todo : List OutPiece} {gone : Bool} (h : MemoryCanonical s) :
    MemoryCanonical (s.startOut own o todo gone) :=
  h.frame.pump
theorem MemoryCanonical.dropOut {s : State} {own : Owner} (h : MemoryCanonical s) : MemoryCanonical (s.dropOut own) := h.frame
theorem MemoryCanonical.outAnswered {s : State} {id : Nat} {bad : Option (Cause × Word)} (h : MemoryCanonical s) :
    MemoryCanonical (s.outAnswered id bad) :=
  h.frame.pump
theorem MemoryCanonical.orphan {s : State} {gid : Nat} {mine : Owner → Bool} (h : MemoryCanonical s) : MemoryCanonical (s.orphan gid mine) :=
  h.frame
theorem MemoryCanonical.lineAnswered {s : State} {id : Nat} {r : Except Cause (List Byte)} (h : MemoryCanonical s) :
    MemoryCanonical (s.lineAnswered id r) :=
  h.frame
theorem MemoryCanonical.acknowledge {s : State} {ws : List Word} {code : Nat} {data : List Word} (h : MemoryCanonical s) :
    MemoryCanonical (s.acknowledge ws code data) :=
  h.frame
theorem MemoryCanonical.copyAgain {s : State} {ws : List Word} (h : MemoryCanonical s) : MemoryCanonical (s.copyAgain ws) := by
  unfold State.copyAgain
  dsimp only
  split <;> exact h.frame

/-! Stream ports (Streams.lean). -/

/-- What a stream read hands on, and what its request makes of a canonical state, is canonical. -/
def SReadCanonical : SRead → Prop
  | .ok _ t => MemoryCanonical t
  | .wait ask => ∀ s, MemoryCanonical s → MemoryCanonical (ask s)
  | .bad _ | .far .. => True
theorem SReadCanonical.ok {bs : List Byte} {t : State} (h : MemoryCanonical t) : SReadCanonical (.ok bs t) := h
theorem SReadCanonical.wait {ask : State → State} (h : ∀ s, MemoryCanonical s → MemoryCanonical (ask s)) : SReadCanonical (.wait ask) := h
theorem SReadCanonical.bad {c : Cause} : SReadCanonical (.bad c) := trivial
theorem SReadCanonical.far {va : Word} {d : Nat} : SReadCanonical (.far va d) := trivial
theorem SReadCanonical.of_ok {r : SRead} {bs : List Byte} {t : State} (h : SReadCanonical r) (e : r = .ok bs t) : MemoryCanonical t := by
  subst e; exact h
theorem SReadCanonical.of_wait {r : SRead} {ask : State → State} (h : SReadCanonical r) (e : r = .wait ask) :
    ∀ s, MemoryCanonical s → MemoryCanonical (ask s) := by
  subst e; exact h
/-- The same of an item as formed. -/
def SItemCanonical : SItem → Prop
  | .got _ t => MemoryCanonical t
  | .wait ask => ∀ s, MemoryCanonical s → MemoryCanonical (ask s)
  | .far .. => True
theorem SItemCanonical.got {it : PreItem} {t : State} (h : MemoryCanonical t) : SItemCanonical (.got it t) := h
theorem SItemCanonical.wait {ask : State → State} (h : ∀ s, MemoryCanonical s → MemoryCanonical (ask s)) : SItemCanonical (.wait ask) := h
theorem SItemCanonical.far {va : Word} {d : Nat} : SItemCanonical (.far va d) := trivial
theorem SItemCanonical.of_got {r : SItem} {it : PreItem} {t : State} (h : SItemCanonical r) (e : r = .got it t) : MemoryCanonical t := by
  subst e; exact h
theorem SItemCanonical.of_wait {r : SItem} {ask : State → State} (h : SItemCanonical r) (e : r = .wait ask) :
    ∀ s, MemoryCanonical s → MemoryCanonical (ask s) := by
  subst e; exact h
/-- The same of the address of an item, which may be read. -/
def AddrCanonical (r : (Word × SRead) × Word) : Prop := SReadCanonical r.1.2
theorem AddrCanonical.of_ok {r : (Word × SRead) × Word} {a ad : Word} {bs : List Byte} {t : State} (h : AddrCanonical r)
    (e : r = ((a, .ok bs t), ad)) : MemoryCanonical t := by
  subst e; exact h
theorem AddrCanonical.of_wait {r : (Word × SRead) × Word} {a ad : Word} {ask : State → State} (h : AddrCanonical r)
    (e : r = ((a, .wait ask), ad)) : ∀ s, MemoryCanonical s → MemoryCanonical (ask s) := by
  subst e; exact h
theorem MemoryCanonical.streamReach {s : State} {o : Origin} {p : Word} {n : Nat} {k : AKind} (h : MemoryCanonical s) :
    OkSndCanonical (s.streamReach o p n k) := by
  unfold State.streamReach
  split
  · exact .error
  · split
    · exact .error
    · split
      · exact .error
      · exact h.place
theorem MemoryCanonical.streamReaches {s : State} {o : Origin} {p : Word} {u : Nat} {k : AKind} {n : Nat} (h : MemoryCanonical s) :
    OkSndCanonical (s.streamReaches o p u k n) := by
  induction n generalizing s o p u k with
  | zero =>
    unfold State.streamReaches
    exact .ok h
  | succ _ ih =>
    unfold State.streamReaches
    split
    · exact .error
    · split
      · exact .error
      · exact .ok (ih (h.streamReach ‹_›) ‹_›)
theorem MemoryCanonical.askReaches {s : State} {own : Owner} {o : Origin} {va : Word} {u : Nat} {rs : List Reach} (h : MemoryCanonical s) :
    MemoryCanonical (s.askReaches own o va u rs) := by
  unfold State.askReaches
  refine h.foldl fun _ _ h1 => ?_
  split
  · exact h1.askSpan
  · exact h1
theorem MemoryCanonical.streamRead {s : State} {i : Nat} {o : Origin} {p : Word} {u n : Nat} {item ind : Bool} (h : MemoryCanonical s) :
    SReadCanonical (s.streamRead i o p u n item ind) := by
  unfold State.streamRead
  split
  · exact .bad
  · split
    · exact .wait fun _ h1 => h1
    · split
      · exact .far
      · split
        · exact .bad
        · split
          · exact .wait fun _ h1 => h1.askReaches
          · exact .bad
          · exact .ok ((h.streamReaches ‹_›).foldl fun _ _ h1 => h1.counted)
theorem MemoryCanonical.itemAddr {s : State} {i n : Nat} {o : Origin} {p : Port} (h : MemoryCanonical s) :
    AddrCanonical (s.itemAddr i o p n) := by
  unfold State.itemAddr
  dsimp only
  split
  · exact h
  · split
    · exact h.streamRead.of_ok ‹_›
    · exact h.streamRead
theorem MemoryCanonical.formItem {s : State} {i : Nat} {o : Origin} {p : Port} {n : Nat} (h : MemoryCanonical s) :
    SItemCanonical (s.formItem i o p n) := by
  unfold State.formItem
  dsimp only
  split
  · exact .got h.dropLines
  · exact .wait fun _ h1 => h.itemAddr.of_wait ‹_› _ h1
  · exact .far
  · split
    · exact .got (h.itemAddr.of_ok ‹_›).dropLines
    · exact .wait fun _ h1 => (h.itemAddr.of_ok ‹_›).streamRead.of_wait ‹_› _ h1
    · exact .far
    · exact .got ((h.itemAddr.of_ok ‹_›).streamRead.of_ok ‹_›).dropLines
theorem tidy_updPort {i : Nat} {f : Port → Port} : Tidy (updPort i f) := tidy_updMe
theorem MemoryCanonical.nextItem {s : State} {i : Nat} {p : Port} (h : MemoryCanonical s) : SItemCanonical (s.nextItem i p) := by
  unfold State.nextItem
  split
  · exact .got h
  · exact h.formItem
theorem tidy_popPort {i : Nat} {must : Bool} {reg : Nat} : Tidy (popPort i must reg) := by
  unfold popPort
  refine tidy_get_bind fun _ h => ?_
  dsimp only
  split
  · exact tidy_trapAt
  · split
    · exact tidy_trap
    · split
      · exact tidy_want fun _ h1 => h.nextItem.of_wait ‹_› _ h1
      · exact tidy_hold
      · split
        · exact tidy_trapAt
        · exact tidy_watch.bind fun _ => (tidy_set (h.nextItem.of_got ‹_›)).bind fun _ => tidy_updPort.bind fun _ => tidy_post.bind fun _ =>
            tidy_pure
theorem MemoryCanonical.prefetch {s : State} {k i : Nat} (h : MemoryCanonical s) : SomeCanonical (s.prefetch k i) := by
  unfold State.prefetch
  dsimp only
  split
  · exact .none
  · split
    · split
      · exact .some h.modCore.frame
      · split
        · exact .some h.modCore.frame.sendErr
        · exact .none
    · split
      · exact .none
      · exact .some (h.frame.formItem.of_wait ‹_› _ h)
    · exact .some (h.frame.formItem.of_got ‹_›).modCore.frame
theorem tidy_pushPort {i x : Nat} {pend : Option Nat} {known : Bool} : Tidy (pushPort i x pend known) := by
  unfold pushPort
  refine tidy_get_bind fun _ h => ?_
  dsimp only
  split
  · exact tidy_trapAt
  · refine tidy_holdUnless.bind fun _ => ?_
    split
    · exact tidy_trapAt
    · exact tidy_want fun _ h1 => h.itemAddr.of_wait ‹_› _ h1
    · exact tidy_ite tidy_late tidy_hold
    · refine tidy_join tidy_watch fun _ => ?_
      split
      · exact tidy_trapAt
      · exact tidy_watch.bind fun _ => (tidy_set (((h.itemAddr.of_ok ‹_›).streamReaches ‹_›).foldl fun _ _ h1 =>
          h1.counted).dropLines).bind fun _ => tidy_updPort.bind fun _ => tidy_post
theorem MemoryCanonical.feedPush {s : State} {k id x : Nat} (h : MemoryCanonical s) : MemoryCanonical (s.feedPush k id x) := h.modCore
theorem MemoryCanonical.dropPush {s : State} {k id : Nat} (h : MemoryCanonical s) : MemoryCanonical (s.dropPush k id) := h.modCore

/-! Operands (Operands.lean). -/

theorem tidy_srcReady {r : Nat} {eb : Bool} : Tidy (srcReady r eb) := by
  unfold srcReady
  refine tidy_get_bind fun _ h => ?_
  split
  · exact tidy_pure
  · split
    · exact tidy_ite tidy_trap tidy_pure
    · exact tidy_ite (tidy_ite tidy_trap tidy_hold) tidy_pure
theorem tidy_srcConflict {r : Nat} : Tidy (srcConflict r) := by
  unfold srcConflict
  refine tidy_get_bind fun _ h => ?_
  split
  · exact tidy_ite tidy_trap tidy_pure
  · exact tidy_pure
theorem tidy_dstReady {r : Nat} : Tidy (dstReady r) := by
  unfold dstReady
  refine tidy_get_bind fun _ h => ?_
  split
  · exact tidy_pure
  · split
    · exact tidy_ite tidy_trap tidy_pure
    · exact tidy_holdUnless
theorem tidy_srcsReady {l : List (Nat × Bool)} : Tidy (srcsReady l) := by
  induction l with
  | nil =>
    unfold srcsReady
    exact tidy_pure
  | cons _ _ ih =>
    unfold srcsReady
    exact tidy_srcReady.bind fun _ => ih
theorem tidy_srcsFree {l : List (Nat × Bool)} : Tidy (srcsFree l) := by
  induction l with
  | nil =>
    unfold srcsFree
    exact tidy_pure
  | cons _ _ ih =>
    unfold srcsFree
    exact tidy_srcConflict.bind fun _ => ih
theorem tidy_dstsReady {l : List Nat} : Tidy (dstsReady l) := by
  induction l with
  | nil =>
    unfold dstsReady
    exact tidy_pure
  | cons _ _ ih =>
    unfold dstsReady
    exact tidy_dstReady.bind fun _ => ih
theorem tidy_regs {srcs : List (Nat × Bool)} {dsts : List Nat} : Tidy (regs srcs dsts) :=
  tidy_srcsReady.bind fun _ => tidy_srcsFree.bind fun _ => tidy_dstsReady
theorem tidy_fLow {rs : List (BitVec 5)} {w : BitVec 32} : Tidy (fLow rs w) := tidy_me.bind fun _ => tidy_trapIf
theorem tidy_getX {r : BitVec 5} : Tidy (getX r) := tidy_ctx.bind fun _ => tidy_pure
theorem tidy_getF {r : BitVec 5} {eb : Bool} : Tidy (getF r eb) := by
  unfold getF
  refine tidy_get_bind fun _ h => ?_
  split
  · exact tidy_popPort.bind fun _ => tidy_pure
  · exact tidy_pure
theorem tidy_getV {n : Nat} {eb : Bool} : Tidy (getV n eb) := by
  unfold getV
  refine tidy_get_bind fun _ h => ?_
  split
  · exact tidy_popPort.bind fun _ => tidy_pure
  · exact tidy_pure
theorem tidy_getP {n : Nat} : Tidy (getP n) := tidy_get_bind fun _ _ => tidy_pure
theorem tidy_getB {n : Nat} : Tidy (getB n) := tidy_get_bind fun _ _ => tidy_pure
theorem tidy_setReg {r v : Nat} : Tidy (setReg r v) := by
  unfold setReg
  refine tidy_get_bind fun _ h => ?_
  split
  · exact tidy_ite tidy_pure tidy_pushPort
  · exact tidy_updMe fun _ => Laws.setReg_priv ..
theorem tidy_setX {d : BitVec 5} {v : Word} : Tidy (setX d v) := tidy_updMe fun _ => Laws.setReg_priv ..
theorem tidy_setF {d : BitVec 5} {v : Word} : Tidy (setF d v) := tidy_setReg
theorem tidy_setF32 {d : BitVec 5} {v : Nat} : Tidy (setF32 d v) := tidy_setReg
theorem tidy_setV {n : Nat} {v : VWord} : Tidy (setV n v) := tidy_setReg
theorem tidy_setP {n : Nat} {v : BitVec 32} : Tidy (setP n v) := tidy_ite tidy_pure tidy_updMe
theorem tidy_markPending {q : Pend} : Tidy (markPending q) := by
  unfold markPending
  refine tidy_get_bind fun _ h => ?_
  dsimp only
  split
  · exact tidy_ite tidy_pure (tidy_pushPort.bind fun _ => tidy_updCtx)
  · exact tidy_updCtx
theorem tidy_setLater {r v fl : Nat} {q : Pend} : Tidy (setLater r v fl q) :=
  tidy_get_bind fun _ _ => tidy_freshId.bind fun _ => tidy_markPending.bind fun _ => tidy_post
theorem tidy_setFailed {r : Nat} {c : Cause} {addr : Word} : Tidy (setFailed r c addr) :=
  tidy_freshId.bind fun _ => tidy_markPending.bind fun _ => tidy_upd fun _ h => h.sendErr
theorem tidy_globalRoom : Tidy globalRoom := tidy_me.bind fun _ => tidy_holdUnless
theorem tidy_deliver {p : Word} {n r : Nat} {cv : Conv} {rc : Reach} {f : Fetch} : Tidy (deliver p n r cv rc f) := by
  unfold deliver
  split
  · exact tidy_raiseFlags.bind fun _ => tidy_setReg
  · exact tidy_join tidy_globalRoom fun _ => tidy_setLater
  · exact tidy_setFailed
  · exact tidy_globalRoom.bind fun _ => tidy_freshId.bind fun _ => tidy_sendAccess.bind fun _ => tidy_markPending
theorem tidy_loadRaw {p : Word} {n r : Nat} {cv : Conv} : Tidy (loadRaw p n r cv) :=
  tidy_reach.bind fun _ => tidy_watch.bind fun _ => tidy_readAt.bind fun _ => tidy_deliver
theorem MemoryCanonical.land {s : State} {k : Nat} {b : Bool} {r : Nat} (h : MemoryCanonical s) : SomeCanonical (s.land k b r) := by
  unfold State.land
  dsimp only
  split
  · exact .none
  · refine .some ?_
    split
    · exact h.modCtxAt.feedPush
    · exact h.modCtxAt.modCore fun _ => Laws.setReg_priv ..
theorem MemoryCanonical.settleLast {s : State} (h : MemoryCanonical s) : MemoryCanonical s.settleLast := by
  unfold State.settleLast
  refine .frame (FstCanonical.fst (.foldl (.mk h) fun _ _ _ h1 => ?_))
  split
  · exact .mk h1
  · exact .mk (h1.applyAll.ite h1.applyAll.startOut)
theorem MemoryCanonical.feedLast {s : State} {id v : Nat} (h : MemoryCanonical s) : MemoryCanonical (s.feedLast id v) := h.frame.settleLast.ite h
theorem MemoryCanonical.dropLast {s : State} {id : Nat} (h : MemoryCanonical s) : MemoryCanonical (s.dropLast id) := h.frame.settleLast.ite h
theorem MemoryCanonical.failPend {s : State} {k : Nat} {b : Bool} {id : Nat} (h : MemoryCanonical s) : MemoryCanonical (s.failPend k b id) :=
  h.modCtxAt.dropPush.dropLast
theorem MemoryCanonical.feed {s : State} {k : Nat} {b : Bool} {id v fl : Nat} (h : MemoryCanonical s) : MemoryCanonical (s.feed k b id v fl) := by
  unfold State.feed
  dsimp only
  split
  · exact h.feedLast
  · exact h.modCtxAt.post.ite h.modCtxAt

/-! Firing images (Frames.lean). -/

/-- The state before a value that an operation with a failure gives is canonical. -/
def OkFstCanonical {ε α : Type} (r : Except ε (State × α)) : Prop := ∀ ⦃t a⦄, r = .ok (t, a) → MemoryCanonical t
theorem OkFstCanonical.error {ε α : Type} {e : ε} : OkFstCanonical (.error e : Except ε (State × α)) := fun _ _ h => nomatch h
theorem OkFstCanonical.ok {ε α : Type} {a : α} {t : State} (h : MemoryCanonical t) : OkFstCanonical (.ok (t, a) : Except ε (State × α)) :=
  fun _ _ e => (Prod.mk.inj (Except.ok.inj e)).1 ▸ h
theorem OkFstCanonical.foldlM {ε α β : Type} {f : State × β → α → Except ε (State × β)} {l : List α} {s : State} {b : β} (h : MemoryCanonical s)
    (hf : ∀ s b a, MemoryCanonical s → OkFstCanonical (f (s, b) a)) : OkFstCanonical (l.foldlM f (s, b)) := by
  induction l generalizing s b with
  | nil => exact .ok h
  | cons a l ih =>
    rw [List.foldlM_cons]
    cases hr : f (s, b) a with
    | error e => exact .error
    | ok p => exact ih (hf s b a h hr)
theorem MemoryCanonical.frameWrite {s : State} {o : Origin} {va w : Word} (h : MemoryCanonical s) : OkCanonical (s.frameWrite o va w) := by
  unfold State.frameWrite
  split
  · exact .error
  · exact .ok (h.reach ‹_›).applyAll
theorem MemoryCanonical.frameWrites {s : State} {o : Origin} {va : Word} {l : List Word} (h : MemoryCanonical s) :
    OkCanonical (s.frameWrites o va l) := by
  induction l generalizing s o va with
  | nil =>
    unfold State.frameWrites
    exact .ok h
  | cons _ _ ih =>
    unfold State.frameWrites
    split
    · exact .error
    · exact ih (h.frameWrite ‹_›)
theorem MemoryCanonical.blockWrites {s : State} {o : Origin} {va : Word} {ws : List Word} {tags l : List Nat} (h : MemoryCanonical s) :
    OkCanonical (s.blockWrites o va ws tags l) := by
  induction l generalizing s o va ws tags with
  | nil =>
    unfold State.blockWrites
    exact .ok h
  | cons _ _ ih =>
    unfold State.blockWrites
    dsimp only
    split
    · exact .error
    · exact ih (h.frameWrites ‹_›)
theorem MemoryCanonical.saveImage {s : State} {o : Origin} {va : Word} {ws : List Word} {tags : List Nat} {nblocks tagW : Nat}
    (h : MemoryCanonical s) : OkCanonical (s.saveImage o va ws tags nblocks tagW) := by
  unfold State.saveImage
  split
  · exact .error
  · exact (h.blockWrites ‹_›).frameWrites
theorem wf_priv_restore (c : Core) (ws : List Word) (sl : Slot) (h : c.priv.wf = true) : (c.restore ws sl).priv.wf = true := by
  unfold Core.restore
  dsimp only
  exact Laws.wf_writeN _ _ _ (Laws.wf_writeN _ _ _ h)
theorem MemoryCanonical.editBlock {s : State} {o : Origin} {va tagVa : Word} {codes : List Nat} {n : Nat} {f : List Word → List Word}
    (h : MemoryCanonical s) : OkCanonical (s.editBlock o va tagVa codes n f) := by
  unfold State.editBlock
  split
  · exact .error
  · split
    · exact .error
    · exact (h.frameWrites ‹_›).frameWrites
theorem MemoryCanonical.editBox {s : State} {gid r : Nat} {ri : RankImg} (h : MemoryCanonical s) : OkCanonical (s.editBox gid r ri) := by
  -- The saved codes are some function's answer here, so that nothing computes the 3,069 of them when the proof is checked.
  obtain ⟨codesOf, hcodes⟩ : ∃ f, f = State.savedCodes := ⟨_, rfl⟩
  unfold State.editBox
  rw [← hcodes]
  dsimp only
  split
  · exact .ok h
  · split
    · exact .error
    · split
      · exact .error
      · next e =>
        refine .ok (OkFstCanonical.foldlM h (fun s b a h => ?_) e).modGroup
        split
        · exact .error
        · exact .ok (h.editBlock ‹_›)

/-! A copy command carried out (CopyOps.lean). -/

/-- However a copy ends, the state that it ends in is canonical. -/
def CopyEndCanonical : CopyEnd → Prop
  | .done _ _ t | .fail _ _ t | .wait t => MemoryCanonical t
  | .page .. => True
theorem CopyEndCanonical.of_done {r : CopyEnd} {bs : List Byte} {todo : List OutPiece} {t : State} (h : CopyEndCanonical r)
    (e : r = .done bs todo t) : MemoryCanonical t := by
  subst e; exact h
theorem CopyEndCanonical.of_fail {r : CopyEnd} {c : Cause} {va : Word} {t : State} (h : CopyEndCanonical r) (e : r = .fail c va t) :
    MemoryCanonical t := by
  subst e; exact h
theorem CopyEndCanonical.of_wait {r : CopyEnd} {t : State} (h : CopyEndCanonical r) (e : r = .wait t) : MemoryCanonical t := by
  subst e; exact h
theorem MemoryCanonical.rangePieces {s : State} {o : Origin} {k : AKind} {f : Nat} {p : Word} {len : Nat} (h : MemoryCanonical s) :
    OkSndCanonical (s.rangePieces o k f p len) := by
  induction f generalizing s p len with
  | zero => exact .ok h
  | succ f ih =>
    unfold State.rangePieces
    split
    · exact .ok h
    · dsimp only
      split
      · exact .error
      · next hp =>
        split
        · exact .error
        · split
          · exact .error
          · next hr => exact .ok (ih (h.place hp) hr)
theorem MemoryCanonical.range {s : State} {o : Origin} {k : AKind} {p : Word} {len : Nat} (h : MemoryCanonical s) :
    OkSndCanonical (s.range o k p len) :=
  h.rangePieces
theorem MemoryCanonical.askPieces {s : State} {own : Owner} {o : Origin} {ps : List Piece} (h : MemoryCanonical s) :
    MemoryCanonical (s.askPieces own o ps) := by
  unfold State.askPieces
  refine h.foldl fun _ _ h1 => ?_
  split
  · exact h1.askSpan
  · exact h1
theorem MemoryCanonical.piecesWrite {s : State} {ps : List Piece} {bs : List Byte} (h : MemoryCanonical s) :
    MemoryCanonical (s.piecesWrite ps bs) := by
  induction ps generalizing s bs with
  | nil => exact h
  | cons p ps ih => exact ih h.applyAll
theorem MemoryCanonical.piecesCounted {s : State} {o : Origin} {ps : List Piece} (h : MemoryCanonical s) :
    MemoryCanonical (s.piecesCounted o ps) :=
  h.foldl fun _ _ h1 => h1.counted
theorem MemoryCanonical.piecesFree {s : State} {l : List Piece} (h : MemoryCanonical s) : MemoryCanonical (s.piecesFree l) := by
  induction l generalizing s with
  | nil =>
    unfold State.piecesFree
    exact h
  | cons _ _ ih =>
    unfold State.piecesFree
    exact ih h.frame.applyAll
theorem MemoryCanonical.rangeFree {s : State} {o : Origin} {p : Word} {n : Nat} (h : MemoryCanonical s) :
    MemoryCanonical (s.rangeFree o p n) := by
  unfold State.rangeFree
  refine h.foldl fun _ _ h1 => ?_
  dsimp only
  split
  · exact (h1.range ‹_›).piecesFree
  · exact h1
theorem MemoryCanonical.rowMoves {s : State} {c : DCmd} {rs : List (Word × Word × Nat)} (h : MemoryCanonical s) :
    OkSndCanonical (s.rowMoves c rs) := by
  induction rs generalizing s with
  | nil => exact .ok h
  | cons r rs ih =>
    unfold State.rowMoves
    split
    · exact .error
    · next hsrc =>
      split
      · exact .error
      · next hdst =>
        split
        · exact .error
        · next hmore => exact .ok (ih ((h.range hsrc).range hdst) hmore)
theorem MemoryCanonical.clobber {s : State} {c : DCmd} (h : MemoryCanonical s) : MemoryCanonical (s.clobber c) := h.ite h.rangeFree
theorem MemoryCanonical.freeIn {s : State} {p : Word} {n : Nat} (h : MemoryCanonical s) : SndCanonical (s.freeIn p n) := .mk h.frame
theorem MemoryCanonical.runCopy {s : State} {cl : Nat} {c : DCmd} (h : MemoryCanonical s) : CopyEndCanonical (s.runCopy cl c) := by
  unfold State.runCopy
  dsimp only
  split
  · split
    · trivial
    · exact MemoryCanonical.clobber h.flush
  · next ms t hrows =>
    have ht : MemoryCanonical t := h.flush.rowMoves hrows
    split
    · exact h.flush
    · split
      · split
        · exact MemoryCanonical.clobber h.flush
        · exact h.flush
      · split
        · exact h.flush.askPieces
        · refine MemoryCanonical.ite (.clobber ?_) ?_ <;> exact ht.piecesCounted.dropLines.foldl fun _ _ h => h.piecesWrite
        · exact MemoryCanonical.clobber h.flush
theorem MemoryCanonical.tilePieces {s : State} {o : Origin} {k : AKind} {l : List (Word × Nat)} (h : MemoryCanonical s) :
    OkSndCanonical (s.tilePieces o k l) := by
  induction l generalizing s o k with
  | nil =>
    unfold State.tilePieces
    exact .ok h
  | cons _ _ ih =>
    unfold State.tilePieces
    split
    · exact .error
    · split
      · exact .error
      · exact .ok (ih (h.range ‹_›) ‹_›)
theorem MemoryCanonical.clobberTile {s : State} {cl : Nat} {r : Machine.Ring} (h : MemoryCanonical s) : MemoryCanonical (s.clobberTile cl r) := by
  unfold State.clobberTile
  split
  · exact h
  · split
    · exact h
    · exact (h.foldl fun _ _ h1 => h1.rangeFree).ite h.frame.writeAt

/-! Completion counters, completion and kill (Groups.lean). -/

theorem MemoryCanonical.modCtr {s : State} {key : Nat} {f : Counter → Counter} (h : MemoryCanonical s) : MemoryCanonical (s.modCtr key f) :=
  h.frame
theorem MemoryCanonical.flagUp {s : State} {l : Launch} {f : Counter → Counter} (h : MemoryCanonical s) : MemoryCanonical (s.flagUp l f) :=
  h.foldl fun _ _ h1 => h1.modCtr
theorem MemoryCanonical.graphCheck {s : State} {p job gid : Nat} (h : MemoryCanonical s) : MemoryCanonical (s.graphCheck p job gid) :=
  (h.frame.foldl fun _ _ h1 => h1.modCtr).ite h
theorem MemoryCanonical.setPending {s : State} {p job gid : Nat} {ns : List Nat} (h : MemoryCanonical s) :
    MemoryCanonical (s.setPending p job gid ns) :=
  h.frame.modCtr.ite (h.frame.modCtr.ite h.frame)
theorem MemoryCanonical.graphLeave {s : State} {p job gid n : Nat} (h : MemoryCanonical s) : MemoryCanonical (s.graphLeave p job gid n) :=
  h.setPending.graphCheck
theorem MemoryCanonical.startNodes {s : State} {p job gid : Nat} {ns : List Nat} (h : MemoryCanonical s) :
    MemoryCanonical (s.startNodes p job gid ns) :=
  h.ite (h.setPending.foldl fun _ _ h1 => h1.post)
theorem MemoryCanonical.launchEnd {s : State} {lk : Nat} (h : MemoryCanonical s) : MemoryCanonical (s.launchEnd lk) := by
  unfold State.launchEnd
  dsimp only
  split
  · exact (h.modLaunch.startNodes.modCtr.foldl fun _ _ h1 => h1.modCtr).graphCheck
  · exact h.modLaunch.modCtr.foldl fun _ _ h1 => h1.modCtr
theorem MemoryCanonical.groupCounted {s : State} {lk : Nat} (h : MemoryCanonical s) : MemoryCanonical (s.groupCounted lk) :=
  h.modLaunch.launchEnd.ite h.modLaunch.modCtr
theorem MemoryCanonical.freedOn {s : State} {p v : Nat} (h : MemoryCanonical s) : MemoryCanonical (s.freedOn p v) :=
  h.post.foldl fun _ _ h1 => h1.post.ite h1
theorem MemoryCanonical.drainPushes {s : State} {k : Nat} (h : MemoryCanonical s) : MemoryCanonical (s.drainPushes k) :=
  h.flush.modCore.frame.settleLast
theorem MemoryCanonical.unqueue {s : State} {g : Nat} (h : MemoryCanonical s) : MemoryCanonical (s.unqueue g) := h.frame
theorem MemoryCanonical.releaseGroup {s : State} {g : Nat} (h : MemoryCanonical s) : MemoryCanonical (s.releaseGroup g) :=
  (h.orphan.foldl fun _ _ h1 => h1.modCore).modCluster.ite (h.orphan.foldl fun _ _ h1 => h1.modCore)
theorem MemoryCanonical.pauseLimit {s : State} {gid : Nat} (h : MemoryCanonical s) : MemoryCanonical (s.pauseLimit gid) := h.modLaunch
theorem MemoryCanonical.resumeLimit {s : State} {gid : Nat} (h : MemoryCanonical s) : MemoryCanonical (s.resumeLimit gid) := h.ite h.modLaunch
theorem MemoryCanonical.pageGone {s : State} {g : Nat} (h : MemoryCanonical s) : MemoryCanonical (s.pageGone g) := h.ite h.frame.resumeLimit
theorem MemoryCanonical.clobberGroup {s : State} {g : Nat} (h : MemoryCanonical s) : MemoryCanonical (s.clobberGroup g) :=
  ((h.foldl fun _ _ h1 => h1.clobber).foldl fun _ _ h1 => h1.clobberTile).foldl fun _ _ h1 => h1.foldl fun _ _ h2 => h2.frame.writeAt
theorem MemoryCanonical.flagKill {s : State} {l : Launch} {c : Cause} (h : MemoryCanonical s) : MemoryCanonical (s.flagKill l c) :=
  h.modCtr.ite h.flagUp
theorem MemoryCanonical.killGroup {s : State} {g : Nat} {c : Cause} {tv : Word} (h : MemoryCanonical s) :
    MemoryCanonical (s.killGroup g c tv) := by
  unfold State.killGroup
  dsimp only
  split
  · exact h
  · split
    · exact ((h.clobberGroup.foldl fun _ _ h1 => h1.drainPushes.ite h1).ite
        h).releaseGroup.unqueue.pageGone.freedOn.modGroup.modGroup.flagUp.frame
    · exact ((h.clobberGroup.foldl fun _ _ h1 => h1.drainPushes.ite h1).ite
        h).releaseGroup.unqueue.pageGone.freedOn.modGroup.modGroup.flagKill.groupCounted
theorem MemoryCanonical.completeGroup {s : State} {g : Nat} (h : MemoryCanonical s) : MemoryCanonical (s.completeGroup g) :=
  h.releaseGroup.pageGone.freedOn.modGroup.groupCounted
theorem MemoryCanonical.pendImage {s : State} {g fid : Nat} {c : Cause} {tv : Word} (h : MemoryCanonical s) :
    MemoryCanonical (s.pendImage g fid c tv) := by
  unfold State.pendImage
  split
  · exact h.killGroup
  · split
    · exact h.killGroup
    · split
      · exact h.killGroup
      · exact h.modGroup
theorem MemoryCanonical.pendCause {s : State} {o : Origin} {c : Cause} {tv : Word} (h : MemoryCanonical s) :
    MemoryCanonical (s.pendCause o c tv) := by
  unfold State.pendCause
  dsimp only
  split
  · exact h.killGroup.ite (h.modCtxAt.modCore fun _ => by split <;> rfl)
  · split
    · exact h.killGroup.ite h.modCtxAt.modCore
    · split
      · split
        · exact h.killGroup
        · exact h.modCore
      · exact h.pendImage

/-! The start of firings (Firings.lean). -/

theorem MemoryCanonical.moment {s : State} (h : MemoryCanonical s) : SndCanonical s.moment := .mk h.frame
theorem MemoryCanonical.placeMsg {s : State} {k : Nat} {high : Bool} {m : Msg} (h : MemoryCanonical s) : MemoryCanonical (s.placeMsg k high m) :=
  h.frame.modCore fun _ => by split <;> rfl
theorem MemoryCanonical.slotFreed {s : State} {k : Nat} (h : MemoryCanonical s) : MemoryCanonical (s.slotFreed k) :=
  h.foldl fun _ _ h1 => h1.post.ite h1
theorem MemoryCanonical.reserve {s : State} {k : Nat} {sl : CSlot} (h : MemoryCanonical s) : MemoryCanonical (s.reserve k sl) := h.modCore
theorem tidy_reserveSlot {hdl : Nat} {hidden : Bool} : Tidy (reserveSlot hdl hidden) :=
  tidy_get_bind fun _ _ => tidy_trapIf.bind fun _ => tidy_freshId.bind fun _ => (tidy_upd fun _ h1 => h1.reserve).bind fun _ => tidy_pure
theorem MemoryCanonical.modArea {s : State} {pl : Place} {f : List CSlot → List CSlot} (h : MemoryCanonical s) :
    MemoryCanonical (s.modArea pl f) := by
  unfold State.modArea
  split
  · exact h.modCore
  · exact h.modGroup
  · exact h
theorem MemoryCanonical.frameCompl {s : State} {f : FrameCompl} (h : MemoryCanonical s) : MemoryCanonical (s.frameCompl f) := h.frame.post
theorem MemoryCanonical.placeCompletion {s : State} {o : Origin} {id hdl src : Nat} {args : List Word} (h : MemoryCanonical s) :
    MemoryCanonical (s.placeCompletion o id hdl src args) := by
  unfold State.placeCompletion
  dsimp only
  split
  · exact h
  · exact h.frameCompl
  · exact h.frameCompl
  · split
    · exact h.modArea
    · split
      · exact h.moment.snd.modArea.pendCause
      · split
        · exact h.moment.snd.modArea.pendCause
        · split
          · exact h.moment.snd.modArea.modCore
          · exact h.moment.snd.modArea
theorem wf_zeroed {m : Memory} {off n : Nat} (h : m.wf = true) : (zeroed m off n).wf = true := Laws.wf_writeN _ _ _ h
/-- A new firing keeps the own memory of its core canonical. -/
theorem wf_priv_start {c : Core} {h : Bool} {f : Firing} {pc : Nat} {args : Tab Word} {win : List Word} (hc : c.priv.wf = true) :
    (c.start h f pc args win).priv.wf = true := by
  unfold Core.start
  split
  · dsimp only
    refine Laws.wf_writeN _ _ _ ?_
    split
    · exact hc
    · exact wf_zeroed hc
  · dsimp only
    refine Laws.wf_writeN _ _ _ ?_
    split
    · exact hc
    · exact wf_zeroed hc
theorem MemoryCanonical.startHandler {s : State} {k : Nat} {b : Bool} {ms : List Msg} (h : MemoryCanonical s) :
    MemoryCanonical (s.startHandler k b ms) := by
  unfold State.startHandler
  split
  · exact h
  · exact (h.moment.snd.writeCore fun _ => wf_priv_start).acquireAt.slotFreed
theorem MemoryCanonical.startH {s : State} {k : Nat} (h : MemoryCanonical s) : SomeCanonical (s.startH k) := by
  unfold State.startH
  dsimp only
  split
  · split
    · exact .none
    · exact .some h.modCore.startHandler
  · exact .none
theorem MemoryCanonical.startLaunch {s : State} {k g : Nat} (h : MemoryCanonical s) : MemoryCanonical (s.startLaunch k g) := by
  unfold State.startLaunch
  extract_lets gr l e args
  split
  next n m hm =>
    extract_lets fir t
    have ht : MemoryCanonical t := (h.moment hm).writeCore fun _ hc => wf_priv_start hc
    exact .ite ht.acquireAt ht
theorem MemoryCanonical.startL {s : State} {k : Nat} (h : MemoryCanonical s) : SomeCanonical (s.startL k) := by
  unfold State.startL
  dsimp only
  split
  · exact .none
  · split
    · split
      · exact .none
      · exact .some h.modCore.startHandler
    · split
      · exact .none
      · split
        · exact .none
        · exact .some h.startLaunch

/-! Traps, and how an instruction ends (Ops.lean). -/

/-- However an image is saved, the state that saving gives is canonical. -/
def SavedCanonical : Saved → Prop
  | .ok _ t => MemoryCanonical t
  | .wait | .page .. | .dead .. => True
theorem SavedCanonical.of_ok {r : Saved} {i : Nat} {t : State} (h : SavedCanonical r) (e : r = .ok i t) : MemoryCanonical t := by
  subst e; exact h
/-- However an image is restored, the state that restoring gives is canonical. -/
def RestoredCanonical : Restored → Prop
  | .ok t => MemoryCanonical t
  | .page .. | .dead .. => True
theorem RestoredCanonical.of_ok {r : Restored} {t : State} (h : RestoredCanonical r) (e : r = .ok t) : MemoryCanonical t := by
  subst e; exact h
theorem MemoryCanonical.saveFiring {s : State} {k cause : Nat} {tv zp : Word} {prec lit : Bool} {st : Nat} (h : MemoryCanonical s) :
    SavedCanonical (s.saveFiring k cause tv zp prec lit st) := by
  unfold State.saveFiring
  dsimp only
  split
  · trivial
  · split
    · trivial
    · split
      · split <;> trivial
      · next e => exact (h.saveImage e).modCore.coldL1
theorem MemoryCanonical.startFaultHandler {s : State} {k i e cause : Nat} {tv zp : Word} {f : Firing} (h : MemoryCanonical s) :
    MemoryCanonical (s.startFaultHandler k i e cause tv zp f) := by
  unfold State.startFaultHandler
  split
  next hm =>
    extract_lets img g
    refine (h.moment hm).writeCore fun c hc => ?_
    dsimp only
    exact wf_priv_start hc
theorem MemoryCanonical.waitPage {s : State} {o : Origin} {c : Cause} {va : Word} (h : MemoryCanonical s) :
    MemoryCanonical (s.waitPage o c va) := by
  rw [show @State.waitPage = _ from by delta State.waitPage; rfl]
  split
  · exact h.holdWalk.getD h
  · exact (h.faultNotice ‹_›).modCore
theorem MemoryCanonical.tryFault {s : State} {k : Nat} (h : MemoryCanonical s) : SomeCanonical (s.tryFault k) := by
  unfold State.tryFault
  dsimp only
  split
  · exact .none
  · split
    · exact .none
    · split
      · split
        · exact .none
        · split
          · exact .none
          · exact .some h.waitPage
          · exact .some h.killGroup
          · exact .some ((h.saveFiring.of_ok ‹_›).faultNotice.getD (h.saveFiring.of_ok ‹_›)).modCore
      · split
        · exact .some h.modCore.killGroup
        · split
          · exact .none
          · split
            · exact .none
            · exact .some h.waitPage
            · exact .some h.killGroup
            · exact .some (h.saveFiring.of_ok ‹_›).modCore.startFaultHandler
theorem MemoryCanonical.haltGroup {s : State} {pg gid code rank : Nat} (h : MemoryCanonical s) : MemoryCanonical (s.haltGroup pg gid code rank) :=
  (h.frame.modGroup.foldl fun _ _ h1 => h1.modCore).post
theorem MemoryCanonical.beginHalt {s : State} {k pg : Nat} {cs : Cause} {tv zp : Word} {prec : Bool} (h : MemoryCanonical s) :
    MemoryCanonical (s.beginHalt k pg cs tv zp prec) :=
  h.haltGroup.modCore
theorem MemoryCanonical.stepHalt {s : State} {k : Nat} (h : MemoryCanonical s) : MemoryCanonical (s.stepHalt k) := by
  unfold State.stepHalt
  dsimp only
  split
  · exact h.modCore
  · exact h.beginHalt.ite h.modCore.haltGroup
theorem MemoryCanonical.raiseL {s : State} {k : Nat} {cs : Cause} {tv zp : Word} {prec : Bool} (h : MemoryCanonical s) :
    MemoryCanonical (s.raiseL k cs tv zp prec) := by
  unfold State.raiseL
  dsimp only
  split
  · exact (h.ite (h.holdWalk.getD h)).modCore.tryFault.getD (h.ite (h.holdWalk.getD h)).modCore
  · exact h.killGroup
  · exact h.killGroup.ite (h.modCore.tryFault.getD h.modCore)
  · split
    · exact h.killGroup
    · split
      · exact h.beginHalt
      · exact h.modCore.tryFault.getD h.modCore
  · exact h
theorem MemoryCanonical.raiseH {s : State} {k : Nat} {cs : Cause} {tv : Word} (h : MemoryCanonical s) : MemoryCanonical (s.raiseH k cs tv) := by
  unfold State.raiseH
  dsimp only
  split
  · exact h.waitPage
  · exact h.killGroup
  · exact h.killGroup.ite h.killGroup
theorem MemoryCanonical.forgetBad {s : State} {k : Nat} {tv : Word} (h : MemoryCanonical s) : MemoryCanonical (s.forgetBad k tv) := h.modCore
theorem MemoryCanonical.takeTrap {s : State} {cs : Cause} {tv zp : Word} (h : MemoryCanonical s) : MemoryCanonical (s.takeTrap cs tv zp) :=
  (h.modCtx.forgetBad.ite h.modCtx).raiseH.ite (h.modCtx.forgetBad.ite h.modCtx).raiseL
theorem MemoryCanonical.raisePending {s : State} {k : Nat} {b : Bool} (h : MemoryCanonical s) : SomeCanonical (s.raisePending k b) := by
  unfold State.raisePending
  dsimp only
  split
  · exact .none
  · split
    · exact .none
    · exact .some ((h.modCtxAt.modCore fun _ => by split <;> rfl).raiseH.ite (h.modCtxAt.modCore fun _ => by split <;> rfl).raiseL)
theorem MemoryCanonical.restoreFiring {s : State} {k src i : Nat} {check : Bool} (h : MemoryCanonical s) :
    RestoredCanonical (s.restoreFiring k src i check) := by
  unfold State.restoreFiring
  extract_lets sl f o va read
  clear_value read
  split
  · split <;> trivial
  · split
    · trivial
    · extract_lets s1 s2 s3
      have h2 : MemoryCanonical s2 := (h.modCore.writeCore fun c hc => wf_priv_restore c _ _ hc).coldL1
      have h3 : MemoryCanonical s3 := .ite h2 h2.post
      exact (MemoryCanonical.ite h3 h3.post).wantItems
theorem MemoryCanonical.waited {s : State} (h : MemoryCanonical s) : MemoryCanonical s.waited := h.modCtx.frame
theorem MemoryCanonical.retire {s : State} {pc : Word} (h : MemoryCanonical s) : MemoryCanonical (s.retire pc) :=
  h.modMe fun _ => Laws.putCtx_priv ..
theorem finish_canonical {s : State} {r : Except Stop (Word × State)} (hr : EndCanonical r) (h : MemoryCanonical s) :
    OutCanonical (finish r s) := by
  unfold finish
  split
  · exact .next (MemoryCanonical.retire hr)
  · exact .next h.takeTrap
  · exact .next (MemoryCanonical.takeTrap hr)
  · exact .next h.waited
  · exact .next (hr rfl).waited
  · exact .next (hr _ h).waited
  · exact .next (MemoryCanonical.pendCause hr).waited
theorem MemoryCanonical.unwatched {s : State} (h : MemoryCanonical s) : MemoryCanonical s.unwatched := h.frame
theorem Tidy.settle {α : Type} {m : M α} {s : State} (hm : Tidy m) (h : MemoryCanonical s) : EndCanonical (settle m s) := by
  unfold Machine.settle
  split
  · have hu := hm _ h.unwatched
    split
    · trivial
    · next e => rw [e] at hu; exact hu
    · next e => rw [e] at hu; exact hu
    · trivial
  · exact hm s h
theorem Tidy.run {m : M Unit} {s : State} (hm : Tidy m) (h : MemoryCanonical s) : OutCanonical (run m s) :=
  finish_canonical ((hm.bind fun _ => tidy_ctx.bind fun _ => tidy_pure).settle h) h
theorem Tidy.runTo {m : M Word} {s : State} (hm : Tidy m) (h : MemoryCanonical s) : OutCanonical (runTo m s) := finish_canonical (hm.settle h) h
theorem Tidy.runEnd {m : M Unit} {s : State} (hm : Tidy m) (h : MemoryCanonical s) : OutCanonical (runEnd m s) := by
  unfold Machine.runEnd
  have hr := hm.settle h
  generalize Machine.settle m s = r at hr ⊢
  split
  · exact .next (MemoryCanonical.modMe hr)
  · exact .next h.takeTrap
  · exact .next (MemoryCanonical.takeTrap hr)
  · exact .next h.waited
  · exact .next (hr rfl).waited
  · exact .next (hr _ h).waited
  · exact .next (MemoryCanonical.pendCause hr).waited

/-! The standard integer, branch, load, store, FENCE and SYSTEM forms (Scalar.lean). -/

theorem tidy_aluR {f : Word → Word → Word} {rs2 rs1 rd : BitVec 5} : Tidy (aluR f rs2 rs1 rd) :=
  tidy_regs.bind fun _ => tidy_getX.bind fun _ => tidy_getX.bind fun _ => tidy_setX
theorem tidy_aluI {f : Word → Word} {rs1 rd : BitVec 5} : Tidy (aluI f rs1 rd) := tidy_regs.bind fun _ => tidy_getX.bind fun _ => tidy_setX
theorem tidy_target {t : Word} : Tidy (target t) := tidy_trapIf.bind fun _ => tidy_pure
theorem tidy_branch {f : Word → Word → Bool} {off : BitVec 12} {rs2 rs1 : BitVec 5} : Tidy (branch f off rs2 rs1) :=
  tidy_regs.bind fun _ => tidy_getX.bind fun _ => tidy_getX.bind fun _ => tidy_ctx.bind fun _ => tidy_ite tidy_target tidy_pure
theorem tidy_loadX {n : Nat} {cv : Conv} {off : BitVec 12} {rs1 rd : BitVec 5} : Tidy (loadX n cv off rs1 rd) :=
  tidy_regs.bind fun _ => tidy_getX.bind fun _ => tidy_loadRaw
theorem tidy_storeX {n : Nat} {off : BitVec 12} {rs2 rs1 : BitVec 5} : Tidy (storeX n off rs2 rs1) :=
  tidy_regs.bind fun _ => tidy_getX.bind fun _ => tidy_getX.bind fun _ => tidy_storeRaw
theorem tidy_readsBack : Tidy readsBack := tidy_me.bind fun _ => tidy_holdUnless
theorem tidy_fullFence {dom : Bool} : Tidy (fullFence dom) := tidy_release.bind fun _ => tidy_readsBack.bind fun _ => tidy_acquire
theorem execLui_canonical {s : State} {imm : BitVec 20} {rd : BitVec 5} (h : MemoryCanonical s) : OutCanonical (execLui imm rd s) :=
  (tidy_regs.bind fun _ => tidy_setX).run h
theorem execAuipc_canonical {s : State} {imm : BitVec 20} {rd : BitVec 5} (h : MemoryCanonical s) : OutCanonical (execAuipc imm rd s) :=
  (tidy_regs.bind fun _ => tidy_ctx.bind fun _ => tidy_setX).run h
theorem execJal_canonical {s : State} {imm : BitVec 20} {rd : BitVec 5} (h : MemoryCanonical s) : OutCanonical (execJal imm rd s) :=
  (tidy_regs.bind fun _ => tidy_ctx.bind fun _ => tidy_target.bind fun _ => tidy_setX.bind fun _ => tidy_pure).runTo h
theorem execJalr_canonical {s : State} {imm : BitVec 12} {rs1 rd : BitVec 5} (h : MemoryCanonical s) : OutCanonical (execJalr imm rs1 rd s) :=
  (tidy_regs.bind fun _ => tidy_ctx.bind fun _ => tidy_getX.bind fun _ => tidy_target.bind fun _ => tidy_setX.bind fun _ => tidy_pure).runTo h
theorem execEcall_canonical {s : State} (h : MemoryCanonical s) : OutCanonical (execEcall s) :=
  (tidy_noRepeat.bind fun _ => tidy_ctx.bind fun _ => tidy_trap).run h
theorem execEbreak_canonical {s : State} (h : MemoryCanonical s) : OutCanonical (execEbreak s) := (tidy_noRepeat.bind fun _ => tidy_trap).run h

/-! The single-precision forms (FScalar.lean). -/

theorem tidy_fBin {f : Rnd → Nat → Nat → Nat × Flg} {rs2 rs1 : BitVec 5} {rm : BitVec 3} {rd : BitVec 5} {w : BitVec 32}
    : Tidy (fBin f rs2 rs1 rm rd w) :=
  tidy_roundingOf.bind fun _ => tidy_fLow.bind fun _ => tidy_regs.bind fun _ => tidy_getF.bind fun _ => tidy_getF.bind fun _ =>
    tidy_withFlags.bind fun _ => tidy_setF32
theorem tidy_fFused {np nc : Bool} {rs3 rs2 rs1 : BitVec 5} {rm : BitVec 3} {rd : BitVec 5} {w : BitVec 32}
    : Tidy (fFused np nc rs3 rs2 rs1 rm rd w) :=
  tidy_roundingOf.bind fun _ => tidy_fLow.bind fun _ => tidy_regs.bind fun _ => tidy_getF.bind fun _ => tidy_getF.bind fun _ =>
    tidy_getF.bind fun _ => tidy_withFlags.bind fun _ => tidy_setF32
theorem tidy_fPair {f : Nat → Nat → Nat × Flg} {rs2 rs1 rd : BitVec 5} {w : BitVec 32} : Tidy (fPair f rs2 rs1 rd w) :=
  tidy_fLow.bind fun _ => tidy_regs.bind fun _ => tidy_getF.bind fun _ => tidy_getF.bind fun _ => tidy_withFlags.bind fun _ => tidy_setF32
theorem tidy_fCmp {f : Nat → Nat → Bool × Flg} {rs2 rs1 rd : BitVec 5} {w : BitVec 32} : Tidy (fCmp f rs2 rs1 rd w) :=
  tidy_fLow.bind fun _ => tidy_regs.bind fun _ => tidy_getF.bind fun _ => tidy_getF.bind fun _ => tidy_withFlags.bind fun _ => tidy_setX
theorem tidy_fToInt {w : Nat} {sgn : Bool} {rs1 : BitVec 5} {rm : BitVec 3} {rd : BitVec 5} {wd : BitVec 32} : Tidy (fToInt w sgn rs1 rm rd wd) :=
  tidy_roundingOf.bind fun _ => tidy_fLow.bind fun _ => tidy_regs.bind fun _ => tidy_getF.bind fun _ => tidy_withFlags.bind fun _ => tidy_setX
theorem tidy_fFromInt {val : Word → ℤ} {rs1 : BitVec 5} {rm : BitVec 3} {rd : BitVec 5} {w : BitVec 32} : Tidy (fFromInt val rs1 rm rd w) :=
  tidy_roundingOf.bind fun _ => tidy_fLow.bind fun _ => tidy_regs.bind fun _ => tidy_getX.bind fun _ => tidy_withFlags.bind fun _ => tidy_setF32
theorem tidy_fSlow {rd : BitVec 5} {r : Nat × Flg} : Tidy (fSlow rd r) := tidy_setLater
theorem tidy_fdivM {rs2 rs1 : BitVec 5} {rm : BitVec 3} {rd : BitVec 5} : Tidy (fdivM rs2 rs1 rm rd) :=
  tidy_roundingOf.bind fun _ => tidy_fLow.bind fun _ => tidy_regs.bind fun _ => tidy_getF.bind fun _ => tidy_getF.bind fun _ => tidy_fSlow
theorem tidy_fsqrtM {rs1 : BitVec 5} {rm : BitVec 3} {rd : BitVec 5} : Tidy (fsqrtM rs1 rm rd) :=
  tidy_roundingOf.bind fun _ => tidy_fLow.bind fun _ => tidy_regs.bind fun _ => tidy_getF.bind fun _ => tidy_fSlow
theorem MemoryCanonical.reachF {s : State} {o : Origin} {p : Word} {k : AKind} (h : MemoryCanonical s) : OkSndCanonical (s.reachF o p k) := by
  unfold State.reachF
  dsimp only
  split
  · exact .error
  · split
    · exact .error
    · split
      · exact .error
      · split
        · split
          · exact .error
          · exact h.place
        · split
          · exact .error
          · exact h.place
theorem tidy_flwM {imm : BitVec 12} {rs1 rd : BitVec 5} : Tidy (flwM imm rs1 rd) :=
  tidy_fLow.bind fun _ => tidy_regs.bind fun _ => tidy_getX.bind fun _ => (tidy_orTrapS fun _ h => h.reachF).bind fun _ =>
    tidy_watch.bind fun _ => tidy_readAt.bind fun _ => tidy_deliver
theorem tidy_fswM {imm : BitVec 12} {rs2 rs1 : BitVec 5} : Tidy (fswM imm rs2 rs1) :=
  tidy_fLow.bind fun _ => tidy_regs.bind fun _ => tidy_getX.bind fun _ => tidy_getF.bind fun _ => (tidy_orTrapS fun _ h =>
    h.reachF).bind fun _ => tidy_watch.bind fun _ => tidy_raiseFlags.bind fun _ => tidy_writeTo
theorem execFlw_canonical {s : State} {imm : BitVec 12} {rs1 rd : BitVec 5} (h : MemoryCanonical s) : OutCanonical (execFlw imm rs1 rd s) :=
  (tidy_noRepeat.bind fun _ => tidy_flwM).run h
theorem execFsw_canonical {s : State} {imm : BitVec 12} {rs2 rs1 : BitVec 5} (h : MemoryCanonical s) : OutCanonical (execFsw imm rs2 rs1 s) :=
  (tidy_noRepeat.bind fun _ => tidy_fswM).run h
theorem tidy_fmaddM {rs3 rs2 rs1 : BitVec 5} {rm : BitVec 3} {rd : BitVec 5} : Tidy (fmaddM rs3 rs2 rs1 rm rd) := tidy_fFused
theorem execFmaddS_canonical {s : State} {rs3 rs2 rs1 : BitVec 5} {rm : BitVec 3} {rd : BitVec 5} (h : MemoryCanonical s) :
    OutCanonical (execFmaddS rs3 rs2 rs1 rm rd s) :=
  (tidy_noRepeat.bind fun _ => tidy_fmaddM).run h
theorem tidy_fmsubM {rs3 rs2 rs1 : BitVec 5} {rm : BitVec 3} {rd : BitVec 5} : Tidy (fmsubM rs3 rs2 rs1 rm rd) := tidy_fFused
theorem execFmsubS_canonical {s : State} {rs3 rs2 rs1 : BitVec 5} {rm : BitVec 3} {rd : BitVec 5} (h : MemoryCanonical s) :
    OutCanonical (execFmsubS rs3 rs2 rs1 rm rd s) :=
  (tidy_noRepeat.bind fun _ => tidy_fmsubM).run h
theorem tidy_fnmsubM {rs3 rs2 rs1 : BitVec 5} {rm : BitVec 3} {rd : BitVec 5} : Tidy (fnmsubM rs3 rs2 rs1 rm rd) := tidy_fFused
theorem execFnmsubS_canonical {s : State} {rs3 rs2 rs1 : BitVec 5} {rm : BitVec 3} {rd : BitVec 5} (h : MemoryCanonical s) :
    OutCanonical (execFnmsubS rs3 rs2 rs1 rm rd s) :=
  (tidy_noRepeat.bind fun _ => tidy_fnmsubM).run h
theorem tidy_fnmaddM {rs3 rs2 rs1 : BitVec 5} {rm : BitVec 3} {rd : BitVec 5} : Tidy (fnmaddM rs3 rs2 rs1 rm rd) := tidy_fFused
theorem execFnmaddS_canonical {s : State} {rs3 rs2 rs1 : BitVec 5} {rm : BitVec 3} {rd : BitVec 5} (h : MemoryCanonical s) :
    OutCanonical (execFnmaddS rs3 rs2 rs1 rm rd s) :=
  (tidy_noRepeat.bind fun _ => tidy_fnmaddM).run h
theorem tidy_faddM {rs2 rs1 : BitVec 5} {rm : BitVec 3} {rd : BitVec 5} : Tidy (faddM rs2 rs1 rm rd) := tidy_fBin
theorem execFaddS_canonical {s : State} {rs2 rs1 : BitVec 5} {rm : BitVec 3} {rd : BitVec 5} (h : MemoryCanonical s) :
    OutCanonical (execFaddS rs2 rs1 rm rd s) :=
  (tidy_noRepeat.bind fun _ => tidy_faddM).run h
theorem tidy_fsubM {rs2 rs1 : BitVec 5} {rm : BitVec 3} {rd : BitVec 5} : Tidy (fsubM rs2 rs1 rm rd) := tidy_fBin
theorem execFsubS_canonical {s : State} {rs2 rs1 : BitVec 5} {rm : BitVec 3} {rd : BitVec 5} (h : MemoryCanonical s) :
    OutCanonical (execFsubS rs2 rs1 rm rd s) :=
  (tidy_noRepeat.bind fun _ => tidy_fsubM).run h
theorem tidy_fmulM {rs2 rs1 : BitVec 5} {rm : BitVec 3} {rd : BitVec 5} : Tidy (fmulM rs2 rs1 rm rd) := tidy_fBin
theorem execFmulS_canonical {s : State} {rs2 rs1 : BitVec 5} {rm : BitVec 3} {rd : BitVec 5} (h : MemoryCanonical s) :
    OutCanonical (execFmulS rs2 rs1 rm rd s) :=
  (tidy_noRepeat.bind fun _ => tidy_fmulM).run h
theorem execFdivS_canonical {s : State} {rs2 rs1 : BitVec 5} {rm : BitVec 3} {rd : BitVec 5} (h : MemoryCanonical s) :
    OutCanonical (execFdivS rs2 rs1 rm rd s) :=
  (tidy_noRepeat.bind fun _ => tidy_fdivM).run h
theorem execFsqrtS_canonical {s : State} {rs1 : BitVec 5} {rm : BitVec 3} {rd : BitVec 5} (h : MemoryCanonical s) :
    OutCanonical (execFsqrtS rs1 rm rd s) :=
  (tidy_noRepeat.bind fun _ => tidy_fsqrtM).run h
theorem tidy_fsgnjM {rs2 rs1 rd : BitVec 5} : Tidy (fsgnjM rs2 rs1 rd) := tidy_fPair
theorem execFsgnjS_canonical {s : State} {rs2 rs1 rd : BitVec 5} (h : MemoryCanonical s) : OutCanonical (execFsgnjS rs2 rs1 rd s) :=
  (tidy_noRepeat.bind fun _ => tidy_fsgnjM).run h
theorem tidy_fsgnjnM {rs2 rs1 rd : BitVec 5} : Tidy (fsgnjnM rs2 rs1 rd) := tidy_fPair
theorem execFsgnjnS_canonical {s : State} {rs2 rs1 rd : BitVec 5} (h : MemoryCanonical s) : OutCanonical (execFsgnjnS rs2 rs1 rd s) :=
  (tidy_noRepeat.bind fun _ => tidy_fsgnjnM).run h
theorem tidy_fsgnjxM {rs2 rs1 rd : BitVec 5} : Tidy (fsgnjxM rs2 rs1 rd) := tidy_fPair
theorem execFsgnjxS_canonical {s : State} {rs2 rs1 rd : BitVec 5} (h : MemoryCanonical s) : OutCanonical (execFsgnjxS rs2 rs1 rd s) :=
  (tidy_noRepeat.bind fun _ => tidy_fsgnjxM).run h
theorem tidy_fminM {rs2 rs1 rd : BitVec 5} : Tidy (fminM rs2 rs1 rd) := tidy_fPair
theorem execFminS_canonical {s : State} {rs2 rs1 rd : BitVec 5} (h : MemoryCanonical s) : OutCanonical (execFminS rs2 rs1 rd s) :=
  (tidy_noRepeat.bind fun _ => tidy_fminM).run h
theorem tidy_fmaxM {rs2 rs1 rd : BitVec 5} : Tidy (fmaxM rs2 rs1 rd) := tidy_fPair
theorem execFmaxS_canonical {s : State} {rs2 rs1 rd : BitVec 5} (h : MemoryCanonical s) : OutCanonical (execFmaxS rs2 rs1 rd s) :=
  (tidy_noRepeat.bind fun _ => tidy_fmaxM).run h
theorem execFleS_canonical {s : State} {rs2 rs1 rd : BitVec 5} (h : MemoryCanonical s) : OutCanonical (execFleS rs2 rs1 rd s) :=
  (tidy_noRepeat.bind fun _ => tidy_fCmp).run h
theorem execFltS_canonical {s : State} {rs2 rs1 rd : BitVec 5} (h : MemoryCanonical s) : OutCanonical (execFltS rs2 rs1 rd s) :=
  (tidy_noRepeat.bind fun _ => tidy_fCmp).run h
theorem execFeqS_canonical {s : State} {rs2 rs1 rd : BitVec 5} (h : MemoryCanonical s) : OutCanonical (execFeqS rs2 rs1 rd s) :=
  (tidy_noRepeat.bind fun _ => tidy_fCmp).run h
theorem execFcvtWS_canonical {s : State} {rs1 : BitVec 5} {rm : BitVec 3} {rd : BitVec 5} (h : MemoryCanonical s) :
    OutCanonical (execFcvtWS rs1 rm rd s) :=
  (tidy_noRepeat.bind fun _ => tidy_fToInt).run h
theorem execFcvtWuS_canonical {s : State} {rs1 : BitVec 5} {rm : BitVec 3} {rd : BitVec 5} (h : MemoryCanonical s) :
    OutCanonical (execFcvtWuS rs1 rm rd s) :=
  (tidy_noRepeat.bind fun _ => tidy_fToInt).run h
theorem execFcvtLS_canonical {s : State} {rs1 : BitVec 5} {rm : BitVec 3} {rd : BitVec 5} (h : MemoryCanonical s) :
    OutCanonical (execFcvtLS rs1 rm rd s) :=
  (tidy_noRepeat.bind fun _ => tidy_fToInt).run h
theorem execFcvtLuS_canonical {s : State} {rs1 : BitVec 5} {rm : BitVec 3} {rd : BitVec 5} (h : MemoryCanonical s) :
    OutCanonical (execFcvtLuS rs1 rm rd s) :=
  (tidy_noRepeat.bind fun _ => tidy_fToInt).run h
theorem execFcvtSW_canonical {s : State} {rs1 : BitVec 5} {rm : BitVec 3} {rd : BitVec 5} (h : MemoryCanonical s) :
    OutCanonical (execFcvtSW rs1 rm rd s) :=
  (tidy_noRepeat.bind fun _ => tidy_fFromInt).run h
theorem execFcvtSWu_canonical {s : State} {rs1 : BitVec 5} {rm : BitVec 3} {rd : BitVec 5} (h : MemoryCanonical s) :
    OutCanonical (execFcvtSWu rs1 rm rd s) :=
  (tidy_noRepeat.bind fun _ => tidy_fFromInt).run h
theorem execFcvtSL_canonical {s : State} {rs1 : BitVec 5} {rm : BitVec 3} {rd : BitVec 5} (h : MemoryCanonical s) :
    OutCanonical (execFcvtSL rs1 rm rd s) :=
  (tidy_noRepeat.bind fun _ => tidy_fFromInt).run h
theorem execFcvtSLu_canonical {s : State} {rs1 : BitVec 5} {rm : BitVec 3} {rd : BitVec 5} (h : MemoryCanonical s) :
    OutCanonical (execFcvtSLu rs1 rm rd s) :=
  (tidy_noRepeat.bind fun _ => tidy_fFromInt).run h
theorem execFmvXW_canonical {s : State} {rs1 rd : BitVec 5} (h : MemoryCanonical s) : OutCanonical (execFmvXW rs1 rd s) :=
  (tidy_noRepeat.bind fun _ => tidy_fLow.bind fun _ => tidy_regs.bind fun _ => tidy_getF.bind fun _ => tidy_setX).run h
theorem execFclassS_canonical {s : State} {rs1 rd : BitVec 5} (h : MemoryCanonical s) : OutCanonical (execFclassS rs1 rd s) :=
  (tidy_noRepeat.bind fun _ => tidy_fLow.bind fun _ => tidy_regs.bind fun _ => tidy_getF.bind fun _ => tidy_setX).run h
theorem execFmvWX_canonical {s : State} {rs1 rd : BitVec 5} (h : MemoryCanonical s) : OutCanonical (execFmvWX rs1 rd s) :=
  (tidy_noRepeat.bind fun _ => tidy_fLow.bind fun _ => tidy_regs.bind fun _ => tidy_getX.bind fun _ => tidy_setF32).run h

/-! Pointers, constants and control registers (Csr.lean). -/

theorem tidy_paddM {a d : BitVec 5} {ea : Bool} {k : Option (BitVec 5)} {n : ℤ} : Tidy (paddM a d ea k n) := by
  unfold paddM
  refine tidy_regs.bind fun _ => tidy_getX.bind fun _ => ?_
  split
  · exact tidy_getX.bind fun _ => tidy_setX
  · exact tidy_setX
theorem execPsetf_canonical {s : State} {k8 : BitVec 8} {eb1 : BitVec 1} {a d : BitVec 5} (h : MemoryCanonical s) :
    OutCanonical (execPsetf k8 eb1 a d s) :=
  (tidy_regs.bind fun _ => tidy_getX.bind fun _ => tidy_setX).run h
theorem execPgetf_canonical {s : State} {eb1 : BitVec 1} {a d : BitVec 5} (h : MemoryCanonical s) : OutCanonical (execPgetf eb1 a d s) :=
  (tidy_regs.bind fun _ => tidy_getX.bind fun _ => tidy_setX).run h
theorem tidy_kittyWord {k : Nat} : Tidy (kittyWord k) := tidy_me.bind fun _ => tidy_trapIf.bind fun _ => tidy_pure
theorem execKld_canonical {s : State} {k8 : BitVec 8} {d : BitVec 5} (h : MemoryCanonical s) : OutCanonical (execKld k8 d s) :=
  (tidy_regs.bind fun _ => tidy_kittyWord.bind fun _ => tidy_setX).run h
theorem execKldf_canonical {s : State} {k8 : BitVec 8} {d : BitVec 5} (h : MemoryCanonical s) : OutCanonical (execKldf k8 d s) :=
  (tidy_noRepeat.bind fun _ => tidy_fLow.bind fun _ => tidy_regs.bind fun _ => tidy_kittyWord.bind fun _ => tidy_setF).run h
theorem execRdref_canonical {s : State} {d : BitVec 5} (h : MemoryCanonical s) : OutCanonical (execRdref d s) :=
  (tidy_regs.bind fun _ => tidy_get_bind fun _ _ => tidy_setX).run h
theorem execRddcyc_canonical {s : State} {d : BitVec 5} (h : MemoryCanonical s) : OutCanonical (execRddcyc d s) :=
  (tidy_regs.bind fun _ => tidy_get_bind fun _ _ => tidy_setX).run h
theorem execRdratio_canonical {s : State} {d : BitVec 5} (h : MemoryCanonical s) : OutCanonical (execRdratio d s) :=
  (tidy_regs.bind fun _ => tidy_get_bind fun _ _ => tidy_setX).run h
theorem tidy_sendInval {v : Inval} : Tidy (sendInval v) := tidy_freshId.bind fun _ => (tidy_upd fun _ h => h.frame).bind fun _ => tidy_post
theorem tidy_aperWrite {n w : Nat} {v : Word} : Tidy (aperWrite n w v) := by
  unfold aperWrite
  refine tidy_get_bind fun _ h => ?_
  dsimp only
  split
  · exact tidy_upd fun _ h1 => h1.modPart
  · exact tidy_trapIf.bind fun _ => (tidy_upd fun _ h1 => h1.modPart).bind fun _ => tidy_join tidy_sendInval fun _ =>
      tidy_ite tidy_sendInval tidy_pure
theorem tidy_writePartCsr {f : Csrs → Csrs} : Tidy (writePartCsr f) :=
  tidy_get_bind fun _ _ => (tidy_upd fun _ h1 => h1.modPart).bind fun _ => tidy_freshId.bind fun _ => .bind tidy_updMe fun _ => tidy_post
theorem tidy_readCsr {c : Nat} : Tidy (readCsr c) := by
  unfold readCsr
  refine tidy_get_bind fun _ h => ?_
  dsimp only
  split
  · exact tidy_flagsSettled.bind fun _ => tidy_pure
  · exact tidy_pure
  · exact tidy_flagsSettled.bind fun _ => tidy_pure
  · exact tidy_pure
  · exact tidy_pure
  · exact tidy_pure
  · exact tidy_pure
  · exact tidy_pure
  · exact tidy_pure
  · exact tidy_pure
  · exact tidy_pure
  · exact tidy_pure
  · exact tidy_pure
  · exact tidy_pure
  · exact tidy_pure
  · exact tidy_pure
theorem tidy_writeCsr {c : Nat} {v : Word} : Tidy (writeCsr c v) := by
  unfold writeCsr
  split
  · exact tidy_updCtx
  · exact tidy_updCtx
  · exact tidy_updCtx
  · exact tidy_updLs
  · exact tidy_updLs
  · exact tidy_get_bind fun _ _ => (tidy_upd fun _ h1 => h1.modPart).bind fun _ => tidy_ite tidy_writePartCsr tidy_pure
  · exact tidy_writePartCsr
  · exact tidy_writePartCsr
  · exact tidy_writePartCsr
  · exact tidy_pure
  · exact tidy_pure
  · exact tidy_pure
  · exact tidy_pure
  · exact tidy_pure
  · exact tidy_pure
  · exact tidy_aperWrite
theorem tidy_csrCheck {c : Nat} {w : BitVec 32} : Tidy (csrCheck c w) :=
  tidy_get_bind fun _ _ => tidy_trapIf.bind fun _ => tidy_trapIf.bind fun _ => tidy_trapIf.bind fun _ => tidy_trapIf
theorem tidy_csrForm {csr : BitVec 12} {src : M Word} {srcs : List (Nat × Bool)} {writes : Bool} {f : Word → Word → Word} {rd : BitVec 5}
    {w : BitVec 32} (hsrc : Tidy src) : Tidy (csrForm csr src srcs writes f rd w) :=
  tidy_noRepeat.bind fun _ => tidy_csrCheck.bind fun _ => tidy_regs.bind fun _ => hsrc.bind fun _ => tidy_readCsr.bind fun _ =>
    tidy_join tidy_writeCsr fun _ => tidy_setX
theorem execAperw_canonical {s : State} {imm7 : BitVec 7} {a : BitVec 5} (h : MemoryCanonical s) : OutCanonical (execAperw imm7 a s) :=
  (tidy_noRepeat.bind fun _ => tidy_needSup.bind fun _ => tidy_regs.bind fun _ => tidy_getX.bind fun _ => tidy_aperWrite).run h

/-! The atomic engines and the service requests (Engine.lean). -/

theorem MemoryCanonical.wakeAll {s : State} {l : Loc} {kind : Nat} (h : MemoryCanonical s) : MemoryCanonical (s.wakeAll l kind) :=
  h.foldl fun _ _ h1 => h1.post.ite h1
theorem MemoryCanonical.register {s : State} {o : Origin} {l : Loc} {kind gn : Nat} (h : MemoryCanonical s) :
    MemoryCanonical (s.register o l kind gn) :=
  h.frame
theorem MemoryCanonical.putWord {s : State} {l : Loc} {i x : Nat} (h : MemoryCanonical s) : MemoryCanonical (s.putWord l i x) := h.writeNum
theorem MemoryCanonical.publish {s : State} {l : Loc} {n : Nat} (h : MemoryCanonical s) : MemoryCanonical (s.publish l n) := by
  induction n generalizing s l with
  | zero =>
    unfold State.publish
    exact h
  | succ _ ih =>
    unfold State.publish
    dsimp only
    split
    · exact h
    · exact ih h.putWord.frame.wakeAll
theorem MemoryCanonical.rowReach {s : State} {o : Origin} {p : Word} (h : MemoryCanonical s) : OkSndCanonical (s.rowReach o p) := by
  unfold State.rowReach
  split
  · exact .error
  · split
    · exact .error
    · exact h.place
theorem MemoryCanonical.queuePush {s : State} {o : Origin} {va : Word} {l : Loc} {x : Word} {wait : Bool} (h : MemoryCanonical s) :
    OkSndCanonical (s.queuePush o va l x wait) := by
  unfold State.queuePush
  extract_lets w0 w1 lim tkt r
  split
  · exact .error
  · split
    · exact (SndCanonical.mk h.register).ite (.mk h) |>.ok
    · split
      · exact .error
      · next e => exact .ok (h.rowReach e).putWord.frame.post
theorem MemoryCanonical.queuePop {s : State} {o : Origin} {va : Word} {l : Loc} {wait : Bool} (h : MemoryCanonical s) :
    OkSndCanonical (s.queuePop o va l wait) := by
  unfold State.queuePop
  dsimp only
  split
  · exact .error
  · split
    · exact (SndCanonical.mk h.register).ite (.mk h) |>.ok
    · exact .ok h.putWord.wakeAll
theorem MemoryCanonical.queueInit {s : State} {o : Origin} {l : Loc} {lim : Word} (h : MemoryCanonical s) :
    OkSndCanonical (s.queueInit o l lim) := by
  unfold State.queueInit
  dsimp only
  split
  · exact .error
  · exact .ok h.putWord.putWord.putWord.frame.wakeAll.wakeAll
theorem MemoryCanonical.barrier {s : State} {o : Origin} {va : Word} {l : Loc} {op : Nat} {args : List Word} (h : MemoryCanonical s) :
    OkSndCanonical (s.barrier o va l op args) := by
  unfold State.barrier
  dsimp only
  split
  · exact .ok (h.putWord.putWord.ite h.putWord.putWord.wakeAll)
  · split
    · exact .error
    · split
      · split
        · exact .error
        · exact .ok (h.putWord.wakeAll.ite h.putWord)
      · split
        · exact (SndCanonical.mk h).ite (.mk h.register) |>.ok
        · exact .ok h
theorem MemoryCanonical.join {s : State} {va : Word} {l : Loc} {op : Nat} {args : List Word} (h : MemoryCanonical s) :
    OkSndCanonical (s.join va l op args) := by
  unfold State.join
  dsimp only
  split
  · exact .ok h.putWord
  · split
    · exact .error
    · exact .ok h.putWord
theorem MemoryCanonical.perform {s : State} {o : Origin} {va : Word} {l : Loc} {a : AOp} (h : MemoryCanonical s) :
    OkSndCanonical (s.perform o va l a) := by
  unfold State.perform
  dsimp only
  split
  · exact h.queueInit
  · exact h.queuePush
  · exact h.queuePush
  · exact h.queuePop
  · exact h.queuePop
  · exact h.barrier
  · exact h.join
  · split
    · exact .error
    · refine .ok ?_
      split
      · exact h.writeNum
      · exact h
theorem MemoryCanonical.sendSvc {s : State} {v : Svc} (h : MemoryCanonical s) : MemoryCanonical (s.sendSvc v) := h.frame.post
theorem tidy_watchAtomic {p : Word} {r : Reach} {a : AOp} : Tidy (watchAtomic p r a) := tidy_get_bind fun _ _ => tidy_watch
theorem tidy_pendHere {c : Cause} {tv : Word} : Tidy (pendHere c tv) := tidy_upd fun _ h => h.pendCause
theorem tidy_targetFails {α : Type} {e : Cause × Word} : Tidy (targetFails e : M α) := tidy_ite tidy_late tidy_trap
theorem tidy_spanRefused {n : Nat} {l : List (Word × Reach)} : Tidy (spanRefused n l) := by
  induction l generalizing n with
  | nil =>
    unfold spanRefused
    exact tidy_pure
  | cons _ _ ih =>
    unfold spanRefused
    refine tidy_get_bind fun _ h => ?_
    split
    · split
      · exact tidy_ite tidy_pure tidy_hold
      · split
        · exact tidy_pure
        · exact ih
    · exact ih
theorem MemoryCanonical.amoJoin {s : State} (h : MemoryCanonical s) : MemoryCanonical s.amoJoin := h.modCluster
theorem MemoryCanonical.amoServed {s : State} {sp : Spot} (h : MemoryCanonical s) : MemoryCanonical (s.amoServed sp) := h.modCluster
theorem tidy_engineFails {prec : Bool} {c : Cause} {p : Word} : Tidy (engineFails prec c p) :=
  tidy_ite tidy_targetFails (tidy_pendHere.bind fun _ => tidy_pure)
theorem tidy_engine {prec : Bool} {p : Word} {chk : M Reach} {a : AOp} {sent : M Unit} (hchk : Tidy chk) (hsent : Tidy sent) :
    Tidy (engine prec p chk a sent) := by
  unfold engine
  refine tidy_ctx.bind fun _ => ?_
  split
  · exact tidy_updCtx.bind fun _ => tidy_pure
  · exact tidy_updCtx.bind fun _ => tidy_engineFails
  · exact tidy_updCtx.bind fun _ => tidy_orTrap
  · refine hchk.bind fun _ => tidy_watchAtomic.bind fun _ => tidy_get_bind fun _ h => ?_
    split
    · exact tidy_holdUnless.bind fun _ => hsent.bind fun _ => tidy_get_bind fun _ _ => (tidy_upd fun _ h2 => h2.sendSvc).bind fun _ =>
        tidy_updCtx.bind fun _ => tidy_holdKeep
    · exact tidy_holdUnless.bind fun _ => hsent.bind fun _ => tidy_sendAccess.bind fun _ => (tidy_upd fun _ h1 => h1.modMe.unfill).bind fun _ =>
        tidy_updCtx.bind fun _ => tidy_holdKeep
    · refine tidy_holdUnless.bind fun _ => ?_
      split
      · exact tidy_ite tidy_engineFails tidy_hold
      · split
        · exact tidy_want fun _ h1 => h1.amoJoin
        · split
          · exact tidy_engineFails
          · refine (tidy_upd fun _ h1 => h1.flush.counted.amoServed).bind fun _ => tidy_get_bind fun _ h1 => ?_
            split
            · exact tidy_orTrap
            · exact (tidy_set (h1.perform ‹_›).modMe).bind fun _ => tidy_ite (tidy_updCtx.bind fun _ => tidy_holdKeep) tidy_pure
    · exact tidy_trap
  · exact tidy_hold
theorem tidy_atomicReach {p : Word} {n : Nat} : Tidy (atomicReach p n) := tidy_reach
theorem tidy_ownReach {p : Word} {n : Nat} : Tidy (ownReach p n) := by
  unfold ownReach
  refine tidy_reach.bind fun _ => ?_
  split
  · exact tidy_trap
  · exact tidy_pure

/-! Atomic and queue instructions (Atomics.lean). -/

theorem tidy_amoM {idx op n : Nat} {rs2 rs1 rd : BitVec 5} : Tidy (amoM idx op n rs2 rs1 rd) := by
  unfold amoM
  refine tidy_regs.bind fun _ => tidy_getX.bind fun _ => tidy_getX.bind fun _ => (tidy_engine tidy_atomicReach tidy_pure).bind fun _ => ?_
  split
  · exact tidy_setX
  · exact tidy_pure
theorem execAcas_canonical {s : State} {eb2 eb1 : BitVec 1} {b a d : BitVec 5} (h : MemoryCanonical s) :
    OutCanonical (execAcas eb2 eb1 b a d s) := by
  unfold execAcas
  refine Tidy.run (tidy_noRepeat.bind fun _ => tidy_regs.bind fun _ => tidy_getX.bind fun _ => tidy_getX.bind fun _ => tidy_getX.bind fun _ =>
    (tidy_engine tidy_atomicReach tidy_pure).bind fun _ => ?_) h
  split
  · exact tidy_setX
  · exact tidy_pure
theorem tidy_floatReach {p : Word} : Tidy (floatReach p) :=
  tidy_trapIf.bind fun _ => tidy_trapIf.bind fun _ => tidy_trapIf.bind fun _ => tidy_atomicReach
theorem tidy_undoFloat {b d : BitVec 5} : Tidy (undoFloat b d) := by
  unfold undoFloat
  refine tidy_get_bind fun _ h => ?_
  dsimp only
  split
  · refine tidy_updPort.bind fun _ => ?_
    split
    · exact tidy_updPort.bind fun _ => tidy_post
    · exact tidy_pure
  · split
    · exact tidy_updPort.bind fun _ => tidy_post
    · exact tidy_pure
theorem tidy_floatAtomic {idx : Nat} {eb2 eb1 : BitVec 1} {b a d : BitVec 5} {w : BitVec 32} : Tidy (floatAtomic idx eb2 eb1 b a d w) := by
  unfold floatAtomic
  refine tidy_noRepeat.bind fun _ => tidy_fLow.bind fun _ => tidy_ctx.bind fun _ => tidy_getX.bind fun _ => ?_
  dsimp only
  split
  · refine tidy_regs.bind fun _ => tidy_getF.bind fun _ => tidy_get_bind fun _ h => .bind (tidy_engine tidy_floatReach ?_) fun _ => ?_
    · split
      · exact tidy_pushPort
      · exact tidy_pure
    · split
      · exact tidy_setF
      · exact tidy_pure
  · exact tidy_undoFloat.bind fun _ => tidy_updCtx.bind fun _ => tidy_ite tidy_late tidy_report
  · refine (tidy_engine tidy_floatReach tidy_pure).bind fun _ => tidy_get_bind fun _ h => ?_
    split
    · exact (tidy_upd fun _ h1 => h1.feedPush).bind fun _ => tidy_post
    · exact tidy_setF
    · exact tidy_pure
theorem execAtkt_canonical {s : State} {eb2 eb1 : BitVec 1} {b a d : BitVec 5} (h : MemoryCanonical s) :
    OutCanonical (execAtkt eb2 eb1 b a d s) := by
  unfold execAtkt
  refine Tidy.run (tidy_noRepeat.bind fun _ => tidy_regs.bind fun _ => tidy_getX.bind fun _ => tidy_getX.bind fun _ =>
    (tidy_engine tidy_atomicReach tidy_pure).bind fun _ => ?_) h
  split
  · exact tidy_setX
  · exact tidy_pure
theorem tidy_queueOp {op : Nat} {a : BitVec 5} {x : Word} {d : BitVec 5} : Tidy (queueOp op a x d) := by
  unfold queueOp
  refine tidy_getX.bind fun _ => (tidy_engine tidy_ownReach tidy_pure).bind fun _ => ?_
  split
  · exact tidy_setX
  · exact tidy_pure
theorem execQpush_canonical {s : State} {eb2 eb1 : BitVec 1} {b a d : BitVec 5} (h : MemoryCanonical s) :
    OutCanonical (execQpush eb2 eb1 b a d s) :=
  (tidy_noRepeat.bind fun _ => tidy_regs.bind fun _ => tidy_getX.bind fun _ => tidy_queueOp).run h
theorem execQpushw_canonical {s : State} {eb2 eb1 : BitVec 1} {b a d : BitVec 5} (h : MemoryCanonical s) :
    OutCanonical (execQpushw eb2 eb1 b a d s) :=
  (tidy_noRepeat.bind fun _ => tidy_needLaunch.bind fun _ => tidy_regs.bind fun _ => tidy_getX.bind fun _ => tidy_queueOp).run h
theorem execQpop_canonical {s : State} {eb1 : BitVec 1} {a d : BitVec 5} (h : MemoryCanonical s) : OutCanonical (execQpop eb1 a d s) :=
  (tidy_noRepeat.bind fun _ => tidy_regs.bind fun _ => tidy_queueOp).run h
theorem execQpopw_canonical {s : State} {eb1 : BitVec 1} {a d : BitVec 5} (h : MemoryCanonical s) : OutCanonical (execQpopw eb1 a d s) :=
  (tidy_noRepeat.bind fun _ => tidy_needLaunch.bind fun _ => tidy_regs.bind fun _ => tidy_queueOp).run h
theorem execQinit_canonical {s : State} {eb2 eb1 : BitVec 1} {b a : BitVec 5} (h : MemoryCanonical s) : OutCanonical (execQinit eb2 eb1 b a s) :=
  (tidy_noRepeat.bind fun _ => tidy_regs.bind fun _ => tidy_getX.bind fun _ => tidy_trapIf.bind fun _ => tidy_queueOp).run h

/-! Message instructions (Messages.lean). -/

theorem tidy_selector {imm7 : BitVec 7} : Tidy (selector imm7) := tidy_ite (tidy_kittyWord.bind fun _ => tidy_pure) tidy_pure
theorem tidy_routeTo {p : Word} {bad : Cause} : Tidy (routeTo p bad) := by
  unfold routeTo
  refine tidy_get_bind fun _ h => ?_
  dsimp only
  split
  · split
    · exact tidy_trap
    · exact tidy_pure
  · exact tidy_ite tidy_pure tidy_trap
theorem tidy_holdPassed {α : Type} {n : Nat} : Tidy (holdPassed n : M α) := tidy_updCtx.bind fun _ => tidy_holdKeep
theorem tidy_checkTarget {t : Word} {b : Nat} : Tidy (checkTarget t b) := by
  unfold checkTarget
  refine tidy_get_bind fun _ h => tidy_trapIf.bind fun _ => ?_
  split
  · exact tidy_trapIf.bind fun _ => tidy_trapIf.bind fun _ => tidy_pure
  · split
    · exact tidy_pure
    · exact tidy_trap
theorem tidy_egress : Tidy egress := tidy_get_bind fun _ _ => tidy_ite tidy_pure (tidy_ite tidy_trap (tidy_ite tidy_pure tidy_pure))
theorem tidy_useEgress {e : Egress} : Tidy (useEgress e) := tidy_updCtx
theorem tidy_argsLanded {n : Nat} : Tidy (argsLanded n) := tidy_ctx.bind fun _ => tidy_ite tidy_holdPassed tidy_pure
theorem tidy_argWords {l : List Nat} : Tidy (argWords l) := by
  induction l with
  | nil =>
    unfold argWords
    exact tidy_pure
  | cons _ _ ih =>
    unfold argWords
    exact tidy_srcReady.bind fun _ => tidy_getX.bind fun _ => ih.bind fun _ => tidy_pure
theorem tidy_sendMsg {dest : Target} {e : Egress} {t : Word} {b argc : Nat} {pri sup : Bool} {args : List Word} {tval : Word}
    : Tidy (sendMsg dest e t b argc pri sup args tval) := by
  unfold sendMsg
  refine tidy_get_bind fun _ h => ?_
  dsimp only
  split
  · exact tidy_holdUnless.bind fun _ => tidy_freshId.bind fun _ => (tidy_upd fun _ h1 => h1.frame).bind fun _ => (tidy_upd fun _ h1 =>
      h1.sendPacket).bind fun _ => tidy_useEgress.bind fun _ => tidy_updMe
  · exact tidy_freshId.bind fun _ => (tidy_upd fun _ h1 => h1.frame).bind fun _ => tidy_post.bind fun _ => tidy_useEgress.bind fun _ => tidy_updMe
theorem tidy_sendM {blocking byAddr : Bool} {imm7 : BitVec 7} {a d : BitVec 5} {w : BitVec 32} : Tidy (sendM blocking byAddr imm7 a d w) := by
  unfold sendM
  refine tidy_noRepeat.bind fun _ => tidy_join tidy_needLaunch fun _ => tidy_regs.bind fun _ => tidy_getX.bind fun _ =>
    tidy_selector.bind fun _ => tidy_trapIf.bind fun _ => (tidy_ite (tidy_trapIf.bind fun _ => tidy_trapIf.bind fun _ =>
    tidy_routeTo.bind fun _ => tidy_pure) tidy_checkTarget).bind fun _ => tidy_egress.bind fun _ => tidy_get_bind fun _ h => ?_
  dsimp only
  split
  · split
    · exact tidy_setX
    · split
      · split
        · exact tidy_setX
        · split
          · exact tidy_ite tidy_holdPassed tidy_setX
          · exact tidy_release.bind fun _ => tidy_argsLanded.bind fun _ => tidy_argWords.bind fun _ => tidy_sendMsg.bind fun _ => tidy_setX
      · split
        · exact tidy_setX
        · split
          · exact tidy_ite tidy_holdPassed tidy_setX
          · exact tidy_release.bind fun _ => tidy_argsLanded.bind fun _ => tidy_argWords.bind fun _ => tidy_sendMsg.bind fun _ => tidy_setX
  · split
    · exact tidy_setX
    · split
      · split
        · exact tidy_setX
        · split
          · exact tidy_ite tidy_holdPassed tidy_setX
          · exact tidy_release.bind fun _ => tidy_argsLanded.bind fun _ => tidy_argWords.bind fun _ => tidy_sendMsg.bind fun _ => tidy_setX
      · split
        · exact tidy_setX
        · split
          · exact tidy_ite tidy_holdPassed tidy_setX
          · exact tidy_release.bind fun _ => tidy_argsLanded.bind fun _ => tidy_argWords.bind fun _ => tidy_sendMsg.bind fun _ => tidy_setX
theorem tidy_recvFilter {v : Word} {w : BitVec 32} : Tidy (recvFilter v w) :=
  tidy_get_bind fun _ _ => tidy_trapIf.bind fun _ => tidy_trapIf.bind fun _ => tidy_pure
theorem MemoryCanonical.dequeue {s : State} {m : Msg} (h : MemoryCanonical s) : MemoryCanonical (s.dequeue m) :=
  (h.modMe fun _ => by split <;> rfl).slotFreed
theorem tidy_recvM {blocking : Bool} {eb1 : BitVec 1} {a d : BitVec 5} {w : BitVec 32} : Tidy (recvM blocking eb1 a d w) := by
  unfold recvM
  refine tidy_noRepeat.bind fun _ => tidy_join tidy_needLaunch fun _ => tidy_regs.bind fun _ => tidy_getX.bind fun _ =>
    tidy_recvFilter.bind fun _ => tidy_get_bind fun _ h => ?_
  dsimp only
  split
  · exact tidy_ite tidy_hold tidy_setX
  · exact (tidy_upd fun _ h1 => h1.dequeue).bind fun _ => tidy_join tidy_updLs fun _ => tidy_acquire.bind fun _ => (tidy_upd fun _ h1 =>
      h1.writeAt).bind fun _ => tidy_join tidy_setLater fun _ => tidy_forM fun _ => tidy_setLater
theorem execMcount_canonical {s : State} {eb1 : BitVec 1} {a d : BitVec 5} (h : MemoryCanonical s) : OutCanonical (execMcount eb1 a d s) :=
  (tidy_noRepeat.bind fun _ => tidy_regs.bind fun _ => tidy_getX.bind fun _ => tidy_recvFilter.bind fun _ => tidy_me.bind fun _ =>
    tidy_setX).run h
theorem tidy_abortWaits : Tidy abortWaits := tidy_get_bind fun _ _ => tidy_holdUnless
theorem tidy_endWaits : Tidy endWaits :=
  tidy_get_bind fun _ _ => tidy_holdUnless.bind fun _ => tidy_holdUnless.bind fun _ => tidy_holdUnless.bind fun _ => tidy_holdUnless
theorem priv_endL {c : Core} : c.endL.priv = c.priv := by
  unfold Core.endL
  dsimp only
  induction c.ls.ports generalizing c with
  | nil => rfl
  | cons e l ih =>
    rw [List.foldl_cons, ih]
    split
    · exact Laws.setReg_priv ..
    · rfl
theorem MemoryCanonical.freeAborted {s : State} {f : Firing} (h : MemoryCanonical s) : MemoryCanonical (s.freeAborted f) := h.ite h.modCore
theorem MemoryCanonical.endFiring {s : State} {armed : Bool} (h : MemoryCanonical s) : MemoryCanonical (s.endFiring armed) := by
  unfold State.endFiring
  refine (h.modMe fun c => ?_).freeAborted.postOnce
  dsimp only
  split
  · rfl
  · exact priv_endL
theorem tidy_endM {armed : Bool} : Tidy (endM armed) :=
  tidy_noRepeat.bind fun _ => tidy_endWaits.bind fun _ => tidy_abortWaits.bind fun _ => tidy_upd fun _ h => h.endFiring
theorem tidy_serviceRoute {p : Word} {n : Nat} {k : AKind} {decodes ok : Bool} : Tidy (serviceRoute p n k decodes ok) :=
  tidy_trapIf.bind fun _ => tidy_trapIf.bind fun _ => tidy_trapIf.bind fun _ => tidy_trapIf.bind fun _ => tidy_trapIf.bind fun _ => tidy_routeTo
theorem tidy_notBefore {cl off n : Nat} {wr : Bool} : Tidy (notBefore cl off n wr) := tidy_get_bind fun _ _ => tidy_holdUnless
theorem execGet_canonical {s : State} {imm7 : BitVec 7} {a d : BitVec 5} (h : MemoryCanonical s) : OutCanonical (execGet imm7 a d s) :=
  (tidy_noRepeat.bind fun _ => tidy_regs.bind fun _ => tidy_getX.bind fun _ => tidy_serviceRoute.bind fun _ => tidy_watch.bind fun _ =>
    tidy_notBefore.bind fun _ => tidy_freshId.bind fun _ => tidy_markPending.bind fun _ => tidy_upd fun _ h1 => h1.sendSvc).run h
theorem tidy_serviceWrite {p : Word} {cl off : Nat} {ask : AOp} {rd : Bool} : Tidy (serviceWrite p cl off ask rd) :=
  tidy_get_bind fun _ _ => tidy_watch.bind fun _ => tidy_notBefore.bind fun _ => tidy_upd fun _ h1 => h1.sendSvc
theorem execPut_canonical {s : State} {imm7 : BitVec 7} {a d : BitVec 5} (h : MemoryCanonical s) : OutCanonical (execPut imm7 a d s) :=
  (tidy_noRepeat.bind fun _ => tidy_regs.bind fun _ => tidy_getX.bind fun _ => tidy_getX.bind fun _ => tidy_serviceRoute.bind fun _ =>
    tidy_serviceWrite).run h
theorem execSadd_canonical {s : State} {imm7 : BitVec 7} {a d : BitVec 5} (h : MemoryCanonical s) : OutCanonical (execSadd imm7 a d s) :=
  (tidy_noRepeat.bind fun _ => tidy_regs.bind fun _ => tidy_getX.bind fun _ => tidy_getX.bind fun _ => tidy_serviceRoute.bind fun _ =>
    tidy_serviceWrite).run h

/-! Vector memory (VecMem.lean). -/

theorem tidy_vecTag {p : Word} {wide adds : Bool} : Tidy (vecTag p wide adds) := tidy_trapIf.bind fun _ => tidy_trapIf.bind fun _ => tidy_trapIf
theorem tidy_laneReach {p : Word} {n : Nat} {k : AKind} : Tidy (laneReach p n k) :=
  tidy_trapIf.bind fun _ => tidy_trapIf.bind fun _ => tidy_orTrapS fun _ h => h.place
theorem tidy_lanesReach {n : Nat} {k : AKind} {l : List Word} : Tidy (lanesReach n k l) := by
  induction l generalizing n k with
  | nil =>
    unfold lanesReach
    exact tidy_pure
  | cons _ _ ih =>
    unfold lanesReach
    exact tidy_laneReach.bind fun _ => ih.bind fun _ => tidy_pure
theorem tidy_readLanes {n m : Nat} {l : List (Word × Reach)} : Tidy (readLanes n m l) := by
  induction l generalizing n m with
  | nil =>
    unfold readLanes
    exact tidy_pure
  | cons _ _ ih =>
    unfold readLanes
    refine tidy_readAt.bind fun _ => ih.bind fun _ => ?_
    split
    split <;> exact tidy_pure
theorem tidy_askLanes {n id : Nat} {ds : List LaneDue} : Tidy (askLanes n id ds) := by
  induction ds with
  | nil => exact tidy_pure
  | cons d ds ih =>
    unfold askLanes
    split
    · exact tidy_pure
    · next e => cases e; exact (tidy_upd fun _ h => h.sendErr).bind fun _ => ih
    · next e => cases e; exact tidy_sendAccess.bind fun _ => ih
theorem tidy_watchLanes {n : Nat} {l : List (Word × Reach)} : Tidy (watchLanes n l) := by
  induction l generalizing n with
  | nil =>
    unfold watchLanes
    exact tidy_pure
  | cons _ _ ih =>
    unfold watchLanes
    exact tidy_watch.bind fun _ => ih
theorem tidy_writeLanes {l : List ((Word × Reach) × List Byte)} : Tidy (writeLanes l) := by
  induction l with
  | nil =>
    unfold writeLanes
    exact tidy_pure
  | cons _ _ ih =>
    unfold writeLanes
    exact tidy_writeTo.bind fun _ => ih
theorem tidy_watchStores {l : List ((Word × Reach) × List Byte)} : Tidy (watchStores l) := by
  induction l with
  | nil =>
    unfold watchStores
    exact tidy_pure
  | cons _ _ ih =>
    unfold watchStores
    exact tidy_watch.bind fun _ => ih
theorem execVld_canonical {s : State} {imm7 : BitVec 7} {a d : BitVec 5} (h : MemoryCanonical s) : OutCanonical (execVld imm7 a d s) :=
  (tidy_noRepeat.bind fun _ => tidy_needL.bind fun _ => tidy_regs.bind fun _ => tidy_getX.bind fun _ => tidy_vecTag.bind fun _ =>
    tidy_laneReach.bind fun _ => tidy_watch.bind fun _ => tidy_readAt.bind fun _ => tidy_deliver).run h
theorem execVst_canonical {s : State} {imm7 : BitVec 7} {a d : BitVec 5} (h : MemoryCanonical s) : OutCanonical (execVst imm7 a d s) :=
  (tidy_noRepeat.bind fun _ => tidy_needL.bind fun _ => tidy_regs.bind fun _ => tidy_getX.bind fun _ => tidy_getV.bind fun _ =>
    tidy_vecTag.bind fun _ => tidy_laneReach.bind fun _ => tidy_watch.bind fun _ => tidy_writeTo).run h
theorem execVlds_canonical {s : State} {eb2 eb1 : BitVec 1} {b a d : BitVec 5} (h : MemoryCanonical s) :
    OutCanonical (execVlds eb2 eb1 b a d s) := by
  unfold execVlds
  refine Tidy.run (tidy_noRepeat.bind fun _ => tidy_needL.bind fun _ => tidy_regs.bind fun _ => tidy_getX.bind fun _ => tidy_getX.bind fun _ =>
    tidy_vecTag.bind fun _ => tidy_lanesReach.bind fun _ => tidy_watchLanes.bind fun _ => tidy_get_bind fun _ h1 => tidy_readLanes.bind fun _ =>
    ?_) h
  split
  · split
    · exact tidy_setV
    · exact tidy_join tidy_globalRoom fun _ => tidy_ite tidy_setLater (tidy_freshId.bind fun _ => tidy_markPending.bind fun _ => tidy_askLanes)
theorem execVsts_canonical {s : State} {eb2 eb1 : BitVec 1} {b a d : BitVec 5} (h : MemoryCanonical s) :
    OutCanonical (execVsts eb2 eb1 b a d s) :=
  (tidy_noRepeat.bind fun _ => tidy_needL.bind fun _ => tidy_regs.bind fun _ => tidy_getX.bind fun _ => tidy_getX.bind fun _ =>
    tidy_getV.bind fun _ => tidy_vecTag.bind fun _ => tidy_lanesReach.bind fun _ => tidy_watchStores.bind fun _ => tidy_writeLanes).run h
theorem execVldp_canonical {s : State} {imm7 : BitVec 7} {a d : BitVec 5} (h : MemoryCanonical s) : OutCanonical (execVldp imm7 a d s) := by
  unfold execVldp
  refine Tidy.run (tidy_noRepeat.bind fun _ => tidy_needL.bind fun _ => tidy_regs.bind fun _ => tidy_getX.bind fun _ =>
    tidy_pipeLoad.bind fun _ => ?_) h
  split
  · exact tidy_setP
  · exact tidy_pendHere.bind fun _ => tidy_freeNat.bind fun _ => tidy_setP
theorem tidy_lanesRoute {n : Nat} {k : AKind} {l : List Word} : Tidy (lanesRoute n k l) := by
  induction l generalizing n k with
  | nil =>
    unfold lanesRoute
    exact tidy_pure
  | cons _ _ ih =>
    unfold lanesRoute
    exact tidy_trapIf.bind fun _ => tidy_trapIf.bind fun _ => tidy_routeTo.bind fun _ => ih.bind fun _ => tidy_pure
theorem tidy_lanesFree {n : Nat} {wr : Bool} {l : List (Word × Nat × Nat)} : Tidy (lanesFree n wr l) := by
  induction l generalizing n wr with
  | nil =>
    unfold lanesFree
    exact tidy_pure
  | cons _ _ ih =>
    unfold lanesFree
    exact tidy_notBefore.bind fun _ => ih
theorem tidy_watchSvcs {mk : Nat → Svc} {l : List ((Nat × Nat) × Nat)} {n : Nat} {ls : List (Word × Nat × Nat)} : Tidy (watchSvcs mk l n ls) := by
  induction ls generalizing mk l n with
  | nil =>
    unfold watchSvcs
    exact tidy_pure
  | cons _ _ ih =>
    unfold watchSvcs
    exact tidy_get_bind fun _ _ => tidy_watch.bind fun _ => ih
theorem tidy_sendLanes {mk : Nat → Svc} {n : Nat} {l : List (Word × Nat × Nat)} : Tidy (sendLanes mk n l) := by
  induction l generalizing mk n with
  | nil =>
    unfold sendLanes
    exact tidy_pure
  | cons _ _ ih =>
    unfold sendLanes
    exact (tidy_upd fun _ h => h.sendSvc).bind fun _ => ih
theorem execVgath_canonical {s : State} {eb2 eb1 : BitVec 1} {b a d : BitVec 5} (h : MemoryCanonical s) :
    OutCanonical (execVgath eb2 eb1 b a d s) :=
  (tidy_noRepeat.bind fun _ => tidy_needL.bind fun _ => tidy_regs.bind fun _ => tidy_getX.bind fun _ => tidy_getV.bind fun _ =>
    tidy_vecTag.bind fun _ => tidy_lanesRoute.bind fun _ => tidy_lanesFree.bind fun _ => tidy_watchSvcs.bind fun _ => tidy_freshId.bind fun _ =>
    tidy_markPending.bind fun _ => tidy_sendLanes).run h
theorem tidy_scatterM {adds : Bool} {eb2 eb1 : BitVec 1} {b a d : BitVec 5} {w : BitVec 32} : Tidy (scatterM adds eb2 eb1 b a d w) :=
  tidy_noRepeat.bind fun _ => tidy_needL.bind fun _ => tidy_regs.bind fun _ => tidy_getX.bind fun _ => tidy_getV.bind fun _ =>
    tidy_getV.bind fun _ => tidy_vecTag.bind fun _ => tidy_lanesRoute.bind fun _ => tidy_lanesFree.bind fun _ => tidy_freshId.bind fun _ =>
    tidy_watchSvcs.bind fun _ => tidy_sendLanes

/-! Vector arithmetic (Vector.lean). -/

theorem tidy_needFmt {c : FClass} {fmt : BitVec 3} {w : BitVec 32} : Tidy (needFmt c fmt w) := tidy_trapIf
theorem tidy_oldV {pred : BitVec 3} {must : Bool} {vd : BitVec 4} : Tidy (oldV pred must vd) := tidy_ite tidy_pure tidy_getV
theorem tidy_giveV {late : Bool} {vd : BitVec 4} {v : VWord} : Tidy (giveV late vd v) := tidy_ite tidy_setLater tidy_setV
theorem tidy_vUn {c : FClass} {late : Bool} {f : Nat → Nat → Nat} {pred : BitVec 3} {eb1 : BitVec 1} {va : BitVec 4} {fmt : BitVec 3}
    {vd : BitVec 4} {w : BitVec 32} : Tidy (vUn c late f pred eb1 va fmt vd w) :=
  tidy_needL.bind fun _ => tidy_needFmt.bind fun _ => tidy_regs.bind fun _ => tidy_getP.bind fun _ => tidy_getV.bind fun _ =>
    tidy_oldV.bind fun _ => tidy_giveV
theorem tidy_vBin {c : FClass} {late fused : Bool} {f : Nat → Nat → Nat → Nat → Nat} {pred : BitVec 3} {eb2 eb1 : BitVec 1} {vb va : BitVec 4}
    {fmt : BitVec 3} {vd : BitVec 4} {w : BitVec 32} : Tidy (vBin c late fused f pred eb2 eb1 vb va fmt vd w) :=
  tidy_needL.bind fun _ => tidy_needFmt.bind fun _ => tidy_regs.bind fun _ => tidy_getP.bind fun _ => tidy_getV.bind fun _ =>
    tidy_getV.bind fun _ => tidy_oldV.bind fun _ => tidy_giveV
theorem tidy_vCmp {f : Nat → Nat → Nat → Bool} {pred : BitVec 3} {eb2 eb1 : BitVec 1} {vb va : BitVec 4} {fmt : BitVec 3} {vd : BitVec 4}
    {w : BitVec 32} : Tidy (vCmp f pred eb2 eb1 vb va fmt vd w) :=
  tidy_needL.bind fun _ => tidy_regs.bind fun _ => tidy_getP.bind fun _ => tidy_getV.bind fun _ => tidy_getV.bind fun _ => tidy_setP
theorem tidy_getScalar {fmt : BitVec 3} {n : BitVec 4} {eb : Bool} : Tidy (getScalar fmt n eb) := tidy_ite tidy_getF tidy_getX
theorem tidy_vRed {f : Nat → Nat → Nat → Nat} {absent : Option Nat} {none_ : Nat → Nat} {pred : BitVec 3} {eb1 : BitVec 1} {va : BitVec 4}
    {fmt : BitVec 3} {vd : BitVec 4} {w : BitVec 32} : Tidy (vRed f absent none_ pred eb1 va fmt vd w) :=
  tidy_needL.bind fun _ => tidy_regs.bind fun _ => tidy_getP.bind fun _ => tidy_getV.bind fun _ => tidy_setV
theorem tidy_vaddM {pred : BitVec 3} {eb2 eb1 : BitVec 1} {vb va : BitVec 4} {fmt : BitVec 3} {vd : BitVec 4}
    : Tidy (vaddM pred eb2 eb1 vb va fmt vd) :=
  tidy_vBin
theorem execVadd_canonical {s : State} {pred : BitVec 3} {eb2 eb1 : BitVec 1} {vb va : BitVec 4} {fmt : BitVec 3} {vd : BitVec 4}
    (h : MemoryCanonical s) : OutCanonical (execVadd pred eb2 eb1 vb va fmt vd s) :=
  (tidy_noRepeat.bind fun _ => tidy_vaddM).run h
theorem tidy_vsubM {pred : BitVec 3} {eb2 eb1 : BitVec 1} {vb va : BitVec 4} {fmt : BitVec 3} {vd : BitVec 4}
    : Tidy (vsubM pred eb2 eb1 vb va fmt vd) :=
  tidy_vBin
theorem execVsub_canonical {s : State} {pred : BitVec 3} {eb2 eb1 : BitVec 1} {vb va : BitVec 4} {fmt : BitVec 3} {vd : BitVec 4}
    (h : MemoryCanonical s) : OutCanonical (execVsub pred eb2 eb1 vb va fmt vd s) :=
  (tidy_noRepeat.bind fun _ => tidy_vsubM).run h
theorem tidy_vmulM {pred : BitVec 3} {eb2 eb1 : BitVec 1} {vb va : BitVec 4} {fmt : BitVec 3} {vd : BitVec 4}
    : Tidy (vmulM pred eb2 eb1 vb va fmt vd) :=
  tidy_vBin
theorem execVmul_canonical {s : State} {pred : BitVec 3} {eb2 eb1 : BitVec 1} {vb va : BitVec 4} {fmt : BitVec 3} {vd : BitVec 4}
    (h : MemoryCanonical s) : OutCanonical (execVmul pred eb2 eb1 vb va fmt vd s) :=
  (tidy_noRepeat.bind fun _ => tidy_vmulM).run h
theorem tidy_vfmaM {pred : BitVec 3} {eb2 eb1 : BitVec 1} {vb va : BitVec 4} {fmt : BitVec 3} {vd : BitVec 4}
    : Tidy (vfmaM pred eb2 eb1 vb va fmt vd) :=
  tidy_vBin
theorem execVfma_canonical {s : State} {pred : BitVec 3} {eb2 eb1 : BitVec 1} {vb va : BitVec 4} {fmt : BitVec 3} {vd : BitVec 4}
    (h : MemoryCanonical s) : OutCanonical (execVfma pred eb2 eb1 vb va fmt vd s) :=
  (tidy_noRepeat.bind fun _ => tidy_vfmaM).run h
theorem tidy_vfmsM {pred : BitVec 3} {eb2 eb1 : BitVec 1} {vb va : BitVec 4} {fmt : BitVec 3} {vd : BitVec 4}
    : Tidy (vfmsM pred eb2 eb1 vb va fmt vd) :=
  tidy_vBin
theorem execVfms_canonical {s : State} {pred : BitVec 3} {eb2 eb1 : BitVec 1} {vb va : BitVec 4} {fmt : BitVec 3} {vd : BitVec 4}
    (h : MemoryCanonical s) : OutCanonical (execVfms pred eb2 eb1 vb va fmt vd s) :=
  (tidy_noRepeat.bind fun _ => tidy_vfmsM).run h
theorem tidy_vfnmaM {pred : BitVec 3} {eb2 eb1 : BitVec 1} {vb va : BitVec 4} {fmt : BitVec 3} {vd : BitVec 4}
    : Tidy (vfnmaM pred eb2 eb1 vb va fmt vd) :=
  tidy_vBin
theorem execVfnma_canonical {s : State} {pred : BitVec 3} {eb2 eb1 : BitVec 1} {vb va : BitVec 4} {fmt : BitVec 3} {vd : BitVec 4}
    (h : MemoryCanonical s) : OutCanonical (execVfnma pred eb2 eb1 vb va fmt vd s) :=
  (tidy_noRepeat.bind fun _ => tidy_vfnmaM).run h
theorem tidy_vminM {pred : BitVec 3} {eb2 eb1 : BitVec 1} {vb va : BitVec 4} {fmt : BitVec 3} {vd : BitVec 4}
    : Tidy (vminM pred eb2 eb1 vb va fmt vd) :=
  tidy_vBin
theorem execVmin_canonical {s : State} {pred : BitVec 3} {eb2 eb1 : BitVec 1} {vb va : BitVec 4} {fmt : BitVec 3} {vd : BitVec 4}
    (h : MemoryCanonical s) : OutCanonical (execVmin pred eb2 eb1 vb va fmt vd s) :=
  (tidy_noRepeat.bind fun _ => tidy_vminM).run h
theorem tidy_vmaxM {pred : BitVec 3} {eb2 eb1 : BitVec 1} {vb va : BitVec 4} {fmt : BitVec 3} {vd : BitVec 4}
    : Tidy (vmaxM pred eb2 eb1 vb va fmt vd) :=
  tidy_vBin
theorem execVmax_canonical {s : State} {pred : BitVec 3} {eb2 eb1 : BitVec 1} {vb va : BitVec 4} {fmt : BitVec 3} {vd : BitVec 4}
    (h : MemoryCanonical s) : OutCanonical (execVmax pred eb2 eb1 vb va fmt vd s) :=
  (tidy_noRepeat.bind fun _ => tidy_vmaxM).run h
theorem tidy_vabsM {pred : BitVec 3} {eb2 eb1 : BitVec 1} {vb va : BitVec 4} {fmt : BitVec 3} {vd : BitVec 4}
    : Tidy (vabsM pred eb2 eb1 vb va fmt vd) :=
  tidy_vUn
theorem execVabs_canonical {s : State} {pred : BitVec 3} {eb2 eb1 : BitVec 1} {vb va : BitVec 4} {fmt : BitVec 3} {vd : BitVec 4}
    (h : MemoryCanonical s) : OutCanonical (execVabs pred eb2 eb1 vb va fmt vd s) :=
  (tidy_noRepeat.bind fun _ => tidy_vabsM).run h
theorem tidy_vnegM {pred : BitVec 3} {eb2 eb1 : BitVec 1} {vb va : BitVec 4} {fmt : BitVec 3} {vd : BitVec 4}
    : Tidy (vnegM pred eb2 eb1 vb va fmt vd) :=
  tidy_vUn
theorem execVneg_canonical {s : State} {pred : BitVec 3} {eb2 eb1 : BitVec 1} {vb va : BitVec 4} {fmt : BitVec 3} {vd : BitVec 4}
    (h : MemoryCanonical s) : OutCanonical (execVneg pred eb2 eb1 vb va fmt vd s) :=
  (tidy_noRepeat.bind fun _ => tidy_vnegM).run h
theorem tidy_vdivM {pred : BitVec 3} {eb2 eb1 : BitVec 1} {vb va : BitVec 4} {fmt : BitVec 3} {vd : BitVec 4}
    : Tidy (vdivM pred eb2 eb1 vb va fmt vd) :=
  tidy_vBin
theorem execVdiv_canonical {s : State} {pred : BitVec 3} {eb2 eb1 : BitVec 1} {vb va : BitVec 4} {fmt : BitVec 3} {vd : BitVec 4}
    (h : MemoryCanonical s) : OutCanonical (execVdiv pred eb2 eb1 vb va fmt vd s) :=
  (tidy_noRepeat.bind fun _ => tidy_vdivM).run h
theorem tidy_vsqrtM {pred : BitVec 3} {eb2 eb1 : BitVec 1} {vb va : BitVec 4} {fmt : BitVec 3} {vd : BitVec 4}
    : Tidy (vsqrtM pred eb2 eb1 vb va fmt vd) :=
  tidy_vUn
theorem execVsqrt_canonical {s : State} {pred : BitVec 3} {eb2 eb1 : BitVec 1} {vb va : BitVec 4} {fmt : BitVec 3} {vd : BitVec 4}
    (h : MemoryCanonical s) : OutCanonical (execVsqrt pred eb2 eb1 vb va fmt vd s) :=
  (tidy_noRepeat.bind fun _ => tidy_vsqrtM).run h
theorem tidy_vrcpM {pred : BitVec 3} {eb2 eb1 : BitVec 1} {vb va : BitVec 4} {fmt : BitVec 3} {vd : BitVec 4}
    : Tidy (vrcpM pred eb2 eb1 vb va fmt vd) :=
  tidy_vUn
theorem execVrcp_canonical {s : State} {pred : BitVec 3} {eb2 eb1 : BitVec 1} {vb va : BitVec 4} {fmt : BitVec 3} {vd : BitVec 4}
    (h : MemoryCanonical s) : OutCanonical (execVrcp pred eb2 eb1 vb va fmt vd s) :=
  (tidy_noRepeat.bind fun _ => tidy_vrcpM).run h
theorem tidy_vexp2M {pred : BitVec 3} {eb2 eb1 : BitVec 1} {vb va : BitVec 4} {fmt : BitVec 3} {vd : BitVec 4}
    : Tidy (vexp2M pred eb2 eb1 vb va fmt vd) :=
  tidy_vUn
theorem execVexp2_canonical {s : State} {pred : BitVec 3} {eb2 eb1 : BitVec 1} {vb va : BitVec 4} {fmt : BitVec 3} {vd : BitVec 4}
    (h : MemoryCanonical s) : OutCanonical (execVexp2 pred eb2 eb1 vb va fmt vd s) :=
  (tidy_noRepeat.bind fun _ => tidy_vexp2M).run h
theorem tidy_vceqM {pred : BitVec 3} {eb2 eb1 : BitVec 1} {vb va : BitVec 4} {fmt : BitVec 3} {vd : BitVec 4}
    : Tidy (vceqM pred eb2 eb1 vb va fmt vd) :=
  tidy_vCmp
theorem execVceq_canonical {s : State} {pred : BitVec 3} {eb2 eb1 : BitVec 1} {vb va : BitVec 4} {fmt : BitVec 3} {vd : BitVec 4}
    (h : MemoryCanonical s) : OutCanonical (execVceq pred eb2 eb1 vb va fmt vd s) :=
  (tidy_noRepeat.bind fun _ => tidy_vceqM).run h
theorem tidy_vcltM {pred : BitVec 3} {eb2 eb1 : BitVec 1} {vb va : BitVec 4} {fmt : BitVec 3} {vd : BitVec 4}
    : Tidy (vcltM pred eb2 eb1 vb va fmt vd) :=
  tidy_vCmp
theorem execVclt_canonical {s : State} {pred : BitVec 3} {eb2 eb1 : BitVec 1} {vb va : BitVec 4} {fmt : BitVec 3} {vd : BitVec 4}
    (h : MemoryCanonical s) : OutCanonical (execVclt pred eb2 eb1 vb va fmt vd s) :=
  (tidy_noRepeat.bind fun _ => tidy_vcltM).run h
theorem tidy_vcleM {pred : BitVec 3} {eb2 eb1 : BitVec 1} {vb va : BitVec 4} {fmt : BitVec 3} {vd : BitVec 4}
    : Tidy (vcleM pred eb2 eb1 vb va fmt vd) :=
  tidy_vCmp
theorem execVcle_canonical {s : State} {pred : BitVec 3} {eb2 eb1 : BitVec 1} {vb va : BitVec 4} {fmt : BitVec 3} {vd : BitVec 4}
    (h : MemoryCanonical s) : OutCanonical (execVcle pred eb2 eb1 vb va fmt vd s) :=
  (tidy_noRepeat.bind fun _ => tidy_vcleM).run h
theorem tidy_vandM {pred : BitVec 3} {eb2 eb1 : BitVec 1} {vb va : BitVec 4} {fmt : BitVec 3} {vd : BitVec 4}
    : Tidy (vandM pred eb2 eb1 vb va fmt vd) :=
  tidy_vBin
theorem execVand_canonical {s : State} {pred : BitVec 3} {eb2 eb1 : BitVec 1} {vb va : BitVec 4} {fmt : BitVec 3} {vd : BitVec 4}
    (h : MemoryCanonical s) : OutCanonical (execVand pred eb2 eb1 vb va fmt vd s) :=
  (tidy_noRepeat.bind fun _ => tidy_vandM).run h
theorem tidy_vorM {pred : BitVec 3} {eb2 eb1 : BitVec 1} {vb va : BitVec 4} {fmt : BitVec 3} {vd : BitVec 4}
    : Tidy (vorM pred eb2 eb1 vb va fmt vd) :=
  tidy_vBin
theorem execVor_canonical {s : State} {pred : BitVec 3} {eb2 eb1 : BitVec 1} {vb va : BitVec 4} {fmt : BitVec 3} {vd : BitVec 4}
    (h : MemoryCanonical s) : OutCanonical (execVor pred eb2 eb1 vb va fmt vd s) :=
  (tidy_noRepeat.bind fun _ => tidy_vorM).run h
theorem tidy_vxorM {pred : BitVec 3} {eb2 eb1 : BitVec 1} {vb va : BitVec 4} {fmt : BitVec 3} {vd : BitVec 4}
    : Tidy (vxorM pred eb2 eb1 vb va fmt vd) :=
  tidy_vBin
theorem execVxor_canonical {s : State} {pred : BitVec 3} {eb2 eb1 : BitVec 1} {vb va : BitVec 4} {fmt : BitVec 3} {vd : BitVec 4}
    (h : MemoryCanonical s) : OutCanonical (execVxor pred eb2 eb1 vb va fmt vd s) :=
  (tidy_noRepeat.bind fun _ => tidy_vxorM).run h
theorem tidy_vshlM {pred : BitVec 3} {eb2 eb1 : BitVec 1} {vb va : BitVec 4} {fmt : BitVec 3} {vd : BitVec 4}
    : Tidy (vshlM pred eb2 eb1 vb va fmt vd) :=
  tidy_vBin
theorem execVshl_canonical {s : State} {pred : BitVec 3} {eb2 eb1 : BitVec 1} {vb va : BitVec 4} {fmt : BitVec 3} {vd : BitVec 4}
    (h : MemoryCanonical s) : OutCanonical (execVshl pred eb2 eb1 vb va fmt vd s) :=
  (tidy_noRepeat.bind fun _ => tidy_vshlM).run h
theorem tidy_vshrM {pred : BitVec 3} {eb2 eb1 : BitVec 1} {vb va : BitVec 4} {fmt : BitVec 3} {vd : BitVec 4}
    : Tidy (vshrM pred eb2 eb1 vb va fmt vd) :=
  tidy_vBin
theorem execVshr_canonical {s : State} {pred : BitVec 3} {eb2 eb1 : BitVec 1} {vb va : BitVec 4} {fmt : BitVec 3} {vd : BitVec 4}
    (h : MemoryCanonical s) : OutCanonical (execVshr pred eb2 eb1 vb va fmt vd s) :=
  (tidy_noRepeat.bind fun _ => tidy_vshrM).run h
theorem tidy_vsraM {pred : BitVec 3} {eb2 eb1 : BitVec 1} {vb va : BitVec 4} {fmt : BitVec 3} {vd : BitVec 4}
    : Tidy (vsraM pred eb2 eb1 vb va fmt vd) :=
  tidy_vBin
theorem execVsra_canonical {s : State} {pred : BitVec 3} {eb2 eb1 : BitVec 1} {vb va : BitVec 4} {fmt : BitVec 3} {vd : BitVec 4}
    (h : MemoryCanonical s) : OutCanonical (execVsra pred eb2 eb1 vb va fmt vd s) :=
  (tidy_noRepeat.bind fun _ => tidy_vsraM).run h
theorem tidy_vselM {pred : BitVec 3} {eb2 eb1 : BitVec 1} {vb va : BitVec 4} {fmt : BitVec 3} {vd : BitVec 4}
    : Tidy (vselM pred eb2 eb1 vb va fmt vd) :=
  tidy_needL.bind fun _ => tidy_regs.bind fun _ => tidy_getP.bind fun _ => tidy_getV.bind fun _ => tidy_getV.bind fun _ => tidy_setV
theorem execVsel_canonical {s : State} {pred : BitVec 3} {eb2 eb1 : BitVec 1} {vb va : BitVec 4} {fmt : BitVec 3} {vd : BitVec 4}
    (h : MemoryCanonical s) : OutCanonical (execVsel pred eb2 eb1 vb va fmt vd s) :=
  (tidy_noRepeat.bind fun _ => tidy_vselM).run h
theorem tidy_vpermM {pred : BitVec 3} {eb2 eb1 : BitVec 1} {vb va : BitVec 4} {fmt : BitVec 3} {vd : BitVec 4}
    : Tidy (vpermM pred eb2 eb1 vb va fmt vd) :=
  tidy_needL.bind fun _ => tidy_regs.bind fun _ => tidy_getP.bind fun _ => tidy_getV.bind fun _ => tidy_getV.bind fun _ =>
    tidy_oldV.bind fun _ => tidy_setV
theorem execVperm_canonical {s : State} {pred : BitVec 3} {eb2 eb1 : BitVec 1} {vb va : BitVec 4} {fmt : BitVec 3} {vd : BitVec 4}
    (h : MemoryCanonical s) : OutCanonical (execVperm pred eb2 eb1 vb va fmt vd s) :=
  (tidy_noRepeat.bind fun _ => tidy_vpermM).run h
theorem tidy_vsplatM {pred : BitVec 3} {eb2 eb1 : BitVec 1} {vb va : BitVec 4} {fmt : BitVec 3} {vd : BitVec 4}
    : Tidy (vsplatM pred eb2 eb1 vb va fmt vd) :=
  tidy_needL.bind fun _ => tidy_regs.bind fun _ => tidy_getP.bind fun _ => tidy_getScalar.bind fun _ => tidy_oldV.bind fun _ => tidy_setV
theorem execVsplat_canonical {s : State} {pred : BitVec 3} {eb2 eb1 : BitVec 1} {vb va : BitVec 4} {fmt : BitVec 3} {vd : BitVec 4}
    (h : MemoryCanonical s) : OutCanonical (execVsplat pred eb2 eb1 vb va fmt vd s) :=
  (tidy_noRepeat.bind fun _ => tidy_vsplatM).run h
theorem tidy_vextrM {pred : BitVec 3} {eb2 eb1 : BitVec 1} {vb va : BitVec 4} {fmt : BitVec 3} {vd : BitVec 4}
    : Tidy (vextrM pred eb2 eb1 vb va fmt vd) :=
  tidy_needL.bind fun _ => tidy_regs.bind fun _ => tidy_getV.bind fun _ => tidy_getX.bind fun _ => tidy_ite tidy_setF tidy_setX
theorem execVextr_canonical {s : State} {pred : BitVec 3} {eb2 eb1 : BitVec 1} {vb va : BitVec 4} {fmt : BitVec 3} {vd : BitVec 4}
    (h : MemoryCanonical s) : OutCanonical (execVextr pred eb2 eb1 vb va fmt vd s) :=
  (tidy_noRepeat.bind fun _ => tidy_vextrM).run h
theorem tidy_vinsM {pred : BitVec 3} {eb2 eb1 : BitVec 1} {vb va : BitVec 4} {fmt : BitVec 3} {vd : BitVec 4}
    : Tidy (vinsM pred eb2 eb1 vb va fmt vd) :=
  tidy_needL.bind fun _ => tidy_regs.bind fun _ => tidy_getScalar.bind fun _ => tidy_getX.bind fun _ => tidy_getV.bind fun _ => tidy_setV
theorem execVins_canonical {s : State} {pred : BitVec 3} {eb2 eb1 : BitVec 1} {vb va : BitVec 4} {fmt : BitVec 3} {vd : BitVec 4}
    (h : MemoryCanonical s) : OutCanonical (execVins pred eb2 eb1 vb va fmt vd s) :=
  (tidy_noRepeat.bind fun _ => tidy_vinsM).run h
theorem tidy_vrsumM {pred : BitVec 3} {eb2 eb1 : BitVec 1} {vb va : BitVec 4} {fmt : BitVec 3} {vd : BitVec 4}
    : Tidy (vrsumM pred eb2 eb1 vb va fmt vd) :=
  tidy_vRed
theorem execVrsum_canonical {s : State} {pred : BitVec 3} {eb2 eb1 : BitVec 1} {vb va : BitVec 4} {fmt : BitVec 3} {vd : BitVec 4}
    (h : MemoryCanonical s) : OutCanonical (execVrsum pred eb2 eb1 vb va fmt vd s) :=
  (tidy_noRepeat.bind fun _ => tidy_vrsumM).run h
theorem tidy_vrmaxM {pred : BitVec 3} {eb2 eb1 : BitVec 1} {vb va : BitVec 4} {fmt : BitVec 3} {vd : BitVec 4}
    : Tidy (vrmaxM pred eb2 eb1 vb va fmt vd) :=
  tidy_vRed
theorem execVrmax_canonical {s : State} {pred : BitVec 3} {eb2 eb1 : BitVec 1} {vb va : BitVec 4} {fmt : BitVec 3} {vd : BitVec 4}
    (h : MemoryCanonical s) : OutCanonical (execVrmax pred eb2 eb1 vb va fmt vd s) :=
  (tidy_noRepeat.bind fun _ => tidy_vrmaxM).run h
theorem tidy_vmovM {pred : BitVec 3} {eb2 eb1 : BitVec 1} {vb va : BitVec 4} {fmt : BitVec 3} {vd : BitVec 4}
    : Tidy (vmovM pred eb2 eb1 vb va fmt vd) :=
  tidy_vUn
theorem execVmov_canonical {s : State} {pred : BitVec 3} {eb2 eb1 : BitVec 1} {vb va : BitVec 4} {fmt : BitVec 3} {vd : BitVec 4}
    (h : MemoryCanonical s) : OutCanonical (execVmov pred eb2 eb1 vb va fmt vd s) :=
  (tidy_noRepeat.bind fun _ => tidy_vmovM).run h
theorem tidy_vclassM {pred : BitVec 3} {eb2 eb1 : BitVec 1} {vb va : BitVec 4} {fmt : BitVec 3} {vd : BitVec 4}
    : Tidy (vclassM pred eb2 eb1 vb va fmt vd) :=
  tidy_vUn
theorem execVclass_canonical {s : State} {pred : BitVec 3} {eb2 eb1 : BitVec 1} {vb va : BitVec 4} {fmt : BitVec 3} {vd : BitVec 4}
    (h : MemoryCanonical s) : OutCanonical (execVclass pred eb2 eb1 vb va fmt vd s) :=
  (tidy_noRepeat.bind fun _ => tidy_vclassM).run h

/-! Conversions (Convert.lean). -/

theorem tidy_cvtM {rnd : BitVec 3} {a b d : BitVec 5} : Tidy (cvtM rnd a b d) :=
  tidy_needL.bind fun _ => tidy_regs.bind fun _ => tidy_getV.bind fun _ => tidy_setV
theorem execCvt_canonical {s : State} {rnd : BitVec 3} {a b d : BitVec 5} (h : MemoryCanonical s) : OutCanonical (execCvt rnd a b d s) :=
  (tidy_noRepeat.bind fun _ => tidy_cvtM).run h
theorem tidy_fcvtzM {rnd : BitVec 3} {a b d : BitVec 5} : Tidy (fcvtzM rnd a b d) :=
  tidy_fLow.bind fun _ => tidy_regs.bind fun _ => tidy_getF.bind fun _ => tidy_withFlags.bind fun _ => tidy_setF
theorem execFcvtz_canonical {s : State} {rnd : BitVec 3} {a b d : BitVec 5} (h : MemoryCanonical s) : OutCanonical (execFcvtz rnd a b d s) :=
  (tidy_noRepeat.bind fun _ => tidy_fcvtzM).run h
theorem tidy_spanWindows {n : Nat} {k : AKind} {l : List Word} : Tidy (spanWindows n k l) := by
  induction l generalizing n k with
  | nil =>
    unfold spanWindows
    exact tidy_pure
  | cons _ _ ih =>
    unfold spanWindows
    exact tidy_get_bind fun _ _ => tidy_ite (tidy_orTrap.bind fun _ => ih) ih
theorem tidy_headCheck {p : Word} {n cnt : Nat} {k : AKind} {tagFits : Bool} : Tidy (headCheck p n cnt k tagFits) :=
  tidy_trapIf.bind fun _ => tidy_trapIf.bind fun _ => tidy_trapIf.bind fun _ => tidy_trapIf.bind fun _ => tidy_spanWindows.bind fun _ =>
    tidy_trapIf
theorem tidy_spanReach {n : Nat} {k : AKind} {l : List Word} : Tidy (spanReach n k l) := by
  induction l generalizing n k with
  | nil =>
    unfold spanReach
    exact tidy_pure
  | cons _ _ ih =>
    unfold spanReach
    exact (tidy_orTrapS fun _ h => h.place).bind fun _ => ih.bind fun _ => tidy_pure
theorem tidy_readSpan {n : Nat} {l : List (Word × Reach)} : Tidy (readSpan n l) := by
  induction l generalizing n with
  | nil =>
    unfold readSpan
    exact tidy_pure
  | cons _ _ ih =>
    unfold readSpan
    refine tidy_readAt.bind fun _ => ?_
    split
    · exact tidy_pure
    · exact tidy_sendAccess.bind fun _ => tidy_updCtx.bind fun _ => tidy_holdKeep
    · exact tidy_get_bind fun _ _ => tidy_ite (tidy_ite tidy_pure tidy_hold) (ih.bind fun _ => tidy_pure)
    · exact tidy_get_bind fun _ _ => tidy_ite (tidy_ite tidy_pure tidy_hold) (ih.bind fun _ => tidy_pure)
theorem tidy_pipeRead {n : Nat} {rs : List (Word × Reach)} : Tidy (pipeRead n rs) := by
  unfold pipeRead
  refine tidy_ctx.bind fun _ => ?_
  split
  · exact tidy_hold
  · exact tidy_get_bind fun _ _ => tidy_updCtx.bind fun _ => tidy_pure
  · exact tidy_updCtx.bind fun _ => tidy_watchLanes.bind fun _ => tidy_readSpan
theorem tidy_storeSpan {n : Nat} {parts : List ((Word × Reach) × List Byte)} {done : M Unit} (hdone : Tidy done) :
    Tidy (storeSpan n parts done) := by
  unfold storeSpan
  refine tidy_watchStores.bind fun _ => tidy_spanRefused.bind fun _ => ?_
  split
  · exact tidy_targetFails
  · exact tidy_writeLanes.bind fun _ => hdone
theorem execPackb_canonical {s : State} {rnd : BitVec 3} {a b d : BitVec 5} (h : MemoryCanonical s) : OutCanonical (execPackb rnd a b d s) := by
  unfold execPackb
  refine Tidy.run (tidy_noRepeat.bind fun _ => tidy_regs.bind fun _ => tidy_getX.bind fun _ => tidy_getX.bind fun _ =>
    tidy_headCheck.bind fun _ => tidy_headCheck.bind fun _ => tidy_spanReach.bind fun _ => tidy_spanReach.bind fun _ =>
    tidy_pipeRead.bind fun _ => ?_) h
  split
  · exact tidy_targetFails
  · exact tidy_storeSpan tidy_setX
theorem execUnpkb_canonical {s : State} {a b : BitVec 5} (h : MemoryCanonical s) : OutCanonical (execUnpkb a b s) := by
  unfold execUnpkb
  refine Tidy.run (tidy_noRepeat.bind fun _ => tidy_regs.bind fun _ => tidy_getX.bind fun _ => tidy_getX.bind fun _ =>
    tidy_headCheck.bind fun _ => tidy_headCheck.bind fun _ => tidy_spanReach.bind fun _ => tidy_spanReach.bind fun _ =>
    tidy_pipeRead.bind fun _ => ?_) h
  split
  · exact tidy_targetFails
  · exact tidy_storeSpan tidy_pure
theorem execLutw_canonical {s : State} {a : BitVec 5} (h : MemoryCanonical s) : OutCanonical (execLutw a s) := by
  unfold execLutw
  refine Tidy.run (tidy_noRepeat.bind fun _ => tidy_needL.bind fun _ => tidy_regs.bind fun _ => tidy_getX.bind fun _ =>
    tidy_pipeLoad.bind fun _ => ?_) h
  split
  · exact tidy_targetFails
  · exact tidy_updLsIn
theorem tidy_lutxM {a d : BitVec 5} : Tidy (lutxM a d) :=
  tidy_needL.bind fun _ => tidy_regs.bind fun _ => tidy_get_bind fun _ _ => tidy_trapIf.bind fun _ => tidy_getV.bind fun _ => tidy_setV
theorem execLutx_canonical {s : State} {a d : BitVec 5} (h : MemoryCanonical s) : OutCanonical (execLutx a d s) :=
  (tidy_noRepeat.bind fun _ => tidy_lutxM).run h
theorem tidy_zpsubM {a b d : BitVec 5} : Tidy (zpsubM a b d) :=
  tidy_needL.bind fun _ => tidy_regs.bind fun _ => tidy_getX.bind fun _ => tidy_trapIf.bind fun _ => tidy_getV.bind fun _ => tidy_setV
theorem execZpsub_canonical {s : State} {a b d : BitVec 5} (h : MemoryCanonical s) : OutCanonical (execZpsub a b d s) :=
  (tidy_noRepeat.bind fun _ => tidy_zpsubM).run h

/-! Ordering, barriers and joins (Ordering.lean). -/

theorem tidy_checkScope {v : Word} : Tidy (checkScope v) := tidy_get_bind fun _ _ => tidy_trapIf.bind fun _ => tidy_pure
theorem execOrdAcq_canonical {s : State} {eb1 : BitVec 1} {a : BitVec 5} (h : MemoryCanonical s) : OutCanonical (execOrdAcq eb1 a s) :=
  (tidy_noRepeat.bind fun _ => tidy_regs.bind fun _ => tidy_getX.bind fun _ => tidy_checkScope.bind fun _ => tidy_readsBack.bind fun _ =>
    tidy_acquire).run h
theorem execOrdRel_canonical {s : State} {eb1 : BitVec 1} {a : BitVec 5} (h : MemoryCanonical s) : OutCanonical (execOrdRel eb1 a s) :=
  (tidy_noRepeat.bind fun _ => tidy_regs.bind fun _ => tidy_getX.bind fun _ => tidy_checkScope.bind fun _ => tidy_release).run h
theorem execOrdFull_canonical {s : State} {eb1 : BitVec 1} {a : BitVec 5} (h : MemoryCanonical s) : OutCanonical (execOrdFull eb1 a s) :=
  (tidy_noRepeat.bind fun _ => tidy_regs.bind fun _ => tidy_getX.bind fun _ => tidy_checkScope.bind fun _ => tidy_fullFence).run h
theorem execLdAcq_canonical {s : State} {eb2 eb1 : BitVec 1} {b a d : BitVec 5} (h : MemoryCanonical s) :
    OutCanonical (execLdAcq eb2 eb1 b a d s) := by
  unfold execLdAcq
  refine Tidy.run (tidy_noRepeat.bind fun _ => tidy_regs.bind fun _ => tidy_getX.bind fun _ => tidy_checkScope.bind fun _ =>
    tidy_getX.bind fun _ => tidy_pipeLoad.bind fun _ => ?_) h
  split
  · exact tidy_setX.bind fun _ => tidy_acquire
  · exact tidy_targetFails
theorem execSdRel_canonical {s : State} {eb2 eb1 : BitVec 1} {b a d : BitVec 5} (h : MemoryCanonical s) :
    OutCanonical (execSdRel eb2 eb1 b a d s) := by
  unfold execSdRel
  refine Tidy.run (tidy_noRepeat.bind fun _ => tidy_regs.bind fun _ => tidy_getX.bind fun _ => tidy_checkScope.bind fun _ =>
    tidy_getX.bind fun _ => tidy_getX.bind fun _ => tidy_reach.bind fun _ => tidy_watch.bind fun _ => tidy_release.bind fun _ =>
    tidy_spanRefused.bind fun _ => ?_) h
  split
  · exact tidy_targetFails
  · exact tidy_writeTo
theorem tidy_releaseAt {chk : M Reach} (hchk : Tidy chk) : Tidy (releaseAt chk) :=
  tidy_ctx.bind fun _ => tidy_ite (hchk.bind fun _ => tidy_release) tidy_pure
theorem execBinit_canonical {s : State} {eb2 eb1 : BitVec 1} {b a : BitVec 5} (h : MemoryCanonical s) : OutCanonical (execBinit eb2 eb1 b a s) :=
  (tidy_noRepeat.bind fun _ => tidy_regs.bind fun _ => tidy_getX.bind fun _ => tidy_getX.bind fun _ => tidy_trapIf.bind fun _ =>
    (tidy_engine tidy_ownReach tidy_pure).bind fun _ => tidy_pure).run h
theorem execBarr_canonical {s : State} {eb1 : BitVec 1} {a d : BitVec 5} (h : MemoryCanonical s) : OutCanonical (execBarr eb1 a d s) := by
  unfold execBarr
  refine Tidy.run (tidy_noRepeat.bind fun _ => tidy_regs.bind fun _ => tidy_getX.bind fun _ => (tidy_releaseAt tidy_ownReach).bind fun _ =>
    tidy_ctx.bind fun _ => (tidy_engine tidy_ownReach tidy_pure).bind fun _ => ?_) h
  split
  · exact tidy_updCtx.bind fun _ => (tidy_updMe fun _ => by split <;> rfl).bind fun _ => tidy_setX
  · exact tidy_pure
theorem execBwait_canonical {s : State} {eb2 eb1 : BitVec 1} {b a : BitVec 5} (h : MemoryCanonical s) :
    OutCanonical (execBwait eb2 eb1 b a s) := by
  unfold execBwait
  refine Tidy.run (tidy_noRepeat.bind fun _ => tidy_needLaunch.bind fun _ => tidy_regs.bind fun _ => tidy_getX.bind fun _ =>
    tidy_getX.bind fun _ => (tidy_engine tidy_ownReach tidy_pure).bind fun _ => ?_) h
  split
  · exact tidy_acquire
  · exact tidy_pure
theorem execBtest_canonical {s : State} {eb2 eb1 : BitVec 1} {b a d : BitVec 5} (h : MemoryCanonical s) :
    OutCanonical (execBtest eb2 eb1 b a d s) := by
  unfold execBtest
  refine Tidy.run (tidy_noRepeat.bind fun _ => tidy_regs.bind fun _ => tidy_getX.bind fun _ => tidy_getX.bind fun _ =>
    (tidy_engine tidy_ownReach tidy_pure).bind fun _ => ?_) h
  split
  · exact tidy_setX.bind fun _ => tidy_ite tidy_acquire tidy_pure
  · exact tidy_pure
theorem execJinit_canonical {s : State} {eb2 eb1 : BitVec 1} {b a : BitVec 5} (h : MemoryCanonical s) : OutCanonical (execJinit eb2 eb1 b a s) :=
  (tidy_noRepeat.bind fun _ => tidy_regs.bind fun _ => tidy_getX.bind fun _ => tidy_getX.bind fun _ => tidy_trapIf.bind fun _ =>
    (tidy_releaseAt tidy_atomicReach).bind fun _ => (tidy_engine tidy_atomicReach tidy_pure).bind fun _ => tidy_pure).run h
theorem tidy_continuation {e : Egress} {p : Word} {ws : List Word} : Tidy (continuation e p ws) := by
  unfold continuation
  refine tidy_get_bind fun _ h => ?_
  dsimp only
  split
  · exact tidy_useEgress.bind fun _ => tidy_pendHere
  · exact tidy_updCtx.bind fun _ => tidy_release.bind fun _ => tidy_updCtx.bind fun _ => tidy_sendMsg
theorem execJarr_canonical {s : State} {eb1 : BitVec 1} {a d : BitVec 5} (h : MemoryCanonical s) : OutCanonical (execJarr eb1 a d s) := by
  unfold execJarr
  refine Tidy.run (tidy_noRepeat.bind fun _ => tidy_regs.bind fun _ => tidy_getX.bind fun _ => tidy_egress.bind fun _ =>
    tidy_holdUnless.bind fun _ => (tidy_releaseAt tidy_atomicReach).bind fun _ => (tidy_engine tidy_atomicReach tidy_pure).bind fun _ => ?_) h
  split
  · exact tidy_ite (tidy_acquire.bind fun _ => tidy_continuation.bind fun _ => tidy_setX) (tidy_useEgress.bind fun _ => tidy_setX)
  · exact tidy_useEgress

/-! Fetching instruction words (Fetch.lean). -/

theorem MemoryCanonical.fetchWord {s : State} {o : Origin} {p : Word} (h : MemoryCanonical s) : OkSndCanonical (s.fetchWord o p) := by
  unfold State.fetchWord
  split
  · exact .error
  · split
    · exact .error
    · split
      · exact .error
      · split
        · exact .error
        · dsimp only
          split
          · exact .ok (h.place ‹_›).freeBytes.snd
          · split
            · split
              · exact .error
              · exact .ok (h.place ‹_›).counted.modCore
            · split
              · exact .ok (h.place ‹_›)
              · split
                · exact .ok (h.place ‹_›).frame.modCore
                · exact .ok (h.place ‹_›).frame
theorem tidy_fetchWait {p : Word} : Tidy (fetchWait p) := by
  unfold fetchWait
  refine tidy_get_bind fun _ h => ?_
  split
  · exact tidy_ite tidy_late tidy_hold
  · exact tidy_hold
  · exact tidy_pure
theorem MemoryCanonical.fetchWords {s : State} {o : Origin} {p : Word} {n : Nat} (h : MemoryCanonical s) :
    OkSndCanonical (s.fetchWords o p n) := by
  induction n generalizing s o p with
  | zero =>
    unfold State.fetchWords
    exact .ok h
  | succ _ ih =>
    unfold State.fetchWords
    split
    · exact .error
    · split
      · exact .error
      · exact .ok (ih (h.fetchWord ‹_›) ‹_›)
theorem tidy_fetchBody {p : Word} {n : Nat} : Tidy (fetchBody p n) := by
  induction n generalizing p with
  | zero =>
    unfold fetchBody
    exact tidy_pure
  | succ _ ih =>
    unfold fetchBody
    refine tidy_fetchWait.bind fun _ => tidy_get_bind fun _ h => ?_
    split
    · exact tidy_trap
    · refine (tidy_set (h.fetchWord ‹_›)).bind fun _ => ?_
      split
      · exact tidy_trap
      · exact ih.bind fun _ => tidy_pure

/-! Port and repeat instructions (Ports.lean). -/

theorem execScfgw_canonical {s : State} {imm7 : BitVec 7} {a d : BitVec 5} (h : MemoryCanonical s) : OutCanonical (execScfgw imm7 a d s) :=
  (tidy_noRepeat.bind fun _ => tidy_needL.bind fun _ => tidy_regs.bind fun _ => tidy_get_bind fun _ _ => tidy_trapIf.bind fun _ =>
    tidy_getX.bind fun _ => tidy_trapIf.bind fun _ => tidy_trapIf.bind fun _ => tidy_updPort).run h
theorem execScfgr_canonical {s : State} {imm7 : BitVec 7} {a d : BitVec 5} (h : MemoryCanonical s) : OutCanonical (execScfgr imm7 a d s) :=
  (tidy_noRepeat.bind fun _ => tidy_needL.bind fun _ => tidy_regs.bind fun _ => tidy_get_bind fun _ _ => tidy_setX).run h
theorem execSbind_canonical {s : State} {b a d : BitVec 5} (h : MemoryCanonical s) : OutCanonical (execSbind b a d s) := by
  unfold execSbind
  refine Tidy.run (tidy_noRepeat.bind fun _ => tidy_needL.bind fun _ => tidy_get_bind fun _ h1 => tidy_trapIf.bind fun _ =>
    tidy_trapIf.bind fun _ => ?_) h
  split
  · exact tidy_trap
  · exact tidy_holdUnless.bind fun _ => tidy_updPort.bind fun _ => tidy_ite tidy_post tidy_pure
theorem execSfree_canonical {s : State} {a : BitVec 5} (h : MemoryCanonical s) : OutCanonical (execSfree a s) := by
  unfold execSfree
  refine Tidy.run (tidy_noRepeat.bind fun _ => tidy_needL.bind fun _ => tidy_get_bind fun _ h1 => ?_) h
  dsimp only
  split
  · exact tidy_holdUnless.bind fun _ => tidy_updPort.bind fun _ => (tidy_upd fun _ h2 => h2.dropLines).bind fun _ => tidy_updMe fun _ =>
      Laws.setReg_priv ..
  · exact tidy_pure
theorem execSstat_canonical {s : State} {a d : BitVec 5} (h : MemoryCanonical s) : OutCanonical (execSstat a d s) :=
  (tidy_noRepeat.bind fun _ => tidy_needL.bind fun _ => tidy_regs.bind fun _ => tidy_get_bind fun _ _ => tidy_setX).run h
theorem execSdrain_canonical {s : State} {a : BitVec 5} (h : MemoryCanonical s) : OutCanonical (execSdrain a s) :=
  (tidy_noRepeat.bind fun _ => tidy_needL.bind fun _ => tidy_get_bind fun _ _ => tidy_holdUnless).run h
theorem tidy_repeatM {len : Nat} {count : M Nat} (hcount : Tidy count) : Tidy (repeatM len count) :=
  tidy_ctx.bind fun _ => tidy_fetchBody.bind fun _ => hcount.bind fun _ => tidy_get_bind fun _ _ => tidy_ite (.bind tidy_updMe fun _ =>
    tidy_post.bind fun _ => tidy_pure) tidy_pure
theorem execRpt_canonical {s : State} {eb1 : BitVec 1} {a d : BitVec 5} (h : MemoryCanonical s) : OutCanonical (execRpt eb1 a d s) :=
  (tidy_noRepeat.bind fun _ => tidy_needL.bind fun _ => tidy_regs.bind fun _ => tidy_repeatM (tidy_getX.bind fun _ => tidy_trapIf.bind fun _ =>
    tidy_pure)).runTo h
theorem execRpti_canonical {s : State} {imm7 : BitVec 7} {a d : BitVec 5} (h : MemoryCanonical s) : OutCanonical (execRpti imm7 a d s) :=
  (tidy_noRepeat.bind fun _ => tidy_needL.bind fun _ => tidy_repeatM tidy_pure).runTo h

/-! A core's own agents (Agents.lean). -/

theorem doRegisterLanding_canonical {s : State} {k : Nat} {b : Bool} {reg : Nat} (h : MemoryCanonical s) :
    SomeCanonical (doRegisterLanding k b reg s) :=
  h.land
/-- What an instruction does in a body of a repetition is tidy. -/
theorem tidy_bodyEffect {i : Instr} {m : M Unit} (e : bodyEffect i = some m) : Tidy m := by
  unfold bodyEffect at e
  split at e
  · exact Option.some.inj e ▸ tidy_fmaddM
  · exact Option.some.inj e ▸ tidy_fmsubM
  · exact Option.some.inj e ▸ tidy_fnmsubM
  · exact Option.some.inj e ▸ tidy_fnmaddM
  · exact Option.some.inj e ▸ tidy_faddM
  · exact Option.some.inj e ▸ tidy_fsubM
  · exact Option.some.inj e ▸ tidy_fmulM
  · exact Option.some.inj e ▸ tidy_fdivM
  · exact Option.some.inj e ▸ tidy_fsqrtM
  · exact Option.some.inj e ▸ tidy_fsgnjM
  · exact Option.some.inj e ▸ tidy_fsgnjnM
  · exact Option.some.inj e ▸ tidy_fsgnjxM
  · exact Option.some.inj e ▸ tidy_fminM
  · exact Option.some.inj e ▸ tidy_fmaxM
  · exact Option.some.inj e ▸ tidy_vaddM
  · exact Option.some.inj e ▸ tidy_vsubM
  · exact Option.some.inj e ▸ tidy_vmulM
  · exact Option.some.inj e ▸ tidy_vfmaM
  · exact Option.some.inj e ▸ tidy_vfmsM
  · exact Option.some.inj e ▸ tidy_vfnmaM
  · exact Option.some.inj e ▸ tidy_vminM
  · exact Option.some.inj e ▸ tidy_vmaxM
  · exact Option.some.inj e ▸ tidy_vabsM
  · exact Option.some.inj e ▸ tidy_vnegM
  · exact Option.some.inj e ▸ tidy_vdivM
  · exact Option.some.inj e ▸ tidy_vsqrtM
  · exact Option.some.inj e ▸ tidy_vrcpM
  · exact Option.some.inj e ▸ tidy_vexp2M
  · exact Option.some.inj e ▸ tidy_vceqM
  · exact Option.some.inj e ▸ tidy_vcltM
  · exact Option.some.inj e ▸ tidy_vcleM
  · exact Option.some.inj e ▸ tidy_vandM
  · exact Option.some.inj e ▸ tidy_vorM
  · exact Option.some.inj e ▸ tidy_vxorM
  · exact Option.some.inj e ▸ tidy_vshlM
  · exact Option.some.inj e ▸ tidy_vshrM
  · exact Option.some.inj e ▸ tidy_vsraM
  · exact Option.some.inj e ▸ tidy_vselM
  · exact Option.some.inj e ▸ tidy_vpermM
  · exact Option.some.inj e ▸ tidy_vsplatM
  · exact Option.some.inj e ▸ tidy_vextrM
  · exact Option.some.inj e ▸ tidy_vinsM
  · exact Option.some.inj e ▸ tidy_vrsumM
  · exact Option.some.inj e ▸ tidy_vrmaxM
  · exact Option.some.inj e ▸ tidy_vmovM
  · exact Option.some.inj e ▸ tidy_vclassM
  · exact Option.some.inj e ▸ tidy_cvtM
  · exact Option.some.inj e ▸ tidy_fcvtzM
  · exact Option.some.inj e ▸ tidy_lutxM
  · exact Option.some.inj e ▸ tidy_zpsubM
  · nomatch e
theorem MemoryCanonical.instanceDone {s : State} (h : MemoryCanonical s) : MemoryCanonical s.instanceDone := h.modMe.modMe.ite h.modMe.post
theorem MemoryCanonical.instanceStep {s : State} (h : MemoryCanonical s) : SomeCanonical s.instanceStep := by
  unfold State.instanceStep
  extract_lets r busy trapped
  have htrap : ∀ {s : State} {c : Cause} {tv zp : Word}, MemoryCanonical s → SomeCanonical (trapped s c tv zp) := by
    intro s c tv zp h
    dsimp only [trapped]
    split
    · exact .none
    · exact .some h.takeTrap
  have hw : OkSndCanonical (if r.words.isEmpty then s.fetchWords s.org r.body r.len else .ok (r.words, s)) := by
    split
    · exact h.fetchWords
    · exact .ok h
  split
  · exact .none
  · split
    · exact htrap h
    · next e =>
      extract_lets r' t w
      have ht : MemoryCanonical t := (hw e).modLs
      split
      · exact htrap ht
      · split
        · exact htrap ht
        · next hb =>
          have hr := (tidy_bodyEffect hb).settle ht
          split
          · next e => rw [e] at hr; exact .some (MemoryCanonical.instanceDone hr)
          · exact htrap ht
          · next e => rw [e] at hr; exact htrap hr
          · next e =>
            rw [e] at hr
            split
            · exact .none
            · exact .some (MemoryCanonical.pendCause hr).post
          · exact .none
          · next e =>
            rw [e] at hr
            split
            · exact .none
            · exact .some (hr _ ht).post
theorem doRepeatInstanceIssue_canonical {s : State} {k : Nat} (h : MemoryCanonical s) : SomeCanonical (doRepeatInstanceIssue k s) := by
  unfold doRepeatInstanceIssue
  dsimp only
  split
  · exact .none
  · split
    · split
      · exact .none
      · exact .some h.raiseL
    · split
      · split
        · exact .some h.modCore.post
        · exact .none
      · next e =>
        have ht := MemoryCanonical.instanceStep h.frame e
        exact .some (.ite ht.frame.stepHalt ht.frame)
theorem doStreamPrefetch_canonical {s : State} {k port : Nat} (h : MemoryCanonical s) : SomeCanonical (doStreamPrefetch k port s) :=
  .map fun _ _ => (h.prefetch ‹_›).post.ite (h.prefetch ‹_›)
theorem MemoryCanonical.writeFailed {s : State} {o : Origin} {c : Cause} {va : Word} (h : MemoryCanonical s) :
    MemoryCanonical (s.writeFailed o c va) :=
  h.modCore.ite h.pendCause
theorem doStreamPushPerformed_canonical {s : State} {k port : Nat} (h : MemoryCanonical s) : SomeCanonical (doStreamPushPerformed k port s) := by
  unfold doStreamPushPerformed
  dsimp only
  split
  · exact .none
  · split
    · split
      · exact .none
      · refine .some ?_
        split
        · exact h.dropOut.modCore
        · exact h.dropOut.modCore.writeFailed
    · split
      · exact .none
      · split
        · split
          · exact .some h.modCore.post
          · split
            · exact .some h.modCore.pendCause
            · exact .none
        · split
          · exact .some h.flush.applyAll.modCore.modCore
          · exact .some h.flush.applyAll.modCore.modCore.unfill.startOut.post
theorem doHomeWriteAcknowledgement_canonical {s : State} {k id : Nat} (h : MemoryCanonical s) :
    SomeCanonical (doHomeWriteAcknowledgement k id s) := by
  unfold doHomeWriteAcknowledgement
  dsimp only
  split
  · exact .none
  · split
    · exact .none
    · exact .some h.applyAll.modCore
theorem doImpreciseCauseRaise_canonical {s : State} {k : Nat} {b : Bool} (h : MemoryCanonical s) : SomeCanonical (doImpreciseCauseRaise k b s) :=
  h.raisePending
theorem doFiringStart_canonical {s : State} {k : Nat} (h : MemoryCanonical s) : SomeCanonical (doFiringStart k s) := by
  unfold doFiringStart
  refine h.startH.orElse fun _ => ?_
  split
  · exact .none
  · exact h.startL
theorem doHFiringStart_canonical {s : State} {k : Nat} (h : MemoryCanonical s) : SomeCanonical (doHFiringStart k s) := h.startH

/-! The matrix and chain array (Array.lean). -/

theorem scratch_setAcc {c : Cluster} {n : Nat} {a : Acc} : (c.setAcc n a).scratch = c.scratch := by
  unfold Cluster.setAcc
  split <;> rfl
theorem tidy_updAcc {n : Nat} {f : Acc → Acc} : Tidy (updAcc n f) := fun _ h => h.modCluster fun _ => scratch_setAcc
theorem tidy_accFree {n : Nat} : Tidy (accFree n) := tidy_get_bind fun _ _ => tidy_trapIf
theorem tidy_claim {n : Nat} : Tidy (claim n) := tidy_get_bind fun _ _ => tidy_updAcc
theorem tidy_needRing {n : Nat} {cfg : Bool} : Tidy (needRing n cfg) := by
  unfold needRing
  refine tidy_get_bind fun _ h => ?_
  split
  · exact tidy_trap
  · exact tidy_trapIf.bind fun _ => tidy_pure
theorem MemoryCanonical.putRing {s : State} {cl d : Nat} {r : Machine.Ring} (h : MemoryCanonical s) : MemoryCanonical (s.putRing cl d r) :=
  h.modCluster
theorem tidy_ownRange {p : Word} {n : Nat} {allot : Bool} : Tidy (ownRange p n allot) :=
  tidy_get_bind fun _ _ => tidy_trapIf.bind fun _ => tidy_pure
theorem tidy_headTag {p : Word} : Tidy (headTag p) := tidy_trapIf.bind fun _ => tidy_trapIf.bind fun _ => tidy_trapIf
theorem tidy_headRaw {p : Word} : Tidy (headRaw p) := tidy_trapIf.bind fun _ => tidy_trapIf
theorem tidy_issueCmd {op : EOp} {entries : List (List (Nat × Nat) × List (Nat × Nat))} {outs : List (Nat × Nat)}
    : Tidy (issueCmd op entries outs) :=
  tidy_get_bind fun _ _ => tidy_holdUnless.bind fun _ => tidy_ownServed.bind fun _ => tidy_freshId.bind fun _ => (tidy_upd fun _ h1 =>
    h1.modCluster).bind fun _ => tidy_post.bind fun _ => tidy_pure
theorem MemoryCanonical.scoreDone {s : State} {cl id : Nat} (h : MemoryCanonical s) : MemoryCanonical (s.scoreDone cl id) := h.modCluster

/-! Dense matrix instructions and steps (Matrix.lean). -/

theorem tidy_denseCheck {acc p q : Nat} {rp rq : Machine.Ring} {w : BitVec 32} : Tidy (denseCheck acc p q rp rq w) := by
  unfold denseCheck
  refine tidy_get_bind fun _ h => ?_
  dsimp only
  split
  · exact tidy_trapIf.bind fun _ => tidy_trapIf.bind fun _ => tidy_trapIf.bind fun _ => tidy_trapIf
  · exact tidy_trap.bind fun _ => tidy_trapIf.bind fun _ => tidy_trapIf.bind fun _ => tidy_trapIf
theorem tidy_blogCheck {rp rq : Machine.Ring} : Tidy (blogCheck rp rq) := tidy_trapIf.bind fun _ => tidy_trapIf
theorem execMxa_canonical {s : State} {n : BitVec 1} {p q : BitVec 4} (h : MemoryCanonical s) : OutCanonical (execMxa n p q s) :=
  (tidy_noRepeat.bind fun _ => tidy_needL.bind fun _ => tidy_accFree.bind fun _ => tidy_needRing.bind fun _ => tidy_needRing.bind fun _ =>
    tidy_blogCheck.bind fun _ => tidy_denseCheck.bind fun _ => tidy_claim.bind fun _ => tidy_get_bind fun _ _ => tidy_issueCmd.bind fun _ =>
    tidy_pure).run h
theorem execMxz_canonical {s : State} {a d : BitVec 5} (h : MemoryCanonical s) : OutCanonical (execMxz a d s) :=
  (tidy_noRepeat.bind fun _ => tidy_needL.bind fun _ => tidy_accFree.bind fun _ => tidy_claim.bind fun _ => tidy_updAcc.bind fun _ =>
    tidy_issueCmd.bind fun _ => tidy_pure).run h
theorem execMxrd_canonical {s : State} {rnd : BitVec 3} {a d : BitVec 5} (h : MemoryCanonical s) : OutCanonical (execMxrd rnd a d s) :=
  (tidy_noRepeat.bind fun _ => tidy_needL.bind fun _ => tidy_regs.bind fun _ => tidy_getX.bind fun _ => tidy_accFree.bind fun _ =>
    tidy_headTag.bind fun _ => tidy_trapIf.bind fun _ => tidy_trapIf.bind fun _ => tidy_ownRange.bind fun _ => tidy_claim.bind fun _ =>
    tidy_issueCmd.bind fun _ => tidy_pure).run h
theorem execMxwr_canonical {s : State} {a d : BitVec 5} (h : MemoryCanonical s) : OutCanonical (execMxwr a d s) :=
  (tidy_noRepeat.bind fun _ => tidy_needL.bind fun _ => tidy_regs.bind fun _ => tidy_getX.bind fun _ => tidy_accFree.bind fun _ =>
    tidy_headTag.bind fun _ => tidy_get_bind fun _ _ => tidy_trapIf.bind fun _ => tidy_trapIf.bind fun _ => tidy_ownRange.bind fun _ =>
    tidy_claim.bind fun _ => tidy_issueCmd.bind fun _ => tidy_pure).run h
theorem tidy_accSound {n : Nat} {x : Machine.Acc} : Tidy (accSound n x) := by
  unfold accSound
  refine tidy_get_bind fun _ h => ?_
  split
  · split
    · exact tidy_ite tidy_trap (tidy_upd fun _ h1 => h1.killGroup)
    · exact tidy_pure
  · exact tidy_pure
theorem execMxstat_canonical {s : State} {a d : BitVec 5} (h : MemoryCanonical s) : OutCanonical (execMxstat a d s) :=
  (tidy_noRepeat.bind fun _ => tidy_needL.bind fun _ => tidy_regs.bind fun _ => tidy_get_bind fun _ _ => tidy_accSound.bind fun _ =>
    tidy_setX).run h
theorem tidy_dequeueWalks {l : List Msg} : Tidy (dequeueWalks l) := by
  induction l with
  | nil =>
    unfold dequeueWalks
    exact tidy_pure
  | cons _ _ ih =>
    unfold dequeueWalks
    exact (tidy_upd fun _ h => h.dequeue).bind fun _ => tidy_ite tidy_report ih
theorem tidy_syncEnd {acc slot : Nat} : Tidy (syncEnd acc slot) := by
  unfold syncEnd
  refine tidy_get_bind fun _ h => ?_
  split
  · exact tidy_holdKeep
  · exact .bind tidy_updMe fun _ => tidy_updCtx.bind fun _ => tidy_acquire.bind fun _ => tidy_dequeueWalks
theorem execMxsync_canonical {s : State} {a : BitVec 5} (h : MemoryCanonical s) : OutCanonical (execMxsync a s) := by
  unfold execMxsync
  refine Tidy.run (tidy_noRepeat.bind fun _ => tidy_needL.bind fun _ => tidy_needLaunch.bind fun _ => tidy_ctx.bind fun _ => ?_) h
  split
  · exact tidy_syncEnd
  · exact tidy_accFree.bind fun _ => tidy_reserveSlot.bind fun _ => tidy_claim.bind fun _ => tidy_issueCmd.bind fun _ =>
      tidy_updCtx.bind fun _ => tidy_holdKeep
theorem execMxtest_canonical {s : State} {a d : BitVec 5} (h : MemoryCanonical s) : OutCanonical (execMxtest a d s) :=
  (tidy_noRepeat.bind fun _ => tidy_needL.bind fun _ => tidy_regs.bind fun _ => tidy_accFree.bind fun _ => tidy_claim.bind fun _ =>
    tidy_get_bind fun _ _ => tidy_setX).run h
theorem tidy_rowCheck {b : BitVec 5} {v : Word} : Tidy (rowCheck b v) :=
  tidy_accFree.bind fun _ => tidy_trapIf.bind fun _ => tidy_claim.bind fun _ => tidy_pure
theorem execVaccr_canonical {s : State} {eb1 : BitVec 1} {b a d : BitVec 5} (h : MemoryCanonical s) : OutCanonical (execVaccr eb1 b a d s) :=
  (tidy_noRepeat.bind fun _ => tidy_needL.bind fun _ => tidy_regs.bind fun _ => tidy_getX.bind fun _ => tidy_rowCheck.bind fun _ =>
    tidy_freshId.bind fun _ => tidy_markPending.bind fun _ => tidy_issueCmd.bind fun _ => tidy_pure).run h
theorem execVaccw_canonical {s : State} {eb1 : BitVec 1} {b a d : BitVec 5} (h : MemoryCanonical s) : OutCanonical (execVaccw eb1 b a d s) :=
  (tidy_noRepeat.bind fun _ => tidy_needL.bind fun _ => tidy_regs.bind fun _ => tidy_getX.bind fun _ => tidy_getV.bind fun _ =>
    tidy_rowCheck.bind fun _ => tidy_issueCmd.bind fun _ => tidy_pure).run h
theorem MemoryCanonical.modCmd {s : State} {cl id : Nat} {f : ECmd → ECmd} (h : MemoryCanonical s) : MemoryCanonical (s.modCmd cl id f) :=
  h.modCluster
theorem MemoryCanonical.retireCmd {s : State} {cl id : Nat} (h : MemoryCanonical s) : MemoryCanonical (s.retireCmd cl id) :=
  h.modCluster.scoreDone
theorem doEngineCommandArrival_canonical {s : State} {cl : Nat} (h : MemoryCanonical s) : SomeCanonical (doEngineCommandArrival cl s) := by
  unfold doEngineCommandArrival
  dsimp only
  split
  · exact .none
  · exact .map fun _ _ => h.modCmd.post
theorem MemoryCanonical.takeSlots {s : State} {cl id : Nat} {x : (Nat × Machine.Ring × Nat) × Nat × Machine.Ring × Nat} (h : MemoryCanonical s) :
    MemoryCanonical (s.takeSlots cl id x) :=
  h.putRing.putRing.modCluster
theorem MemoryCanonical.freeArray {s : State} {cl : Nat} (h : MemoryCanonical s) : MemoryCanonical (s.freeArray cl) := by
  unfold State.freeArray
  dsimp only
  split
  · exact h.modCluster.ite h
  · exact h
theorem doMatrixStepStart_canonical {s : State} {cl : Nat} (h : MemoryCanonical s) : SomeCanonical (doMatrixStepStart cl s) := by
  unfold doMatrixStepStart
  dsimp only
  split
  · exact .none
  · split
    · exact .none
    · split
      · split
        · exact .none
        · split
          · exact .none
          · exact .some h.freeArray.takeSlots.post
      · split
        · exact .none
        · split
          · exact .none
          · exact .some h.freeArray.takeSlots.post
      · split
        · exact .none
        · exact .some h.freeArray.modCluster.post
      · exact .none
theorem MemoryCanonical.freeSlots {s : State} {cl : Nat} {sl : List (Nat × Nat)} (h : MemoryCanonical s) : MemoryCanonical (s.freeSlots cl sl) :=
  h.foldl fun _ _ h1 => h1.putRing
theorem MemoryCanonical.freeOffset {s : State} {rs : List (Nat × Nat)} (h : MemoryCanonical s) : SndCanonical (s.freeOffset rs) := .mk h.frame
theorem MemoryCanonical.stepFailed {s : State} {cl : Nat} {e : ECmd} {err : Nat} {again : Act} (h : MemoryCanonical s) :
    MemoryCanonical (s.stepFailed cl e err again) := by
  unfold State.stepFailed
  dsimp only
  split
  · refine .post ?_
    split
    · exact h.modCmd.modCluster fun _ => scratch_setAcc
    · exact h.modCmd
  · exact h.killGroup.modCluster.post.ite (h.killGroup.ite h.freeOffset.snd.killGroup)
theorem doMatrixStepRetire_canonical {s : State} {cl err : Nat} (h : MemoryCanonical s) : SomeCanonical (doMatrixStepRetire cl err s) := by
  unfold doMatrixStepRetire
  extract_lets c
  split
  · exact .none
  · extract_lets done
    have hdone : ∀ a sparse lut, MemoryCanonical (done a sparse lut) := by
      intro a sparse lut
      dsimp -zeta only [done]
      extract_lets err
      split
      · exact h.stepFailed
      · exact (h.modCluster fun _ => scratch_setAcc).freeSlots.retireCmd
    clear_value done
    split
    · exact .some (hdone _ _ _)
    · exact .some (hdone _ _ _)
    · exact .none
theorem doMxzPerformed_canonical {s : State} {cl acc : Nat} (h : MemoryCanonical s) : SomeCanonical (doMxzPerformed cl acc s) := by
  unfold doMxzPerformed
  split
  · split
    · exact .some (h.modCluster fun _ => scratch_setAcc).retireCmd
    · exact .none
  · exact .none
theorem doMxrdPerformed_canonical {s : State} {cl acc err : Nat} (h : MemoryCanonical s) : SomeCanonical (doMxrdPerformed cl acc err s) := by
  unfold doMxrdPerformed
  dsimp only
  split
  · split
    · split
      · exact .none
      · split
        · exact .some h.stepFailed
        · exact .some h.writeAt.retireCmd
    · exact .none
  · exact .none
theorem doMxwrPerformed_canonical {s : State} {cl acc err : Nat} (h : MemoryCanonical s) : SomeCanonical (doMxwrPerformed cl acc err s) := by
  unfold doMxwrPerformed
  dsimp only
  split
  · split
    · split
      · exact .none
      · split
        · exact .some h.stepFailed
        · exact .some (h.modCluster fun _ => scratch_setAcc).retireCmd
    · exact .none
  · exact .none
theorem doVaccPerformed_canonical {s : State} {cl acc err : Nat} (h : MemoryCanonical s) : SomeCanonical (doVaccPerformed cl acc err s) := by
  unfold doVaccPerformed
  dsimp only
  split
  · split
    · split
      · exact .some h.stepFailed
      · exact .some h.retireCmd.feed
    · exact .some (h.modCluster fun _ => scratch_setAcc).retireCmd
    · exact .none
  · exact .none
theorem doSyncMarkerComplete_canonical {s : State} {cl id : Nat} (h : MemoryCanonical s) : SomeCanonical (doSyncMarkerComplete cl id s) := by
  unfold doSyncMarkerComplete
  dsimp only
  split
  · split
    · split
      · exact .none
      · exact .some h.retireCmd.placeCompletion
    · exact .none
  · exact .none

/-! Chain instructions and steps (Chain.lean). -/

theorem execBset_canonical {s : State} {a d : BitVec 5} (h : MemoryCanonical s) : OutCanonical (execBset a d s) :=
  (tidy_noRepeat.bind fun _ => tidy_needL.bind fun _ => tidy_regs.bind fun _ => tidy_getX.bind fun _ => tidy_trapIf.bind fun _ =>
    tidy_updLsIn).run h
theorem execBget_canonical {s : State} {a d : BitVec 5} (h : MemoryCanonical s) : OutCanonical (execBget a d s) :=
  (tidy_noRepeat.bind fun _ => tidy_needL.bind fun _ => tidy_regs.bind fun _ => tidy_getB.bind fun _ => tidy_setX).run h
theorem execTbnd_canonical {s : State} {a b : BitVec 5} (h : MemoryCanonical s) : OutCanonical (execTbnd a b s) :=
  (tidy_noRepeat.bind fun _ => tidy_needL.bind fun _ => tidy_regs.bind fun _ => tidy_getX.bind fun _ => tidy_getX.bind fun _ =>
    tidy_trapIf.bind fun _ => tidy_trapIf.bind fun _ => tidy_trapIf.bind fun _ => tidy_trapIf.bind fun _ => tidy_trapIf.bind fun _ =>
    tidy_trapIf.bind fun _ => tidy_ownRange.bind fun _ => tidy_getB.bind fun _ => tidy_trapIf.bind fun _ => tidy_trapIf.bind fun _ =>
    tidy_get_bind fun _ _ => tidy_holdUnless.bind fun _ => tidy_updLsIn).run h
theorem execTstat_canonical {s : State} {d : BitVec 5} (h : MemoryCanonical s) : OutCanonical (execTstat d s) :=
  (tidy_noRepeat.bind fun _ => tidy_needL.bind fun _ => tidy_regs.bind fun _ => tidy_get_bind fun _ _ => tidy_setX).run h
theorem tidy_chainReady {b : Word} : Tidy (chainReady b) :=
  tidy_get_bind fun _ _ => tidy_trapIf.bind fun _ => tidy_accFree.bind fun _ => tidy_trapIf.bind fun _ => tidy_pure
theorem tidy_stepRegs {n k : Nat} {link : Word} {rnd : Nat} : Tidy (stepRegs n k link rnd) :=
  tidy_getB.bind fun _ => tidy_trapIf.bind fun _ => tidy_getB.bind fun _ => tidy_trapIf.bind fun _ => tidy_getB.bind fun _ =>
    tidy_trapIf.bind fun _ => tidy_getB.bind fun _ => tidy_trapIf.bind fun _ => tidy_pure
theorem MemoryCanonical.linkPages {s : State} {o : Origin} {p : Word} {f len : Nat} (h : MemoryCanonical s) :
    OkSndCanonical (s.linkPages o p f len) := by
  induction f generalizing s p len with
  | zero => exact .ok h
  | succ f ih =>
    unfold State.linkPages
    split
    · exact .ok h
    · dsimp only
      split
      · exact .error
      · next hp =>
        split
        · exact .error
        · split
          · exact .error
          · next hl => exact .ok (ih (h.place hp) hl)
theorem MemoryCanonical.linkOf {s : State} {o : Origin} {st : CStep} (h : MemoryCanonical s) : OkSndCanonical (s.linkOf o st) := by
  unfold State.linkOf
  split
  · exact .ok h
  · exact h.linkPages
theorem tidy_linkCheck {st : CStep} {pages : Bool} {tv : Word → Word} : Tidy (linkCheck st pages tv) := by
  unfold linkCheck
  refine tidy_trapIf.bind fun _ => tidy_trapIf.bind fun _ => tidy_trapIf.bind fun _ => tidy_trapIf.bind fun _ => tidy_trapIf.bind fun _ =>
    tidy_trapIf.bind fun _ => ?_
  split
  · refine tidy_trapIf.bind fun _ => ?_
    split
    · refine tidy_get_bind fun _ h => ?_
      split
      · exact tidy_trap
      · exact (tidy_set (h.linkOf ‹_›)).bind fun _ => tidy_pure
    · exact tidy_pure
  · exact tidy_get_bind fun _ _ => tidy_trapIf.bind fun _ => tidy_pure
theorem tidy_issueWalk {st : ChainSt} {link : List Piece} {steps : List CStep} {isWalk ps : Bool} {hdl : Nat} {slots : List Nat}
    : Tidy (issueWalk st link steps isWalk ps hdl slots) := by
  unfold issueWalk
  refine tidy_claim.bind fun _ => tidy_get_bind fun _ h => ?_
  split
  · exact tidy_pure
  · exact tidy_issueCmd.bind fun _ => (tidy_upd fun _ h1 => h1.modCmd).bind fun _ => tidy_updLsIn
theorem execTcon_canonical {s : State} {rnd : BitVec 3} {a b : BitVec 5} (h : MemoryCanonical s) : OutCanonical (execTcon rnd a b s) :=
  (tidy_noRepeat.bind fun _ => tidy_needL.bind fun _ => tidy_regs.bind fun _ => tidy_getX.bind fun _ => tidy_getX.bind fun _ =>
    tidy_trapIf.bind fun _ => tidy_chainReady.bind fun _ => tidy_stepRegs.bind fun _ => tidy_trapIf.bind fun _ => tidy_linkCheck.bind fun _ =>
    tidy_get_bind fun _ _ => tidy_trapIf.bind fun _ => tidy_trapIf.bind fun _ => tidy_issueWalk).run h
theorem tidy_walkSteps {tab : Word} {k bond v : Nat} {ws : List (Word × Nat)} : Tidy (walkSteps tab k bond v ws) := by
  induction ws generalizing k bond v with
  | nil => exact tidy_pure
  | cons w ws ih =>
    unfold walkSteps
    exact tidy_trapIf.bind fun _ => tidy_stepRegs.bind fun _ => tidy_trapIf.bind fun _ => ih.bind fun _ => tidy_pure
theorem tidy_walkLinks {first : Bool} {l : List CStep} : Tidy (walkLinks first l) := by
  induction l generalizing first with
  | nil =>
    unfold walkLinks
    exact tidy_pure
  | cons _ _ ih =>
    unfold walkLinks
    exact tidy_linkCheck.bind fun _ => ih.bind fun _ => tidy_pure
theorem tidy_reserveSlots {hdl n : Nat} : Tidy (reserveSlots hdl n) := by
  induction n generalizing hdl with
  | zero =>
    unfold reserveSlots
    exact tidy_pure
  | succ _ ih =>
    unfold reserveSlots
    exact tidy_reserveSlot.bind fun _ => ih.bind fun _ => tidy_pure
theorem execTwalk_canonical {s : State} {a b : BitVec 5} (h : MemoryCanonical s) : OutCanonical (execTwalk a b s) := by
  unfold execTwalk
  refine Tidy.run (tidy_noRepeat.bind fun _ => tidy_needL.bind fun _ => tidy_regs.bind fun _ => tidy_getX.bind fun _ => tidy_getX.bind fun _ =>
    tidy_trapIf.bind fun _ => tidy_headRaw.bind fun _ => tidy_trapIf.bind fun _ => tidy_trapIf.bind fun _ => tidy_trapIf.bind fun _ => ?_) h
  dsimp only
  split
  · refine tidy_ownRange.bind fun _ => tidy_spanReach.bind fun _ => tidy_trapIf.bind fun _ => tidy_pipeRead.bind fun _ => ?_
    split
    · exact tidy_pendHere
    · exact tidy_chainReady.bind fun _ => tidy_walkSteps.bind fun _ => tidy_walkLinks.bind fun _ => tidy_get_bind fun _ _ =>
        tidy_trapIf.bind fun _ => tidy_trapIf.bind fun _ => tidy_reserveSlots.bind fun _ => tidy_issueWalk
  · refine tidy_spanReach.bind fun _ => tidy_trapIf.bind fun _ => tidy_pipeRead.bind fun _ => ?_
    split
    · exact tidy_pendHere
    · exact tidy_chainReady.bind fun _ => tidy_walkSteps.bind fun _ => tidy_walkLinks.bind fun _ => tidy_get_bind fun _ _ =>
        tidy_trapIf.bind fun _ => tidy_trapIf.bind fun _ => tidy_reserveSlots.bind fun _ => tidy_issueWalk
theorem MemoryCanonical.linkRead {s t : State} {e : ECmd} {st : CStep} {bs : List Byte} (h : MemoryCanonical s)
    (hr : s.linkRead e st = some (.ok (bs, t))) : MemoryCanonical t := by
  unfold State.linkRead at hr
  extract_lets cl s' ps at hr
  split at hr
  · cases hr; exact h
  · split at hr
    · split at hr <;> cases hr
    · split at hr <;> cases hr
      exact h.flush.piecesCounted
theorem MemoryCanonical.unreserve {s : State} {o : Origin} {ids : List Nat} (h : MemoryCanonical s) : MemoryCanonical (s.unreserve o ids) :=
  h.foldl fun _ _ h1 => h1.modCore
theorem MemoryCanonical.modFiring {s : State} {o : Origin} {f : LState → LState} (h : MemoryCanonical s) : MemoryCanonical (s.modFiring o f) :=
  h.modCore.ite h
theorem MemoryCanonical.walkFails {s : State} {cl : Nat} {e : ECmd} {k : Nat} {isWalk ps : Bool} {hdl : Nat} {slots : List Nat} {cur : ChainSt}
    {c : Cause} {tv : Word} (h : MemoryCanonical s) : MemoryCanonical (s.walkFails cl e k isWalk ps hdl slots cur c tv) := by
  unfold State.walkFails
  dsimp only
  split
  · exact (h.foldl fun _ _ h1 => h1.retireCmd).modFiring.unreserve.placeCompletion
  · exact (h.foldl fun _ _ h1 => h1.retireCmd).modFiring.unreserve.pendCause
theorem MemoryCanonical.chainGo {s : State} {cl : Nat} {e : ECmd} {cur : ChainSt} {st : CStep} {link : List Piece} (h : MemoryCanonical s) :
    MemoryCanonical (s.chainGo cl e cur st link) :=
  h.modCluster.post
theorem doChainStepStart_canonical {s : State} {cl : Nat} (h : MemoryCanonical s) : SomeCanonical (doChainStepStart cl s) := by
  unfold doChainStepStart
  dsimp only
  split
  · exact .none
  · split
    · split
      · exact .none
      · split
        · exact .none
        · split
          · exact .some h.freeArray.walkFails
          · split
            · split
              · exact .none
              · exact .some h.freeArray.chainGo
            · split
              · split
                · exact .none
                · exact .some (h.freeArray.linkOf ‹_›).chainGo
              · split
                · split
                  · exact .some (h.freeArray.faultNotice ‹_›).modCmd
                  · exact .map fun _ _ => (h.freeArray.holdWalk ‹_›).post
                · exact .some h.freeArray.walkFails
    · exact .none
theorem doChainStepRetire_canonical {s : State} {cl err : Nat} (h : MemoryCanonical s) : SomeCanonical (doChainStepRetire cl err s) := by
  unfold doChainStepRetire
  extract_lets c
  split
  · exact .none
  · split
    · split
      · exact .none
      · split
        · exact .none
        · split
          · exact .some h.stepFailed
          · split
            · exact .none
            · exact .some h.walkFails
            · next lb t e =>
              have ht : MemoryCanonical t := h.linkRead e
              extract_lets bnd sums out bs
              split
              next wr _ =>
              extract_lets clash
              split
              next bs' u e =>
              have hu : MemoryCanonical u := by
                split at e
                · exact ht.freeBytes e
                · cases e; exact ht
              extract_lets u1 u2 u3 u4
              have h3 : MemoryCanonical u3 := (hu.writeAt.modCluster fun _ => scratch_setAcc).modFiring
              have h4 : MemoryCanonical u4 := .ite h3.modCmd.post h3.retireCmd
              split
              · exact .some h4.placeCompletion
              · exact .some h4
    · exact .none

/-! Copy and batch instructions, and the dealer (Copies.lean). -/

theorem MemoryCanonical.acceptCmd {s : State} {cl : Nat} {c : DCmd} (h : MemoryCanonical s) : MemoryCanonical (s.acceptCmd cl c) :=
  h.modCluster.post
theorem tidy_openBatch : Tidy openBatch := by
  unfold openBatch
  refine tidy_get_bind fun _ h => ?_
  dsimp only
  split
  · exact tidy_pure
  · exact tidy_freshId.bind fun _ => .bind tidy_updMe fun _ => tidy_pure
theorem tidy_joinBatch : Tidy joinBatch :=
  tidy_get_bind fun _ _ => tidy_trapIf.bind fun _ => tidy_openBatch.bind fun _ => tidy_updLs.bind fun _ => tidy_pure
theorem tidy_issueCopy {c : DCmd} : Tidy (issueCopy c) :=
  tidy_get_bind fun _ _ => (tidy_ite tidy_reserveSlot tidy_freshId).bind fun _ => tidy_joinBatch.bind fun _ => tidy_holdUnless.bind fun _ =>
    tidy_holdUnless.bind fun _ => tidy_ownServed.bind fun _ => tidy_updLs.bind fun _ => tidy_upd fun _ h1 => h1.acceptCmd
theorem tidy_copyChecks {c : DCmd} {tvb w : Word} : Tidy (copyChecks c tvb w) := by
  unfold copyChecks
  refine tidy_get_bind fun _ h => ?_
  split
  · exact tidy_trap
  · exact tidy_pure
theorem execCopy_canonical {s : State} {rnd : BitVec 3} {a b d : BitVec 5} (h : MemoryCanonical s) : OutCanonical (execCopy rnd a b d s) :=
  (tidy_noRepeat.bind fun _ => tidy_needL.bind fun _ => tidy_regs.bind fun _ => tidy_getX.bind fun _ => tidy_getX.bind fun _ =>
    tidy_getX.bind fun _ => tidy_trapIf.bind fun _ => tidy_get_bind fun _ _ => tidy_copyChecks.bind fun _ => tidy_issueCopy).run h
theorem tidy_readDesc {p : Word} : Tidy (readDesc p) :=
  tidy_trapIf.bind fun _ => tidy_trapIf.bind fun _ => tidy_trapIf.bind fun _ => tidy_trapIf.bind fun _ => tidy_readNow.bind fun _ => tidy_pure
theorem execCtile_canonical {s : State} {rnd : BitVec 3} {a b d : BitVec 5} (h : MemoryCanonical s) : OutCanonical (execCtile rnd a b d s) :=
  (tidy_noRepeat.bind fun _ => tidy_needL.bind fun _ => tidy_regs.bind fun _ => tidy_getX.bind fun _ => tidy_getX.bind fun _ =>
    tidy_getX.bind fun _ => tidy_readDesc.bind fun _ => tidy_trapIf.bind fun _ => tidy_get_bind fun _ _ => tidy_copyChecks.bind fun _ =>
    tidy_issueCopy).run h
theorem tidy_sealBatch {b : Batch} {slot count : Nat} : Tidy (sealBatch b slot count) :=
  tidy_get_bind fun _ _ => .bind tidy_updMe fun _ => tidy_updLs.bind fun _ => tidy_post.bind fun _ => tidy_pure
theorem execSealB_canonical {s : State} {d : BitVec 5} (h : MemoryCanonical s) : OutCanonical (execSealB d s) :=
  (tidy_noRepeat.bind fun _ => tidy_needL.bind fun _ => tidy_regs.bind fun _ => tidy_reserveSlot.bind fun _ => tidy_openBatch.bind fun _ =>
    tidy_get_bind fun _ _ => tidy_sealBatch.bind fun _ => tidy_updLs.bind fun _ => tidy_setX).run h
theorem tidy_batchPass {l : List Msg} : Tidy (batchPass l) := by
  induction l with
  | nil =>
    unfold batchPass
    exact tidy_pure
  | cons _ _ ih =>
    unfold batchPass
    exact (tidy_upd fun _ h => h.dequeue).bind fun _ => tidy_acquire.bind fun _ => tidy_ite tidy_report ih
theorem execWaitb_canonical {s : State} {a : BitVec 5} (h : MemoryCanonical s) : OutCanonical (execWaitb a s) :=
  (tidy_noRepeat.bind fun _ => tidy_needL.bind fun _ => tidy_needLaunch.bind fun _ => tidy_regs.bind fun _ => tidy_getX.bind fun _ =>
    tidy_get_bind fun _ _ => tidy_batchPass.bind fun _ => tidy_ite tidy_pure tidy_holdKeep).run h
theorem execTestb_canonical {s : State} {a d : BitVec 5} (h : MemoryCanonical s) : OutCanonical (execTestb a d s) :=
  (tidy_noRepeat.bind fun _ => tidy_needL.bind fun _ => tidy_regs.bind fun _ => tidy_get_bind fun _ _ => tidy_batchPass.bind fun _ =>
    tidy_setX).run h
theorem tidy_dealerRead {p : Word} {n : Nat} : Tidy (dealerRead p n) := by
  unfold dealerRead
  refine tidy_trapIf.bind fun _ => tidy_trapIf.bind fun _ => tidy_trapIf.bind fun _ => tidy_trapIf.bind fun _ => tidy_trapIf.bind fun _ =>
    tidy_ownServed.bind fun _ => tidy_get_bind fun _ h => ?_
  dsimp only
  split
  · exact tidy_ite tidy_late tidy_trap
  · refine tidy_holdUnless.bind fun _ => ?_
    split
    · exact tidy_ite tidy_late tidy_hold
    · split
      · exact tidy_want fun _ h1 => h1.askPieces
      · exact (tidy_upd fun _ h1 => h1.dropLines).bind fun _ => tidy_targetFails
      · exact (tidy_set (h.range ‹_›).piecesCounted.dropLines).bind fun _ => tidy_pure
theorem tidy_queueEntries {bid n : Nat} {l : List DCmd} : Tidy (queueEntries bid n l) := by
  induction l generalizing bid n with
  | nil =>
    unfold queueEntries
    exact tidy_pure
  | cons _ _ ih =>
    unfold queueEntries
    exact tidy_freshId.bind fun _ => (tidy_upd fun _ h => h.modCluster.post).bind fun _ => ih
theorem execCstage_canonical {s : State} {d : BitVec 5} (h : MemoryCanonical s) : OutCanonical (execCstage d s) :=
  (tidy_noRepeat.bind fun _ => tidy_needL.bind fun _ => tidy_regs.bind fun _ => tidy_get_bind fun _ _ => tidy_trapIf.bind fun _ =>
    tidy_dealerRead.bind fun _ => tidy_trapIf.bind fun _ => tidy_dealerRead.bind fun _ => tidy_reserveSlot.bind fun _ =>
    tidy_freshId.bind fun _ => tidy_get_bind fun _ _ => tidy_queueEntries.bind fun _ => tidy_sealBatch.bind fun _ => tidy_updLs.bind fun _ =>
    tidy_setX).run h
theorem doCommandAcceptance_canonical {s : State} {cl : Nat} (h : MemoryCanonical s) : SomeCanonical (doCommandAcceptance cl s) := by
  unfold doCommandAcceptance
  split
  · exact .none
  · dsimp only
    split
    · split
      · exact .none
      · exact .some h.modCluster.post
    · split
      · exact .none
      · exact .some h.acceptCmd
theorem MemoryCanonical.modBatches {s : State} {k : Nat} {f : Batch → Batch} (h : MemoryCanonical s) : MemoryCanonical (s.modBatches k f) :=
  h.modCore
theorem MemoryCanonical.copyEnded {s : State} {cl : Nat} {c : DCmd} {bad : Option (Cause × Word)} {crc : Nat} (h : MemoryCanonical s) :
    MemoryCanonical (s.copyEnded cl c bad crc) := by
  unfold State.copyEnded
  dsimp only
  split
  · exact (h.modCluster.post.foldl fun _ _ h1 => h1.modBatches).foldl fun _ _ h1 => h1.post
  · exact ((h.modCluster.post.foldl fun _ _ h1 => h1.modBatches).foldl fun _ _ h1 => h1.post).placeCompletion
theorem MemoryCanonical.modDCmd {s : State} {cl id : Nat} {f : DCmd → DCmd} (h : MemoryCanonical s) : MemoryCanonical (s.modDCmd cl id f) :=
  h.modCluster
theorem MemoryCanonical.copyReported {s : State} {cl : Nat} {c : DCmd} {e : Cause} {wr : Bool} (h : MemoryCanonical s) :
    MemoryCanonical (s.copyReported cl c e wr) := by
  unfold State.copyReported
  exact (h.freeIn.ite h.freeIn).snd.clobber.copyEnded
theorem MemoryCanonical.dealerJoin {s : State} {cl id : Nat} (h : MemoryCanonical s) : MemoryCanonical (s.dealerJoin cl id) := h.modCluster
theorem doCopyCompletion_canonical {s : State} {cl id err : Nat} (h : MemoryCanonical s) : SomeCanonical (doCopyCompletion cl id err s) := by
  -- The notice is named, so that nothing computes it when the proof is checked.
  obtain ⟨notice, hnotice⟩ : ∃ f, f = State.faultNotice := ⟨_, rfl⟩
  unfold doCopyCompletion
  rw [← hnotice]
  extract_lets x mine own s1 t
  have h1 : MemoryCanonical s1 := h.dropLines
  have ht : MemoryCanonical t := h.modCluster
  clear_value s1 t
  split
  · exact .none
  · split
    · split
      · exact .none
      · exact .some h.dropOut.copyEnded
      · exact .some h.dropOut.clobber.copyEnded
    · split
      · exact .none
      · split
        · exact .some h.copyEnded
        · split
          · exact .some h1.frame.copyReported
          · split
            · split
              · exact .none
              · exact .some h.dealerJoin.post
            · split
              · next e =>
                have hu := ht.runCopy.of_done e
                extract_lets crc
                split
                · exact .some hu.copyEnded
                · exact .some hu.modDCmd.startOut.post
              · next e => exact .some (ht.runCopy.of_fail e).dropLines.copyEnded
              · split
                · next e => exact .some (ht.faultNotice (hnotice ▸ e)).modDCmd
                · exact .map fun _ e => (ht.holdWalk e).post
              · next e =>
                split
                · exact .none
                · exact .some (ht.runCopy.of_wait e).post
theorem MemoryCanonical.batchEnded {s : State} {k : Nat} {f : Firing} {b : Batch} (h : MemoryCanonical s) :
    MemoryCanonical (s.batchEnded k f b) :=
  h.modCore.placeCompletion.post
theorem doBatchCompletion_canonical {s : State} {k : Nat} (h : MemoryCanonical s) : SomeCanonical (doBatchCompletion k s) := by
  unfold doBatchCompletion
  dsimp only
  split
  · exact .some h.batchEnded
  · exact .findSome fun _ => .map fun _ _ => h.batchEnded
theorem doScoreboardRetire_canonical {s : State} {cl id : Nat} (h : MemoryCanonical s) : SomeCanonical (doScoreboardRetire cl id s) := by
  unfold doScoreboardRetire
  dsimp only
  split
  · exact .some h.scoreDone
  · exact .none

/-! Launches and counters (Launches.lean). -/

theorem MemoryCanonical.handTo {s : State} {lk v : Nat} (h : MemoryCanonical s) : MemoryCanonical (s.handTo lk v) :=
  h.frame.frame.modLaunch.post.post.ite h.frame.frame.modLaunch.post
theorem MemoryCanonical.handOver {s : State} {lk : Nat} (h : MemoryCanonical s) : SomeCanonical (s.handOver lk) := by
  unfold State.handOver
  dsimp only
  split
  · exact .none
  · split
    · exact .none
    · exact .map fun _ _ => h.handTo
theorem MemoryCanonical.acceptLaunch {s : State} {o : LaunchOf} {ws consts : List Word} (h : MemoryCanonical s) :
    MemoryCanonical (s.acceptLaunch o ws consts) := by
  unfold State.acceptLaunch
  refine SomeCanonical.getD ?_ (h.frame.frame.modCtr.foldl fun _ _ h1 => h1.modCtr).post
  split
  · exact (h.frame.frame.modCtr.foldl fun _ _ h1 => h1.modCtr).handOver
  · exact .map fun _ _ => (h.frame.frame.modCtr.foldl fun _ _ h1 => h1.modCtr).handTo
theorem MemoryCanonical.dropUnhanded {s : State} {lk : Nat} (h : MemoryCanonical s) : MemoryCanonical (s.dropUnhanded lk) :=
  h.ite h.modLaunch.modCtr.groupCounted
theorem MemoryCanonical.dropGroup {s : State} {g : Nat} (h : MemoryCanonical s) : MemoryCanonical (s.dropGroup g) :=
  h.unqueue.modGroup.pageGone.groupCounted
theorem MemoryCanonical.endLaunch {s : State} {lk : Nat} {c : Cause} {tv : Word} (h : MemoryCanonical s) :
    MemoryCanonical (s.endLaunch lk c tv) :=
  (h.foldl fun _ _ h1 => h1.post.ite h1).dropUnhanded.foldl fun _ _ h1 => h1.dropGroup.ite h1
theorem MemoryCanonical.flagCancel {s : State} {key : Nat} (h : MemoryCanonical s) : MemoryCanonical (s.flagCancel key) := h.modCtr
theorem MemoryCanonical.cancel {s : State} {p job lvl id : Nat} (h : MemoryCanonical s) : MemoryCanonical (s.cancel p job lvl id) :=
  h.ite (((h.foldl fun _ _ h1 => h1.flagCancel).foldl fun _ _ h1 => h1.frame).foldl fun _ _ h1 => h1.endLaunch)
theorem tidy_globalReach {p : Word} {align n : Nat} {k : AKind} {top : Cause} : Tidy (globalReach p align n k top) := by
  unfold globalReach
  refine tidy_trapIf.bind fun _ => tidy_trapIf.bind fun _ => tidy_trapIf.bind fun _ => tidy_trapIf.bind fun _ => tidy_trapIf.bind fun _ =>
    tidy_trapIf.bind fun _ => (tidy_orTrapS fun _ h => h.place).bind fun _ => ?_
  split
  · exact tidy_trap
  · exact tidy_pure
theorem tidy_homeRuns {p : Word} {r : Reach} : Tidy (homeRuns p r) := tidy_get_bind fun _ _ => tidy_ite (tidy_ite tidy_late tidy_hold) tidy_pure
theorem tidy_homeRead {p : Word} {r : Reach} {n : Nat} : Tidy (homeRead p r n) :=
  tidy_homeRuns.bind fun _ => tidy_get_bind fun _ _ => tidy_ite tidy_late tidy_pure
theorem tidy_spawnM {blocking : Bool} {eb2 eb1 : BitVec 1} {b a d : BitVec 5} {w : BitVec 32} : Tidy (spawnM blocking eb2 eb1 b a d w) := by
  unfold spawnM
  refine tidy_noRepeat.bind fun _ => tidy_join tidy_needLaunch fun _ => tidy_regs.bind fun _ => tidy_getX.bind fun _ => tidy_trapIf.bind fun _ =>
    tidy_getX.bind fun _ => tidy_globalReach.bind fun _ => tidy_homeRead.bind fun _ => tidy_get_bind fun _ h => tidy_trapIf.bind fun _ =>
    tidy_trapIf.bind fun _ => tidy_trapIf.bind fun _ => tidy_trapIf.bind fun _ => tidy_watch.bind fun _ => ?_
  dsimp only
  split
  · split
    · split
      · exact tidy_setX
      · split
        · exact tidy_ite tidy_hold tidy_setX
        · refine tidy_release.bind fun _ => tidy_get_bind fun _ h1 => ?_
          split
          · exact tidy_orTrap
          · exact (tidy_upd fun _ h2 => h2.acceptLaunch).bind fun _ => tidy_setX
    · split
      · exact tidy_setX
      · split
        · exact tidy_ite tidy_hold tidy_setX
        · refine tidy_release.bind fun _ => tidy_get_bind fun _ h1 => ?_
          split
          · exact tidy_orTrap
          · exact (tidy_upd fun _ h2 => h2.acceptLaunch).bind fun _ => tidy_setX
  · split
    · split
      · exact tidy_setX
      · split
        · exact tidy_ite tidy_hold tidy_setX
        · refine tidy_release.bind fun _ => tidy_get_bind fun _ h1 => ?_
          split
          · exact tidy_orTrap
          · exact (tidy_upd fun _ h2 => h2.acceptLaunch).bind fun _ => tidy_setX
    · split
      · exact tidy_setX
      · split
        · exact tidy_ite tidy_hold tidy_setX
        · refine tidy_release.bind fun _ => tidy_get_bind fun _ h1 => ?_
          split
          · exact tidy_orTrap
          · exact (tidy_upd fun _ h2 => h2.acceptLaunch).bind fun _ => tidy_setX
theorem tidy_counterOf {lvl : Nat} {v : Word} : Tidy (counterOf lvl v) :=
  tidy_get_bind fun _ _ => tidy_ite (tidy_trapIf.bind fun _ => tidy_pure) (tidy_trapIf.bind fun _ => tidy_pure)
theorem execCancel_canonical {s : State} {imm7 : BitVec 7} {a : BitVec 5} (h : MemoryCanonical s) : OutCanonical (execCancel imm7 a s) := by
  unfold execCancel
  refine Tidy.run (tidy_noRepeat.bind fun _ => tidy_regs.bind fun _ => tidy_getX.bind fun _ => tidy_counterOf.bind fun _ => ?_) h
  split
  · exact tidy_upd fun _ h1 => h1.cancel
  · exact tidy_pure
theorem execWstat_canonical {s : State} {imm7 : BitVec 7} {a d : BitVec 5} (h : MemoryCanonical s) : OutCanonical (execWstat imm7 a d s) :=
  (tidy_noRepeat.bind fun _ => tidy_regs.bind fun _ => tidy_getX.bind fun _ => tidy_counterOf.bind fun _ => tidy_get_bind fun _ _ =>
    tidy_setX).run h
theorem execGcond_canonical {s : State} {eb2 eb1 : BitVec 1} {b a : BitVec 5} (h : MemoryCanonical s) : OutCanonical (execGcond eb2 eb1 b a s) :=
  (tidy_noRepeat.bind fun _ => tidy_regs.bind fun _ => tidy_getX.bind fun _ => tidy_getX.bind fun _ => tidy_globalReach.bind fun _ =>
    tidy_watch.bind fun _ => tidy_release.bind fun _ => tidy_writeTo).run h

/-! Trap and system instructions (System.lean). -/

theorem priv_dropCompletions {c : Core} {fid : Nat} : (c.dropCompletions fid).priv = c.priv := rfl
theorem tidy_tretEnd : Tidy tretEnd := by
  unfold tretEnd
  refine tidy_get_bind fun s h => ?_
  have h1 : MemoryCanonical (s.modMe fun c => c.dropCompletions s.fir.fid) := h.modMe fun _ => priv_dropCompletions
  have hr := h1.restoreFiring (k := s.cur) (src := s.slotCore s.fir) (i := s.fir.slot) (check := true)
  extract_lets f s1
  split
  · next e => exact tidy_set (hr.of_ok e)
  · exact (tidy_set h.waitPage).bind fun _ => tidy_holdKeep
  · exact tidy_set h1.killGroup
theorem execTret_canonical {s : State} (h : MemoryCanonical s) : OutCanonical (execTret s) :=
  (tidy_noRepeat.bind fun _ => tidy_ctx.bind fun _ => tidy_trapIf.bind fun _ => tidy_endWaits.bind fun _ => tidy_me.bind fun _ =>
    tidy_holdUnless.bind fun _ => tidy_get_bind fun _ _ => tidy_holdUnless.bind fun _ => tidy_tretEnd).runEnd h
theorem execTlbinv_canonical {s : State} {eb2 eb1 : BitVec 1} {b a : BitVec 5} (h : MemoryCanonical s) :
    OutCanonical (execTlbinv eb2 eb1 b a s) :=
  (tidy_noRepeat.bind fun _ => tidy_needSup.bind fun _ => tidy_regs.bind fun _ => tidy_getX.bind fun _ => tidy_getX.bind fun _ =>
    tidy_trapIf.bind fun _ => tidy_trapIf.bind fun _ => tidy_release.bind fun _ => tidy_get_bind fun _ _ => tidy_sendInval).run h
theorem execTlbsync_canonical {s : State} (h : MemoryCanonical s) : OutCanonical (execTlbsync s) :=
  (tidy_noRepeat.bind fun _ => tidy_needSup.bind fun _ => tidy_get_bind fun _ _ => tidy_holdUnless.bind fun _ => tidy_holdUnless).run h
theorem execHtabw_canonical {s : State} {eb2 eb1 : BitVec 1} {b a : BitVec 5} (h : MemoryCanonical s) : OutCanonical (execHtabw eb2 eb1 b a s) :=
  (tidy_noRepeat.bind fun _ => tidy_needSup.bind fun _ => tidy_regs.bind fun _ => tidy_getX.bind fun _ => tidy_getX.bind fun _ =>
    tidy_globalReach.bind fun _ => tidy_watch.bind fun _ => tidy_release.bind fun _ => tidy_homeRuns.bind fun _ => tidy_writeTo.bind fun _ =>
    tidy_upd fun _ h1 => h1.flush).run h
theorem execWfm_canonical {s : State} (h : MemoryCanonical s) : OutCanonical (execWfm s) :=
  (tidy_noRepeat.bind fun _ => tidy_ctx.bind fun _ => tidy_get_bind fun _ _ => tidy_ite tidy_updCtx (tidy_updCtx.bind fun _ =>
    tidy_holdKeep)).run h
theorem execDhalt_canonical {s : State} (h : MemoryCanonical s) : OutCanonical (execDhalt s) := by
  unfold execDhalt
  refine Tidy.run (tidy_noRepeat.bind fun _ => tidy_needSup.bind fun _ => tidy_get_bind fun _ h1 => ?_) h
  split
  · exact tidy_pure
  · exact (tidy_upd fun _ h2 => h2.haltGroup).bind fun _ => tidy_upd fun _ h2 => h2.ite h2.modMe

/-! The dispatcher and the graph walker (WorkQueue.lean). -/

theorem MemoryCanonical.modHq {s : State} {qn : Nat} {f : HQueue → HQueue} (h : MemoryCanonical s) : MemoryCanonical (s.modHq qn f) := h.frame
theorem MemoryCanonical.queueErr {s : State} {qn idx code : Nat} (h : MemoryCanonical s) : MemoryCanonical (s.queueErr qn idx code) := h.modHq
theorem MemoryCanonical.pickQueue {s t : State} {n : Nat} (h : MemoryCanonical s) (e : s.pickQueue = some (n, t)) : MemoryCanonical t := by
  unfold State.pickQueue at e
  split at e
  · cases e
  · extract_lets can reset r at e
    have hr : ∀ x, r = some x → MemoryCanonical x.2 := by
      intro x hx
      dsimp -zeta only [r] at hx
      split at hx
      · cases hx; exact h
      · obtain ⟨_, _, rfl⟩ := Option.map_eq_some_iff.1 hx
        exact h
    obtain ⟨x, hx, rfl, rfl⟩ := Option.map_eq_some_iff.1 e
    exact (hr x hx).frame
theorem MemoryCanonical.graphLoad {s : State} {p job : Nat} {ws : List Word} (h : MemoryCanonical s) : FstCanonical (s.graphLoad p job ws) := by
  unfold State.graphLoad
  dsimp only
  split
  · exact .mk h
  · split
    · exact .mk h
    · split
      · exact .mk h
      · exact .mk h.frame
theorem MemoryCanonical.graphRun {s : State} {p job : Nat} {ws : List Word} (h : MemoryCanonical s) : FstCanonical (s.graphRun p job ws) := by
  unfold State.graphRun
  dsimp only
  split
  · exact .mk h
  · split
    · exact .mk h
    · split
      · exact .mk h
      · exact .mk (h.frame.foldl fun _ _ h1 => h1.modCtr).startNodes
theorem MemoryCanonical.graphUnload {s : State} {p job : Nat} {ws : List Word} (h : MemoryCanonical s) :
    FstCanonical (s.graphUnload p job ws) := by
  unfold State.graphUnload
  dsimp only
  split
  · exact .mk h
  · split
    · exact .mk h
    · exact .mk h.frame
theorem MemoryCanonical.launchEntry {s : State} {qn : Nat} {q : HQueue} {ws : List Word} (h : MemoryCanonical s) :
    FstCanonical (s.launchEntry qn q ws) := by
  unfold State.launchEntry
  dsimp only
  split
  · exact .mk h
  · split
    · exact .mk h
    · split
      · exact .mk h
      · split
        · exact .mk h
        · exact .mk h.acceptLaunch
theorem MemoryCanonical.takeEntry {s : State} {qn : Nat} {q : HQueue} {ws : List Word} (h : MemoryCanonical s) :
    FstCanonical (s.takeEntry qn q ws) := by
  unfold State.takeEntry
  split
  · exact h.launchEntry
  · exact h.graphLoad
  · exact h.graphRun
  · exact h.graphUnload
  · exact .mk h
theorem MemoryCanonical.entryResult {qn idx : Nat} {r : State × Nat} (hr : FstCanonical r) : MemoryCanonical (State.entryResult qn idx r) :=
  hr.fst.ite hr.fst.queueErr
theorem MemoryCanonical.takeFrom {s : State} {qn : Nat} (h : MemoryCanonical s) : MemoryCanonical (s.takeFrom qn) := by
  unfold State.takeFrom
  refine .entryResult ?_
  split
  · exact .mk h.modHq
  · exact h.modHq.takeEntry
theorem doWorkQueueAcceptance_canonical {s : State} (h : MemoryCanonical s) : SomeCanonical (doWorkQueueAcceptance s) := by
  unfold doWorkQueueAcceptance
  split
  · refine .map fun r e => ?_
    have ht := (h.pickQueue e).takeFrom (qn := r.1)
    exact .ite ht.postOnce ht
  · exact .none
theorem doGraphCommand_canonical {s : State} {f : State → Nat → Nat → List Word → State × Nat} {qn : Nat} {ws : List Word}
    (hf : ∀ s p j ws, MemoryCanonical s → FstCanonical (f s p j ws)) (h : MemoryCanonical s) : SomeCanonical (doGraphCommand f qn ws s) :=
  .some (.entryResult (hf _ _ _ _ h))
theorem doReadyQueueHandover_canonical {s : State} {g : Nat} (h : MemoryCanonical s) : SomeCanonical (doReadyQueueHandover g s) := h.handOver
theorem MemoryCanonical.graphFails {s : State} {p job gid n : Nat} (h : MemoryCanonical s) : MemoryCanonical (s.graphFails p job gid n) :=
  (h.foldl fun _ _ h1 => h1.modCtr).frame.graphLeave
theorem MemoryCanonical.nodeDone {s : State} {p job gid n : Nat} {succs : List Nat} (h : MemoryCanonical s) :
    MemoryCanonical (s.nodeDone p job gid n succs) :=
  h.startNodes.graphLeave
theorem MemoryCanonical.launchNode {s : State} {p job gid n : Nat} {g : Machine.Graph} {ptr : Word} (h : MemoryCanonical s) :
    SomeCanonical (s.launchNode p job gid n g ptr) := by
  unfold State.launchNode
  dsimp only
  split
  · exact .some h.graphFails
  · split
    · exact .some h.graphFails
    · split
      · split
        · exact .some h.graphFails
        · split
          · exact .none
          · split
            · exact .some h.graphFails
            · exact .some h.acceptLaunch.graphLeave
      · split
        · exact .some h.graphFails
        · split
          · exact .none
          · split
            · exact .some h.graphFails
            · exact .some h.acceptLaunch.graphLeave
theorem doGraphNodeStart_canonical {s : State} {p job gid n : Nat} (h : MemoryCanonical s) : SomeCanonical (doGraphNodeStart p job gid n s) := by
  unfold doGraphNodeStart
  dsimp only
  split
  · exact .none
  · split
    · exact .some h.graphLeave
    · split
      · exact .some h.graphFails
      · split
        · exact .some h.frame.nodeDone
        · exact h.launchNode
        · split <;> exact .some h.frame.nodeDone
        · exact .some h.graphFails
        · exact .some h.frame.nodeDone
        · split <;> exact .some h.frame.nodeDone
theorem doLaunchTimeout_canonical {s : State} {lk : Nat} (h : MemoryCanonical s) : SomeCanonical (doLaunchTimeout lk s) := by
  unfold doLaunchTimeout
  dsimp only
  split
  · exact .none
  · exact .some h.flagUp.endLaunch
theorem execGraphLoad_canonical {s : State} {qn : Nat} {w0 w1 : Word} (h : MemoryCanonical s) : OutCanonical (execGraphLoad qn w0 w1 s) :=
  .act (doGraphCommand_canonical (fun _ _ _ _ h1 => h1.graphLoad) h) h
theorem execGraphRun_canonical {s : State} {qn : Nat} {w0 w4 w5 : Word} (h : MemoryCanonical s) : OutCanonical (execGraphRun qn w0 w4 w5 s) :=
  .act (doGraphCommand_canonical (fun _ _ _ _ h1 => h1.graphRun) h) h
theorem execGraphUnload_canonical {s : State} {qn : Nat} {w0 : Word} (h : MemoryCanonical s) : OutCanonical (execGraphUnload qn w0 s) :=
  .act (doGraphCommand_canonical (fun _ _ _ _ h1 => h1.graphUnload) h) h

/-! Group images (Preempt.lean). -/

/-- However a group is saved or restored, the state that this gives is canonical. -/
def GSavedCanonical (r : GSaved) : Prop := ∀ ⦃t⦄, r = .ok t → MemoryCanonical t
theorem GSavedCanonical.ok {t : State} (h : MemoryCanonical t) : GSavedCanonical (.ok t) := fun _ e => GSaved.ok.inj e ▸ h
theorem GSavedCanonical.page {c : Cause} {va : Word} : GSavedCanonical (.page c va) := fun _ e => nomatch e
theorem GSavedCanonical.dead {c : Cause} {va : Word} : GSavedCanonical (.dead c va) := fun _ e => nomatch e
theorem GSavedCanonical.failed {p : Prop} {_ : Decidable p} {c : Cause} {va : Word} :
    GSavedCanonical (if p then .page c va else .dead c va) := by
  split
  · exact .page
  · exact .dead
theorem wf_priv_bindTo {c : Core} {g : Nat} {kitty consts : List Word} (h : c.priv.wf = true) : (c.bindTo g kitty consts).priv.wf = true := by
  unfold Core.bindTo
  dsimp only
  exact Laws.wf_writeN _ _ _ h
theorem priv_undue {c : Core} : c.undue.priv = c.priv := by
  unfold Core.undue
  split <;> rfl
theorem priv_vacate {c : Core} : c.vacate.priv = c.priv := rfl
theorem scratch_setAccs {c : Cluster} {l : Tab Acc} : (l.foldl (fun c e => c.setAcc e.1 e.2) c).scratch = c.scratch := by
  induction l generalizing c with
  | nil => rfl
  | cons e l ih => exact ih.trans scratch_setAcc
theorem MemoryCanonical.bindCores {s : State} {gid : Nat} (h : MemoryCanonical s) : MemoryCanonical (s.bindCores gid) := by
  unfold State.bindCores
  extract_lets g l
  exact h.foldl fun _ _ h => (h.writeCore fun _ hc => wf_priv_bindTo hc).coldL1
theorem MemoryCanonical.groupWrites {s : State} {o : Origin} {va : Word} {blk : Nat → List Word} {dirty : Nat → Bool}
    {clean : Tab (List Word)} {ns : List Nat} (h : MemoryCanonical s) : OkFstCanonical (s.groupWrites o va blk dirty clean ns) := by
  induction ns generalizing s with
  | nil => exact .ok h
  | cons n ns ih =>
    unfold State.groupWrites
    extract_lets b t
    split
    · exact .error
    · next hw =>
      split
      · exact .error
      · next hrest => exact .ok (ih (h.frameWrites hw) hrest)
theorem MemoryCanonical.saveGroup {s : State} {gid : Nat} (h : MemoryCanonical s) : GSavedCanonical (s.saveGroup gid) := by
  -- The writes are named, so that nothing computes them when the proof is checked.
  obtain ⟨writes, hwrites⟩ : ∃ f, f = State.groupWrites := ⟨_, rfl⟩
  obtain ⟨frames, hframes⟩ : ∃ f, f = State.frameWrites := ⟨_, rfl⟩
  unfold State.saveGroup
  rw [← hwrites, ← hframes]
  extract_lets g s1 va o s2 rs held boxes
  have h1 : MemoryCanonical s1 := h.foldl fun _ _ h => h.flush.modCore fun _ => priv_undue
  have h2 : MemoryCanonical s2 := h1.clobberGroup.orphan
  clear_value s1 s2
  split
  · exact .failed
  · next e =>
    rw [hwrites] at e
    have h3 := h2.groupWrites e
    split
    · exact .failed
    · next e =>
      rw [hframes] at e
      extract_lets codes im s4 s5 s6
      have h5 : MemoryCanonical s5 := (h3.frameWrites e).frame.foldl fun _ _ h => (h.modCore fun _ => priv_vacate).coldL1
      exact .ok h5.modCluster.modGroup
theorem MemoryCanonical.groupWaits {s : State} {gid : Nat} {c : Cause} {va : Word} (h : MemoryCanonical s) :
    SomeCanonical (s.groupWaits gid c va) :=
  .map fun _ _ => (h.faultNotice ‹_›).modGroup
theorem doGroupPreemption_canonical {s : State} {gid : Nat} (h : MemoryCanonical s) : SomeCanonical (doGroupPreemption gid s) := by
  -- What saving gives is named, so that nothing saves the group when the proof is checked.
  obtain ⟨r, hr⟩ : ∃ r, r = s.saveGroup gid := ⟨_, rfl⟩
  unfold doGroupPreemption
  rw [← hr]
  extract_lets g
  split
  · exact .none
  · split
    · exact .some (h.saveGroup hr.symm).freedOn
    · exact h.groupWaits
    · exact .some h.killGroup
theorem MemoryCanonical.restoreRank {s : State} {k r : Nat} {ri : RankImg} {bs : Tab (List Word)} (h : MemoryCanonical s) :
    MemoryCanonical (s.restoreRank k r ri bs) := by
  unfold State.restoreRank
  extract_lets ws ri s1 s2 s3
  have h1 : MemoryCanonical s1 := by
    refine h.writeCore fun c hc => ?_
    split
    · exact wf_priv_restore _ ws ri.slot hc
    · exact hc
  have h3 : MemoryCanonical s3 := h1.slotFreed.post
  clear_value s3
  split
  · exact (MemoryCanonical.ite h3 h3.post).wantItems
  · exact h3
theorem MemoryCanonical.restoreGroup {s : State} {gid : Nat} {im : GImage} (h : MemoryCanonical s) : GSavedCanonical (s.restoreGroup gid im) := by
  -- Unfolded as a function, so that nothing computes the reads when the proof is checked.
  rw [show @State.restoreGroup = _ from by delta State.restoreGroup; rfl]
  extract_lets g o read
  clear_value read
  split
  · exact .failed
  · extract_lets s1 accs s2 s3 s4 s5 s6 s7
    have h1 : MemoryCanonical s1 := h.foldl fun _ _ h => h.writeAt
    have h2 : MemoryCanonical s2 := h1.modCluster fun _ => scratch_setAccs
    have h4 : MemoryCanonical s4 := h2.bindCores.foldl fun _ _ h => h.restoreRank
    have h6 : MemoryCanonical s6 := (h4.foldl fun _ _ h => h.post).foldl fun _ _ h => h.post
    have h7 : MemoryCanonical s7 := h6.foldl fun s _ h => by
      split
      · exact h.post
      · exact h
    split
    next e => exact .ok (h7.moment e).modGroup.postOnce
theorem doGroupResume_canonical {s : State} {gid : Nat} (h : MemoryCanonical s) : SomeCanonical (doGroupResume gid s) := by
  unfold doGroupResume
  dsimp only
  split
  · exact .none
  · split
    · exact .none
    · split
      · refine .some ?_
        split
        · exact (h.restoreGroup ‹_›).haltGroup.ite (h.restoreGroup ‹_›)
        · exact h.restoreGroup ‹_›
      · exact h.groupWaits
      · exact .some h.killGroup
theorem doGroupCompletion_canonical {s : State} {gid : Nat} (h : MemoryCanonical s) : SomeCanonical (doGroupCompletion gid s) := by
  unfold doGroupCompletion
  split
  · exact .some h.completeGroup
  · exact .none
theorem doGroupKill_canonical {s : State} {gid : Nat} {c : Cause} {tv : Word} (h : MemoryCanonical s) :
    SomeCanonical (doGroupKill gid c tv s) := by
  unfold doGroupKill
  dsimp only
  split
  · exact .none
  · exact .some h.killGroup

/-! The die schedulers (Placement.lean). -/

theorem MemoryCanonical.occupy {s : State} {gid v : Nat} {f : Fit} (h : MemoryCanonical s) : MemoryCanonical (s.occupy gid v f) :=
  h.frame.modGroup.modCluster
theorem MemoryCanonical.armGroup {s : State} {gid : Nat} (h : MemoryCanonical s) : MemoryCanonical (s.armGroup gid) := by
  unfold State.armGroup
  dsimp only
  split
  · split
    · exact (h.bindCores.foldl fun _ _ h1 => h1.modCore).modGroup.postOnce
    · exact (h.bindCores.foldl fun _ _ h1 => h1.modCore).killGroup
  · split
    · exact (h.bindCores.foldl fun _ _ h1 => h1.modCore).modGroup.postOnce
    · exact (h.bindCores.foldl fun _ _ h1 => h1.modCore).killGroup
theorem MemoryCanonical.placeGroup {s : State} {gid v : Nat} {f : Fit} (h : MemoryCanonical s) : SomeCanonical (s.placeGroup gid v f) := by
  -- Restoring is named, so that nothing restores the group when the proof is checked.
  obtain ⟨restored, hrestored⟩ : ∃ f, f = State.restoreGroup := ⟨_, rfl⟩
  unfold State.placeGroup
  rw [← hrestored]
  split
  · exact .some h.occupy.armGroup
  · extract_lets old
    split
    · next e =>
      rw [hrestored] at e
      exact .some (h.occupy.restoreGroup e).frame
    · exact h.groupWaits
    · exact .some h.killGroup
theorem MemoryCanonical.freeInv {s : State} {gid : Nat} (h : MemoryCanonical s) : MemoryCanonical (s.freeInv gid) := h.modPart
theorem MemoryCanonical.haltAsked {s : State} {gid : Nat} (h : MemoryCanonical s) : MemoryCanonical (s.haltAsked gid) := by
  unfold State.haltAsked
  split
  · exact h.haltGroup.ite h
  · exact h
theorem MemoryCanonical.requeue {s : State} {gid : Nat} (h : MemoryCanonical s) : MemoryCanonical (s.requeue gid) :=
  h.unqueue.frame.modGroup.post.ite h.unqueue.frame.modGroup.post.reportNotice
theorem MemoryCanonical.handStranded {s : State} {p v : Nat} (h : MemoryCanonical s) : SomeCanonical (s.handStranded p v) :=
  .map fun _ _ => h.requeue.ite h.requeue.postOnce
theorem doGroupPlacement_canonical {s : State} {p v : Nat} (h : MemoryCanonical s) : SomeCanonical (doGroupPlacement p v s) := by
  unfold doGroupPlacement
  dsimp only
  split
  · split
    · exact h.handStranded
    · exact .none
  · refine .map fun _ _ => ?_
    split
    · split
      · exact ((h.foldl fun _ _ h1 => h1.modGroup).placeGroup ‹_›).haltAsked.freeInv
      · exact ((h.foldl fun _ _ h1 => h1.modGroup).placeGroup ‹_›).haltAsked.freeInv.postOnce
    · split
      · exact ((h.foldl fun _ _ h1 => h1.modGroup).placeGroup ‹_›).haltAsked.unqueue.freeInv
      · exact ((h.foldl fun _ _ h1 => h1.modGroup).placeGroup ‹_›).haltAsked.unqueue.freeInv.postOnce
theorem doGroupBlocksQueue_canonical {s : State} {g : Nat} (h : MemoryCanonical s) : SomeCanonical (doGroupBlocksQueue g s) := by
  unfold doGroupBlocksQueue
  dsimp only
  split
  · exact .none
  · exact .some h.modGroup
theorem MemoryCanonical.setSteal {s : State} {p v : Nat} {b : Bool} (h : MemoryCanonical s) : MemoryCanonical (s.setSteal p v b) := h.modPart
theorem doStealRequest_canonical {s : State} {p v : Nat} (h : MemoryCanonical s) : SomeCanonical (doStealRequest p v s) := by
  unfold doStealRequest
  dsimp only
  split
  · exact .none
  · split
    · exact .none
    · split
      · exact .none
      · exact .some h.setSteal.modPart.post
theorem doStealAnswer_canonical {s : State} {p v thief : Nat} (h : MemoryCanonical s) : SomeCanonical (doStealAnswer p v thief s) := by
  unfold doStealAnswer
  dsimp only
  split
  · split
    · exact .some h.setSteal
    · exact .some h.setSteal.unqueue.frame.modGroup.postOnce
  · exact .some h.setSteal
theorem doPreemptionTrigger_canonical {s : State} {g : Nat} (h : MemoryCanonical s) : SomeCanonical (doPreemptionTrigger g s) := by
  unfold doPreemptionTrigger
  dsimp only
  split
  · exact .none
  · split
    · exact .none
    · exact .some h.modGroup.modGroup.post

/-! Ring instructions, the spring and the outlet (Rings.lean). -/

theorem execRcfg_canonical {s : State} {eb2 eb1 : BitVec 1} {b a d : BitVec 5} (h : MemoryCanonical s) :
    OutCanonical (execRcfg eb2 eb1 b a d s) :=
  (tidy_noRepeat.bind fun _ => tidy_needL.bind fun _ => tidy_regs.bind fun _ => tidy_getX.bind fun _ => tidy_getX.bind fun _ =>
    tidy_needRing.bind fun _ => tidy_trapIf.bind fun _ => tidy_trapIf.bind fun _ => tidy_trapIf.bind fun _ => tidy_headTag.bind fun _ =>
    tidy_trapIf.bind fun _ => tidy_trapIf.bind fun _ => tidy_trapIf.bind fun _ => tidy_get_bind fun _ _ => tidy_trapIf.bind fun _ =>
    tidy_upd fun _ h2 => h2.putRing).run h
theorem execRfree_canonical {s : State} {d : BitVec 5} (h : MemoryCanonical s) : OutCanonical (execRfree d s) :=
  (tidy_noRepeat.bind fun _ => tidy_needL.bind fun _ => tidy_needRing.bind fun _ => tidy_trapIf.bind fun _ => tidy_upd fun _ h1 =>
    h1.putRing).run h
theorem execRpush_canonical {s : State} {d : BitVec 5} (h : MemoryCanonical s) : OutCanonical (execRpush d s) := by
  unfold execRpush
  refine Tidy.run (tidy_noRepeat.bind fun _ => tidy_needL.bind fun _ => tidy_needRing.bind fun _ => tidy_trapIf.bind fun _ =>
    tidy_get_bind fun _ h1 => .bind ?_ fun _ => tidy_upd fun _ h2 => h2.putRing) h
  split
  · exact tidy_holdUnless.bind fun _ => tidy_pure
  · exact tidy_pure
theorem execRpop_canonical {s : State} {a d : BitVec 5} (h : MemoryCanonical s) : OutCanonical (execRpop a d s) := by
  unfold execRpop
  refine Tidy.run (tidy_noRepeat.bind fun _ => tidy_needL.bind fun _ => tidy_regs.bind fun _ => tidy_needRing.bind fun _ =>
    tidy_trapIf.bind fun _ => tidy_get_bind fun _ h1 => ?_) h
  dsimp only
  split <;> split <;> exact (tidy_upd fun _ h2 => h2.putRing).bind fun _ => tidy_setX
theorem execRstatRing_canonical {s : State} {a d : BitVec 5} (h : MemoryCanonical s) : OutCanonical (execRstatRing a d s) :=
  (tidy_noRepeat.bind fun _ => tidy_needL.bind fun _ => tidy_regs.bind fun _ => tidy_needRing.bind fun _ => tidy_get_bind fun _ _ =>
    tidy_setX).run h
theorem tidy_subsM {out : Bool} {ring a : BitVec 5} {tiling : Option Word} : Tidy (subsM out ring a tiling) := by
  unfold subsM
  refine tidy_getX.bind fun _ => tidy_needRing.bind fun _ => tidy_trapIf.bind fun _ => ?_
  dsimp only
  split
  · exact tidy_trapIf.bind fun _ => tidy_readDesc.bind fun _ => tidy_trapIf.bind fun _ => tidy_get_bind fun _ _ => tidy_trapIf.bind fun _ =>
      tidy_trapIf.bind fun _ => tidy_reserveSlot.bind fun _ => tidy_ownServed.bind fun _ => (tidy_upd fun _ h1 => h1.putRing).bind fun _ =>
      tidy_post
  · exact tidy_readDesc.bind fun _ => tidy_trapIf.bind fun _ => tidy_get_bind fun _ _ => tidy_trapIf.bind fun _ => tidy_trapIf.bind fun _ =>
      tidy_reserveSlot.bind fun _ => tidy_ownServed.bind fun _ => (tidy_upd fun _ h1 => h1.putRing).bind fun _ => tidy_post
theorem execSubs_canonical {s : State} {eb2 eb1 : BitVec 1} {b a d : BitVec 5} (h : MemoryCanonical s) :
    OutCanonical (execSubs eb2 eb1 b a d s) :=
  (tidy_noRepeat.bind fun _ => tidy_needL.bind fun _ => tidy_regs.bind fun _ => tidy_getX.bind fun _ => tidy_subsM).run h
theorem execDrain_canonical {s : State} {eb1 : BitVec 1} {a d : BitVec 5} (h : MemoryCanonical s) : OutCanonical (execDrain eb1 a d s) :=
  (tidy_noRepeat.bind fun _ => tidy_needL.bind fun _ => tidy_regs.bind fun _ => tidy_subsM).run h
theorem MemoryCanonical.subsEnded {s : State} {cl rg : Nat} {bad : Option (Cause × Word)} (h : MemoryCanonical s) :
    MemoryCanonical (s.subsEnded cl rg bad) := by
  unfold State.subsEnded
  dsimp only
  split
  · exact h
  · exact h.putRing.frame.scoreDone.placeCompletion
theorem execUnsubs_canonical {s : State} {d : BitVec 5} (h : MemoryCanonical s) : OutCanonical (execUnsubs d s) := by
  unfold execUnsubs
  refine Tidy.run (tidy_noRepeat.bind fun _ => tidy_needL.bind fun _ => tidy_needRing.bind fun _ => ?_) h
  split
  · split
    · exact tidy_pure
    · split
      · exact tidy_pure
      · exact tidy_ite ((tidy_upd fun _ h1 => h1.putRing).bind fun _ => tidy_holdKeep) (tidy_upd fun _ h1 => h1.subsEnded)
theorem MemoryCanonical.tileWaits {s : State} {cl rg : Nat} {x : Subs} {c : Cause} {va : Word} (h : MemoryCanonical s) :
    SomeCanonical (s.tileWaits cl rg x c va) := by
  rw [show @State.tileWaits = _ from by delta State.tileWaits; rfl]
  split
  · exact .some (h.faultNotice ‹_›).putRing
  · exact .map fun _ _ => (h.holdWalk ‹_›).post
theorem MemoryCanonical.takeTile {s t : State} {cl rg k : Nat} {x : Subs} (h : MemoryCanonical s) (e : s.takeTile cl rg = some (t, x, k)) :
    MemoryCanonical t := by
  unfold State.takeTile at e
  extract_lets r enter at e
  split at e
  · cases e
  · split at e
    · cases e
    · split at e
      · split at e
        · cases e; exact h
        · split at e <;> cases e
          exact h.modCluster
      · extract_lets k' x' at e
        obtain ⟨_, e⟩ := Option.ite_none_left_eq_some.1 e
        obtain ⟨rfl, _⟩ := Prod.mk.inj (Option.some.inj e)
        exact h.putRing.modCluster
theorem MemoryCanonical.tileDone {s : State} {cl rg : Nat} {x : Subs} {k : Nat} (h : MemoryCanonical s) :
    MemoryCanonical (s.tileDone cl rg x k) :=
  h.putRing.scoreDone.subsEnded.ite h.putRing.scoreDone.post
theorem MemoryCanonical.tileFailed {s : State} {cl rg : Nat} {x : Subs} {k : Nat} {c : Cause} {va : Word} (h : MemoryCanonical s) :
    MemoryCanonical (s.tileFailed cl rg x k c va) :=
  h.clobberTile.dropLines.dropOut.putRing.subsEnded
theorem MemoryCanonical.moveTaken {s : State} {cl rg : Nat} {x : Subs} {k : Nat} (h : MemoryCanonical s) :
    SomeCanonical (s.moveTaken cl rg x k) := by
  unfold State.moveTaken
  dsimp only
  split
  · split
    · exact .none
    · exact .some h.dropOut.tileDone
    · exact .some h.tileFailed
  · split
    · exact .none
    · split
      · split
        · exact h.tileWaits
        · exact .some h.tileFailed
      · split
        · exact .none
        · split
          · split
            · exact .some h.tileFailed
            · exact .none
          · split
            · split
              · exact .some (h.tilePieces ‹_›).piecesCounted.piecesWrite.tileDone
              · exact .some (h.tilePieces ‹_›).piecesCounted.piecesWrite.putRing.startOut.post
            · split
              · split
                · exact .none
                · exact .some h.askPieces.post
              · exact .some h.tileFailed
              · exact .some (h.tilePieces ‹_›).piecesCounted.dropLines.writeAt.tileDone
theorem MemoryCanonical.moveTile {s : State} {cl rg : Nat} {out : Bool} (h : MemoryCanonical s) : SomeCanonical (s.moveTile cl rg out) := by
  unfold State.moveTile
  split
  · exact .none
  · next e =>
    have ht := h.takeTile e
    split
    · exact .none
    · split
      · next e => exact .some (ht.moveTaken e)
      · split
        · exact .none
        · exact .some ht.post
theorem doSpringTile_canonical {s : State} {cl rg : Nat} (h : MemoryCanonical s) : SomeCanonical (doSpringTile cl rg s) := h.moveTile
theorem doOutletTile_canonical {s : State} {cl rg : Nat} (h : MemoryCanonical s) : SomeCanonical (doOutletTile cl rg s) := h.moveTile

/-! Messages and requests on their way (Deliver.lean). -/

theorem MemoryCanonical.refuse {s : State} {id : Nat} {f : Flight} {c : Cause} (h : MemoryCanonical s) : MemoryCanonical (s.refuse id f c) :=
  h.frame.acknowledge.ite h.frame.frame.post
theorem doMessageValidation_canonical {s : State} {id : Nat} (h : MemoryCanonical s) : SomeCanonical (doMessageValidation id s) := by
  unfold doMessageValidation
  split
  · exact .none
  · split
    · exact .none
    · dsimp only
      split
      · exact .some h.refuse
      · exact .some h.moment.snd.frame.post
theorem MemoryCanonical.placeSaved {s : State} {f : Flight} {r : Nat} {ri : RankImg} {m : Msg} (h : MemoryCanonical s) :
    OkCanonical (s.placeSaved f r ri m) :=
  h.frame.editBox
theorem doMessagePlacement_canonical {s : State} {id : Nat} (h : MemoryCanonical s) : SomeCanonical (doMessagePlacement id s) := by
  unfold doMessagePlacement
  split
  · exact .none
  · split
    · exact .none
    · dsimp only
      split
      · split
        · exact .some ((h.frame.acknowledge.ite h.frame).placeSaved ‹_›)
        · split
          · split
            · exact .none
            · split
              · exact .some (h.faultNotice ‹_›).modGroup.post
              · exact .map fun _ _ => (h.holdWalk ‹_›).post
          · exact .some (h.frame.acknowledge.ite h.frame).killGroup
      · split
        · exact .some (h.frame.acknowledge.ite h.frame)
        · exact .some (h.frame.acknowledge.ite h.frame).placeMsg
theorem doErrorReplyArrival_canonical {s : State} {id : Nat} (h : MemoryCanonical s) : SomeCanonical (doErrorReplyArrival id s) := by
  unfold doErrorReplyArrival
  split
  · exact .none
  · refine .some (.pendCause ?_)
    split
    · exact h.frame.failPend
    · exact h.frame
theorem MemoryCanonical.putSvc {s : State} {id : Nat} {v : Svc} (h : MemoryCanonical s) : MemoryCanonical (s.putSvc id v) := h.frame
theorem MemoryCanonical.answer {s : State} {id : Nat} {v : Svc} {ok : Bool} {c : Cause} {ws : List Word} (h : MemoryCanonical s) :
    MemoryCanonical (s.answer id v ok c ws) :=
  h.putSvc.post
theorem doServiceRequest_canonical {s : State} {id : Nat} (h : MemoryCanonical s) : SomeCanonical (doServiceRequest id s) := by
  unfold doServiceRequest
  split
  · exact .none
  · split
    · exact .none
    · split
      · exact .some h.answer
      · split
        · exact .some h.answer
        · exact .some h.putSvc.modCluster.post
theorem doAtomicEngineServe_canonical {s : State} {cl : Nat} (h : MemoryCanonical s) : SomeCanonical (doAtomicEngineServe cl s) := by
  unfold doAtomicEngineServe
  split
  · exact .none
  · extract_lets s'
    have hs : MemoryCanonical s' := h.modCluster
    clear_value s'
    split
    · next e => exact .some (hs.perform e).answer
    · exact .some hs.answer
theorem MemoryCanonical.wakeAwait {s : State} {o : Origin} {id : Nat} {a : Await} (h : MemoryCanonical s) :
    MemoryCanonical (s.wakeAwait o id a) := by
  unfold State.wakeAwait
  dsimp only
  split
  · exact h.modCtxAt
  · split
    · exact h.feedLast
    · exact h.dropLast
    · exact h
theorem MemoryCanonical.batchDone {s : State} {b : Nat} (h : MemoryCanonical s) : MemoryCanonical (s.batchDone b) := h.frame.ite h
theorem MemoryCanonical.laneFails {s : State} {id : Nat} {v : Svc} {b : Nat} (h : MemoryCanonical s) : MemoryCanonical (s.laneFails id v b) := by
  unfold State.laneFails
  refine .batchDone ?_
  split
  · refine .pendCause (.putSvc ?_)
    split
    · exact h.failPend
    · exact h
  · split
    · refine .putSvc ?_
      split
      · exact h.failPend
      · exact h
    · refine .modCtxAt (.putSvc ?_)
      split
      · exact h.failPend
      · exact h
theorem MemoryCanonical.wakeReady {s : State} {k : Nat} {b : Bool} (h : MemoryCanonical s) : MemoryCanonical (s.wakeReady k b) := by
  unfold State.wakeReady
  split
  · exact h.post.ite h
  · exact h
theorem doServiceReplyArrival_canonical {s : State} {id : Nat} (h : MemoryCanonical s) : SomeCanonical (doServiceReplyArrival id s) := by
  unfold doServiceReplyArrival
  split
  · exact .none
  · split
    · exact .none
    · dsimp only
      split
      · exact .some h.frame
      · split
        · exact .some (h.frame.wakeAwait.wakeReady.ite h.frame.wakeAwait)
        · split
          · refine .some ?_
            split
            · refine .batchDone ?_
              split
              · exact h.frame.feed
              · exact h.frame
            · split
              · exact h.frame.feed
              · exact h.frame
          · split
            · exact .some h.laneFails
            · refine .some (.pendCause ?_)
              split
              · exact h.frame.failPend
              · exact h.frame
theorem MemoryCanonical.tell {s : State} {k : Nat} {b barrier : Bool} (h : MemoryCanonical s) : SomeCanonical (s.tell k b barrier) := by
  unfold State.tell
  split
  · exact .none
  · split
    · exact .none
    · dsimp only
      split
      · exact .none
      · exact .some (h.frame.modCtxAt.ite h.frame)
theorem doEngineWake_canonical {s : State} {k : Nat} {b : Bool} (h : MemoryCanonical s) : SomeCanonical (doEngineWake k b s) := h.tell
theorem doBarrierWake_canonical {s : State} {k : Nat} {b : Bool} (h : MemoryCanonical s) : SomeCanonical (doBarrierWake k b s) := h.tell
theorem doLeaseGrant_canonical {s : State} {cl line : Nat} {grant : Bool} (h : MemoryCanonical s) :
    SomeCanonical (doLeaseGrant cl line grant s) := by
  unfold doLeaseGrant
  split
  · exact .some h
  · split
    · exact .none
    · exact .some h.modCluster
theorem doLeaseEviction_canonical {s : State} {cl : Nat} (h : MemoryCanonical s) : SomeCanonical (doLeaseEviction cl s) := by
  unfold doLeaseEviction
  dsimp only
  split
  · exact .none
  · exact .some h.modCluster
theorem doLeaseRecall_canonical {s : State} {line : Nat} (h : MemoryCanonical s) : SomeCanonical (doLeaseRecall line s) :=
  .some (h.mapClusters fun _ => rfl)
theorem MemoryCanonical.rowDone {s : State} {id : Nat} {r : RowWrite} {bad : Option Cause} (h : MemoryCanonical s) :
    MemoryCanonical (s.rowDone id r bad) := by
  unfold State.rowDone
  dsimp only
  split
  · refine .publish (.frame ?_)
    split
    · exact h.writeFailed
    · exact h
  · refine .frame ?_
    split
    · exact h.writeFailed
    · exact h
theorem doQueueRowPerformed_canonical {s : State} {id : Nat} (h : MemoryCanonical s) : SomeCanonical (doQueueRowPerformed id s) := by
  unfold doQueueRowPerformed
  split
  · exact .none
  · dsimp only
    split
    · exact .none
    · split
      · split
        · exact .some h.flush.modCore.unfill.startOut.post
        · exact .map fun _ _ => h.dropOut.rowDone
      · split
        · split
          · exact .some h.rowDone
          · exact .none
        · split
          · exact .some h.rowDone
          · exact .some h.counted.flush.applyAll.modCore.rowDone

/-! Faults as they reach a core (Traps.lean). -/

theorem doFaultDelivery_canonical {s : State} {k : Nat} (h : MemoryCanonical s) : SomeCanonical (doFaultDelivery k s) := by
  unfold doFaultDelivery
  split
  · exact .none
  · exact h.tryFault
theorem doPark_canonical {s : State} {k : Nat} (h : MemoryCanonical s) : SomeCanonical (doPark k s) := by
  unfold doPark
  split
  · exact h.tryFault
  · exact .none
theorem doParkedFiringResume_canonical {s : State} {k src slot : Nat} (h : MemoryCanonical s) :
    SomeCanonical (doParkedFiringResume k src slot s) := by
  unfold doParkedFiringResume
  dsimp only
  split
  · exact .none
  · split
    · exact .none
    · split
      · exact .some (h.restoreFiring.of_ok ‹_›)
      · exact .some h.killGroup
      · exact .map fun _ _ => (h.faultNotice ‹_›).modCore
theorem MemoryCanonical.writeCompl {s : State} {o : Origin} {va tagVa : Word} {nblocks : Nat} {old : List Nat} {b0 i : Nat} {f : FrameCompl}
    (h : MemoryCanonical s) : OkCanonical (s.writeCompl o va tagVa nblocks old b0 i f) := by
  unfold State.writeCompl
  refine .bind fun _ _ => .bind fun _ _ => ?_
  split
  · exact (h.editBlock ‹_›).editBlock
  · exact .ok (h.editBlock ‹_›)
theorem MemoryCanonical.complOutcome {s : State} {id : Nat} {f : FrameCompl} {o : Origin} {r : Except (Cause × Word) State}
    {done : State → State} (h : MemoryCanonical s) (hr : OkCanonical r) (hdone : ∀ s, MemoryCanonical s → MemoryCanonical (done s)) :
    SomeCanonical (s.complOutcome id f o r done) := by
  unfold State.complOutcome
  split
  · exact .some (hdone _ (hr rfl)).frame
  · split
    · exact .map fun _ e => (h.faultNotice e).frame
    · exact .some h.frame.killGroup
theorem doCompletionIntoFrame_canonical {s : State} {id : Nat} (h : MemoryCanonical s) : SomeCanonical (doCompletionIntoFrame id s) := by
  unfold doCompletionIntoFrame
  split
  · exact .none
  · split
    · exact .none
    · dsimp only
      split
      · exact h.moment.snd.complOutcome h.moment.snd.writeCompl fun _ h1 => h1.modCore
      · split
        · exact h.moment.snd.complOutcome h.moment.snd.writeCompl fun _ h1 => h1.modGroup
        · split
          · exact .none
          · refine .some ?_
            split
            · exact h.moment.snd.frame.modCore fun _ => by split <;> rfl
            · exact h.moment.snd.frame
theorem MemoryCanonical.retireCluster {s : State} {k : Nat} (h : MemoryCanonical s) : MemoryCanonical (s.retireCluster k) :=
  (h.modCluster.foldl fun _ _ h1 => h1.killGroup).packageEvent
theorem MemoryCanonical.rerunCore {s : State} {k : Nat} (h : MemoryCanonical s) : MemoryCanonical (s.rerunCore k) :=
  (h.foldl fun _ _ h1 => h1.dropLines).modCore.wantItems
theorem doQuarantine_canonical {s : State} {k site reg : Nat} {second : Bool} (h : MemoryCanonical s) :
    SomeCanonical (doQuarantine k site reg second s) := by
  unfold doQuarantine
  dsimp only
  split
  · exact .some h.retireCluster
  · split
    · exact .none
    · refine .some ?_
      split
      · exact h.modCluster.coldL1.rerunCore
      · split
        · split
          · exact h.modCluster.coldL1.killGroup
          · exact h.modCluster.coldL1
        · exact h.modCluster.coldL1.foldl fun _ _ h1 => h1.killGroup
theorem doWatchdogExpiry_canonical {s : State} {k : Nat} {b : Bool} (h : MemoryCanonical s) : SomeCanonical (doWatchdogExpiry k b s) := by
  unfold doWatchdogExpiry
  dsimp only
  split
  · exact .none
  · exact .some h.modCluster.killGroup
theorem doWfmTimeout_canonical {s : State} {k : Nat} {b : Bool} (h : MemoryCanonical s) : SomeCanonical (doWfmTimeout k b s) := by
  unfold doWfmTimeout
  dsimp only
  split
  · exact .none
  · split
    · exact .none
    · exact .some h.modCtxAt
theorem MemoryCanonical.leaveRequest {s : State} {id : Nat} {v : Svc} (h : MemoryCanonical s) : MemoryCanonical (s.leaveRequest id v) :=
  h.ite h.frame.putSvc.modCluster
theorem doCrossDieDeadline_canonical {s : State} {id : Nat} (h : MemoryCanonical s) : SomeCanonical (doCrossDieDeadline id s) := by
  unfold doCrossDieDeadline
  split
  · split
    · exact .none
    · dsimp only
      split
      · exact .some h.leaveRequest.frame.wakeAwait
      · split
        · exact .some h.leaveRequest.laneFails
        · refine .some (.pendCause ?_)
          split
          · exact h.leaveRequest.frame.failPend
          · exact h.leaveRequest.frame
  · split
    · exact .none
    · split
      · exact .none
      · exact .some (h.failPend.ite h.modCore).pendCause

/-! Translation's system software (Paging.lean). -/

theorem doEngineSelfTest_canonical {s : State} {cl : Nat} {ok : Bool} (h : MemoryCanonical s) : SomeCanonical (doEngineSelfTest cl ok s) := by
  unfold doEngineSelfTest
  dsimp only
  split
  · exact .none
  · exact .some ((h.modCluster.foldl fun _ _ h1 => h1.post).ite (h.modCluster.foldl fun _ _ h1 => h1.post).retireCluster)
theorem doTlbWalk_canonical {s : State} {cl job : Nat} {va : Word} (h : MemoryCanonical s) : SomeCanonical (doTlbWalk cl job va s) := by
  unfold doTlbWalk
  split
  · exact .none
  · split
    · exact .none
    · dsimp only
      split
      · exact .some h.modDie.tlbFill
      · exact .some h.modDie
theorem MemoryCanonical.applyInval {s : State} {v : Inval} {cl : Nat} (h : MemoryCanonical s) : MemoryCanonical (s.applyInval v cl) := by
  unfold State.applyInval
  exact (h.foldl fun _ _ h1 => h1.flush.ite h1).dropL1.modDie.modCluster
theorem doTlbInvalidationApply_canonical {s : State} {id : Nat} (h : MemoryCanonical s) : SomeCanonical (doTlbInvalidationApply id s) := by
  unfold doTlbInvalidationApply
  split
  · exact .none
  · split
    · exact .none
    · exact .some (h.foldl fun _ _ h1 => h1.applyInval).frame
theorem doCsrPropagation_canonical {s : State} {p : Nat} (h : MemoryCanonical s) : SomeCanonical (doCsrPropagation p s) :=
  .some (h.modPart.mapCores fun _ => by split <;> rfl)
theorem MemoryCanonical.cmdResult {s : State} {p r : Nat} (h : MemoryCanonical s) : MemoryCanonical (s.cmdResult p r) := h.modPart
theorem MemoryCanonical.pageCluster {s : State} {cl job : Nat} {pg : Word} (h : MemoryCanonical s) :
    MemoryCanonical (s.pageCluster cl job pg) := by
  unfold State.pageCluster
  refine .modCluster (((h.foldl fun _ _ h1 => h1.post.ite h1).foldl fun _ _ h1 => h1.post.ite h1).foldl fun _ _ h1 => ?_)
  split
  · exact h1.post.ite h1
  · exact h1
theorem MemoryCanonical.pageGroups {s : State} {cl job : Nat} {pg : Word} (h : MemoryCanonical s) : MemoryCanonical (s.pageGroups cl job pg) :=
  h.foldl fun _ _ h1 => h1.modGroup.post
theorem MemoryCanonical.pageCompls {s : State} {cl job : Nat} {pg : Word} (h : MemoryCanonical s) : MemoryCanonical (s.pageCompls cl job pg) :=
  h.foldl fun _ _ h1 => h1.frame.post
theorem priv_pageReady {c : Core} {job : Nat} {pg : Word} {t now : Nat} : (c.pageReady job pg t now).priv = c.priv := by
  unfold Core.pageReady
  dsimp only
  split <;> rfl
theorem MemoryCanonical.pageReadyAt {s : State} {cl job : Nat} {pg : Word} (h : MemoryCanonical s) :
    MemoryCanonical (s.pageReadyAt cl job pg) := by
  unfold State.pageReadyAt
  refine .pageCompls (.pageGroups (.pageCluster (h.frame.foldl fun s i h => ?_)))
  split
  · exact h
  · next e =>
    refine h.putCore ?_
    rw [priv_pageReady]
    exact h.wf_of_core e
theorem MemoryCanonical.pageNotice {s : State} {p : Nat} {a b : Word} (h : MemoryCanonical s) : MemoryCanonical (s.pageNotice p a b) := by
  unfold State.pageNotice
  split
  · exact h.cmdResult
  · exact h.pageReadyAt.cmdResult
theorem doPageReady_canonical {s : State} {p : Nat} (h : MemoryCanonical s) : SomeCanonical (doPageReady p s) := by
  unfold doPageReady
  dsimp only
  split
  · exact .some h.modPart.cmdResult
  · exact .some h.pageNotice
theorem doGrowAllotment_canonical {s : State} {p : Nat} (h : MemoryCanonical s) : SomeCanonical (doGrowAllotment p s) := by
  unfold doGrowAllotment
  extract_lets a n
  split
  · exact .some h.cmdResult
  · extract_lets b ks others s' hi
    split
    · exact .some h.cmdResult
    · have hs : MemoryCanonical s' := h.modGroup
      exact .some (hs.foldl fun _ _ h => h.writeCore fun _ hc => Laws.wf_writeN _ _ _ hc).cmdResult

/-! A context moved to another socket (Rekey.lean). -/

/-- The scratchpad of a cluster is canonical. -/
def ScratchCanonical (c : Cluster) : Prop := Memory.wf c.scratch = true
/-- The own memory of a core is canonical. -/
def PrivCanonical (c : Core) : Prop := Memory.wf c.priv = true
/-- The memories of a shadow image are canonical. -/
def ShadowCanonical (x : Shadow) : Prop := (∀ e ∈ x.cls, ScratchCanonical e.2) ∧ ∀ e ∈ x.cores, PrivCanonical e.2
theorem shadowCanonical_default : ShadowCanonical {} := ⟨fun _ he => (nomatch he), fun _ he => (nomatch he)⟩
theorem forall_set {α : Type} {P : α → Prop} {t : Tab α} {k : Nat} {v : α} (ht : ∀ e ∈ t, P e.2) (hv : P v) : ∀ e ∈ Tab.set t k v, P e.2 := by
  intro e he
  rcases Laws.mem_set t k v e he with hv' | hm
  · rw [hv']; exact hv
  · exact ht e hm
theorem mem_of_mem_erase {α : Type} {t : Tab α} {k : Nat} {e : Nat × α} (he : e ∈ Tab.erase t k) : e ∈ t := by
  induction t with
  | nil => exact he
  | cons x t ih =>
    unfold Tab.erase at he
    split at he
    · exact List.mem_cons_of_mem _ (ih he)
    · rcases List.mem_cons.1 he with rfl | he
      · exact List.mem_cons_self
      · exact List.mem_cons_of_mem _ (ih he)
/-- Setting entry after entry keeps what holds of every entry. -/
theorem forall_foldl_set {α β : Type} {P : α → Prop} {l : List β} {t : Tab α} {key : β → Nat} {val : Tab α → β → α} (ht : ∀ e ∈ t, P e.2)
    (hv : ∀ t, (∀ e ∈ t, P e.2) → ∀ b ∈ l, P (val t b)) : ∀ e ∈ l.foldl (fun t b => Tab.set t (key b) (val t b)) t, P e.2 := by
  induction l generalizing t with
  | nil => exact ht
  | cons b l ih =>
    exact ih (forall_set ht (hv t ht b List.mem_cons_self)) fun t ht c hc => hv t ht c (List.mem_cons_of_mem _ hc)
theorem forall_moveTab {α : Type} {P : α → Prop} {f : Nat → Nat} {g : α → α} {t : Tab α} (ht : ∀ e ∈ t, P e.2) (hg : ∀ a, P a → P (g a)) :
    ∀ e ∈ Move.tab f g t, P e.2 :=
  forall_foldl_set (fun _ he => nomatch he) fun _ _ b hb => hg b.2 (ht b hb)
theorem MemoryCanonical.moved {s : State} {m : Move} (h : MemoryCanonical s) : MemoryCanonical (m.state s) := by
  obtain ⟨hbm, hhost, hcl, hcr, hsh⟩ := h
  exact ⟨hbm, hhost, forall_moveTab (P := ScratchCanonical) hcl fun _ hc => hc, forall_moveTab (P := PrivCanonical) hcr fun _ hc => hc, hsh⟩

/-! Compute dies, the reservoir and partitions (Dies.lean). -/

theorem MemoryCanonical.modVd {s : State} {p v : Nat} {f : VDie → VDie} (h : MemoryCanonical s) : MemoryCanonical (s.modVd p v f) := h.modPart
theorem MemoryCanonical.logEntry {s : State} {p v n ta tb : Nat} (h : MemoryCanonical s) : MemoryCanonical (s.logEntry p v n ta tb) :=
  h.writeAt.writeNum.modVd
theorem MemoryCanonical.nextEntry {s : State} {p v ta tb : Nat} (h : MemoryCanonical s) : MemoryCanonical (s.nextEntry p v ta tb) := h.logEntry
theorem MemoryCanonical.announce {s : State} {sk allow : Nat} (h : MemoryCanonical s) : MemoryCanonical (s.announce sk allow) := h.modDie
theorem MemoryCanonical.askedStep {s : State} {sk : Nat} (h : MemoryCanonical s) : MemoryCanonical (s.askedStep sk) := by
  unfold State.askedStep
  split
  · exact h
  · exact h.ite h.announce.modDie
theorem MemoryCanonical.askStep {s : State} {sk mult : Nat} (h : MemoryCanonical s) : FstCanonical (s.askStep sk mult) := by
  unfold State.askStep
  dsimp only
  split
  · exact .mk h
  · split
    · exact .mk h
    · split
      · exact .mk h.modDie
      · exact .mk h.announce.modDie
theorem doFrequencyStep_canonical {s : State} {p : Nat} (h : MemoryCanonical s) : SomeCanonical (doFrequencyStep p s) := by
  unfold doFrequencyStep
  dsimp only
  split
  · exact .some h.cmdResult
  · exact .some h.askStep.fst.cmdResult
theorem doFirmwareFrequencyStep_canonical {s : State} {sk mult : Nat} (h : MemoryCanonical s) :
    SomeCanonical (doFirmwareFrequencyStep sk mult s) := by
  unfold doFirmwareFrequencyStep
  dsimp only
  split
  · exact .some h.askStep.fst
  · exact .none
theorem doFrequencyStepStop_canonical {s : State} {sk : Nat} (h : MemoryCanonical s) : SomeCanonical (doFrequencyStepStop sk s) := by
  unfold doFrequencyStepStop
  dsimp only
  split
  · exact .none
  · split
    · exact .none
    · exact .some (h.foldl fun _ _ h1 => h1.modVd).modDie
theorem doFrequencyStepRestart_canonical {s : State} {sk : Nat} (h : MemoryCanonical s) : SomeCanonical (doFrequencyStepRestart sk s) := by
  unfold doFrequencyStepRestart
  dsimp only
  split
  · split
    · exact .none
    · exact .some (h.modDie.foldl fun _ _ h1 => h1.nextEntry.modVd).settleLast
  · exact .none
theorem MemoryCanonical.freeze {s : State} {sleeps : Bool} {cl : Nat} (h : MemoryCanonical s) : MemoryCanonical (s.freeze sleeps cl) := by
  unfold State.freeze
  dsimp only
  split
  · refine .frame (.modCluster (.foldl (h.foldl fun _ _ h1 => ?_) fun _ _ h1 => h1.clobber))
    split
    · exact h1
    · exact h1.flush.coldL1.modCore
  · refine .frame (.modCluster (.foldl (h.foldl fun _ _ h1 => ?_) fun _ _ h1 => h1.clobber))
    split
    · exact h1
    · exact h1.flush.coldL1.modCore
theorem MemoryCanonical.thaw {s : State} {cl : Nat} (h : MemoryCanonical s) : MemoryCanonical (s.thaw cl) := by
  unfold State.thaw
  refine .foldl (.foldl (((h.foldl fun _ _ h1 => h1.post).foldl fun _ _ h1 => h1.post).foldl fun _ _ h1 => ?_) fun _ _ h1 =>
    h1.post.ite h1) fun _ _ h1 => ?_
  · split
    · exact h1.post
    · exact h1
  · dsimp only
    split
    · exact h1
    · exact (h1.ite h1.post).post.wantItems
theorem MemoryCanonical.placeAll {s : State} {p : Nat} (h : MemoryCanonical s) : MemoryCanonical (s.placeAll p) :=
  h.foldl fun _ _ h1 => h1.freedOn
theorem MemoryCanonical.startMove {s : State} {p v src sk : Nat} (h : MemoryCanonical s) : MemoryCanonical (s.startMove p v src sk) :=
  h.announce.announce.modVd
theorem MemoryCanonical.moveDie {s : State} {p v src sk : Nat} (h : MemoryCanonical s) : MemoryCanonical (s.moveDie p v src sk) := by
  unfold State.moveDie
  extract_lets d m cls old s1 s2 s3 s4 s5 s6
  have h1 : MemoryCanonical s1 := h.foldl fun _ _ h => h.freeze
  have h2 : MemoryCanonical s2 := by
    obtain ⟨hbm, hhost, hcl, hrest⟩ := h1
    exact MemoryCanonical.moved ⟨hbm, hhost, fun e he => hcl e (List.mem_of_mem_filter he), hrest⟩
  have h3 : MemoryCanonical s3 := h2.foldl fun _ _ h => h.modCluster.putCluster rfl
  exact (h3.frame.modVd.nextEntry.foldl fun _ _ h => h.thaw).placeAll
theorem doVirtualDieRemap_canonical {s : State} {p v sk : Nat} (h : MemoryCanonical s) : SomeCanonical (doVirtualDieRemap p v sk s) := by
  unfold doVirtualDieRemap
  dsimp only
  split
  · exact .none
  · split
    · split
      · exact .some h.moveDie
      · exact .none
    · split
      · exact .none
      · exact .some h.startMove.post
theorem MemoryCanonical.exchange {s : State} {qk : Nat} (h : MemoryCanonical s) : MemoryCanonical (s.exchange qk) := by
  unfold State.exchange
  extract_lets cls sh wait was mine kept comps out
  obtain ⟨hbm, hhost, hcl, hcr, hsh⟩ := h
  obtain ⟨hshcl, hshcr⟩ : ShadowCanonical sh := Laws.get_of_all ShadowCanonical s.shadows qk {} shadowCanonical_default hsh
  have hkept : ∀ e ∈ kept, PrivCanonical e.2 := fun e he => hcr e (List.mem_of_mem_filter he)
  have hout : ShadowCanonical out := ⟨fun e he => hcl e (List.mem_of_mem_filter he), fun e he => hcr e (List.mem_of_mem_filter he)⟩
  refine ⟨hbm, hhost, ?_, ?_, ?_⟩
  · exact forall_foldl_set (P := ScratchCanonical) hcl fun _ _ cl _ => Laws.get_of_all ScratchCanonical sh.cls cl {} rfl hshcl
  · exact forall_foldl_set (P := PrivCanonical) (forall_foldl_set (P := PrivCanonical) hkept fun _ _ e he => hshcr e he)
      fun t ht e _ => Laws.get_of_all PrivCanonical t e.1 {} rfl ht
  · dsimp only
    split
    · exact forall_set (P := ShadowCanonical) hsh hout
    · exact fun e he => hsh e (mem_of_mem_erase he)
theorem MemoryCanonical.deliverHeld {s : State} {i : Nat} (h : MemoryCanonical s) : MemoryCanonical (s.deliverHeld i) :=
  (h.foldl fun _ _ h1 => h1.pageNotice).modPart
theorem MemoryCanonical.resumePart {s : State} {i : Nat} (h : MemoryCanonical s) : MemoryCanonical (s.resumePart i) :=
  (h.modPart.foldl fun _ _ h1 => h1.thaw).deliverHeld.placeAll
theorem MemoryCanonical.switchNow {s : State} {qs : List Nat} {o i : Option Nat} (h : MemoryCanonical s) :
    MemoryCanonical (s.switchNow qs o i) := by
  unfold State.switchNow
  dsimp only
  split
  · refine .resumePart (.foldl ?_ fun _ _ h1 => h1.exchange)
    split
    · exact (h.foldl fun _ _ h1 => h1.freeze).modPart
    · exact h
  · refine .foldl ?_ fun _ _ h1 => h1.exchange
    split
    · exact (h.foldl fun _ _ h1 => h1.freeze).modPart
    · exact h
theorem doPartitionSwitch_canonical {s : State} {p : Nat} (h : MemoryCanonical s) : SomeCanonical (doPartitionSwitch p s) := by
  unfold doPartitionSwitch
  split
  · exact .some h.cmdResult
  · split
    · exact .some h.switchNow.cmdResult
    · dsimp only
      split
      · exact .none
      · split
        · exact .some h.modPart.post
        · split
          · exact .none
          · exact .some h.switchNow.cmdResult
theorem doDieFaultOffline_canonical {s : State} {sk : Nat} (h : MemoryCanonical s) : SomeCanonical (doDieFaultOffline sk s) := by
  unfold doDieFaultOffline
  dsimp only
  split
  · exact .none
  · split
    · exact .some h.post
    · exact .some h.modDie.post
theorem doDieOffline_canonical {s : State} {p : Nat} (h : MemoryCanonical s) : SomeCanonical (doDieOffline p s) := by
  unfold doDieOffline
  split
  · exact .some h.cmdResult
  · split
    · exact .some h.cmdResult
    · exact .some (doDieFaultOffline_canonical h ‹_›).modPart
theorem MemoryCanonical.takeParked {s : State} {gid : Nat} (h : MemoryCanonical s) : MemoryCanonical (s.takeParked gid) :=
  h.foldl fun _ _ h1 => h1.modGroup.modCore
theorem MemoryCanonical.moveGroups {s : State} {sk : Nat} (h : MemoryCanonical s) : MemoryCanonical (s.moveGroups sk) :=
  (h.foldl fun _ _ h1 => h1.requeue.ite h1).frame.foldl fun _ _ h1 => h1.takeParked.requeue.ite h1
theorem MemoryCanonical.stopGroup {s : State} {gid : Nat} (h : MemoryCanonical s) : SomeCanonical (s.stopGroup gid) := by
  -- What saving gives is named, so that nothing saves the group when the proof is checked.
  obtain ⟨r, hr⟩ : ∃ r, r = s.saveGroup gid := ⟨_, rfl⟩
  unfold State.stopGroup
  rw [← hr]
  extract_lets g
  split
  · exact .some h.modGroup
  · split
    · exact .none
    · split
      · exact .some (h.saveGroup hr.symm)
      · exact h.groupWaits
      · exact .some h.killGroup
theorem MemoryCanonical.stopOne {s : State} {es : List (Nat × Group)} (h : MemoryCanonical s) : SomeCanonical (s.stopOne es) := by
  induction es with
  | nil => exact .none
  | cons e es ih =>
    unfold State.stopOne
    exact h.stopGroup.orElse fun _ => ih
theorem MemoryCanonical.dieGone {s : State} {sk : Nat} (h : MemoryCanonical s) : MemoryCanonical (s.dieGone sk) := by
  unfold State.dieGone
  extract_lets now vs s1 s2 s3 s4 s5 s6 s7
  have h2 : MemoryCanonical s2 := h.frame.modDie
  have h4 : MemoryCanonical s4 := (h2.foldl fun _ _ h => h.answer).foldl fun _ _ h => h.refuse
  have h5 : MemoryCanonical s5 := by
    obtain ⟨hbm, hhost, hcl, hcr, hsh⟩ := h4
    refine ⟨hbm, hhost, fun e he => ?_, fun e he => hcr e (List.mem_of_mem_filter he), fun e he => hsh e (List.mem_of_mem_filter he)⟩
    obtain ⟨e', he', rfl⟩ := List.mem_map.1 he
    split
    · rfl
    · exact hcl e' he'
  have h7 : MemoryCanonical s7 := (h5.foldl fun _ _ h => h.modVd).packageEvent
  exact h7.foldl fun _ _ h => .ite h.cmdResult h
theorem MemoryCanonical.offlineStep {s : State} {sk : Nat} (h : MemoryCanonical s) : SomeCanonical (s.offlineStep sk) := by
  unfold State.offlineStep
  dsimp only
  split
  · exact .none
  · split
    · exact .none
    · split
      · exact .some h.startMove.post.post
      · split
        · exact .none
        · split
          · exact .some h.moveGroups.post
          · split
            · exact .none
            · split
              · split
                · exact .none
                · exact .some h.modDie.post
              · split
                · exact .map fun _ _ => (h.stopOne ‹_›).post
                · split
                  · exact .some h.exchange.post
                  · exact .some h.moveGroups.dieGone
theorem MemoryCanonical.mapAbsent {s : State} {sk p v : Nat} (h : MemoryCanonical s) : MemoryCanonical (s.mapAbsent sk p v) :=
  h.ite h.frame.modVd.nextEntry.post
theorem MemoryCanonical.homeBack {s : State} {sk : Nat} (h : MemoryCanonical s) : MemoryCanonical (s.homeBack sk) := by
  unfold State.homeBack
  split
  · exact h
  · exact h.mapClusters fun _ => by split <;> rfl
theorem doDieOnline_canonical {s : State} {sk : Nat} (h : MemoryCanonical s) : SomeCanonical (doDieOnline sk s) := by
  unfold doDieOnline
  dsimp only
  split
  · exact .none
  · exact .some ((h.homeBack.modDie.foldl fun _ _ h1 => h1.foldl fun _ _ h2 => h2.mapAbsent).foldl fun _ _ h1 => h1.foldl fun _ _ h2 =>
      h2.postOnce).packageEvent
theorem doPartitionCreation_canonical {s : State} {p : Nat} {quads : List Nat} (h : MemoryCanonical s) :
    SomeCanonical (doPartitionCreation p quads s) := by
  unfold doPartitionCreation
  dsimp only
  split
  · exact .none
  · exact .some (h.frame.modPart.foldl fun _ _ h1 => h1.logEntry)

/-! Debug pages (Debug.lean). -/

/-- However a held firing is restored, the state that this gives is canonical. -/
def HeldCanonical : Held → Prop
  | .ok t | .wait t | .dead t => MemoryCanonical t
theorem HeldCanonical.of_ok {r : Held} {t : State} (h : HeldCanonical r) (e : r = .ok t) : MemoryCanonical t := by
  subst e; exact h
theorem HeldCanonical.of_wait {r : Held} {t : State} (h : HeldCanonical r) (e : r = .wait t) : MemoryCanonical t := by
  subst e; exact h
theorem HeldCanonical.of_dead {r : Held} {t : State} (h : HeldCanonical r) (e : r = .dead t) : MemoryCanonical t := by
  subst e; exact h
theorem MemoryCanonical.modPage {s : State} {pg : Nat} {f : DPage → DPage} (h : MemoryCanonical s) : MemoryCanonical (s.modPage pg f) := h.frame
theorem doDebugAttach_canonical {s : State} {pg : Nat} (h : MemoryCanonical s) : SomeCanonical (doDebugAttach pg s) := by
  unfold doDebugAttach
  split
  · exact .none
  · split
    · exact .none
    · split
      · exact .none
      · exact .some h.modPage
theorem MemoryCanonical.holdFiring {s : State} {gid k : Nat} (h : MemoryCanonical s) : SomeCanonical (s.holdFiring gid k) := by
  unfold State.holdFiring
  dsimp only
  split
  · exact .none
  · split
    · exact .none
    · split
      · exact .none
      · exact .some h.waitPage
      · exact .some h.killGroup
      · exact .some (h.saveFiring.of_ok ‹_›).modCore
theorem MemoryCanonical.showImages {s : State} {pg : Nat} (h : MemoryCanonical s) : MemoryCanonical (s.showImages pg) := h.modPage
theorem MemoryCanonical.holdOne {s : State} {gid : Nat} {l : List Nat} (h : MemoryCanonical s) : SomeCanonical (s.holdOne gid l) := by
  induction l generalizing s gid with
  | nil =>
    unfold State.holdOne
    exact .none
  | cons _ _ ih =>
    unfold State.holdOne
    exact h.holdFiring.orElse fun _ => ih h
theorem MemoryCanonical.haltStep {s : State} {pg : Nat} (h : MemoryCanonical s) : SomeCanonical (s.haltStep pg) := by
  unfold State.haltStep
  dsimp only
  split
  · exact .none
  · split
    · exact .some h.showImages.modPage.pauseLimit
    · exact .map fun _ _ => ((h.holdOne ‹_›).showImages.ite (h.holdOne ‹_›)).post
theorem doDebugHalt_canonical {s : State} {pg : Nat} (h : MemoryCanonical s) : SomeCanonical (doDebugHalt pg s) := by
  unfold doDebugHalt
  dsimp only
  split
  · exact .none
  · split
    · split
      · exact .some h.haltGroup
      · split
        · exact .none
        · exact .some h.modPage
    · exact h.haltStep
theorem MemoryCanonical.restoreHeld {s : State} {gid k : Nat} (h : MemoryCanonical s) : HeldCanonical (s.restoreHeld gid k) := by
  unfold State.restoreHeld
  split
  · exact h
  · split
    · next e => exact h.restoreFiring.of_ok e
    · exact MemoryCanonical.killGroup h
    · exact MemoryCanonical.waitPage h
theorem MemoryCanonical.restoreAll {s : State} {gid : Nat} {ks : List Nat} (h : MemoryCanonical s) : HeldCanonical (s.restoreAll gid ks) := by
  induction ks generalizing s with
  | nil => exact h
  | cons k ks ih =>
    unfold State.restoreAll
    split
    · next e => exact ih (h.restoreHeld.of_ok e)
    · exact h.restoreHeld
theorem MemoryCanonical.release {s : State} {pg gid : Nat} (h : MemoryCanonical s) : MemoryCanonical (s.release pg gid) :=
  h.modPage.modGroup.resumeLimit.foldl fun _ _ h1 => h1.modCore.post.ite h1.modCore
theorem MemoryCanonical.resumeHalted {s t : State} {pg : Nat} {again : Act} {b : Bool} (h : MemoryCanonical s)
    (e : s.resumeHalted pg again = some (t, b)) : MemoryCanonical t := by
  unfold State.resumeHalted at e
  extract_lets gid ks at e
  split at e
  · cases e
  · split at e
    · next hr => cases e; exact (h.restoreAll.of_ok hr).release
    · next hr => cases e; exact h.restoreAll.of_dead hr
    · next hr => cases e; exact (h.restoreAll.of_wait hr).post
theorem doDebugRun_canonical {s : State} {pg : Nat} (h : MemoryCanonical s) : SomeCanonical (doDebugRun pg s) := by
  unfold doDebugRun
  extract_lets p
  split
  · exact .none
  · exact .map fun _ e => h.resumeHalted e
theorem doDebugDetach_canonical {s : State} {pg : Nat} (h : MemoryCanonical s) : SomeCanonical (doDebugDetach pg s) := by
  unfold doDebugDetach
  extract_lets p off
  split
  · exact .none
  · split
    · exact .map fun _ e => .ite (h.resumeHalted e).modPage (h.resumeHalted e)
    · exact .some h.modPage
theorem doSingleStep_canonical {s : State} {pg : Nat} (h : MemoryCanonical s) : SomeCanonical (doSingleStep pg s) := by
  unfold doSingleStep
  dsimp only
  split
  · split
    · exact .none
    · split
      · exact .some (h.restoreHeld.of_dead ‹_›)
      · exact .some (h.restoreHeld.of_wait ‹_›).post
      · exact .some (h.restoreHeld.of_ok ‹_›).modPage.resumeLimit.modCore
  · exact .none
theorem doStepAbandon_canonical {s : State} {pg : Nat} (h : MemoryCanonical s) : SomeCanonical (doStepAbandon pg s) := by
  unfold doStepAbandon
  dsimp only
  split
  · split
    · exact .none
    · split
      · exact .none
      · exact .some h.modCore.stepHalt.modPage
  · exact .none

/-! Invocation instructions (Invoke.lean). -/

theorem MemoryCanonical.sendInvocation {s : State} {pkg tag aff : Nat} {msg : List Word} {slot : Nat} (h : MemoryCanonical s) :
    MemoryCanonical (s.sendInvocation pkg tag aff msg slot) :=
  h.frame.frame.frame.frame.post.ite h.frame.frame.sendPacket
theorem tidy_awaitReply {d : BitVec 5} {tag : Nat} : Tidy (awaitReply d tag) := by
  unfold awaitReply
  refine tidy_me.bind fun _ => ?_
  split
  · exact tidy_holdKeep
  · exact (tidy_upd fun _ h => h.dequeue).bind fun _ => tidy_acquire.bind fun _ => tidy_updCtx.bind fun _ => tidy_setX
theorem tidy_invokeM {blocking : Bool} {imm7 : BitVec 7} {a d : BitVec 5} {w : BitVec 32} : Tidy (invokeM blocking imm7 a d w) := by
  unfold invokeM
  refine tidy_noRepeat.bind fun _ => tidy_needL.bind fun _ => tidy_join tidy_needLaunch fun _ => tidy_ctx.bind fun x => ?_
  split
  · exact tidy_awaitReply
  · refine tidy_regs.bind fun _ => tidy_getX.bind fun _ => tidy_selector.bind fun _ => tidy_trapIf.bind fun _ => tidy_trapIf.bind fun _ =>
      tidy_get_bind fun _ _ => tidy_trapIf.bind fun _ => tidy_trapIf.bind fun _ => tidy_trapIf.bind fun _ =>
      tidy_ite tidy_setX (tidy_ite (tidy_ite tidy_holdPassed tidy_setX) ?_)
    refine tidy_argsLanded.bind fun _ => tidy_argWords.bind fun _ => tidy_join tidy_holdPassed fun _ => tidy_release.bind fun _ =>
      tidy_updLsIn.bind fun _ => tidy_reserveSlot.bind fun _ => (tidy_upd fun _ h => h.sendInvocation).bind fun _ =>
      .bind tidy_updMe fun _ => ?_
    exact tidy_ite (tidy_updCtx.bind fun _ => tidy_awaitReply) tidy_setX
theorem execRstatInvoke_canonical {s : State} {eb1 : BitVec 1} {a d : BitVec 5} (h : MemoryCanonical s) :
    OutCanonical (execRstatInvoke eb1 a d s) :=
  (tidy_noRepeat.bind fun _ => tidy_needL.bind fun _ => tidy_regs.bind fun _ => tidy_getX.bind fun _ => tidy_trapIf.bind fun _ =>
    tidy_get_bind fun _ _ => tidy_setX).run h

/-! The fabric (Fabric.lean). -/

theorem MemoryCanonical.inboundMessage {s : State} {ws : List Word} (h : MemoryCanonical s) : MemoryCanonical (s.inboundMessage ws) := by
  unfold State.inboundMessage
  dsimp only
  split
  · exact h.acknowledge
  · exact h.moment.snd.frame.post
theorem MemoryCanonical.knowReply {s : State} {part pkg seq tag mesh code lid : Nat} {tick : Word} (h : MemoryCanonical s) :
    MemoryCanonical (s.knowReply part pkg seq tag mesh code lid tick) := by
  unfold State.knowReply
  split
  · exact h
  · exact h.frame.post
theorem MemoryCanonical.packetIn {s : State} {ws : List Word} (h : MemoryCanonical s) : MemoryCanonical (s.packetIn ws) := by
  unfold State.packetIn
  split
  · exact h.inboundMessage
  · exact h.knowReply.acknowledge
  · exact h.frame.frame.post
theorem doFabricPacketArrival_canonical {s : State} {ws : List Word} (h : MemoryCanonical s) : SomeCanonical (doFabricPacketArrival ws s) := by
  unfold doFabricPacketArrival
  split
  · exact .some h
  · split
    · refine .some ?_
      split
      · exact h
      · exact h.post
    · dsimp only
      split
      · exact .some h.copyAgain
      · exact .some h.frame.packetIn
theorem MemoryCanonical.sendReply {s : State} {ws : List Word} {code lid : Nat} (h : MemoryCanonical s) :
    MemoryCanonical (s.sendReply ws code lid) :=
  h.knowReply.ite h.acknowledge.sendPacket.frame
theorem doInvocationArrival_canonical {s : State} {id : Nat} (h : MemoryCanonical s) : SomeCanonical (doInvocationArrival id s) := by
  unfold doInvocationArrival
  split
  · exact .none
  · split
    · exact .none
    · dsimp only
      split
      · exact .some h.frame.sendReply
      · exact .some h.frame.acceptLaunch.modPart.sendReply
theorem MemoryCanonical.accessCounted {s : State} {p job pa n : Nat} {cnt : Bool} (h : MemoryCanonical s) :
    MemoryCanonical (s.accessCounted p job pa n cnt) :=
  (h.countRegion.ite h).recallAt
theorem MemoryCanonical.accessPerform {s : State} {ws : List Word} (h : MemoryCanonical s) : OkSndCanonical (s.accessPerform ws) := by
  unfold State.accessPerform
  dsimp only
  split
  · split
    · exact .error
    · exact .ok h.accessCounted
  · exact .ok h.accessCounted.applyAll
  · split
    · exact .error
    · split
      · exact .error
      · exact h.accessCounted.perform.mapError
  · exact .error
theorem doRemoteAccessArrival_canonical {s : State} {id : Nat} (h : MemoryCanonical s) : SomeCanonical (doRemoteAccessArrival id s) := by
  unfold doRemoteAccessArrival
  split
  · exact .none
  · split
    · exact .none
    · dsimp only
      split
      · exact .some h.frame.acknowledge
      · refine .some ?_
        split
        · exact h.frame.acknowledge
        · exact (h.frame.accessPerform ‹_›).acknowledge
theorem MemoryCanonical.fillAway {s : State} {o : Origin} {va : Word} {data : List Byte} (h : MemoryCanonical s) :
    MemoryCanonical (s.fillAway o va data) :=
  h.ite h.modCore
theorem MemoryCanonical.packetOutcome {s : State} {id : Nat} {pk : Packet} {code : Nat} {data : List Byte} (h : MemoryCanonical s) :
    MemoryCanonical (s.packetOutcome id pk code data) := by
  unfold State.packetOutcome
  dsimp only
  split
  · exact (h.fillAway.ite h).feed.ite h.failPend.pendCause
  · exact h.modCore.ite h.modCore.writeFailed
  · exact (h.fillAway.ite h).wakeAwait.ite h.wakeAwait
  · split
    · exact h
    · exact h.frame.ite h.refuse
  · exact h.outAnswered
  · exact h.lineAnswered
  · exact h
theorem MemoryCanonical.pumpAll {s : State} (h : MemoryCanonical s) : MemoryCanonical s.pumpAll := h.foldl fun _ _ h1 => h1.ite h1.pump
theorem MemoryCanonical.packetEnds {s : State} {id : Nat} {pk : Packet} {code : Nat} {data : List Byte} (h : MemoryCanonical s) :
    MemoryCanonical (s.packetEnds id pk code data) :=
  h.frame.packetOutcome.pumpAll
theorem doAcknowledgementArrival_canonical {s : State} {id code : Nat} {data : List Byte} (h : MemoryCanonical s) :
    SomeCanonical (doAcknowledgementArrival id code data s) :=
  .map fun _ _ => h.packetEnds
theorem MemoryCanonical.placeReply {s : State} {id : Nat} {r : InvReply} {code lid : Nat} {tick : Word} (h : MemoryCanonical s) :
    MemoryCanonical (s.placeReply id r code lid tick) := by
  unfold State.placeReply
  refine .placeCompletion ?_
  split
  · exact h.frame.modCore.ite h.frame
  · exact h.frame
theorem doInvocationReplyArrival_canonical {s : State} {id : Nat} (h : MemoryCanonical s) : SomeCanonical (doInvocationReplyArrival id s) := by
  unfold doInvocationReplyArrival
  split
  · exact .none
  · split
    · exact .some h.placeReply
    · exact .none
theorem doInvocationReplyTimeout_canonical {s : State} {id : Nat} (h : MemoryCanonical s) : SomeCanonical (doInvocationReplyTimeout id s) := by
  unfold doInvocationReplyTimeout
  split
  · exact .none
  · split
    · exact .none
    · exact .some h.placeReply
theorem doFabricResend_canonical {s : State} {id : Nat} (h : MemoryCanonical s) : SomeCanonical (doFabricResend id s) := by
  unfold doFabricResend
  split
  · exact .none
  · split
    · exact .none
    · exact .some h.frame
theorem doFabricGiveUp_canonical {s : State} {id : Nat} (h : MemoryCanonical s) : SomeCanonical (doFabricGiveUp id s) := by
  unfold doFabricGiveUp
  split
  · exact .none
  · split
    · exact .none
    · exact .some h.packetEnds
theorem doLinkFailure_canonical {s : State} {link : Nat} (h : MemoryCanonical s) : SomeCanonical (doLinkFailure link s) := by
  unfold doLinkFailure
  split
  · exact .none
  · exact .some h.frame.packageEvent
theorem MemoryCanonical.loadDomain {s : State} {p : Nat} (h : MemoryCanonical s) : MemoryCanonical (s.loadDomain p) := h.modPart
theorem doDomainTableUpdate_canonical {s : State} {p : Nat} (h : MemoryCanonical s) : SomeCanonical (doDomainTableUpdate p s) := by
  unfold doDomainTableUpdate
  split
  · exact .some h.loadDomain
  · exact .none

/-! Host link, boot, power and failures (Host.lean). -/

theorem doHostCxlMemAccess_canonical {s : State} {write : Bool} {pa : Nat} {data : List Byte} (h : MemoryCanonical s) :
    SomeCanonical (doHostCxlMemAccess write pa data s) := by
  unfold doHostCxlMemAccess
  split
  · exact .none
  · exact .some (h.writeAt.ite h)
theorem doDoorbellWrite_canonical {s : State} {qn : Nat} {v : Word} (h : MemoryCanonical s) : SomeCanonical (doDoorbellWrite qn v s) := by
  unfold doDoorbellWrite
  dsimp only
  split
  · exact .some h.frame.queueErr.modHq
  · exact .some h.modHq.postOnce
theorem MemoryCanonical.resort {s : State} {qn : Nat} (h : MemoryCanonical s) : MemoryCanonical (s.resort qn) := h.frame.frame
theorem doQcfgWrite_canonical {s : State} {qn : Nat} {v : Word} (h : MemoryCanonical s) : SomeCanonical (doQcfgWrite qn v s) := by
  unfold doQcfgWrite
  split
  · exact .some h
  · exact .some h.modHq.resort.postOnce
theorem doQerrClear_canonical {s : State} {qn : Nat} {v : Word} (h : MemoryCanonical s) : SomeCanonical (doQerrClear qn v s) :=
  .some (h.modHq.ite h)
theorem doIcfg0Write_canonical {s : State} {p : Nat} {v : Word} (h : MemoryCanonical s) : SomeCanonical (doIcfg0Write p v s) :=
  .some h.modPart.loadDomain
theorem MemoryCanonical.drainNotices {s : State} {p : Nat} {l : List (List Word)} (h : MemoryCanonical s) :
    MemoryCanonical (s.drainNotices p l) := by
  induction l generalizing s p with
  | nil =>
    unfold State.drainNotices
    exact h.modPart
  | cons _ _ ih =>
    unfold State.drainNotices
    exact (ih h.putNotice).ite h.modPart
theorem doNtqconsWrite_canonical {s : State} {p : Nat} {v : Word} (h : MemoryCanonical s) : SomeCanonical (doNtqconsWrite p v s) :=
  .some h.modPart.drainNotices
theorem MemoryCanonical.setReg {s : State} {off : Nat} {v : Word} (h : MemoryCanonical s) : MemoryCanonical (s.setReg off v) := h.frame
theorem doPowerCapWrite_canonical {s : State} {v : Word} (h : MemoryCanonical s) : SomeCanonical (doPowerCapWrite v s) := by
  unfold doPowerCapWrite
  split
  · exact .some h.setReg
  · exact .none
theorem doAttestationReport_canonical {s : State} (h : MemoryCanonical s) : SomeCanonical (doAttestationReport s) := by
  unfold doAttestationReport
  dsimp only
  split
  · exact .none
  · split
    · exact .some h.setReg
    · exact .some h.setReg.frame
theorem MemoryCanonical.pcmdWrite {s : State} {p code : Nat} (h : MemoryCanonical s) : MemoryCanonical (s.pcmdWrite p code) :=
  h.modPart.ite (h.modPart.ite h.modPart.post)
theorem MemoryCanonical.modJob {s : State} {p : Nat} {f : Job → Job} (h : MemoryCanonical s) : MemoryCanonical (s.modJob p f) := h.modPart
theorem MemoryCanonical.partWrite {s : State} {p off : Nat} {v : Word} (h : MemoryCanonical s) : MemoryCanonical (s.partWrite p off v) := by
  unfold State.partWrite
  dsimp only
  split
  · exact (doIcfg0Write_canonical h).getD h
  · exact h.modPart
  · exact h.modPart
  · exact (doNtqconsWrite_canonical h).getD h
  · exact h.modPart.ite h
  · exact h.modPart
  · exact h.modPart
  · exact h.modJob
  · exact h.modJob
  · exact h.modPart
  · exact h.modPart
  · exact h.pcmdWrite
  · exact h
theorem MemoryCanonical.queueWrite {s : State} {qn off : Nat} {v : Word} (h : MemoryCanonical s) : MemoryCanonical (s.queueWrite qn off v) := by
  unfold State.queueWrite
  split
  · exact h.modHq
  · exact (doQcfgWrite_canonical h).getD h
  · exact (doDoorbellWrite_canonical h).getD h
  · exact (doQerrClear_canonical h).getD h
  · exact h
theorem MemoryCanonical.dctlWrite {s : State} {pg v : Nat} (h : MemoryCanonical s) : MemoryCanonical (s.dctlWrite pg v) := by
  unfold State.dctlWrite
  dsimp only
  split
  · split
    · split
      · exact (doDebugHalt_canonical ((doDebugAttach_canonical h.modPage).getD h.modPage)).getD ((doDebugAttach_canonical h.modPage).getD
          h.modPage)
      · exact (doDebugAttach_canonical h.modPage).getD h.modPage
    · exact ((doDebugHalt_canonical h.modPage).getD h.modPage).ite h.modPage
  · split
    · exact (doDebugDetach_canonical h.modPage).getD h.modPage.postOnce
    · split
      · exact (doDebugHalt_canonical h.modPage).getD h.modPage
      · split
        · exact h.modPage
        · split
          · exact (doDebugRun_canonical h.modPage).getD h.modPage.postOnce
          · exact ((doSingleStep_canonical h.modPage).getD (h.modPage.postOnce.ite h.modPage)).ite h.modPage
theorem MemoryCanonical.debugWrite {s : State} {pg off : Nat} {v : Word} (h : MemoryCanonical s) : MemoryCanonical (s.debugWrite pg off v) :=
  h.dctlWrite.ite (h.modPage.ite (h.modPage.ite (h.modPage.ite h)))
theorem MemoryCanonical.deviceWrite {s : State} {off : Nat} {v : Word} (h : MemoryCanonical s) : MemoryCanonical (s.deviceWrite off v) :=
  (h.setReg.post.ite h).ite (h.setReg.ite (((doPowerCapWrite_canonical h).getD h).ite h))
theorem doRegisterWrite_canonical {s : State} {off n : Nat} {v : Word} (h : MemoryCanonical s) : SomeCanonical (doRegisterWrite off n v s) := by
  unfold doRegisterWrite
  dsimp only
  split
  · exact .some h
  · split
    · exact .some h.queueWrite
    · split
      · exact .some (h.ite h.partWrite)
      · split
        · exact .some (h.debugWrite.ite h)
        · split
          · exact .some h.deviceWrite
          · exact .some h
theorem MemoryCanonical.selfTested {s : State} {bad : List Nat} (h : MemoryCanonical s) : MemoryCanonical (s.selfTested bad) :=
  h.foldl fun _ _ h1 => h1.ite (h1.modCluster.packageEvent.ite h1.modCluster)
theorem MemoryCanonical.withholding {s : State} (h : MemoryCanonical s) : MemoryCanonical s.withholding :=
  h.ite (h.foldl fun _ _ h1 => h1.modCluster)
theorem memoryCanonical_reset : MemoryCanonical State.reset := by
  unfold MemoryCanonical
  decide
/-- Of a package without power only the host's memory stays. -/
theorem MemoryCanonical.unpowered {s : State} (h : MemoryCanonical s) : MemoryCanonical s.unpowered := by
  obtain ⟨_, hhost, _⟩ := h
  obtain ⟨hbm, _, hrest⟩ := memoryCanonical_reset
  exact ⟨hbm, hhost, hrest⟩
theorem doPowerOnBoot_canonical {s : State} {okA okB ident : Bool} {bad : List Nat} (h : MemoryCanonical s) :
    SomeCanonical (doPowerOnBoot okA okB ident bad s) := by
  unfold doPowerOnBoot
  split
  · exact .none
  · dsimp only
    split
    · exact .some h.unpowered.frame
    · exact .some h.unpowered.frame.selfTested.withholding
theorem doPowerOff_canonical {s : State} (h : MemoryCanonical s) : SomeCanonical (doPowerOff s) := .some h.unpowered
theorem doStandbyEntry_canonical {s : State} (h : MemoryCanonical s) : SomeCanonical (doStandbyEntry s) := by
  unfold doStandbyEntry
  split
  · exact .none
  · obtain ⟨hbm, hhost, _⟩ := h
    refine .some ⟨hbm, hhost, fun e he => ?_, fun _ he => (nomatch he), fun _ he => (nomatch he)⟩
    obtain ⟨_, _, rfl⟩ := List.mem_map.1 he
    rfl
theorem doStandbyExit_canonical {s : State} (h : MemoryCanonical s) : SomeCanonical (doStandbyExit s) := by
  unfold doStandbyExit
  split
  · exact .none
  · exact .some (h.frame.foldl fun _ _ h1 => h1.dieGone).selfTested
theorem doIoDieFailover_canonical {s : State} (h : MemoryCanonical s) : SomeCanonical (doIoDieFailover s) := by
  unfold doIoDieFailover
  dsimp only
  split
  · exact .none
  · exact .some h.frame.packageEvent
theorem doHbmScrub_canonical {s : State} {stack : Nat} {lines : List Nat} (h : MemoryCanonical s) : SomeCanonical (doHbmScrub stack lines s) := by
  unfold doHbmScrub
  split
  · exact .none
  · exact .some (h.frame.foldl fun _ _ h1 => h1.packageEvent)
theorem doInstructionWordFault_canonical {s : State} {c : Cause} {tv : Word} (h : MemoryCanonical s) :
    SomeCanonical (doInstructionWordFault c tv s) := by
  unfold doInstructionWordFault
  split
  · exact .some h.takeTrap
  · exact .none
theorem doFirmwareImageUpdate_canonical {s : State} {image : List Byte} (h : MemoryCanonical s) :
    SomeCanonical (doFirmwareImageUpdate image s) := by
  unfold doFirmwareImageUpdate
  split
  · exact .some h.frame
  · exact .none

/-! Sparse instructions (Sparse.lean). -/

theorem tidy_readMasks {p : Word} {m cnt : Nat} : Tidy (readMasks p m cnt) :=
  tidy_ownRange.bind fun _ => tidy_watch.bind fun _ => tidy_get_bind fun _ _ => tidy_holdUnless.bind fun _ => tidy_pure
theorem execMxas_canonical {s : State} {pat : BitVec 3} {n : BitVec 1} {p q : BitVec 4} {d : BitVec 5} (h : MemoryCanonical s) :
    OutCanonical (execMxas pat n p q d s) := by
  unfold execMxas
  refine Tidy.run (tidy_noRepeat.bind fun _ => tidy_needL.bind fun _ => tidy_regs.bind fun _ => tidy_getX.bind fun _ =>
    tidy_accFree.bind fun _ => tidy_needRing.bind fun _ => tidy_needRing.bind fun _ => tidy_blogCheck.bind fun _ => tidy_get_bind fun _ h1 =>
    tidy_trapIf.bind fun _ => tidy_trapIf.bind fun _ => tidy_trapIf.bind fun _ => tidy_trapIf.bind fun _ => tidy_trapIf.bind fun _ =>
    tidy_trapIf.bind fun _ => tidy_headTag.bind fun _ => tidy_trapIf.bind fun _ => tidy_readMasks.bind fun _ => ?_) h
  split
  · exact tidy_trap
  · exact tidy_claim.bind fun _ => tidy_issueCmd.bind fun _ => tidy_pure
theorem execMxmchk_canonical {s : State} {pat : BitVec 3} {a b d : BitVec 5} (h : MemoryCanonical s) : OutCanonical (execMxmchk pat a b d s) :=
  (tidy_noRepeat.bind fun _ => tidy_needL.bind fun _ => tidy_regs.bind fun _ => tidy_getX.bind fun _ => tidy_getX.bind fun _ =>
    tidy_trapIf.bind fun _ => tidy_ite tidy_setX (tidy_headTag.bind fun _ => tidy_trapIf.bind fun _ => tidy_readMasks.bind fun _ =>
    tidy_setX)).run h
theorem execMxcmp_canonical {s : State} {pat : BitVec 3} {a b d : BitVec 5} (h : MemoryCanonical s) : OutCanonical (execMxcmp pat a b d s) := by
  unfold execMxcmp
  refine Tidy.run (tidy_noRepeat.bind fun _ => tidy_needL.bind fun _ => tidy_ctx.bind fun _ => tidy_get_bind fun _ h1 => ?_) h
  split
  · exact tidy_ite tidy_hold tidy_updCtx
  · exact tidy_regs.bind fun _ => tidy_getX.bind fun _ => tidy_getX.bind fun _ => tidy_getX.bind fun _ => tidy_headTag.bind fun _ =>
      tidy_headTag.bind fun _ => tidy_headRaw.bind fun _ => tidy_trapIf.bind fun _ => tidy_trapIf.bind fun _ => tidy_trapIf.bind fun _ =>
      tidy_trapIf.bind fun _ => tidy_ownRange.bind fun _ => tidy_ownRange.bind fun _ => tidy_ownRange.bind fun _ => tidy_issueCmd.bind fun _ =>
      tidy_updCtx.bind fun _ => tidy_holdKeep
theorem doMxcmpRetire_canonical {s : State} {cl : Nat} (h : MemoryCanonical s) : SomeCanonical (doMxcmpRetire cl s) := by
  -- Whether ranges meet is named, so that nothing computes it when the proof is checked.
  obtain ⟨clashes, hclashes⟩ : ∃ f, f = meets := ⟨_, rfl⟩
  unfold doMxcmpRetire
  rw [← hclashes]
  dsimp only
  split
  · split
    · refine .some (.retireCmd (.writeAt (.writeAt (FstCanonical.fst ?_))))
      split
      · exact .mk h.freeBytes.snd.freeBytes.snd
      · exact .mk h
    · exact .none
  · exact .none

/-! Every instruction and event (Dispatch.lean). -/

/-- Every instruction keeps the memories canonical. -/
theorem exec_canonical {i : Instr} {s : State} (h : MemoryCanonical s) : OutCanonical (exec i s) := by
  cases i with
  | lui => exact execLui_canonical h
  | auipc => exact execAuipc_canonical h
  | jal => exact execJal_canonical h
  | jalr => exact execJalr_canonical h
  | beq => exact tidy_branch.runTo h
  | bne => exact tidy_branch.runTo h
  | blt => exact tidy_branch.runTo h
  | bge => exact tidy_branch.runTo h
  | bltu => exact tidy_branch.runTo h
  | bgeu => exact tidy_branch.runTo h
  | lb => exact tidy_loadX.run h
  | lh => exact tidy_loadX.run h
  | lw => exact tidy_loadX.run h
  | ld => exact tidy_loadX.run h
  | lbu => exact tidy_loadX.run h
  | lhu => exact tidy_loadX.run h
  | lwu => exact tidy_loadX.run h
  | sb => exact tidy_storeX.run h
  | sh => exact tidy_storeX.run h
  | sw => exact tidy_storeX.run h
  | sd => exact tidy_storeX.run h
  | addi => exact tidy_aluI.run h
  | slti => exact tidy_aluI.run h
  | sltiu => exact tidy_aluI.run h
  | xori => exact tidy_aluI.run h
  | ori => exact tidy_aluI.run h
  | andi => exact tidy_aluI.run h
  | slli => exact tidy_aluI.run h
  | srli => exact tidy_aluI.run h
  | srai => exact tidy_aluI.run h
  | addiw => exact tidy_aluI.run h
  | slliw => exact tidy_aluI.run h
  | srliw => exact tidy_aluI.run h
  | sraiw => exact tidy_aluI.run h
  | add => exact tidy_aluR.run h
  | sll => exact tidy_aluR.run h
  | slt => exact tidy_aluR.run h
  | sltu => exact tidy_aluR.run h
  | xor => exact tidy_aluR.run h
  | srl => exact tidy_aluR.run h
  | or => exact tidy_aluR.run h
  | and => exact tidy_aluR.run h
  | sub => exact tidy_aluR.run h
  | sra => exact tidy_aluR.run h
  | mul => exact tidy_aluR.run h
  | mulh => exact tidy_aluR.run h
  | mulhsu => exact tidy_aluR.run h
  | mulhu => exact tidy_aluR.run h
  | div => exact tidy_aluR.run h
  | divu => exact tidy_aluR.run h
  | rem => exact tidy_aluR.run h
  | remu => exact tidy_aluR.run h
  | addw => exact tidy_aluR.run h
  | sllw => exact tidy_aluR.run h
  | srlw => exact tidy_aluR.run h
  | subw => exact tidy_aluR.run h
  | sraw => exact tidy_aluR.run h
  | mulw => exact tidy_aluR.run h
  | divw => exact tidy_aluR.run h
  | divuw => exact tidy_aluR.run h
  | remw => exact tidy_aluR.run h
  | remuw => exact tidy_aluR.run h
  | fence => exact (tidy_noRepeat.bind fun _ => tidy_fullFence).run h
  | ecall => exact execEcall_canonical h
  | ebreak => exact execEbreak_canonical h
  | csrrw => exact (tidy_csrForm tidy_getX).run h
  | csrrs => exact (tidy_csrForm tidy_getX).run h
  | csrrc => exact (tidy_csrForm tidy_getX).run h
  | csrrwi => exact (tidy_csrForm tidy_pure).run h
  | csrrsi => exact (tidy_csrForm tidy_pure).run h
  | csrrci => exact (tidy_csrForm tidy_pure).run h
  | amoaddW => exact tidy_amoM.run h
  | amoaddD => exact tidy_amoM.run h
  | amoswapW => exact tidy_amoM.run h
  | amoswapD => exact tidy_amoM.run h
  | amoxorW => exact tidy_amoM.run h
  | amoxorD => exact tidy_amoM.run h
  | amoorW => exact tidy_amoM.run h
  | amoorD => exact tidy_amoM.run h
  | amoandW => exact tidy_amoM.run h
  | amoandD => exact tidy_amoM.run h
  | amominW => exact tidy_amoM.run h
  | amominD => exact tidy_amoM.run h
  | amomaxW => exact tidy_amoM.run h
  | amomaxD => exact tidy_amoM.run h
  | amominuW => exact tidy_amoM.run h
  | amominuD => exact tidy_amoM.run h
  | amomaxuW => exact tidy_amoM.run h
  | amomaxuD => exact tidy_amoM.run h
  | flw => exact execFlw_canonical h
  | fsw => exact execFsw_canonical h
  | fmaddS => exact execFmaddS_canonical h
  | fmsubS => exact execFmsubS_canonical h
  | fnmsubS => exact execFnmsubS_canonical h
  | fnmaddS => exact execFnmaddS_canonical h
  | faddS => exact execFaddS_canonical h
  | fsubS => exact execFsubS_canonical h
  | fmulS => exact execFmulS_canonical h
  | fdivS => exact execFdivS_canonical h
  | fsqrtS => exact execFsqrtS_canonical h
  | fsgnjS => exact execFsgnjS_canonical h
  | fsgnjnS => exact execFsgnjnS_canonical h
  | fsgnjxS => exact execFsgnjxS_canonical h
  | fminS => exact execFminS_canonical h
  | fmaxS => exact execFmaxS_canonical h
  | fleS => exact execFleS_canonical h
  | fltS => exact execFltS_canonical h
  | feqS => exact execFeqS_canonical h
  | fcvtWS => exact execFcvtWS_canonical h
  | fcvtWuS => exact execFcvtWuS_canonical h
  | fcvtLS => exact execFcvtLS_canonical h
  | fcvtLuS => exact execFcvtLuS_canonical h
  | fcvtSW => exact execFcvtSW_canonical h
  | fcvtSWu => exact execFcvtSWu_canonical h
  | fcvtSL => exact execFcvtSL_canonical h
  | fcvtSLu => exact execFcvtSLu_canonical h
  | fmvXW => exact execFmvXW_canonical h
  | fclassS => exact execFclassS_canonical h
  | fmvWX => exact execFmvWX_canonical h
  | scfgw => exact execScfgw_canonical h
  | scfgr => exact execScfgr_canonical h
  | sbind => exact execSbind_canonical h
  | sfree => exact execSfree_canonical h
  | sstat => exact execSstat_canonical h
  | sdrain => exact execSdrain_canonical h
  | rpt => exact execRpt_canonical h
  | rpti => exact execRpti_canonical h
  | send => exact tidy_sendM.run h
  | sendw => exact tidy_sendM.run h
  | senda => exact tidy_sendM.run h
  | sendaw => exact tidy_sendM.run h
  | recv => exact tidy_recvM.run h
  | recvw => exact tidy_recvM.run h
  | mcount => exact execMcount_canonical h
  | endF => exact tidy_endM.runEnd h
  | rearm => exact tidy_endM.runEnd h
  | get => exact execGet_canonical h
  | put => exact execPut_canonical h
  | sadd => exact execSadd_canonical h
  | ordAcq => exact execOrdAcq_canonical h
  | ordRel => exact execOrdRel_canonical h
  | ordFull => exact execOrdFull_canonical h
  | ldAcq => exact execLdAcq_canonical h
  | sdRel => exact execSdRel_canonical h
  | binit => exact execBinit_canonical h
  | barr => exact execBarr_canonical h
  | bwait => exact execBwait_canonical h
  | btest => exact execBtest_canonical h
  | jinit => exact execJinit_canonical h
  | jarr => exact execJarr_canonical h
  | acas => exact execAcas_canonical h
  | afadd => exact tidy_floatAtomic.run h
  | afmax => exact tidy_floatAtomic.run h
  | afmin => exact tidy_floatAtomic.run h
  | atkt => exact execAtkt_canonical h
  | qpush => exact execQpush_canonical h
  | qpushw => exact execQpushw_canonical h
  | qpop => exact execQpop_canonical h
  | qpopw => exact execQpopw_canonical h
  | qinit => exact execQinit_canonical h
  | spawn => exact tidy_spawnM.run h
  | spawnw => exact tidy_spawnM.run h
  | cancel => exact execCancel_canonical h
  | wstat => exact execWstat_canonical h
  | gcond => exact execGcond_canonical h
  | invk => exact tidy_invokeM.run h
  | invkw => exact tidy_invokeM.run h
  | rstatInvoke => exact execRstatInvoke_canonical h
  | rdref => exact execRdref_canonical h
  | rddcyc => exact execRddcyc_canonical h
  | rdratio => exact execRdratio_canonical h
  | tret => exact execTret_canonical h
  | tlbinv => exact execTlbinv_canonical h
  | tlbsync => exact execTlbsync_canonical h
  | htabw => exact execHtabw_canonical h
  | aperw => exact execAperw_canonical h
  | wfm => exact execWfm_canonical h
  | dhalt => exact execDhalt_canonical h
  | padd => exact tidy_paddM.run h
  | paddi => exact tidy_paddM.run h
  | psetf => exact execPsetf_canonical h
  | pgetf => exact execPgetf_canonical h
  | kld => exact execKld_canonical h
  | kldf => exact execKldf_canonical h
  | vadd => exact execVadd_canonical h
  | vsub => exact execVsub_canonical h
  | vmul => exact execVmul_canonical h
  | vfma => exact execVfma_canonical h
  | vfms => exact execVfms_canonical h
  | vfnma => exact execVfnma_canonical h
  | vmin => exact execVmin_canonical h
  | vmax => exact execVmax_canonical h
  | vabs => exact execVabs_canonical h
  | vneg => exact execVneg_canonical h
  | vdiv => exact execVdiv_canonical h
  | vsqrt => exact execVsqrt_canonical h
  | vrcp => exact execVrcp_canonical h
  | vexp2 => exact execVexp2_canonical h
  | vceq => exact execVceq_canonical h
  | vclt => exact execVclt_canonical h
  | vcle => exact execVcle_canonical h
  | vand => exact execVand_canonical h
  | vor => exact execVor_canonical h
  | vxor => exact execVxor_canonical h
  | vshl => exact execVshl_canonical h
  | vshr => exact execVshr_canonical h
  | vsra => exact execVsra_canonical h
  | vsel => exact execVsel_canonical h
  | vperm => exact execVperm_canonical h
  | vsplat => exact execVsplat_canonical h
  | vextr => exact execVextr_canonical h
  | vins => exact execVins_canonical h
  | vrsum => exact execVrsum_canonical h
  | vrmax => exact execVrmax_canonical h
  | vmov => exact execVmov_canonical h
  | vclass => exact execVclass_canonical h
  | vld => exact execVld_canonical h
  | vst => exact execVst_canonical h
  | vlds => exact execVlds_canonical h
  | vsts => exact execVsts_canonical h
  | vgath => exact execVgath_canonical h
  | vscat => exact tidy_scatterM.run h
  | vsadd => exact tidy_scatterM.run h
  | vaccr => exact execVaccr_canonical h
  | vaccw => exact execVaccw_canonical h
  | vldp => exact execVldp_canonical h
  | cvt => exact execCvt_canonical h
  | fcvtz => exact execFcvtz_canonical h
  | packb => exact execPackb_canonical h
  | unpkb => exact execUnpkb_canonical h
  | lutw => exact execLutw_canonical h
  | lutx => exact execLutx_canonical h
  | zpsub => exact execZpsub_canonical h
  | mxa => exact execMxa_canonical h
  | mxz => exact execMxz_canonical h
  | mxrd => exact execMxrd_canonical h
  | mxwr => exact execMxwr_canonical h
  | mxstat => exact execMxstat_canonical h
  | mxsync => exact execMxsync_canonical h
  | mxtest => exact execMxtest_canonical h
  | mxas => exact execMxas_canonical h
  | mxcmp => exact execMxcmp_canonical h
  | mxmchk => exact execMxmchk_canonical h
  | bset => exact execBset_canonical h
  | bget => exact execBget_canonical h
  | tbnd => exact execTbnd_canonical h
  | tcon => exact execTcon_canonical h
  | twalk => exact execTwalk_canonical h
  | tstat => exact execTstat_canonical h
  | copy => exact execCopy_canonical h
  | ctile => exact execCtile_canonical h
  | sealB => exact execSealB_canonical h
  | waitb => exact execWaitb_canonical h
  | testb => exact execTestb_canonical h
  | cstage => exact execCstage_canonical h
  | rcfg => exact execRcfg_canonical h
  | rfree => exact execRfree_canonical h
  | rpop => exact execRpop_canonical h
  | rpush => exact execRpush_canonical h
  | rstatRing => exact execRstatRing_canonical h
  | subs => exact execSubs_canonical h
  | unsubs => exact execUnsubs_canonical h
  | drain => exact execDrain_canonical h
  | registerLanding => exact .act (doRegisterLanding_canonical h) h
  | repeatInstanceIssue => exact .act (doRepeatInstanceIssue_canonical h) h
  | streamPrefetch => exact .act (doStreamPrefetch_canonical h) h
  | streamPushPerformed => exact .act (doStreamPushPerformed_canonical h) h
  | messageValidation => exact .act (doMessageValidation_canonical h) h
  | messagePlacement => exact .act (doMessagePlacement_canonical h) h
  | errorReplyArrival => exact .act (doErrorReplyArrival_canonical h) h
  | impreciseCauseRaise => exact .act (doImpreciseCauseRaise_canonical h) h
  | firingStart => exact .act (doFiringStart_canonical h) h
  | hFiringStart => exact .act (doHFiringStart_canonical h) h
  | serviceRequest => exact .act (doServiceRequest_canonical h) h
  | serviceReplyArrival => exact .act (doServiceReplyArrival_canonical h) h
  | engineWake => exact .act (doEngineWake_canonical h) h
  | atomicEngineServe => exact .act (doAtomicEngineServe_canonical h) h
  | leaseGrant => exact .act (doLeaseGrant_canonical h) h
  | leaseEviction => exact .act (doLeaseEviction_canonical h) h
  | leaseRecall => exact .act (doLeaseRecall_canonical h) h
  | queueRowPerformed => exact .act (doQueueRowPerformed_canonical h) h
  | barrierWake => exact .act (doBarrierWake_canonical h) h
  | commandAcceptance => exact .act (doCommandAcceptance_canonical h) h
  | copyCompletion => exact .act (doCopyCompletion_canonical h) h
  | batchCompletion => exact .act (doBatchCompletion_canonical h) h
  | scoreboardRetire => exact .act (doScoreboardRetire_canonical h) h
  | springTile => exact .act (doSpringTile_canonical h) h
  | outletTile => exact .act (doOutletTile_canonical h) h
  | engineCommandArrival => exact .act (doEngineCommandArrival_canonical h) h
  | matrixStepStart => exact .act (doMatrixStepStart_canonical h) h
  | matrixStepRetire => exact .act (doMatrixStepRetire_canonical h) h
  | engineSelfTest => exact .act (doEngineSelfTest_canonical h) h
  | mxzPerformed => exact .act (doMxzPerformed_canonical h) h
  | mxrdPerformed => exact .act (doMxrdPerformed_canonical h) h
  | mxwrPerformed => exact .act (doMxwrPerformed_canonical h) h
  | vaccPerformed => exact .act (doVaccPerformed_canonical h) h
  | syncMarkerComplete => exact .act (doSyncMarkerComplete_canonical h) h
  | mxcmpRetire => exact .act (doMxcmpRetire_canonical h) h
  | chainStepStart => exact .act (doChainStepStart_canonical h) h
  | chainStepRetire => exact .act (doChainStepRetire_canonical h) h
  | tlbWalk => exact .act (doTlbWalk_canonical h) h
  | tlbInvalidationApply => exact .act (doTlbInvalidationApply_canonical h) h
  | csrPropagation => exact .act (doCsrPropagation_canonical h) h
  | workQueueAcceptance => exact .act (doWorkQueueAcceptance_canonical h) h
  | readyQueueHandover => exact .act (doReadyQueueHandover_canonical h) h
  | stealRequest => exact .act (doStealRequest_canonical h) h
  | stealAnswer => exact .act (doStealAnswer_canonical h) h
  | groupPlacement => exact .act (doGroupPlacement_canonical h) h
  | groupBlocksQueue => exact .act (doGroupBlocksQueue_canonical h) h
  | preemptionTrigger => exact .act (doPreemptionTrigger_canonical h) h
  | groupPreemption => exact .act (doGroupPreemption_canonical h) h
  | groupResume => exact .act (doGroupResume_canonical h) h
  | groupCompletion => exact .act (doGroupCompletion_canonical h) h
  | launchTimeout => exact .act (doLaunchTimeout_canonical h) h
  | groupKill => exact .act (doGroupKill_canonical h) h
  | graphLoad => exact execGraphLoad_canonical h
  | graphRun => exact execGraphRun_canonical h
  | graphUnload => exact execGraphUnload_canonical h
  | graphNodeStart => exact .act (doGraphNodeStart_canonical h) h
  | faultDelivery => exact .act (doFaultDelivery_canonical h) h
  | park => exact .act (doPark_canonical h) h
  | parkedFiringResume => exact .act (doParkedFiringResume_canonical h) h
  | completionIntoFrame => exact .act (doCompletionIntoFrame_canonical h) h
  | quarantine => exact .act (doQuarantine_canonical h) h
  | watchdogExpiry => exact .act (doWatchdogExpiry_canonical h) h
  | wfmTimeout => exact .act (doWfmTimeout_canonical h) h
  | crossDieDeadline => exact .act (doCrossDieDeadline_canonical h) h
  | virtualDieRemap => exact .act (doVirtualDieRemap_canonical h) h
  | dieFaultOffline => exact .act (doDieFaultOffline_canonical h) h
  | dieOnline => exact .act (doDieOnline_canonical h) h
  | frequencyStepStop => exact .act (doFrequencyStepStop_canonical h) h
  | frequencyStepRestart => exact .act (doFrequencyStepRestart_canonical h) h
  | fabricPacketArrival => exact .act (doFabricPacketArrival_canonical h) h
  | invocationArrival => exact .act (doInvocationArrival_canonical h) h
  | remoteAccessArrival => exact .act (doRemoteAccessArrival_canonical h) h
  | acknowledgementArrival => exact .act (doAcknowledgementArrival_canonical h) h
  | invocationReplyArrival => exact .act (doInvocationReplyArrival_canonical h) h
  | invocationReplyTimeout => exact .act (doInvocationReplyTimeout_canonical h) h
  | fabricResend => exact .act (doFabricResend_canonical h) h
  | fabricGiveUp => exact .act (doFabricGiveUp_canonical h) h
  | linkFailure => exact .act (doLinkFailure_canonical h) h
  | domainTableUpdate => exact .act (doDomainTableUpdate_canonical h) h
  | hostCxlMemAccess => exact .act (doHostCxlMemAccess_canonical h) h
  | doorbellWrite => exact .act (doDoorbellWrite_canonical h) h
  | qcfgWrite => exact .act (doQcfgWrite_canonical h) h
  | qerrClear => exact .act (doQerrClear_canonical h) h
  | icfg0Write => exact .act (doIcfg0Write_canonical h) h
  | ntqconsWrite => exact .act (doNtqconsWrite_canonical h) h
  | pageReady => exact .act (doPageReady_canonical h) h
  | growAllotment => exact .act (doGrowAllotment_canonical h) h
  | frequencyStep => exact .act (doFrequencyStep_canonical h) h
  | dieOffline => exact .act (doDieOffline_canonical h) h
  | partitionSwitch => exact .act (doPartitionSwitch_canonical h) h
  | attestationReport => exact .act (doAttestationReport_canonical h) h
  | powerCapWrite => exact .act (doPowerCapWrite_canonical h) h
  | registerWrite => exact .act (doRegisterWrite_canonical h) h
  | debugAttach => exact .act (doDebugAttach_canonical h) h
  | debugDetach => exact .act (doDebugDetach_canonical h) h
  | debugHalt => exact .act (doDebugHalt_canonical h) h
  | debugRun => exact .act (doDebugRun_canonical h) h
  | singleStep => exact .act (doSingleStep_canonical h) h
  | stepAbandon => exact .act (doStepAbandon_canonical h) h
  | powerOnBoot => exact .act (doPowerOnBoot_canonical h) h
  | standbyEntry => exact .act (doStandbyEntry_canonical h) h
  | standbyExit => exact .act (doStandbyExit_canonical h) h
  | ioDieFailover => exact .act (doIoDieFailover_canonical h) h
  | hbmScrub => exact .act (doHbmScrub_canonical h) h
  | instructionWordFault => exact .act (doInstructionWordFault_canonical h) h
  | homeWriteAcknowledgement => exact .act (doHomeWriteAcknowledgement_canonical h) h
  | partitionCreation => exact .act (doPartitionCreation_canonical h) h
  | firmwareFrequencyStep => exact .act (doFirmwareFrequencyStep_canonical h) h
  | powerOff => exact .act (doPowerOff_canonical h) h
  | firmwareImageUpdate => exact .act (doFirmwareImageUpdate_canonical h) h

/-! Turns (Clock.lean). -/

/-- What a core does in place of an instruction leads to a canonical state. -/
def CoreMoveCanonical (m : CoreMove) : Prop := ∀ ⦃t⦄, m = .go t → MemoryCanonical t
theorem CoreMoveCanonical.idle : CoreMoveCanonical .idle := fun _ e => nomatch e
theorem CoreMoveCanonical.instr : CoreMoveCanonical .instr := fun _ e => nomatch e
theorem CoreMoveCanonical.go {t : State} (h : MemoryCanonical t) : CoreMoveCanonical (.go t) := fun _ e => CoreMove.go.inj e ▸ h
theorem OutCanonical.fault {f : Fault} : OutCanonical (.fault f) := fun _ e => nomatch e
theorem OutCanonical.refused {r : Refusal} : OutCanonical (.refused r) := fun _ e => nomatch e
theorem MemoryCanonical.runSelfTest {s : State} {cl : Nat} (h : MemoryCanonical s) : SomeCanonical (s.runSelfTest cl) :=
  doEngineSelfTest_canonical h.frame
theorem MemoryCanonical.runCmd {s : State} {p code : Nat} (h : MemoryCanonical s) : SomeCanonical (s.runCmd p code) := by
  unfold State.runCmd
  split
  · exact doPageReady_canonical h
  · exact doGrowAllotment_canonical h
  · exact doFrequencyStep_canonical h
  · exact doDieOffline_canonical h
  · exact doPartitionSwitch_canonical h
theorem MemoryCanonical.actNext {s : State} {a : Act} (h : MemoryCanonical s) : SomeCanonical (s.actNext a) := by
  unfold State.actNext
  split
  · exact doRegisterLanding_canonical h
  · exact doHomeWriteAcknowledgement_canonical h
  · exact doStreamPrefetch_canonical h
  · exact doStreamPushPerformed_canonical h
  · exact doRepeatInstanceIssue_canonical h
  · exact doMessageValidation_canonical h
  · exact doMessagePlacement_canonical h
  · exact doErrorReplyArrival_canonical h
  · exact doImpreciseCauseRaise_canonical h
  · exact doServiceRequest_canonical h
  · exact doServiceReplyArrival_canonical h
  · exact doEngineWake_canonical h
  · exact doBarrierWake_canonical h
  · exact doAtomicEngineServe_canonical h
  · exact doQueueRowPerformed_canonical h
  · exact doCommandAcceptance_canonical h
  · exact doCopyCompletion_canonical h
  · exact doBatchCompletion_canonical h
  · exact doScoreboardRetire_canonical h
  · exact doSpringTile_canonical h
  · exact doOutletTile_canonical h
  · exact doEngineCommandArrival_canonical h
  · exact doMatrixStepStart_canonical h
  · exact doMatrixStepRetire_canonical h
  · exact doMxzPerformed_canonical h
  · exact doMxrdPerformed_canonical h
  · exact doMxwrPerformed_canonical h
  · exact doVaccPerformed_canonical h
  · exact doSyncMarkerComplete_canonical h
  · exact doMxcmpRetire_canonical h
  · exact doChainStepStart_canonical h
  · exact doChainStepRetire_canonical h
  · exact doTlbInvalidationApply_canonical h
  · exact doCsrPropagation_canonical h
  · exact doReadyQueueHandover_canonical h
  · exact doGroupPlacement_canonical h
  · exact doGroupCompletion_canonical h
  · exact doGroupKill_canonical h
  · exact doGraphNodeStart_canonical h
  · exact doFaultDelivery_canonical h
  · exact doPark_canonical h
  · exact doParkedFiringResume_canonical h
  · exact doCompletionIntoFrame_canonical h
  · exact doFabricPacketArrival_canonical h
  · exact doInvocationArrival_canonical h
  · exact doRemoteAccessArrival_canonical h
  · exact doAcknowledgementArrival_canonical h
  · exact doInvocationReplyArrival_canonical h
  · exact doWorkQueueAcceptance_canonical h
  · exact doGroupResume_canonical h
  · exact doGroupPreemption_canonical h
  · exact h.haltStep
  · exact h.runSelfTest
  · exact doStealRequest_canonical h
  · exact doStealAnswer_canonical h
  · exact doGroupBlocksQueue_canonical h
  · exact doPreemptionTrigger_canonical h
  · exact doLaunchTimeout_canonical h
  · exact doWatchdogExpiry_canonical h
  · exact doWfmTimeout_canonical h
  · exact doCrossDieDeadline_canonical h
  · exact doFabricResend_canonical h
  · exact doFabricGiveUp_canonical h
  · exact doInvocationReplyTimeout_canonical h
  · exact doDomainTableUpdate_canonical h
  · exact doVirtualDieRemap_canonical h
  · exact h.offlineStep
  · split
    · exact .none
    · exact doDieFaultOffline_canonical h
  · exact h.runCmd
  · exact doStepAbandon_canonical h
  · exact doDebugRun_canonical h
  · exact doDebugDetach_canonical h
  · exact doAttestationReport_canonical h
  · exact doSingleStep_canonical h
theorem MemoryCanonical.runAct {s : State} {a : Act} (h : MemoryCanonical s) : SomeCanonical (s.runAct a) := by
  unfold State.runAct
  split
  · exact .none
  · exact h.actNext.filter
theorem MemoryCanonical.actTurn {s : State} {a : Act} (h : MemoryCanonical s) : MemoryCanonical (s.actTurn a) := by
  unfold State.actTurn
  split
  · exact h.runAct ‹_›
  · exact h.frame.ite h
theorem MemoryCanonical.countCycles {s : State} (h : MemoryCanonical s) : MemoryCanonical s.countCycles := h.frame
theorem MemoryCanonical.clockDies {s : State} (h : MemoryCanonical s) : MemoryCanonical s.clockDies :=
  h.foldl fun _ _ h1 => ((doFrequencyStepRestart_canonical ((doFrequencyStepStop_canonical h1).getD h1)).getD ((doFrequencyStepStop_canonical
    h1).getD h1)).askedStep
theorem MemoryCanonical.tick {s : State} (h : MemoryCanonical s) : MemoryCanonical s.tick :=
  h.ite (h.countCycles.frame.clockDies.foldl fun _ _ h1 => h1.postOnce)
theorem MemoryCanonical.ticks {s : State} {n : Nat} (h : MemoryCanonical s) : MemoryCanonical (s.ticks n) := by
  induction n generalizing s with
  | zero =>
    unfold State.ticks
    exact h
  | succ _ ih =>
    unfold State.ticks
    exact ih h.tick
theorem MemoryCanonical.passTurn {s : State} (h : MemoryCanonical s) : MemoryCanonical s.passTurn := h.frame.ticks
theorem MemoryCanonical.afterInstr {s : State} {k : Nat} {stepping : Bool} (h : MemoryCanonical s) : MemoryCanonical (s.afterInstr k stepping) :=
  h.stepHalt.ite h
theorem instrStep_canonical {s : State} (h : MemoryCanonical s) : OutCanonical (instrStep s) := by
  unfold instrStep
  extract_lets pc
  split
  · exact .next h.takeTrap
  · split
    · exact .next h.takeTrap
    · next e =>
      have hw : EndCanonical (fetchWait pc s) := tidy_fetchWait s h
      rw [e] at hw
      exact .next (MemoryCanonical.pendCause hw).waited
    · exact .next h.waited
    · split
      · exact .next h.pendCause
      · exact .next h.takeTrap
      · next e =>
        have ht := h.fetchWord e
        split
        · exact .next ht.takeTrap
        · exact exec_canonical ht
theorem MemoryCanonical.moveL {s : State} (h : MemoryCanonical s) : CoreMoveCanonical s.moveL := by
  unfold State.moveL
  extract_lets k c or
  have hor : ∀ {r : Option State} {m : CoreMove}, SomeCanonical r → CoreMoveCanonical m → CoreMoveCanonical (or r m) := by
    intro r m hr hm
    cases r with
    | none => exact hm
    | some t => exact .go (hr rfl)
  clear_value or
  split
  · exact hor h.tryFault .idle
  · split
    · split
      · exact .go h.stepHalt
      · split
        · exact hor (doParkedFiringResume_canonical h) .idle
        · exact hor h.startL .idle
    · split
      · exact .go h.stepHalt
      · split
        · exact .instr
        · refine hor h.raisePending ?_
          split
          · exact .idle
          · exact .instr
theorem MemoryCanonical.move {s : State} (h : MemoryCanonical s) : CoreMoveCanonical s.move := by
  unfold State.move
  extract_lets k c
  split
  · exact .idle
  · split
    · split
      · exact .instr
      · split
        · exact .idle
        · split
          · next e => exact .go (h.raisePending e)
          · exact .instr
    · split
      · exact .idle
      · split
        · next e =>
          split at e
          · cases e
          · exact .go (h.startH e)
        · exact h.moveL
theorem coreStep_canonical {s : State} (h : MemoryCanonical s) : OutCanonical (coreStep s) := by
  unfold coreStep
  split
  · exact .next h.passTurn
  · next e => exact .next (MemoryCanonical.ite h (h.move e)).passTurn
  · split
    · next e => exact .next (MemoryCanonical.ite h.waited (instrStep_canonical h e).afterInstr).passTurn
    · exact .fault
    · exact .refused
theorem MemoryCanonical.timeTurn {s : State} {n : Nat} (h : MemoryCanonical s) : MemoryCanonical (s.timeTurn n) := by
  unfold State.timeTurn
  split
  · exact h
  · exact h.tick.ite h.tick.frame
theorem turnStep_canonical {s : State} (h : MemoryCanonical s) : OutCanonical (turnStep s) := by
  unfold turnStep
  split
  · exact coreStep_canonical h
  · exact exec_canonical h.frame
  · exact .next h.frame.actTurn
  · exact coreStep_canonical h.frame
  · exact .next h.frame.timeTurn

/-! The machine. -/

theorem step_canonical {s : State} (h : MemoryCanonical s) : OutCanonical (step s) := turnStep_canonical h

/-- Settles O57: each operation of a step keeps a canonical state canonical. -/
theorem memoryStaysCanonical : Obligations.MemoryStaysCanonical := by
  unfold Obligations.MemoryStaysCanonical
  intro s t h e
  exact step_canonical h e

end Sys2Proof
end

section
/-! PROOFS. The conversions (O27). CVT, FCVTZ, LUTX and ZPSUB write lanes of one register. LUTW, PACKB and UNPKB reach memory: what their reads and
writes leave alone is the relation `Issued`, and a span is read and written unit by unit. -/

namespace Sys2Proof.Convert

open Sys2Proof.Machine Sys2Proof.Claims Sys2Proof.Laws

/-! Fields of a number. -/

/-- A field below a cut is a field of what is below the cut. -/
theorem mod_field {x w i n : Nat} (h : (i + 1) * w ≤ n) : x % 2 ^ n / 2 ^ (i * w) % 2 ^ w = x / 2 ^ (i * w) % 2 ^ w := by
  rw [Nat.succ_mul] at h
  have hn : 2 ^ n = 2 ^ (i * w) * 2 ^ (n - i * w) := by rw [← pow_add, Nat.add_sub_cancel' (by omega)]
  rw [hn, Nat.mod_mul_right_div_self, Nat.mod_mod_of_dvd _ (pow_dvd_pow 2 (by omega))]

theorem packLanes_field (w : Nat) (xs : List Nat) (i : Nat) : packLanes w xs / 2 ^ (i * w) % 2 ^ w = xs.getD i 0 % 2 ^ w := by
  induction xs generalizing i with
  | nil => simp [packLanes]
  | cons x xs ih =>
    cases i with
    | zero => simp [packLanes]
    | succ i =>
      have hx : x % 2 ^ w < 2 ^ w := Nat.mod_lt _ (by positivity)
      rw [packLanes, Nat.succ_mul, Nat.add_comm (i * w), pow_add, ← Nat.div_div_eq_div_mul, Nat.add_mul_div_left _ _ (by positivity),
        Nat.div_eq_of_lt hx, Nat.zero_add, ih, List.getD_cons_succ]

/-- A field of lanes packed into a register of `n` bits. -/
theorem ofNat_packLanes_field {w n i : Nat} (xs : List Nat) (h : i < n / w) :
    (BitVec.ofNat n (packLanes w xs)).toNat / 2 ^ (i * w) % 2 ^ w = xs.getD i 0 % 2 ^ w := by
  rw [BitVec.toNat_ofNat, mod_field ((Nat.mul_le_mul_right w h).trans (Nat.div_mul_le_self n w)), packLanes_field]

theorem bits_eq (x lo n : Nat) : bits x lo n = x / 2 ^ lo % 2 ^ n := by rw [bits, Nat.shiftRight_eq_div_pow]

theorem getD_map_range {α : Type} (f : Nat → α) (n i : Nat) (d : α) : ((List.range n).map f).getD i d = if i < n then f i else d := by
  by_cases h : i < n <;> simp [List.getD, h]

theorem lane_ofLanes {w i : Nat} (xs : List Nat) (h : i < 256 / w) : lane w (ofLanes w xs) i = xs.getD i 0 % 2 ^ w := by
  rw [lane, bits_eq, ofLanes, ofNat_packLanes_field xs h]

/-! Completing with a register written. -/

theorem needL_run {s : State} (h : s.me.inH = false) (w : BitVec 32) : needL w s = .ok ((), s) := by
  unfold needL
  rw [bind_ok (me_run s)]
  exact trapIf_run h _ _ s

theorem setReg_wrote {s : State} {r : Nat} (h : Writable s r) (hr : r ≠ 0) (v : Nat) :
    setReg r v s = .ok ((), s.modMe fun c => Wrote c r v 0) := by
  rw [setReg_run (Writable.port h hr)]
  simp only [Wrote_zero]

/-- A vector register has been written and nothing else changed, at the next word. -/
def SetsVec (s : State) (d : BitVec 5) (t : State) : Prop := 512 + d.toNat ∉ t.ctx.empty ∧ Keeps s t [512 + d.toNat] 0 ∧ Next s t

/-- An effect that ends in the write of a vector register. -/
theorem run_setV {s : State} {m : M Unit} {d : BitVec 5} {v : VWord} (hd : Writable s (512 + d.toNat)) (h : m s = setV d.toNat v s) :
    ∃ t, run m s = .next t ∧ SetsVec s d t ∧ V t d.toNat = v := by
  rw [setV, setReg_wrote hd (by omega)] at h
  exact ⟨_, run_wrote h, ⟨wrote_full _ _ _ _ _ (by omega), wrote_keeps _ _ _ _ _ (by omega), wrote_retired _ _ _ _ _⟩,
    by rw [wrote_v _ _ _ _ _ (by omega), BitVec.ofNat_toNat, BitVec.setWidth_eq]⟩

/-! CVT and FCVTZ (R91). -/

/-- The conversion of element `i` of a register by a pair. -/
def elemOfPair (pr : Nat × Nat) (rnd : BitVec 3) (x i : Nat) : Nat × Flg :=
  elemConv pr.1 pr.2 (rndOf rnd.toNat) (x / 2 ^ (i * (8 * elemSize pr.2)) % 2 ^ (8 * elemSize pr.2))

theorem convRegs_fst (wd b : Nat) (rnd : BitVec 3) (x : Nat) :
    (convRegs wd b rnd.toNat x).1 = packLanes (8 * elemSize (pairOf b).1)
      ((List.range (wd / max (8 * elemSize (pairOf b).1) (8 * elemSize (pairOf b).2))).map fun i => (elemOfPair (pairOf b) rnd x i).1) := by
  simp only [convRegs, elemOfPair, bits_eq, List.map_map]
  rfl

theorem convRegs_snd (wd b : Nat) (rnd : BitVec 3) (x : Nat) :
    (convRegs wd b rnd.toNat x).2 = (List.range (wd / max (8 * elemSize (pairOf b).1) (8 * elemSize (pairOf b).2))).foldl
      (fun f i => f.union (elemOfPair (pairOf b) rnd x i).2) {} := by
  simp only [convRegs, elemOfPair, bits_eq, List.foldl_map]

/-- Field `i` of a register into which the low elements of another were converted. -/
theorem convRegs_field {wd b i : Nat} (rnd : BitVec 3) (x : Nat) (h : i < wd / (8 * elemSize (pairOf b).1)) :
    (BitVec.ofNat wd (convRegs wd b rnd.toNat x).1).toNat / 2 ^ (i * (8 * elemSize (pairOf b).1)) % 2 ^ (8 * elemSize (pairOf b).1)
      = if i < wd / max (8 * elemSize (pairOf b).1) (8 * elemSize (pairOf b).2) then
          (elemOfPair (pairOf b) rnd x i).1 % 2 ^ (8 * elemSize (pairOf b).1) else 0 := by
  rw [convRegs_fst, ofNat_packLanes_field _ h, getD_map_range]
  split
  · rfl
  · exact Nat.zero_mod _

theorem cvt_runs {s : State} {rnd : BitVec 3} {a b d : BitVec 5} (hi : Idle s) (hL : s.me.inH = false)
    (hr : Ready s [512 + a.toNat] [512 + d.toNat]) :
    ∃ t, exec (.cvt rnd a b d) s = .next t ∧ SetsVec s d t
      ∧ V t d.toNat = BitVec.ofNat 256 (convRegs 256 b.toNat rnd.toNat (V s a.toNat).toNat).1 := by
  refine run_setV (hr.2 _ (by simp)) ?_
  rw [bind_ok (noRepeat_run hi), cvtM, bind_ok (needL_run hL _), bind_ok (regs_ok hr), bind_ok (getV_run (by omega) (hr.1 _ (by simp)) _)]

theorem fcvtz_runs {s : State} {rnd : BitVec 3} {a b d : BitVec 5} (hi : Idle s) (hn : Named s [a, d]) (hr : Ready s [fr a] [fr d]) :
    ∃ t, exec (.fcvtz rnd a b d) s = .next t ∧ SetsF s d (BitVec.ofNat 64 (convRegs 64 b.toNat rnd.toNat (F s a).toNat).1)
      (convRegs 64 b.toNat rnd.toNat (F s a).toNat).2.toNat t := by
  have hp : s.portOf (fr d / 256) (fr d % 256) = none := Writable.port (hr.2 _ (by simp)) (by simp [fr])
  have hs := setsF s d (BitVec.ofNat 64 (convRegs 64 b.toNat rnd.toNat (F s a).toNat).1).toNat (convRegs 64 b.toNat rnd.toNat (F s a).toNat).2.toNat
  rw [BitVec.ofNat_toNat, BitVec.setWidth_eq] at hs
  refine ⟨_, run_wrote ?_, hs⟩
  rw [bind_ok (noRepeat_run hi), fcvtzM, bind_ok (fLow_run hn _), bind_ok (regs_ok hr), bind_ok (getF_run (hr.1 _ (by simp)) _)]
  exact raise_set hp _ _

/-! LUTX (R95) and ZPSUB (R96). -/

theorem lutx_runs {s : State} {a d : BitVec 5} (hi : Idle s) (hL : s.me.inH = false) (hr : Ready s [512 + a.toNat] [512 + d.toNat])
    (hk : s.ls.lutOk = true) : ∃ t, exec (.lutx a d) s = .next t ∧ SetsVec s d t
      ∧ V t d.toNat = ofLanes 8 ((List.range 32).map fun i => (s.ls.lut.getD (bits (V s a.toNat).toNat (4 * i) 4) 0).toNat) := by
  refine run_setV (hr.2 _ (by simp)) ?_
  rw [bind_ok (noRepeat_run hi), lutxM, bind_ok (needL_run hL _), bind_ok (regs_ok hr), bind_ok (get_run s),
    bind_ok (trapIf_run (by rw [hk]; rfl) _ _ s), bind_ok (getV_run (by omega) (hr.1 _ (by simp)) _)]

theorem lutx_unloaded {s : State} {a d : BitVec 5} (hi : Idle s) (hL : s.me.inH = false) (hr : Ready s [512 + a.toNat] [512 + d.toNat])
    (hk : s.ls.lutOk = false) : exec (.lutx a d) s = .next (s.takeTrap .lutUnloaded ((encode (.lutx a d)).setWidth 64) 0) := by
  refine run_trap (by decide) ?_
  rw [bind_ok (noRepeat_run hi), lutxM, bind_ok (needL_run hL _), bind_ok (regs_ok hr), bind_ok (get_run s), bind_run,
    trapIf_trap (by rw [hk]; rfl)]
  rfl

/-- Lane `j` of ZPSUB: code `i` less the zero point of its block. -/
def zpLane (x : VWord) (z i : Nat) : Int :=
  (lane 8 x i : Int) - (z / 2 ^ (8 * (i / 2 ^ (z / 2 ^ 32 % 8 + 2))) % 2 ^ 8 : Nat)

theorem zpsub_runs {s : State} {a b d : BitVec 5} (hi : Idle s) (hL : s.me.inH = false) (hr : Ready s [512 + a.toNat, xr b] [512 + d.toNat])
    (hn : (X s b).toNat / 2 ^ 32 % 8 ≠ 0) : ∃ t, exec (.zpsub a b d) s = .next t ∧ SetsVec s d t
      ∧ V t d.toNat = ofLanes 16 ((List.range 16).map fun j =>
        wrapTo 16 (zpLane (V s a.toNat) (X s b).toNat (16 * ((X s b).toNat / 2 ^ 35 % 2) + j))) := by
  refine run_setV (hr.2 _ (by simp)) ?_
  rw [bind_ok (noRepeat_run hi), zpsubM, bind_ok (needL_run hL _), bind_ok (regs_ok hr), bind_ok (getX_run b s),
    bind_ok (trapIf_run (by simpa [bits_eq] using hn) _ _ s), bind_ok (getV_run (by omega) (hr.1 _ (by simp)) _)]
  simp only [bits_eq, zpLane, Nat.reducePow]

theorem zpsub_mismatch {s : State} {a b d : BitVec 5} (hi : Idle s) (hL : s.me.inH = false) (hr : Ready s [512 + a.toNat, xr b] [512 + d.toNat])
    (hn : (X s b).toNat / 2 ^ 32 % 8 = 0) : exec (.zpsub a b d) s = .next (s.takeTrap .blockMismatch (X s b) 0) := by
  refine run_trap (by decide) ?_
  rw [bind_ok (noRepeat_run hi), zpsubM, bind_ok (needL_run hL _), bind_ok (regs_ok hr), bind_ok (getX_run b s), bind_run,
    trapIf_trap (by simpa [bits_eq] using hn)]

/-- A wrapped integer as an integer. -/
theorem wrapTo_cast (w : Nat) (z : Int) : ((wrapTo w z % 2 ^ w : Nat) : Int) = z % 2 ^ w := by
  have h : (0 : Int) < (2 : Int) ^ w := by positivity
  have h0 := Int.emod_nonneg z h.ne'
  have h1 := Int.emod_lt_of_pos z h
  simp [wrapTo, Int.toNat_of_nonneg h0, Int.emod_eq_of_lt h0 h1]

/-! What the reads and the writes of an instruction leave alone. -/

/-- What the frame of a store in the queue shows of it. -/
abbrev StoreKey := Word × Bool × List Dest

/-- The entry of a store. -/
def storeKey (x : PStore) : StoreKey := (x.va, x.away, x.parts)

/-- The moving core has its registers and counts as before, waits for the same earlier accesses and commands, and has issued the stores `xs`. -/
structure Issued (s t : State) (xs : List StoreKey) : Prop where
  cur : t.cur = s.cur
  dpages : t.dpages = s.dpages
  svcs : t.svcs = s.svcs
  rows : t.rows = s.rows
  score : ∀ cl, (t.clusterAt cl).score = (s.clusterAt cl).score
  inH : t.me.inH = s.me.inH
  ctx : { t.ctx with aw := s.ctx.aw } = s.ctx
  ls : t.ls = s.ls
  instret : t.me.instret = s.me.instret
  stores : t.me.stores.map storeKey = s.me.stores.map storeKey ++ xs

theorem Issued.refl (s : State) : Issued s s [] := ⟨rfl, rfl, rfl, rfl, fun _ => rfl, rfl, rfl, rfl, rfl, by simp⟩

theorem Issued.trans {s t u : State} {xs ys : List StoreKey} (h : Issued s t xs) (g : Issued t u ys) : Issued s u (xs ++ ys) where
  cur := g.cur.trans h.cur
  dpages := g.dpages.trans h.dpages
  svcs := g.svcs.trans h.svcs
  rows := g.rows.trans h.rows
  score cl := (g.score cl).trans (h.score cl)
  inH := g.inH.trans h.inH
  ctx := by rw [← h.ctx, ← g.ctx]
  ls := g.ls.trans h.ls
  instret := g.instret.trans h.instret
  stores := by rw [g.stores, h.stores, List.append_assoc]

/-- A change that keeps the parts of the moving core that count. -/
theorem Issued.of_me {s t : State} {xs : List StoreKey} (hcur : t.cur = s.cur) (hd : t.dpages = s.dpages) (hv : t.svcs = s.svcs)
    (hr : t.rows = s.rows) (hcl : ∀ cl, (t.clusterAt cl).score = (s.clusterAt cl).score) (hl : t.me.l = s.me.l) (hh : t.me.h = s.me.h)
    (hls : t.me.ls = s.me.ls) (hi : t.me.instret = s.me.instret) (hx : t.me.stores.map storeKey = s.me.stores.map storeKey ++ xs) :
    Issued s t xs := by
  have hinH : t.me.inH = s.me.inH := by rw [Core.inH, hh, Core.inH]
  have hctx : t.ctx = s.ctx := by simp only [State.ctx, Core.ctx, hinH, hl, hh]
  exact ⟨hcur, hd, hv, hr, hcl, hinH, by rw [hctx], hls, hi, hx⟩

/-- A change of the moving core alone. -/
theorem Issued.modMe {s : State} {f : Core → Core} {xs : List StoreKey} (hl : (f s.me).l = s.me.l) (hh : (f s.me).h = s.me.h)
    (hls : (f s.me).ls = s.me.ls) (hi : (f s.me).instret = s.me.instret)
    (hx : (f s.me).stores.map storeKey = s.me.stores.map storeKey ++ xs) : Issued s (s.modMe f) xs := by
  refine .of_me rfl rfl rfl rfl (fun _ => rfl) ?_ ?_ ?_ ?_ ?_ <;> rwa [me_modMe]

/-- A change outside the moving core that it does not notice. -/
theorem Issued.of_same {s t : State} (hme : t.me = s.me) (hcur : t.cur = s.cur) (hd : t.dpages = s.dpages) (hv : t.svcs = s.svcs)
    (hr : t.rows = s.rows) (hcl : ∀ cl, (t.clusterAt cl).score = (s.clusterAt cl).score) : Issued s t [] :=
  .of_me hcur hd hv hr hcl (by rw [hme]) (by rw [hme]) (by rw [hme]) (by rw [hme]) (by simp [hme])

theorem Issued.of_walked {s t : State} (h : Walked s t) : Issued s t [] := by
  obtain ⟨hrest, hcl, hcore, -, -⟩ := h
  have hcur : t.cur = s.cur := (congrArg State.cur hrest :)
  have hme := hcore s.cur
  rw [show t.coreAt s.cur = t.me by rw [State.me, hcur]] at hme
  refine .of_me hcur (congrArg State.dpages hrest :) (congrArg State.svcs hrest :) (congrArg State.rows hrest :)
    (fun cl => (congrArg Cluster.score (hcl cl) :)) (congrArg Core.l hme :) (congrArg Core.h hme :) (congrArg Core.ls hme :)
    (congrArg Core.instret hme :) ?_
  rw [show t.me.stores = s.me.stores from (congrArg Core.stores hme :), List.append_nil]

/-- A wait for a reply given up. -/
theorem Issued.of_aw (s : State) (a : Await) : Issued s (s.modCtx fun x => { x with aw := a }) [] := by
  refine ⟨rfl, rfl, rfl, rfl, fun _ => rfl, ?_, ?_, ?_, ?_, ?_⟩ <;>
    cases h : s.me.h.fir.active <;> simp [State.modCtx, State.ctx, State.ls, Core.putCtx, Core.ctx, Core.inH, h]

theorem bytes_of_aw (s : State) (a : Await) : Bytes s (s.modCtx fun x => { x with aw := a }) := byteAt_modMe s _ fun c => putCtx_priv c _ _

theorem Issued.foldl {α : Type} {f : State → α → State} (hf : ∀ s a, Issued s (f s a) []) (l : List α) (s : State) : Issued s (l.foldl f s) [] := by
  induction l generalizing s with
  | nil => exact .refl s
  | cons a l ih => exact (hf s a).trans (ih (f s a))

theorem Issued.ite {s t u : State} {c : Prop} {_ : Decidable c} {xs : List StoreKey} (ht : Issued s t xs) (hu : Issued s u xs) :
    Issued s (if c then t else u) xs := by
  split
  · exact ht
  · exact hu

theorem issued_writeAt (s : State) (l : Loc) (bs : List Byte) : Issued s (s.writeAt l bs) [] := by
  cases l with
  | hbm pa => exact .of_same rfl rfl rfl rfl rfl fun _ => rfl
  | scratch cl off =>
    refine .of_same rfl rfl rfl rfl rfl fun k => ?_
    by_cases hk : k = cl
    · subst hk
      simp [State.writeAt]
    · simp [State.writeAt, clusterAt_modCluster_other _ _ _ _ hk]
  | priv k off =>
    by_cases hk : k = s.cur
    · subst hk
      exact .modMe rfl rfl rfl rfl (by simp)
    · exact .of_same (coreAt_modCore_other s k s.cur _ (Ne.symm hk)) rfl rfl rfl rfl fun _ => rfl
  | remote pkg pa => exact .refl s

/-- A change of the migration counters, the partitions and device memory. -/
theorem issued_counters (s : State) (m : Memory) (ps : Tab Machine.Part) (mc : Tab Nat) (mp : List Nat) :
    Issued s { s with hbm := m, parts := ps, migCount := mc, migPend := mp } [] :=
  .of_same rfl rfl rfl rfl rfl fun _ => rfl

theorem issued_countRegion (s : State) (o : Origin) (pa : Nat) : Issued s (s.countRegion o pa) [] := by
  unfold State.countRegion
  dsimp only
  split
  · split
    · exact issued_counters s _ _ _ _
    · split
      · exact issued_counters s _ _ _ _
      · exact issued_counters s _ _ _ _
  · exact issued_counters s _ _ _ _

/-- Entries changed under their own keys are found changed. -/
theorem find?_map {α : Type} (t : Tab α) (g : Nat × α → Nat × α) (hg : ∀ e, (g e).1 = e.1) (k : Nat) :
    Tab.find? (t.map g) k = (Tab.find? t k).map fun v => (g (k, v)).2 := by
  induction t with
  | nil => rfl
  | cons e t ih =>
    have he : Tab.find? (g e :: t.map g) k = if (g e).1 = k then some (g e).2 else Tab.find? (t.map g) k := rfl
    rw [List.map_cons, he, hg, ih, Tab.find?]
    split
    · next hk => subst hk; rfl
    · rfl

theorem issued_recallAt (s : State) (but pa n : Nat) : Issued s (s.recallAt but pa n) [] := by
  refine .of_same rfl rfl rfl rfl rfl fun cl => ?_
  simp only [State.clusterAt, State.recallAt, Tab.get]
  rw [find?_map _ _ (fun e => by split <;> rfl)]
  cases Tab.find? s.clusters cl with
  | none => rfl
  | some c => simp only [Option.map_some, Option.getD_some]; split <;> rfl

theorem issued_counted (s : State) (o : Origin) (r : Reach) (n : Nat) : Issued s (s.counted o r n) [] := by
  unfold State.counted
  split
  · exact .refl s
  · refine (Issued.ite (issued_countRegion s o _) (.refl s)).trans (.foldl (fun s x => ?_) _ _)
    split
    · exact issued_recallAt _ _ _ _
    · exact .refl s

theorem issued_l1Fill (s : State) (x : L1Line) : Issued s (s.modMe fun c => c.l1Fill x) [] :=
  .modMe rfl rfl rfl rfl (List.append_nil _).symm

theorem issued_readGlobal (s : State) (o : Origin) (p : Word) (r : Reach) (n : Nat) : Issued s (s.readGlobal o p r n).2 [] := by
  have hc := issued_counted s o r n
  unfold State.readGlobal
  dsimp only
  split
  · exact .refl s
  · split
    · exact .refl s
    · split
      · exact hc
      · split
        · exact hc
        · exact hc.trans (issued_l1Fill _ _)

/-! What an instruction reads as before. -/

section
variable {s t u : State} {xs : List StoreKey} (h : Issued s t xs)
include h

theorem Issued.fir : t.fir = s.fir := (congrArg Ctx.fir h.ctx :)
theorem Issued.pc : t.ctx.pc = s.ctx.pc := (congrArg Ctx.pc h.ctx :)
theorem Issued.x (r : BitVec 5) : X t r = X s r := by rw [X, X, show t.ctx.x = s.ctx.x from (congrArg Ctx.x h.ctx :)]
theorem Issued.f (r : BitVec 5) : F t r = F s r := by rw [F, F, show t.ctx.f = s.ctx.f from (congrArg Ctx.f h.ctx :)]
theorem Issued.v (n : Nat) : V t n = V s n := by rw [V, V, h.ls]

theorem Issued.org : t.org = s.org := by simp only [State.org, h.fir, h.cur, h.inH]

theorem Issued.unwatched (hu : Unwatched s) : Unwatched t := by
  unfold Unwatched State.pageOf at *
  rw [h.dpages, h.fir, hu]

theorem Issued.blocked (sp : Spot) (n : Nat) (wr : Bool) : t.blocked sp n wr = s.blocked sp n wr := by
  have hst : t.stalled sp n wr = s.stalled sp n wr := by
    simp only [State.stalled, Cluster.stalls, h.score]
  have hls : (t.coreAt s.cur).ls = (s.coreAt s.cur).ls := by
    have := h.ls
    rwa [State.ls, State.me, h.cur] at this
  simp only [State.blocked, State.owes, State.served, hst, hls, h.svcs, h.rows, h.cur]

theorem Issued.next (hn : Next t u) : Next s u := by
  obtain ⟨hpc, hi⟩ := hn
  exact ⟨by rw [hpc, h.pc], by rw [hi, h.instret]⟩

theorem Issued.regs {rs : List Nat} {fl : BitVec 8} (hr : Regs t u rs fl) : Regs s u rs fl := by
  obtain ⟨⟨hcur, hx, hf, hv, he, hfl, hzc, hzt, hca, hls⟩, hfir, hp, ha⟩ := hr
  refine ⟨⟨hcur.trans h.cur, fun r hr => (hx r hr).trans (h.x r), fun r hr => (hf r hr).trans (h.f r), fun n hn => (hv n hn).trans (h.v n),
    fun r hr => (he r hr).trans ?_, hfl.trans ?_, hzc.trans ?_, hzt.trans ?_, hca.trans ?_, ?_⟩, hfir.trans h.fir, hp.trans ?_, ha.trans ?_⟩
  · rw [show t.ctx.empty = s.ctx.empty from (congrArg Ctx.empty h.ctx :)]
  · rw [show t.ctx.fcsr = s.ctx.fcsr from (congrArg Ctx.fcsr h.ctx :)]
  · exact (congrArg Ctx.zcause h.ctx :)
  · exact (congrArg Ctx.ztval h.ctx :)
  · exact (congrArg Ctx.causes h.ctx :)
  · rw [← h.ls]; exact hls
  · rw [h.ls]
  · exact (congrArg Ctx.arrivals h.ctx :)
end

/-! Effects that issue nothing. -/

/-- From the state `s` the effect, if it completes, has issued nothing. -/
def QuietAt {α : Type} (m : M α) (s : State) : Prop := ∀ a t, m s = .ok (a, t) → Issued s t []
/-- From no state does the effect issue anything. -/
def Quiet {α : Type} (m : M α) : Prop := ∀ s, QuietAt m s

/-- An effect that does not complete. -/
def Stops {α : Type} (m : M α) : Prop := ∀ s r, m s ≠ .ok r

theorem Stops.quiet {α : Type} {m : M α} (h : Stops m) : Quiet m := fun s a t e => absurd e (h s (a, t))
theorem quiet_pure {α : Type} (a : α) : Quiet (pure a : M α) := by
  rintro s _ _ ⟨⟩
  exact .refl s
theorem bind_eq_ok {α β : Type} {m : M α} {f : α → M β} {s u : State} {b : β} (h : (m >>= f) s = .ok (b, u)) :
    ∃ a t, m s = .ok (a, t) ∧ f a t = .ok (b, u) := by
  rw [bind_run] at h
  cases hm : m s with
  | error e => rw [hm] at h; cases h
  | ok r => rw [hm] at h; exact ⟨r.1, r.2, rfl, h⟩
theorem Quiet.bind {α β : Type} {m : M α} {f : α → M β} (hm : Quiet m) (hf : ∀ a, Quiet (f a)) : Quiet (m >>= f) := by
  intro s b u h
  obtain ⟨a, t, ha, hb⟩ := bind_eq_ok h
  exact (hm s a t ha).trans (hf a t b u hb)
theorem Quiet.get_bind {β : Type} {f : State → M β} (hf : ∀ s, QuietAt (f s) s) : Quiet (get >>= f) := fun s => hf s
theorem Quiet.ctx_bind {β : Type} {f : Ctx → M β} (hf : ∀ s, QuietAt (f s.ctx) s) : Quiet (ctx >>= f) := fun s => hf s
theorem Quiet.ite {α : Type} {c : Prop} {_ : Decidable c} {m n : M α} (hm : Quiet m) (hn : Quiet n) : Quiet (if c then m else n) := by
  split
  · exact hm
  · exact hn
theorem Stops.bind {α β : Type} {m : M α} {f : α → M β} (hm : Stops m) : Stops (m >>= f) := by
  rintro s ⟨b, u⟩ h
  obtain ⟨a, t, ha, -⟩ := bind_eq_ok h
  exact hm s _ ha
theorem Stops.after {α β : Type} {m : M α} {f : α → M β} (hf : ∀ a, Stops (f a)) : Stops (m >>= f) := by
  rintro s ⟨b, u⟩ h
  obtain ⟨a, t, -, hb⟩ := bind_eq_ok h
  exact hf a t _ hb
theorem stops_hold {α : Type} : Stops (hold : M α) := fun _ _ h => nomatch h
theorem stops_holdKeep {α : Type} : Stops (holdKeep : M α) := fun _ _ h => nomatch h
theorem stops_trap {α : Type} (c : Cause) (tv : Word) : Stops (trap c tv : M α) := fun _ _ h => nomatch h
theorem stops_late {α : Type} (c : Cause) (tv : Word) : Stops (late c tv : M α) := fun _ _ h => nomatch h
theorem QuietAt.guard {α : Type} {m : M α} {s : State} (b : Bool) (hm : QuietAt m s) : QuietAt (holdUnless b >>= fun _ => m) s := by
  cases b with
  | true => exact hm
  | false => exact (Stops.bind stops_hold).quiet s

theorem stops_orTrap {α : Type} (tv : Word) (c : Cause) : Stops (orTrap tv (.error c) : M α) := by
  rw [orTrap]
  split
  · exact stops_late c tv
  · exact stops_trap c tv

theorem orTrapS_run {α : Type} {tv : Word} {f : State → Except Cause (α × State)} {s t : State} {a : α} (h : f s = .ok (a, t)) :
    orTrapS tv f s = .ok (a, t) := by
  rw [orTrapS, bind_ok (get_run s), h]
  rfl

/-- A checked change of the state that completes as an effect has passed its check. -/
theorem orTrapS_eq_ok {α : Type} {tv : Word} {f : State → Except Cause (α × State)} {s t : State} {a : α} (h : orTrapS tv f s = .ok (a, t)) :
    f s = .ok (a, t) := by
  cases hf : f s with
  | ok r => rw [orTrapS_run hf] at h; cases h; rfl
  | error c =>
    rw [orTrapS, bind_ok (get_run s), hf] at h
    exact absurd h ((stops_orTrap tv c).bind s _)

theorem quiet_place (p : Word) (n : Nat) (k : AKind) : Quiet (orTrapS p fun s => s.place s.org p n k) :=
  fun _ _ _ h => .of_walked (place_walked (orTrapS_eq_ok h))

theorem quiet_spanReach (n : Nat) (k : AKind) (ps : List Word) : Quiet (spanReach n k ps) := by
  induction ps with
  | nil => exact quiet_pure _
  | cons p ps ih => exact (quiet_place p n k).bind fun _ => ih.bind fun _ => quiet_pure _

theorem quiet_readAt (p : Word) (r : Reach) (n : Nat) : Quiet (readAt p r n) := by
  refine .get_bind fun s => .guard _ ?_
  split
  · exact quiet_pure _ s
  · exact quiet_pure _ s
  · refine Quiet.ite (.ite (quiet_pure _) stops_hold.quiet) ?_ s
    split
    · exact quiet_pure _
    · exact quiet_pure _
  · rintro _ _ ⟨⟩
    exact issued_readGlobal s _ _ _ _

theorem quiet_watch (p : Word) (n : Nat) (rd wr : Bool) (bs : List Byte) : Quiet (watch p n rd wr bs) := by
  refine .get_bind fun s => Quiet.ite (quiet_pure _) ?_ s
  split
  · exact (stops_trap _ _).quiet
  · exact quiet_pure _

theorem quiet_watchLanes (n : Nat) (rs : List (Word × Reach)) : Quiet (watchLanes n rs) := by
  induction rs with
  | nil => exact quiet_pure _
  | cons r rs ih => exact (quiet_watch _ _ _ _ _).bind fun _ => ih

theorem quiet_readSpan (n : Nat) (rs : List (Word × Reach)) : Quiet (readSpan n rs) := by
  induction rs with
  | nil => exact quiet_pure _
  | cons e rs ih =>
    refine (quiet_readAt _ _ _).bind fun f => ?_
    cases f with
    | fail c => exact quiet_pure _
    | away pkg pa => exact (Stops.after fun _ => .after fun _ => stops_holdKeep).quiet
    | now bs | soon bs => exact .get_bind fun s => Quiet.ite (.ite (quiet_pure _) stops_hold.quiet) (ih.bind fun _ => quiet_pure _) s

theorem quiet_updAw (a : Await) : Quiet (updCtx fun x => { x with aw := a }) := by
  rintro s _ _ ⟨⟩
  exact .of_aw s a

theorem quiet_pipeRead (n : Nat) (rs : List (Word × Reach)) : Quiet (pipeRead n rs) := by
  refine .ctx_bind fun s => ?_
  split
  · exact stops_hold.quiet s
  · exact Quiet.get_bind (fun s => ((quiet_updAw _).bind fun _ => quiet_pure _) s) s
  · exact ((quiet_updAw _).bind fun _ => (quiet_watchLanes n rs).bind fun _ => quiet_readSpan n rs) s

/-! Watchpoints, reads and writes that complete. -/

theorem atOnce_cases {l : Loc} (h : AtOnce l) : (∃ k off, l = .priv k off) ∨ ∃ cl off, l = .scratch cl off := by
  cases l with
  | priv k off => exact .inl ⟨k, off, rfl⟩
  | scratch cl off => exact .inr ⟨cl, off, rfl⟩
  | hbm pa => exact h.elim
  | remote pkg pa => exact h.elim

theorem watch_run {s : State} (h : Unwatched s) (p : Word) (n : Nat) (rd wr : Bool) (bs : List Byte) : watch p n rd wr bs s = .ok ((), s) := by
  rw [watch, bind_ok (get_run s), State.watchHit, show s.pageOf s.fir.gid = none from h]
  split <;> rfl

theorem watchLanes_run {s : State} (h : Unwatched s) (n : Nat) (rs : List (Word × Reach)) : watchLanes n rs s = .ok ((), s) := by
  induction rs with
  | nil => rfl
  | cons r rs ih => rw [watchLanes, bind_ok (watch_run h _ _ _ _ _), ih]

theorem watchStores_run {s : State} (h : Unwatched s) (ps : List ((Word × Reach) × List Byte)) : watchStores ps s = .ok ((), s) := by
  induction ps with
  | nil => rfl
  | cons r rs ih => rw [watchStores, bind_ok (watch_run h _ _ _ _ _), ih]

theorem spanRefused_run {n : Nat} {ws : List (Word × Reach)} (h : ∀ w ∈ ws, ∃ l, w.2.spot = .flat l) (s : State) :
    spanRefused n ws s = .ok (none, s) := by
  induction ws with
  | nil => rfl
  | cons w ws ih =>
    obtain ⟨l, hl⟩ := h w (by simp)
    rw [spanRefused, bind_ok (get_run s), hl]
    exact ih fun w hw => h w (by simp [hw])

/-- A read at a place of a core's own memory or of its cluster's scratchpad gives the bytes there. -/
theorem readAt_atOnce {s : State} {r : Reach} {l : Loc} {n : Nat} (hl : AtOnce l) (hs : r.spot = .flat l)
    (hb : s.blocked r.spot n false = false) (p : Word) : readAt p r n s = .ok (.now (s.bytesAt l n), s) := by
  rw [readAt, bind_ok (get_run s), bind_ok (holdUnless_run (by rw [hb]; rfl) s), hs]
  obtain ⟨k, off, rfl⟩ | ⟨cl, off, rfl⟩ := atOnce_cases hl <;> rfl

theorem readAt_hbm {s t : State} {r : Reach} {pa : Nat} {n : Nat} {p : Word} {f : Fetch} (hs : r.spot = .flat (.hbm pa))
    (hb : s.blocked r.spot n false = false) (hg : s.readGlobal s.org p r n = (f, t)) : readAt p r n s = .ok (f, t) := by
  rw [readAt, bind_ok (get_run s), bind_ok (holdUnless_run (by rw [hb]; rfl) s), hs]
  simp only [hg]
  rfl

/-- A write at a place of a core's own memory or of its cluster's scratchpad is made at once. -/
theorem writeTo_atOnce {s : State} {r : Reach} {l : Loc} {bs : List Byte} (hl : AtOnce l) (hs : r.spot = .flat l)
    (hb : s.blocked r.spot bs.length true = false) (p : Word) : writeTo p r bs s = .ok ((), s.writeAt l bs) := by
  rw [writeTo, bind_ok (get_run s), bind_ok (holdUnless_run (by rw [hb]; rfl) s), hs]
  obtain ⟨k, off, rfl⟩ | ⟨cl, off, rfl⟩ := atOnce_cases hl <;> rfl

theorem issued_updateL1 (s : State) (p : Word) (r : Reach) (bs : List Byte) : Issued s (s.updateL1 p r bs) [] := by
  unfold State.updateL1
  dsimp only
  apply Issued.modMe <;> split <;> simp

/-- The state with a write to device memory queued last among the core's stores. -/
def storeQueued (s : State) (p : Word) (r : Reach) (bs : List Byte) : State :=
  let s1 := { s with nextId := s.nextId + 1 }
  (((s1.counted s1.org r bs.length).updateL1 p r bs).modMe fun c => { c with
    stores := c.stores ++ [{ id := s.nextId, va := p, parts := r.spot.dests bs, fid := s.fir.fid, sent := s.time.toNat }] }).post (.ack s.cur s.nextId)

theorem issued_append (s : State) (x : PStore) : Issued s (s.modMe fun c => { c with stores := c.stores ++ [x] }) [storeKey x] :=
  .modMe rfl rfl rfl rfl List.map_append

theorem issued_post (s : State) (a : Act) : Issued s (s.post a) [] := .of_same rfl rfl rfl rfl rfl fun _ => rfl

theorem issued_storeQueued (s : State) (p : Word) (r : Reach) (bs : List Byte) : Issued s (storeQueued s p r bs) [(p, false, r.spot.dests bs)] := by
  have h1 : Issued s { s with nextId := s.nextId + 1 } [] := .of_same rfl rfl rfl rfl rfl fun _ => rfl
  have h2 := fun o => h1.trans ((issued_counted _ o r bs.length).trans (issued_updateL1 _ p r bs))
  exact ((h2 _).trans (issued_append _ _)).trans (issued_post _ _)

theorem writeTo_hbm {s : State} {r : Reach} {pa : Nat} {bs : List Byte} (hs : r.spot = .flat (.hbm pa))
    (hb : s.blocked r.spot bs.length true = false) (p : Word) : writeTo p r bs s = .ok ((), storeQueued s p r bs) := by
  rw [writeTo, bind_ok (get_run s), bind_ok (holdUnless_run (by rw [hb]; rfl) s), storeQueued, hs]
  rfl

/-! Spans of places. -/

theorem plus_plus (l : Loc) (i j : Nat) : (l.plus i).plus j = l.plus (i + j) := by
  cases l <;> simp [Loc.plus, Nat.add_assoc]
theorem plus_zero (l : Loc) : l.plus 0 = l := by cases l <;> rfl
theorem plus_inj (l : Loc) (i j : Nat) : l.plus i = l.plus j ↔ i = j := by cases l <;> simp [Loc.plus]
theorem atOnce_plus {l : Loc} (i : Nat) : AtOnce (l.plus i) ↔ AtOnce l := by cases l <;> rfl

theorem bytesAt_length (s : State) (l : Loc) (n : Nat) : (s.bytesAt l n).length = n := by simp [State.bytesAt]

theorem bytesAt_add (s : State) (l : Loc) (m n : Nat) : s.bytesAt l (m + n) = s.bytesAt l m ++ s.bytesAt (l.plus m) n := by
  simp only [State.bytesAt, List.range_add, List.map_append, List.map_map, plus_plus]
  rfl

/-- The bytes of consecutive units are the bytes of the span. -/
theorem flatMap_bytesAt (s : State) (l : Loc) (n k : Nat) : ((List.range k).flatMap fun i => s.bytesAt (l.plus (i * n)) n) = s.bytesAt l (k * n) := by
  induction k with
  | zero => simp [State.bytesAt]
  | succ k ih => rw [List.range_succ, List.flatMap_append, ih, Nat.succ_mul, bytesAt_add]; simp

/-- The bytes of a list stand from a place up, and every other byte reads as before. -/
def Holds (s t : State) (l : Loc) (bs : List Byte) : Prop :=
  (∀ j, j < bs.length → t.byteAt (l.plus j) = bs.getD j 0) ∧ ∀ l', (∀ j, j < bs.length → l' ≠ l.plus j) → t.byteAt l' = s.byteAt l'

theorem holds_writeAt {l : Loc} (hl : AtOnce l) (s : State) (bs : List Byte) : Holds s (s.writeAt l bs) l bs :=
  ⟨fun j hj => byteAt_writeAt_same s l bs j hj (by rintro k a rfl; exact hl), fun l' h => byteAt_writeAt_other s l l' bs h⟩

theorem Holds.append {s t u : State} {l : Loc} {bs cs : List Byte} (h : Holds s t l bs) (g : Holds t u (l.plus bs.length) cs) :
    Holds s u l (bs ++ cs) := by
  obtain ⟨h1, h2⟩ := h
  obtain ⟨g1, g2⟩ := g
  simp only [plus_plus] at g1 g2
  refine ⟨fun j hj => ?_, fun l' hl' => ?_⟩
  · rw [List.length_append] at hj
    by_cases hjb : j < bs.length
    · rw [g2 _ (fun i _ => by rw [Ne, plus_inj]; omega), h1 j hjb, List.getD_append _ _ _ _ hjb]
    · rw [List.getD_append_right _ _ _ _ (by omega), ← g1 _ (by omega), Nat.add_sub_cancel' (by omega)]
  · rw [List.length_append] at hl'
    rw [g2 _ fun i hi => hl' _ (by omega), h2 _ fun i hi => hl' _ (by omega)]

/-! Lists of units of one length. -/

/-- Unit `i` of the units put together. -/
theorem take_drop_flatten {α : Type} {n : Nat} (cs : List (List α)) (h : ∀ c ∈ cs, c.length = n) (i : Nat) :
    (cs.flatten.drop (n * i)).take n = cs.getD i [] := by
  induction cs generalizing i with
  | nil => simp
  | cons c cs ih =>
    have hc := h c (by simp)
    cases i with
    | zero => simp [← hc]
    | succ i =>
      rw [List.flatten_cons, Nat.mul_succ, Nat.add_comm, ← hc, ← List.drop_drop, List.drop_left, hc, ih fun c hc => h c (by simp [hc])]
      rfl

/-- The `k` units of `n` bytes of a list. -/
def unitsOf {α : Type} (n k : Nat) (bs : List α) : List (List α) := (List.range k).map fun i => (bs.drop (n * i)).take n

theorem unitsOf_flatten {α : Type} {n : Nat} (cs : List (List α)) (h : ∀ c ∈ cs, c.length = n) : unitsOf n cs.length cs.flatten = cs := by
  refine List.ext_getElem (by simp [unitsOf]) fun i hi _ => ?_
  simp only [unitsOf, List.getElem_map, List.getElem_range, take_drop_flatten cs h]
  rw [List.getD_eq_getElem]

theorem unitsOf_length {α : Type} {n k : Nat} {bs : List α} (h : bs.length = n * k) : ∀ c ∈ unitsOf n k bs, c.length = n := by
  intro c hc
  obtain ⟨i, hi, rfl⟩ := List.mem_map.1 hc
  have : n * i + n ≤ n * k := by rw [← Nat.mul_succ]; exact Nat.mul_le_mul_left n (List.mem_range.1 hi)
  rw [List.length_take, List.length_drop]
  omega

theorem flatten_unitsOf {α : Type} (n k : Nat) (bs : List α) : (unitsOf n k bs).flatten = bs.take (n * k) := by
  induction k with
  | zero => simp [unitsOf]
  | succ k ih =>
    rw [Nat.mul_succ, List.take_add, ← ih]
    simp [unitsOf, List.range_succ]

/-! The checks of a span. -/

/-- What a passed check of R61 says. -/
theorem reached_place {s t : State} {p : Word} {n : Nat} {k : AKind} {sp : Spot} (h : Reached s p n k sp t) :
    canonical p = true ∧ addrOf p % n = 0 ∧ ∃ c, s.place s.org p n k = .ok ({ spot := sp, cnt := c }, t) := by
  obtain ⟨c, hc⟩ := h
  unfold State.reach at hc
  split at hc
  · cases hc
  · split at hc
    · cases hc
    · split at hc
      · cases hc
      · next hcan hal => exact ⟨by simpa using hcan, by simpa using hal, c, hc⟩

theorem spanWindows_run {s : State} {n : Nat} {k : AKind} {ps : List Word}
    (h : ∀ p ∈ ps, addrOf p < 0xFFFE00000000 ∨ ∃ r, s.place s.org p n k = .ok r) : spanWindows n k ps s = .ok ((), s) := by
  induction ps with
  | nil => rfl
  | cons p ps ih =>
    have hps := ih fun q hq => h q (by simp [hq])
    rw [spanWindows, bind_ok (get_run s)]
    split
    · next hp =>
      obtain ⟨r, hr⟩ := (h p (by simp)).resolve_left (by omega)
      rw [hr]
      exact hps
    · exact hps

/-- A head check all of whose checks but that of the tag pass. -/
theorem headCheck_run {s : State} {p : Word} {n cnt : Nat} {k : AKind} (htag : tagOk p = true) (hblog : blogOk (tagOf p) (blogOf p) = true)
    (hcan : canonical p = true) (hal : addrOf p % n = 0)
    (hw : ∀ q ∈ spanPtrs p n cnt, addrOf q < 0xFFFE00000000 ∨ ∃ r, s.place s.org q n k = .ok r) (fits : Bool) :
    headCheck p n cnt k fits s = trapIf (!fits) .vectorFormat p s := by
  rw [headCheck, bind_ok (trapIf_run (by simp [htag]) _ _ s), bind_ok (trapIf_run (by simp [hblog]) _ _ s), bind_ok (trapIf_run (by simp [hcan]) _ _ s),
    bind_ok (trapIf_run (by simp [hal]) _ _ s), bind_ok (spanWindows_run hw)]

theorem tagOf_eq (p : Word) : tagOf p = p.toNat / 2 ^ 59 := by
  have := p.isLt
  rw [tagOf, bits_eq]
  omega
theorem blogOf_eq (p : Word) : blogOf p = p.toNat / 2 ^ 56 % 8 := bits_eq _ _ _
theorem addrOf_eq (p : Word) : addrOf p = p.toNat % 2 ^ 48 := by rw [addrOf, bits_eq, pow_zero, Nat.div_one]

theorem ptrAdd_zero (p : Word) : ptrAdd p 0 = p := by
  apply BitVec.eq_of_toNat_eq
  have := p.isLt
  simp [ptrAdd, wrapTo, bits_eq]
  omega

theorem mem_spanPtrs {p q : Word} {n cnt : Nat} : q ∈ spanPtrs p n cnt ↔ ∃ i < cnt, ptrAdd p ((i * n : Nat) : Int) = q := by
  simp [spanPtrs]

/-- The head check of a span whose units all pass the checks of R61. -/
theorem headCheck_reached {s : State} {p : Word} {n cnt : Nat} {k : AKind} {sp : Nat → Spot} (htag : tagOk p = true)
    (hblog : blogOk (tagOf p) (blogOf p) = true) (hcnt : 0 < cnt) (h : ∀ i, i < cnt → Reached s (ptrAdd p ((i * n : Nat) : Int)) n k (sp i) s) :
    headCheck p n cnt k true s = .ok ((), s) := by
  have h0 := h 0 hcnt
  rw [Nat.zero_mul, Nat.cast_zero, ptrAdd_zero] at h0
  obtain ⟨hcan, hal, -⟩ := reached_place h0
  refine headCheck_run htag hblog hcan hal (fun q hq => .inr ?_) true
  obtain ⟨i, hi, rfl⟩ := mem_spanPtrs.1 hq
  obtain ⟨-, -, c, hc⟩ := reached_place (h i hi)
  exact ⟨_, hc⟩

/-- A canonical pointer moved up by less than the address space has left. -/
theorem addrOf_ptrAdd {p : Word} {z : Nat} (hcan : canonical p = true) (hz : addrOf p + z < 2 ^ 48) : addrOf (ptrAdd p (z : Int)) = addrOf p + z := by
  simp only [canonical, bits_eq, beq_iff_eq, addrOf, ptrAdd, wrapTo] at *
  have := p.isLt
  simp only [BitVec.toNat_ofNat]
  omega

/-- A pointer below the windows whose tag does not fit. -/
theorem headCheck_vectorFormat {s : State} {p : Word} {n cnt : Nat} {k : AKind} (htag : tagOk p = true) (hblog : blogOk (tagOf p) (blogOf p) = true)
    (hcan : canonical p = true) (hal : addrOf p % n = 0) (hlow : addrOf p + cnt * n < 0xFFFE00000000) :
    headCheck p n cnt k false s = .error (.trap .vectorFormat p 0) := by
  refine headCheck_run htag hblog hcan hal (fun q hq => .inl ?_) false
  obtain ⟨i, hi, rfl⟩ := mem_spanPtrs.1 hq
  have hin : i * n ≤ cnt * n := Nat.mul_le_mul_right n hi.le
  rw [addrOf_ptrAdd hcan (by omega)]
  omega

theorem spanReach_map {s : State} {n : Nat} {k : AKind} (g : Nat → Word) (f : Nat → Spot) (is : List Nat)
    (h : ∀ i ∈ is, Reached s (g i) n k (f i) s) : ∃ rs, spanReach n k (is.map g) s = .ok (rs, s) ∧ rs.map (·.2.spot) = is.map f := by
  induction is with
  | nil => exact ⟨[], rfl, rfl⟩
  | cons i is ih =>
    obtain ⟨rs, hrs, hsp⟩ := ih fun j hj => h j (by simp [hj])
    obtain ⟨-, -, c, hc⟩ := reached_place (h i (by simp))
    refine ⟨(g i, { spot := f i, cnt := c }) :: rs, ?_, by simp [hsp]⟩
    rw [List.map_cons, spanReach, bind_ok (orTrapS_run hc), bind_ok hrs]
    rfl

/-- The units of a span stand at consecutive places. -/
def StandsAt (rs : List (Word × Reach)) (n k : Nat) (l : Loc) : Prop := rs.map (·.2.spot) = (List.range k).map fun i => .flat (l.plus (i * n))

theorem standsAt_cons {w : Word × Reach} {ws : List (Word × Reach)} {n k : Nat} {l : Loc} :
    StandsAt (w :: ws) n (k + 1) l ↔ w.2.spot = .flat l ∧ StandsAt ws n k (l.plus n) := by
  simp only [StandsAt, List.range_succ_eq_map, List.map_cons, List.map_map, List.cons.injEq, Nat.zero_mul, plus_zero, plus_plus, Function.comp_def,
    Nat.succ_mul, Nat.add_comm n]

theorem StandsAt.length {rs : List (Word × Reach)} {n k : Nat} {l : Loc} (h : StandsAt rs n k l) : rs.length = k := by
  simpa using congrArg List.length h

theorem StandsAt.spot {rs : List (Word × Reach)} {n k : Nat} {l : Loc} (h : StandsAt rs n k l) :
    ∀ e ∈ rs, ∃ i < k, e.2.spot = .flat (l.plus (i * n)) := by
  intro e he
  have := List.mem_map_of_mem (f := (·.2.spot)) he
  rw [show rs.map (·.2.spot) = _ from h] at this
  obtain ⟨i, hi, hs⟩ := List.mem_map.1 this
  exact ⟨i, List.mem_range.1 hi, hs.symm⟩

theorem StandsAt.bytes {rs : List (Word × Reach)} {n k : Nat} {l : Loc} (h : StandsAt rs n k l) (s : State) :
    rs.flatMap (fun e => s.spotBytes e.2.spot n) = s.bytesAt l (k * n) := by
  have hmap : rs.flatMap (fun e => s.spotBytes e.2.spot n) = (rs.map (·.2.spot)).flatMap fun sp => s.spotBytes sp n :=
    (List.flatMap_map (fun e : Word × Reach => e.2.spot) (fun sp => s.spotBytes sp n) rs).symm
  rw [hmap, h, List.flatMap_map, ← flatMap_bytesAt]
  rfl

theorem bytesAt_of_bytes {s t : State} (h : Bytes s t) (l : Loc) (n : Nat) : t.bytesAt l n = s.bytesAt l n := by
  simp only [State.bytesAt, h _]

/-! Reading and writing a span. -/

theorem readSpan_atOnce {s : State} {n : Nat} {rs : List (Word × Reach)}
    (h : ∀ e ∈ rs, (∃ l, AtOnce l ∧ e.2.spot = .flat l) ∧ s.blocked e.2.spot n false = false) :
    readSpan n rs s = .ok (.ok (rs.flatMap fun e => s.spotBytes e.2.spot n), s) := by
  induction rs with
  | nil => rfl
  | cons e rs ih =>
    obtain ⟨⟨l, hl, hs⟩, hb⟩ := h e (by simp)
    have hd : s.dieHolds e.2.spot true = false := by
      rw [hs]
      obtain ⟨k, off, rfl⟩ | ⟨cl, off, rfl⟩ := atOnce_cases hl <;> rfl
    rw [readSpan, bind_ok (readAt_atOnce hl hs hb _)]
    dsimp only
    rw [bind_ok (get_run s), hd, if_neg (by decide), bind_ok (ih fun e he => h e (by simp [he])), List.flatMap_cons]
    simp only [hs]
    rfl

/-- The pipe reads a span at once from places of a core's own memory or of its cluster's scratchpad. -/
theorem pipeRead_atOnce {s : State} {n k : Nat} {rs : List (Word × Reach)} {l : Loc} (haw : s.ctx.aw = .none) (hu : Unwatched s) (hl : AtOnce l)
    (hrs : StandsAt rs n k l) (hb : ∀ e ∈ rs, s.blocked e.2.spot n false = false) :
    ∃ t, pipeRead n rs s = .ok (.ok (s.bytesAt l (k * n)), t) ∧ Bytes s t := by
  have hi := Issued.of_aw s .none
  have hby := bytes_of_aw s .none
  refine ⟨_, ?_, hby⟩
  rw [pipeRead, bind_ok (ctx_run s), haw]
  dsimp only
  rw [bind_ok (updCtx_run _ s), bind_ok (watchLanes_run (hi.unwatched hu) n rs), readSpan_atOnce fun e he => ?_, hrs.bytes, bytesAt_of_bytes hby]
  obtain ⟨i, -, hs⟩ := hrs.spot e he
  exact ⟨⟨_, (atOnce_plus _).2 hl, hs⟩, by rw [hi.blocked]; exact hb e he⟩

theorem writeLanes_hbm {s : State} {ps : List ((Word × Reach) × List Byte)}
    (h : ∀ e ∈ ps, (∃ pa, e.1.2.spot = .flat (.hbm pa)) ∧ s.blocked e.1.2.spot e.2.length true = false) :
    ∃ t, writeLanes ps s = .ok ((), t) ∧ Issued s t (ps.map fun e => (e.1.1, false, e.1.2.spot.dests e.2)) := by
  induction ps generalizing s with
  | nil => exact ⟨s, rfl, .refl s⟩
  | cons e ps ih =>
    obtain ⟨⟨pa, hs⟩, hb⟩ := h e (by simp)
    have h1 := issued_storeQueued s e.1.1 e.1.2 e.2
    obtain ⟨t, ht, h2⟩ := ih (s := storeQueued s e.1.1 e.1.2 e.2) fun x hx => by rw [h1.blocked]; exact h x (by simp [hx])
    exact ⟨t, by rw [writeLanes, bind_ok (writeTo_hbm hs hb _), ht], h1.trans h2⟩

theorem writeLanes_atOnce {s : State} {n : Nat} {cs : List (List Byte)} {ws : List (Word × Reach)} {l : Loc} (hl : AtOnce l)
    (hws : StandsAt ws n cs.length l) (hcs : ∀ c ∈ cs, c.length = n) (hb : ∀ e ∈ ws, s.blocked e.2.spot n true = false) :
    ∃ t, writeLanes (ws.zip cs) s = .ok ((), t) ∧ Issued s t [] ∧ Holds s t l cs.flatten := by
  induction cs generalizing s ws l with
  | nil => exact ⟨s, by rw [List.zip_nil_right]; rfl, .refl s, fun _ hj => absurd hj (Nat.not_lt_zero _), fun _ _ => rfl⟩
  | cons c cs ih =>
    cases ws with
    | nil => exact absurd hws.length (by simp)
    | cons w ws =>
      obtain ⟨hs, hws⟩ := standsAt_cons.1 hws
      have hc := hcs c (by simp)
      have h1 := issued_writeAt s l c
      obtain ⟨t, ht, h2, hh⟩ := ih (s := s.writeAt l c) ((atOnce_plus n).2 hl) hws (fun c hc => hcs c (by simp [hc])) fun e he => by
        rw [h1.blocked]; exact hb e (by simp [he])
      refine ⟨t, ?_, h1.trans h2, ?_⟩
      · rw [List.zip_cons_cons, writeLanes, bind_ok (writeTo_atOnce hl hs (by rw [hc]; exact hb w (by simp)) _), ht]
      · rw [List.flatten_cons]
        exact (holds_writeAt hl s c).append (hc ▸ hh)

theorem storeSpan_run {s t : State} {n : Nat} {ps : List ((Word × Reach) × List Byte)} (hu : Unwatched s)
    (hf : ∀ e ∈ ps, ∃ l, e.1.2.spot = .flat l) (hw : writeLanes ps s = .ok ((), t)) (done : M Unit) : storeSpan n ps done s = done t := by
  rw [storeSpan, bind_ok (watchStores_run hu ps), bind_ok (spanRefused_run (by simpa using hf) s)]
  dsimp only
  rw [bind_ok hw]

/-! LUTW (R94). -/

/-- The table has been loaded from the bytes, memory being as in `m`, and nothing else of the registers changed, at the next word. -/
def Loads (s : State) (a : BitVec 5) (m : State) (bs : List Byte) (t : State) : Prop :=
  Bytes m t ∧ Next s t ∧ (∀ r, X t r = X s r) ∧ (∀ r, F t r = F s r) ∧ t.ls = { s.ls with lut := bs, lutOk := true, zlutbase := X s a }

/-- The core with the table loaded. -/
def withTable (c : Core) (bs : List Byte) (p : Word) : Core := { c with ls := { c.ls with lut := bs, lutOk := true, zlutbase := p } }.touch [5]

/-- What a state keeps when the table is loaded and the instruction retires. -/
theorem loads_withTable (s : State) (a : BitVec 5) (bs : List Byte) :
    Loads s a s bs ((s.modMe fun c => withTable c bs (X s a)).retire (s.ctx.pc + 4)) := by
  refine ⟨?_, retired_of rfl rfl, ?_⟩
  · rw [retire_eq, modMe_modMe]
    exact byteAt_modMe s _ fun c => putCtx_priv (withTable c bs (X s a)) _ _
  · rw [retire_eq, modMe_modMe]
    cases hh : s.me.h.fir.active <;> simp [X, F, State.ctx, State.ls, Core.ctx, Core.inH, Core.putCtx, withTable, hh]

theorem lutw_runs {s m : State} {a : BitVec 5} {bs : List Byte} {xs : List StoreKey} (hi : Idle s) (hL : s.me.inH = false)
    (hr : Ready s [xr a] []) (hp : pipeLoad (X s a) 16 s = .ok (.ok bs, m)) (hm : Issued s m xs) :
    ∃ t, exec (.lutw a) s = .next t ∧ Loads s a m bs t := by
  obtain ⟨hby, hnext, hx, hf, hls⟩ := loads_withTable m a bs
  refine ⟨_, ?_, hby, hm.next hnext, fun r => (hx r).trans (hm.x r), fun r => (hf r).trans (hm.f r), by rw [hls, hm.ls, hm.x]⟩
  have hpc : (m.modMe fun c => withTable c bs (X m a)).ctx.pc = m.ctx.pc := by rw [ctx_modMe]; rfl
  rw [← hpc]
  refine run_ok ?_
  rw [bind_ok (noRepeat_run hi), bind_ok (needL_run hL _), bind_ok (regs_ok hr), bind_ok (getX_run a s), bind_ok hp, hm.x]
  rfl

theorem pipeLoad_atOnce {s : State} {p : Word} {n : Nat} {l : Loc} (hu : Unwatched s) (haw : s.ctx.aw = .none) (hl : AtOnce l)
    (hr : Reached s p n .load (.flat l) s) (hb : s.blocked (.flat l) n false = false) : pipeLoad p n s = .ok (.ok (s.bytesAt l n), s) := by
  obtain ⟨c, hc⟩ := hr
  rw [pipeLoad, bind_ok (ctx_run s), haw]
  dsimp only
  rw [reach, bind_ok (orTrapS_run hc), bind_ok (watch_run hu _ _ _ _ _), bind_ok (get_run s), bind_ok (readAt_atOnce hl rfl hb p)]
  rfl

theorem pipeLoad_hbm {s s1 s2 : State} {p : Word} {n pa : Nat} {r : Reach} {bs : List Byte} (hu : Unwatched s) (haw : s.ctx.aw = .none)
    (hs : r.spot = .flat (.hbm pa)) (hr : s.reach s.org p n .load = .ok (r, s1)) (hb : s1.blocked r.spot n false = false)
    (hd : s1.dieHolds r.spot true = false) (hg : s1.readGlobal s.org p r n = (.soon bs, s2)) :
    pipeLoad p n s = .ok (.ok bs, s2) ∧ Issued s s2 [] := by
  have h1 := Issued.of_walked (reach_walked hr)
  have h2 := issued_readGlobal s1 s.org p r n
  rw [hg] at h2
  refine ⟨?_, h1.trans h2⟩
  rw [pipeLoad, bind_ok (ctx_run s), haw]
  dsimp only
  rw [reach, bind_ok (orTrapS_run hr), bind_ok (watch_run (h1.unwatched hu) _ _ _ _ _), bind_ok (get_run s1),
    bind_ok (readAt_hbm (f := .soon bs) (t := s2) hs hb (by rw [h1.org, hg]))]
  dsimp only
  rw [hd]
  rfl

theorem pipeLoad_replied {s : State} {c : Cause} {ws : List Word} (haw : s.ctx.aw = .replied true c ws) (p : Word) (n : Nat) :
    pipeLoad p n s = .ok (.ok (((ws.flatMap fun w => leBytes 8 w.toNat).drop (p.toNat % 2 ^ 48 % 64)).take n), s.modCtx fun x => { x with aw := .none }) := by
  rw [pipeLoad, bind_ok (ctx_run s), haw]
  dsimp only
  rw [bind_ok (updCtx_run _ s), addrOf, bits_eq]
  simp

/-! The bytes of a block (R80). -/

theorem bfpPack_codes_length (tag : Nat) (md : Rnd) (xs : List FVal) : (bfpPack tag md xs).2.2.length = xs.length := by
  unfold bfpPack
  dsimp only
  split
  · simp
  · split <;> simp

theorem bfpBytesOf_length {tag : Nat} (ht : tag ∈ [9, 10]) {blk : Nat × Nat × List Nat} (hb : blk.2.2.length = 32) :
    (bfpBytesOf tag blk).length = 2 * (bfpBytes tag / 2) := by
  simp only [List.mem_cons, List.not_mem_nil, or_false] at ht
  obtain rfl | rfl := ht <;> simp [bfpBytesOf, bfpBytes, hb]

/-! How the storing of a span ends. -/

theorem plain_stores (c : Core) : (plain c).stores = c.stores := by
  unfold plain
  cases h : c.inH <;> simp [Core.putCtx]

/-- From the state `t` the instruction that began in `s` has completed: of the registers only `rs` may have changed since `s`; memory and the stores are
as in `t`. -/
def Ended (s t u : State) (rs : List Nat) : Prop := Regs s u rs 0 ∧ Next s u ∧ u.me.stores = t.me.stores ∧ Bytes t u

theorem ended_of_keeps {s t u : State} {xs : List StoreKey} {rs : List Nat} (h : Issued s t xs) (hk : Keeps t u rs 0) (hn : Next t u) :
    Ended s t u rs := by
  obtain ⟨hr, hb, hp, -, -⟩ := hk
  exact ⟨h.regs hr, h.next hn, by rw [← plain_stores, hp, plain_stores], hb⟩

theorem ended_retire {s t : State} {xs : List StoreKey} (h : Issued s t xs) : Ended s t (t.retire (t.ctx.pc + 4)) [] :=
  ended_of_keeps h (keeps_retire t _).1 (keeps_retire t _).2

theorem ended_setX {s t : State} {xs : List StoreKey} (h : Issued s t xs) (d : BitVec 5) (v : Word) :
    ∃ u, setX d v t = .ok ((), u) ∧ X (u.retire (u.ctx.pc + 4)) d = (if d = 0 then 0 else v) ∧ Ended s t (u.retire (u.ctx.pc + 4)) [xr d] := by
  refine ⟨_, setX_run d v t, ?_⟩
  have hpc : (t.modMe fun c => c.setReg c.inH (xr d) v.toNat).ctx.pc = t.ctx.pc := by
    have := pc_modMe_Wrote t (xr d) v.toNat 0
    simpa only [Wrote_zero] using this
  rw [hpc]
  obtain ⟨hx, -, hk, hn⟩ := setsX t d v (t.ctx.pc + 4)
  exact ⟨hx, ended_of_keeps h hk hn⟩

/-! The units of a span in device memory are queued, each at its pointer. -/

/-- What the stores of a span's units show. -/
def unitKeys (n : Nat) (ws : List (Word × Reach)) (out : List Byte) : List StoreKey :=
  ws.zipIdx.map fun w => (w.1.1, false, w.1.2.spot.dests ((out.drop (n * w.2)).take n))

theorem zip_unitsOf_keys (n : Nat) (ws : List (Word × Reach)) (out : List Byte) :
    (ws.zip (unitsOf n ws.length out)).map (fun e => (e.1.1, false, e.1.2.spot.dests e.2)) = unitKeys n ws out :=
  List.ext_getElem (by simp [unitsOf, unitKeys]) fun i _ _ => by simp [unitsOf, unitKeys]

theorem storeSpan_hbm {s s3 : State} {n : Nat} {ws : List (Word × Reach)} {out : List Byte} (hu : Unwatched s) (h : Issued s s3 [])
    (hw : ∀ w ∈ ws, (∃ pa, w.2.spot = .flat (.hbm pa)) ∧ s3.blocked w.2.spot n true = false) (hout : out.length = n * ws.length) :
    ∃ t, Issued s t (unitKeys n ws out) ∧ ∀ done, storeSpan n (ws.zip (unitsOf n ws.length out)) done s3 = done t := by
  have hzip : ∀ e ∈ ws.zip (unitsOf n ws.length out), e.1 ∈ ws ∧ e.2.length = n := fun e he =>
    ⟨(List.of_mem_zip he).1, unitsOf_length hout _ (List.of_mem_zip he).2⟩
  obtain ⟨t, ht, hi⟩ := writeLanes_hbm (s := s3) (ps := ws.zip (unitsOf n ws.length out)) fun e he => by
    obtain ⟨hm, hl⟩ := hzip e he
    rw [hl]
    exact hw _ hm
  rw [zip_unitsOf_keys] at hi
  refine ⟨t, h.trans hi, storeSpan_run (h.unwatched hu) (fun e he => ?_) ht⟩
  obtain ⟨pa, hpa⟩ := (hw _ (hzip e he).1).1
  exact ⟨_, hpa⟩

theorem storeSpan_atOnce {s s3 : State} {n : Nat} {ws : List (Word × Reach)} {out : List Byte} {l : Loc} (hu : Unwatched s) (h : Issued s s3 [])
    (hl : AtOnce l) (hws : StandsAt ws n ws.length l) (hb : ∀ w ∈ ws, s3.blocked w.2.spot n true = false) (hout : out.length = n * ws.length) :
    ∃ t, Issued s t [] ∧ Holds s3 t l out ∧ ∀ done, storeSpan n (ws.zip (unitsOf n ws.length out)) done s3 = done t := by
  obtain ⟨t, ht, hi, hh⟩ := writeLanes_atOnce (cs := unitsOf n ws.length out) hl (by simpa [unitsOf] using hws) (unitsOf_length hout) hb
  rw [flatten_unitsOf, ← hout, List.take_length] at hh
  refine ⟨t, h.trans hi, hh, storeSpan_run (h.unwatched hu) (fun e he => ?_) ht⟩
  obtain ⟨i, -, hs⟩ := hws.spot e.1 (List.of_mem_zip he).1
  exact ⟨_, hs⟩

/-- Bytes that stand from a place up after reads that change no byte and a completion that changes none. -/
theorem Holds.of_bytes {s s3 t u : State} {l : Loc} {bs : List Byte} (h : Holds s3 t l bs) (h1 : Bytes s s3) (h2 : Bytes t u) : Holds s u l bs := by
  obtain ⟨hin, hout⟩ := h
  exact ⟨fun j hj => (h2 _).trans (hin j hj), fun l' hl' => ((h2 l').trans (hout l' hl')).trans (h1 l')⟩

theorem bytesAt_unit (s : State) (l : Loc) (n : Nat) {i k : Nat} (hi : i < k) :
    ((s.bytesAt l (k * n)).drop (i * n)).take n = s.bytesAt (l.plus (i * n)) n := by
  rw [← flatMap_bytesAt, List.flatMap_def, Nat.mul_comm i n, take_drop_flatten _ (by simp [bytesAt_length]), getD_map_range, if_pos hi, Nat.mul_comm]

/-! The two ways in which a span is read and a span is written. -/

/-- The premises on places: every unit of both spans is checked and stands in a core's own memory or in its cluster's scratchpad, held by no command. -/
def SpansAt (s : State) (p q : Word) (lp lq : Loc) (n cp m cq : Nat) : Prop :=
  (∀ i, i < cp → Reached s (ptrAdd p ((i * n : Nat) : Int)) n .load (.flat (lp.plus (i * n))) s ∧ s.blocked (.flat (lp.plus (i * n))) n false = false)
    ∧ ∀ i, i < cq → Reached s (ptrAdd q ((i * m : Nat) : Int)) m .store (.flat (lq.plus (i * m))) s ∧ s.blocked (.flat (lq.plus (i * m))) m true = false

/-- The premises on a span read through the pipe and one in device memory. -/
def UnitsOut (s : State) (p q : Word) (n m cq cp : Nat) (bs : List Byte) (ws : List (Word × Reach)) (s3 : State) : Prop := ∃ rs s1 s2,
  headCheck p n cp .load true s = .ok ((), s) ∧ headCheck q m cq .store true s = .ok ((), s)
    ∧ spanReach n .load (spanPtrs p n cp) s = .ok (rs, s1) ∧ spanReach m .store (spanPtrs q m cq) s1 = .ok (ws, s2)
    ∧ pipeRead n rs s2 = .ok (.ok bs, s3) ∧ ∀ w ∈ ws, (∃ pa, w.2.spot = .flat (.hbm pa)) ∧ s3.blocked w.2.spot m true = false

theorem spanReach_length {n : Nat} {k : AKind} {ps : List Word} {s t : State} {ws : List (Word × Reach)} (h : spanReach n k ps s = .ok (ws, t)) :
    ws.length = ps.length := by
  induction ps generalizing s t ws with
  | nil => cases h; rfl
  | cons p ps ih =>
    obtain ⟨r, s1, -, h⟩ := bind_eq_ok h
    obtain ⟨rs, s2, hrs, h⟩ := bind_eq_ok h
    cases h
    rw [List.length_cons, ih hrs, List.length_cons]

/-- Reading a span and finding the other changes no more than a read may. -/
theorem unitsOut_issued {s s1 s2 s3 : State} {n m : Nat} {k k' : AKind} {ps qs : List Word} {rs ws : List (Word × Reach)}
    {bs : Except (Cause × Word) (List Byte)} (hrs : spanReach n k ps s = .ok (rs, s1)) (hws : spanReach m k' qs s1 = .ok (ws, s2))
    (hread : pipeRead n rs s2 = .ok (bs, s3)) : Issued s s3 [] :=
  ((quiet_spanReach n k ps s _ _ hrs).trans (quiet_spanReach m k' qs s1 _ _ hws)).trans (quiet_pipeRead n rs s2 _ _ hread)

/-- Spans at such places pass their checks, and the bytes of the first are read. -/
theorem SpansAt.units {s : State} {p q : Word} {lp lq : Loc} {n cp m cq : Nat} (h : SpansAt s p q lp lq n cp m cq) (hu : Unwatched s)
    (haw : s.ctx.aw = .none) (hlp : AtOnce lp) (htp : tagOf p < 13) (htq : tagOf q < 13) (hbp : blogOk (tagOf p) (blogOf p) = true)
    (hbq : blogOk (tagOf q) (blogOf q) = true) (hcp : 0 < cp) (hcq : 0 < cq) :
    headCheck p n cp .load true s = .ok ((), s) ∧ headCheck q m cq .store true s = .ok ((), s)
      ∧ ∃ rs ws s3, spanReach n .load (spanPtrs p n cp) s = .ok (rs, s) ∧ spanReach m .store (spanPtrs q m cq) s = .ok (ws, s)
        ∧ pipeRead n rs s = .ok (.ok (s.bytesAt lp (cp * n)), s3) ∧ Bytes s s3 ∧ StandsAt ws m cq lq ∧ ∀ w ∈ ws, s3.blocked w.2.spot m true = false := by
  obtain ⟨hp, hq⟩ := h
  refine ⟨headCheck_reached (by simpa [tagOk] using htp) hbp hcp fun i hi => (hp i hi).1,
    headCheck_reached (by simpa [tagOk] using htq) hbq hcq fun i hi => (hq i hi).1, ?_⟩
  obtain ⟨rs, hrs, hrsAt⟩ := spanReach_map _ (fun i => .flat (lp.plus (i * n))) (List.range cp) fun i hi => (hp i (List.mem_range.1 hi)).1
  obtain ⟨ws, hws, hwsAt⟩ := spanReach_map _ (fun i => .flat (lq.plus (i * m))) (List.range cq) fun i hi => (hq i (List.mem_range.1 hi)).1
  obtain ⟨s3, hread, hbytes⟩ := pipeRead_atOnce haw hu hlp hrsAt fun e he => by
    obtain ⟨i, hi, hs⟩ := StandsAt.spot hrsAt e he
    rw [hs]
    exact (hp i hi).2
  refine ⟨rs, ws, s3, hrs, hws, hread, hbytes, hwsAt, fun w hw => ?_⟩
  obtain ⟨i, hi, hs⟩ := StandsAt.spot hwsAt w hw
  rw [(quiet_pipeRead n rs s _ _ hread).blocked, hs]
  exact (hq i hi).2

/-! PACKB (R92). -/

theorem elemTag_eq (t : Nat) : (decide (1 ≤ t) && decide (t ≤ 3)) = decide (t ∈ [1, 2, 3]) := by
  rw [Bool.eq_iff_iff]
  simp
  omega
theorem blockTag_eq (t : Nat) : (t == 9 || t == 10) = decide (t ∈ [9, 10]) := by
  rw [Bool.eq_iff_iff]
  simp
theorem elemTag_lt {t : Nat} (h : t ∈ [1, 2, 3]) : t < 13 := by
  simp only [List.mem_cons, List.not_mem_nil, or_false] at h
  omega
theorem blockTag_lt {t : Nat} (h : t ∈ [9, 10]) : t < 13 := by
  simp only [List.mem_cons, List.not_mem_nil, or_false] at h
  omega
theorem bfpBytes_even (t : Nat) : 0 < bfpBytes t / 2 ∧ bfpBytes t / 2 ≤ 17 ∧ bfpBytes t / 2 * 2 = bfpBytes t := by
  unfold bfpBytes
  split <;> decide

/-- The 32 source values of PACKB, of elements with the codes `code`. -/
def valuesOf (tag : Nat) (code : Nat → Nat) : List FVal := (List.range 32).map fun i => elemVal tag (code i)

/-- The codes of 32 elements that stand in memory are those of the bytes of their span. -/
theorem valuesOf_bytesAt (s : State) (l : Loc) (tag n : Nat) :
    valuesOf tag (fun i => leNat (((s.bytesAt l (32 * n)).drop (i * n)).take n)) = valuesOf tag fun i => s.numAt (l.plus (i * n)) n :=
  List.map_congr_left fun i hi => by dsimp only; rw [bytesAt_unit s l n (List.mem_range.1 hi), State.numAt]

theorem packed_length {tag : Nat} (ht : tag ∈ [9, 10]) (md : Rnd) (tp : Nat) (code : Nat → Nat) :
    (bfpBytesOf tag (bfpPack tag md (valuesOf tp code))).length = 2 * (bfpBytes tag / 2) :=
  bfpBytesOf_length ht ((bfpPack_codes_length _ _ _).trans (by rw [valuesOf, List.length_map, List.length_range]))

section
variable {s s1 s2 s3 : State} {rnd : BitVec 3} {a b d : BitVec 5} {p q : Word} {rs ws : List (Word × Reach)} {bs : List Byte} {lp lq : Loc}

/-- PACKB that passes its checks and has read its elements ends as the storing of its block does. -/
theorem packb_stores {t : State} (hi : Idle s) (hpa : X s a = p) (hqb : X s b = q)
    (hr : Ready s [xr a, xr b] [xr d]) (htp : tagOf p ∈ [1, 2, 3]) (htq : tagOf q ∈ [9, 10])
    (hp : headCheck p (elemSize (tagOf p)) 32 .load true s = .ok ((), s)) (hq : headCheck q 2 (bfpBytes (tagOf q) / 2) .store true s = .ok ((), s))
    (hrs : spanReach (elemSize (tagOf p)) .load (spanPtrs p (elemSize (tagOf p)) 32) s = .ok (rs, s1))
    (hws : spanReach 2 .store (spanPtrs q 2 (bfpBytes (tagOf q) / 2)) s1 = .ok (ws, s2))
    (hread : pipeRead (elemSize (tagOf p)) rs s2 = .ok (.ok bs, s3)) :
    let blk := bfpPack (tagOf q) (rndOf rnd.toNat) (valuesOf (tagOf p) fun i => leNat ((bs.drop (i * elemSize (tagOf p))).take (elemSize (tagOf p))))
    storeSpan 2 (ws.zip (unitsOf 2 ws.length (bfpBytesOf (tagOf q) blk))) (setX d (BitVec.ofNat 64 (blk.2.1 * 256 + blk.1))) s3 = .ok ((), t) →
    exec (.packb rnd a b d) s = .next (t.retire (t.ctx.pc + 4)) := by
  intro blk h
  subst hpa hqb
  refine run_ok ?_
  rw [bind_ok (noRepeat_run hi), bind_ok (regs_ok hr), bind_ok (getX_run a s), bind_ok (getX_run b s), elemTag_eq, decide_eq_true htp,
    blockTag_eq, decide_eq_true htq, bind_ok hp, bind_ok hq, bind_ok hrs, bind_ok hws, bind_ok hread]
  exact h

theorem packb_queues (hi : Idle s) (hu : Unwatched s) (hpa : X s a = p) (hqb : X s b = q) (hr : Ready s [xr a, xr b] [xr d])
    (htp : tagOf p ∈ [1, 2, 3]) (htq : tagOf q ∈ [9, 10]) (h : UnitsOut s p q (elemSize (tagOf p)) 2 (bfpBytes (tagOf q) / 2) 32 bs ws s3) :
    let blk := bfpPack (tagOf q) (rndOf rnd.toNat) (valuesOf (tagOf p) fun i => leNat ((bs.drop (i * elemSize (tagOf p))).take (elemSize (tagOf p))))
    Runs (.packb rnd a b d) s fun t => X t d = (if d = 0 then 0 else BitVec.ofNat 64 (blk.2.1 * 256 + blk.1)) ∧ Regs s t [xr d] 0 ∧ Next s t
      ∧ t.me.stores.map storeKey = s.me.stores.map storeKey ++ unitKeys 2 ws (bfpBytesOf (tagOf q) blk) := by
  intro blk
  obtain ⟨rs, s1, s2, hp, hq, hrs, hws, hread, hout⟩ := h
  have hlen : ws.length = bfpBytes (tagOf q) / 2 := by rw [spanReach_length hws, spanPtrs, List.length_map, List.length_range]
  obtain ⟨t, hit, hst⟩ := storeSpan_hbm hu (unitsOut_issued hrs hws hread) hout (out := bfpBytesOf (tagOf q) blk)
    (by rw [hlen]; exact packed_length htq _ _ _)
  obtain ⟨u, hset, hx, hregs, hnext, hstores, -⟩ := ended_setX hit d (BitVec.ofNat 64 (blk.2.1 * 256 + blk.1))
  exact ⟨_, packb_stores hi hpa hqb hr htp htq hp hq hrs hws hread ((hst _).trans hset), hx, hregs, hnext, by rw [hstores, hit.stores]⟩

theorem packb_holds (hi : Idle s) (hu : Unwatched s) (hpa : X s a = p) (hqb : X s b = q) (haw : s.ctx.aw = .none) (hlp : AtOnce lp) (hlq : AtOnce lq)
    (hr : Ready s [xr a, xr b] [xr d]) (htp : tagOf p ∈ [1, 2, 3]) (htq : tagOf q ∈ [9, 10]) (hbp : blogOk (tagOf p) (blogOf p) = true)
    (hbq : blogOk (tagOf q) (blogOf q) = true) (h : SpansAt s p q lp lq (elemSize (tagOf p)) 32 2 (bfpBytes (tagOf q) / 2)) :
    let blk := bfpPack (tagOf q) (rndOf rnd.toNat) (valuesOf (tagOf p) fun i => s.numAt (lp.plus (i * elemSize (tagOf p))) (elemSize (tagOf p)))
    Runs (.packb rnd a b d) s fun t => X t d = (if d = 0 then 0 else BitVec.ofNat 64 (blk.2.1 * 256 + blk.1)) ∧ Regs s t [xr d] 0
      ∧ Holds s t lq (bfpBytesOf (tagOf q) blk) ∧ Next s t := by
  intro blk
  obtain ⟨hp, hq, rs, ws, s3, hrs, hws, hread, hbytes, hat, hbl⟩ := h.units hu haw hlp (elemTag_lt htp) (blockTag_lt htq) hbp hbq (by decide)
    (bfpBytes_even _).1
  obtain ⟨t, hit, hh, hst⟩ := storeSpan_atOnce hu (quiet_pipeRead _ _ s _ _ hread) hlq (hat.length.symm ▸ hat) hbl
    (out := bfpBytesOf (tagOf q) blk) (by rw [hat.length]; exact packed_length htq _ _ _)
  obtain ⟨u, hset, hx, hregs, hnext, -, hbu⟩ := ended_setX hit d (BitVec.ofNat 64 (blk.2.1 * 256 + blk.1))
  refine ⟨_, packb_stores hi hpa hqb hr htp htq hp hq hrs hws hread ?_, hx, hregs, hh.of_bytes hbytes hbu, hnext⟩
  rw [valuesOf_bytesAt]
  exact (hst _).trans hset

theorem packb_vectorFormat (hi : Idle s) (hpa : X s a = p) (hr : Ready s [xr a, xr b] [xr d]) (htp : tagOf p ∉ [1, 2, 3]) (htag : tagOf p ≤ 12)
    (hbp : blogOk (tagOf p) (blogOf p) = true) (hcan : canonical p = true) (hal : addrOf p % 4 = 0) (hlow : addrOf p + 256 ≤ 0xFFFE00000000) :
    exec (.packb rnd a b d) s = .next (s.takeTrap .vectorFormat p 0) := by
  subst hpa
  have hn : elemSize (tagOf (X s a)) ∣ 4 := by unfold elemSize; split <;> decide
  have hn4 := Nat.le_of_dvd (by decide) hn
  refine run_trap (by decide) ?_
  rw [bind_ok (noRepeat_run hi), bind_ok (regs_ok hr), bind_ok (getX_run a s), bind_ok (getX_run b s), elemTag_eq, decide_eq_false htp, bind_run,
    headCheck_vectorFormat (decide_eq_true (Nat.lt_succ_of_le htag)) hbp hcan (Nat.mod_eq_zero_of_dvd (hn.trans (Nat.dvd_of_mod_eq_zero hal))) (by omega)]
end

/-! UNPKB (R93). -/

/-- The elements of a block's values. -/
def unpackOf (tp tq : Nat) (bs : List Byte) : List (List Byte) := (bfpVals tp bs).map fun v => leBytes (elemSize tq) (elemOf tq .rne v).1

theorem leBytes_length (n x : Nat) : (leBytes n x).length = n := by
  induction n generalizing x with
  | zero => rfl
  | succ n ih => rw [leBytes, List.length_cons, ih]

theorem unpackOf_length (tp tq : Nat) (bs : List Byte) : (unpackOf tp tq bs).length = 32 := by
  rw [unpackOf, List.length_map, bfpVals, List.length_map, List.length_range]

theorem length_of_mem_unpackOf (tp tq : Nat) (bs : List Byte) : ∀ c ∈ unpackOf tp tq bs, c.length = elemSize tq := by
  intro c hc
  obtain ⟨v, -, rfl⟩ := List.mem_map.1 hc
  exact leBytes_length _ _

theorem unitsOf_unpackOf (tp tq : Nat) (bs : List Byte) : unitsOf (elemSize tq) 32 (unpackOf tp tq bs).flatten = unpackOf tp tq bs := by
  have h := unitsOf_flatten _ (length_of_mem_unpackOf tp tq bs)
  rwa [unpackOf_length] at h

theorem unpackOf_flatten_length (tp tq : Nat) (bs : List Byte) : (unpackOf tp tq bs).flatten.length = elemSize tq * 32 := by
  rw [List.length_flatten, List.sum_eq_card_nsmul _ (elemSize tq) (by simpa using length_of_mem_unpackOf tp tq bs), List.length_map, unpackOf_length,
    smul_eq_mul, Nat.mul_comm]

section
variable {s s1 s2 s3 : State} {a b : BitVec 5} {p q : Word} {rs ws : List (Word × Reach)} {bs : List Byte} {lp lq : Loc}

/-- UNPKB that passes its checks and has read its block ends as the storing of the elements does. -/
theorem unpkb_stores {t : State} (hi : Idle s) (hpa : X s a = p) (hqb : X s b = q)
    (hr : Ready s [xr a, xr b] []) (htp : tagOf p ∈ [9, 10]) (htq : tagOf q ∈ [1, 2, 3])
    (hp : headCheck p 2 (bfpBytes (tagOf p) / 2) .load true s = .ok ((), s)) (hq : headCheck q (elemSize (tagOf q)) 32 .store true s = .ok ((), s))
    (hrs : spanReach 2 .load (spanPtrs p 2 (bfpBytes (tagOf p) / 2)) s = .ok (rs, s1))
    (hws : spanReach (elemSize (tagOf q)) .store (spanPtrs q (elemSize (tagOf q)) 32) s1 = .ok (ws, s2))
    (hread : pipeRead 2 rs s2 = .ok (.ok bs, s3))
    (h : storeSpan (elemSize (tagOf q)) (ws.zip (unpackOf (tagOf p) (tagOf q) bs)) (pure ()) s3 = .ok ((), t)) :
    exec (.unpkb a b) s = .next (t.retire (t.ctx.pc + 4)) := by
  subst hpa hqb
  refine run_ok ?_
  rw [bind_ok (noRepeat_run hi), bind_ok (regs_ok hr), bind_ok (getX_run a s), bind_ok (getX_run b s), blockTag_eq, decide_eq_true htp,
    elemTag_eq, decide_eq_true htq, bind_ok hp, bind_ok hq, bind_ok hrs, bind_ok hws, bind_ok hread]
  exact h

theorem unpkb_queues (hi : Idle s) (hu : Unwatched s) (hpa : X s a = p) (hqb : X s b = q) (hr : Ready s [xr a, xr b] [])
    (htp : tagOf p ∈ [9, 10]) (htq : tagOf q ∈ [1, 2, 3]) (h : UnitsOut s p q 2 (elemSize (tagOf q)) 32 (bfpBytes (tagOf p) / 2) bs ws s3) :
    Runs (.unpkb a b) s fun t => Regs s t [] 0 ∧ Next s t
      ∧ t.me.stores.map storeKey = s.me.stores.map storeKey ++ unitKeys (elemSize (tagOf q)) ws (unpackOf (tagOf p) (tagOf q) bs).flatten := by
  obtain ⟨rs, s1, s2, hp, hq, hrs, hws, hread, hout⟩ := h
  have hlen : ws.length = 32 := by rw [spanReach_length hws, spanPtrs, List.length_map, List.length_range]
  obtain ⟨t, hit, hst⟩ := storeSpan_hbm hu (unitsOut_issued hrs hws hread) hout (out := (unpackOf (tagOf p) (tagOf q) bs).flatten)
    (by rw [hlen, unpackOf_flatten_length])
  obtain ⟨hregs, hnext, hstores, -⟩ := ended_retire hit
  rw [hlen, unitsOf_unpackOf] at hst
  exact ⟨_, unpkb_stores hi hpa hqb hr htp htq hp hq hrs hws hread (hst _), hregs, hnext, by rw [hstores, hit.stores]⟩

theorem unpkb_holds (hi : Idle s) (hu : Unwatched s) (hpa : X s a = p) (hqb : X s b = q) (haw : s.ctx.aw = .none) (hlp : AtOnce lp) (hlq : AtOnce lq)
    (hr : Ready s [xr a, xr b] []) (htp : tagOf p ∈ [9, 10]) (htq : tagOf q ∈ [1, 2, 3]) (hbp : blogOk (tagOf p) (blogOf p) = true)
    (hbq : blogOk (tagOf q) (blogOf q) = true) (h : SpansAt s p q lp lq 2 (bfpBytes (tagOf p) / 2) (elemSize (tagOf q)) 32) :
    Runs (.unpkb a b) s fun t => Regs s t [] 0 ∧ Next s t
      ∧ Holds s t lq (unpackOf (tagOf p) (tagOf q) (s.bytesAt lp (bfpBytes (tagOf p)))).flatten := by
  obtain ⟨hpos, -, heven⟩ := bfpBytes_even (tagOf p)
  obtain ⟨hp, hq, rs, ws, s3, hrs, hws, hread, hbytes, hat, hbl⟩ := h.units hu haw hlp (blockTag_lt htp) (elemTag_lt htq) hbp hbq hpos (by decide)
  rw [heven] at hread
  obtain ⟨t, hit, hh, hst⟩ := storeSpan_atOnce hu (quiet_pipeRead _ _ s _ _ hread) hlq (hat.length.symm ▸ hat) hbl
    (out := (unpackOf (tagOf p) (tagOf q) (s.bytesAt lp (bfpBytes (tagOf p)))).flatten) (by rw [hat.length, unpackOf_flatten_length])
  obtain ⟨hregs, hnext, -, hbu⟩ := ended_retire hit
  rw [hat.length, unitsOf_unpackOf] at hst
  exact ⟨_, unpkb_stores hi hpa hqb hr htp htq hp hq hrs hws hread (hst _), hregs, hnext, hh.of_bytes hbytes hbu⟩

theorem unpkb_vectorFormat (hi : Idle s) (hpa : X s a = p) (hr : Ready s [xr a, xr b] []) (htp : tagOf p ∉ [9, 10]) (htag : tagOf p ≤ 12)
    (hbp : blogOk (tagOf p) (blogOf p) = true) (hcan : canonical p = true) (hal : addrOf p % 2 = 0) (hlow : addrOf p + 256 ≤ 0xFFFE00000000) :
    exec (.unpkb a b) s = .next (s.takeTrap .vectorFormat p 0) := by
  subst hpa
  obtain ⟨-, hc, -⟩ := bfpBytes_even (tagOf (X s a))
  refine run_trap (by decide) ?_
  rw [bind_ok (noRepeat_run hi), bind_ok (regs_ok hr), bind_ok (getX_run a s), bind_ok (getX_run b s), blockTag_eq, decide_eq_false htp, bind_run,
    headCheck_vectorFormat (decide_eq_true (Nat.lt_succ_of_le htag)) hbp hcan hal (by omega)]
end

/-- Settles O27: each form runs its checks, its reads and its writes, each of which has its own lemma above. -/
theorem conversions : Obligations.Conversions := by
  unfold Obligations.Conversions
  refine ⟨fun s rnd a b d hi => ?_, fun s rnd a b d lp lq hi hu haw hlp hlq => ?_⟩
  · dsimp only
    refine ⟨fun hL hr => ?_, fun hn hr => ?_, fun l hL hu haw hl hr hre hb => ?_, fun s1 s2 r pa bs hL hu haw hr hs hre hb hd hg => ?_,
      fun c ws hL hr haw => ?_, fun hL hr => ⟨fun hk => ?_, lutx_unloaded hi hL hr⟩, fun hL hr => ⟨fun hn => ?_, zpsub_mismatch hi hL hr⟩⟩
    · obtain ⟨t, ht, hset, hv⟩ := cvt_runs (b := b) (rnd := rnd) hi hL hr
      exact ⟨t, ht, hset, fun i h => by rw [hv]; exact convRegs_field rnd _ h⟩
    · obtain ⟨t, ht, hset⟩ := fcvtz_runs (b := b) (rnd := rnd) hi hn hr
      exact ⟨t, ht, _, _, hset, fun i h => convRegs_field rnd _ h, by rw [convRegs_snd]; rfl⟩
    · exact lutw_runs hi hL hr (pipeLoad_atOnce hu haw hl hre hb) (.refl s)
    · obtain ⟨hp, hiss⟩ := pipeLoad_hbm hu haw hs hre hb hd hg
      exact lutw_runs hi hL hr hp hiss
    · obtain ⟨t, ht, hby, hloads⟩ := lutw_runs hi hL hr (pipeLoad_replied haw _ _) (.of_aw s .none)
      exact ⟨t, ht, fun l => (hby l).trans (bytes_of_aw s .none l), hloads⟩
    · obtain ⟨t, ht, hset, hv⟩ := lutx_runs hi hL hr hk
      refine ⟨t, ht, hset, fun i h => ?_⟩
      rw [hv, lane_ofLanes _ h, getD_map_range, if_pos h, bits_eq]
      exact Nat.mod_eq_of_lt (BitVec.isLt _)
    · obtain ⟨t, ht, hset, hv⟩ := zpsub_runs hi hL hr hn
      refine ⟨t, ht, hset, fun j h => ?_⟩
      rw [hv, lane_ofLanes _ h, getD_map_range, if_pos h, wrapTo_cast]
      rfl
  · dsimp only
    simp only [← tagOf_eq, ← blogOf_eq, ← addrOf_eq]
    refine ⟨fun bs ws s3 hr htp htq h => packb_queues hi hu rfl rfl hr htp htq h, fun bs ws s3 hr htp htq h => unpkb_queues hi hu rfl rfl hr htp htq h,
      fun hr htp htq hbp hbq h => packb_holds hi hu rfl rfl haw hlp hlq hr htp htq hbp hbq h,
      fun hr htp htq hbp hbq h => unpkb_holds hi hu rfl rfl haw hlp hlq hr htp htq hbp hbq h,
      fun hr htp htag hbp hcan hal hlow => packb_vectorFormat hi rfl hr htp htag hbp hcan ?_ hlow,
      fun hr htp htag hbp hcan hal hlow => unpkb_vectorFormat hi rfl hr htp htag hbp hcan ?_ hlow⟩
    · rw [addrOf_eq]; omega
    · rw [addrOf_eq]; omega

end Sys2Proof.Convert
end
